-- ==== Sys2Proof/Word.lean ====
section
/-!
DEFINITION. Sys2Proof/Word.lean: the word types of the Kuvin DSR9248 and the index types of Table 0-3 (R1).
-/
namespace Sys2Proof

/-- One byte of a frame, a record or a buffer (R6). -/
abbrev Byte := BitVec 8
/-- One register, 32 bits wide (R509). -/
abbrev Word := BitVec 32

/-- Bay index b, 0 to 11 (R1). -/
abbrev Bay := Fin 12
/-- Phase index p, 0 to 191 (R1). -/
abbrev Phase := Fin 192
/-- Lane index l, 0 to 47 (R1). -/
abbrev Lane := Fin 48
/-- Segment index s, 0 to 3 (R1). -/
abbrev Seg := Fin 4
/-- Tenant index t, 0 to 8; 8 is the supervisor on Port S (R1). -/
abbrev Tenant := Fin 9
/-- A tenant on a PCIe port, 0 to 7 (R1). -/
abbrev HostT := Fin 8
/-- Timer index g, 0 to 7 (R1). -/
abbrev TimerIx := Fin 8

end Sys2Proof
end

