-- ==== Sys2Proof/Syntax.lean ====
section
/-!
DEFINITION. Sys2Proof/Syntax.lean: the commands of the block: one constructor of `Instr` for each row of the opcode table, with
the operands the spec gives the row. What arrives from outside the digital block (a converter's code, a frame's payload, a
measurement of a survey, the entries read from host memory) is an operand; everything else is State.
-/
namespace Sys2Proof

/-- What a read of host memory answered (R438): its bytes, or the error kind of HST_DMA_ERR (1 Unsupported Request, 2 Completer
Abort, 3 poisoned, 4 completion timeout). -/
inductive Dma where
  | ok (bytes : List Byte)
  | err (kind : Fin 5)
  deriving DecidableEq, Repr

/-- The common bytes of a submission entry (Table 18-4) and its issuer. `rsvd` says that a reserved bit or byte of the entry is
not 0 (R424). -/
structure CmdHdr where
  tenant : Tenant
  cid : BitVec 16
  fence : Bool
  quiet : Bool
  rsvd : Bool
  tgt : BitVec 16
  dptr : BitVec 64
  dlen : Word
  deriving DecidableEq, Repr

/-- The bytes of a fetched submission entry that the fetch and the dispatcher look at (R424, R427). -/
structure Fetched where
  opcode : Byte
  cid : BitVec 16
  fence : Bool
  deriving DecidableEq, Repr

/-- A write of one register through a BAR0 aperture: the writing tenant and the word (R419, R422). -/
structure BusWrite where
  tenant : HostT
  value : Word
  deriving DecidableEq, Repr

/-- One DW of a memory write request to BAR0: its byte enables and its data (R420). -/
structure WriteDw where
  be : BitVec 4
  value : Word
  deriving DecidableEq, Repr

/-- A received JML frame (Table 11-3): sequence number, sender bit, retry bit, protocol version and payload bytes. -/
structure JmlRx where
  seq : BitVec 8
  side : Bool
  retry : Bool
  ver : BitVec 4
  payload : List Byte
  deriving DecidableEq, Repr

/-- The fields of LANE_SET_LIMITS (Table 19-2): the masks and the six limits. -/
structure LimitWords where
  mask : Byte
  clear : Byte
  ichg : Word
  idis : Word
  pchg : Word
  pdis : Word
  vlo : Word
  vhi : Word
  deriving DecidableEq, Repr

/-- The fields of TELEMETRY_STREAM_OPEN (R450). -/
structure StreamOpen where
  stream : Byte
  bsz : Byte
  vector : Byte
  mask : BitVec 48
  maskHigh : Bool
  per : BitVec 16
  wbN : BitVec 16
  base : BitVec 64
  wbAddr : BitVec 64
  deriving DecidableEq, Repr

/-- The PEC byte at the end of a Port S write (R490): none sent, one that matches, one that does not. -/
inductive PecByte where
  | absent | good | bad
  deriving DecidableEq, Repr

/-- What the host has set in a function's configuration space once its link is up: Bus Master Enable, MSI-X Enable and Function
Mask (R431, R439). -/
structure FnConfig where
  bme : Bool
  msixEn : Bool
  msixMask : Bool
  deriving DecidableEq, Repr

/-- A command of the block, one constructor per row of the opcode table. -/
inductive Instr where
  -- host commands (chapter 19): the dispatch of a fetched submission entry
  | nop (h : CmdHdr)
  | identify (h : CmdHdr)
  | invalidOpcode (h : CmdHdr) (opcode : Byte)
  | laneClaim (h : CmdHdr)
  | laneRelease (h : CmdHdr)
  | laneSetTarget (h : CmdHdr) (kind : Byte) (value : Word)
  | laneSetLimits (h : CmdHdr) (w : LimitWords)
  | laneSetLatency (h : CmdHdr) (lat : Word)
  | laneArm (h : CmdHdr)
  | lanePark (h : CmdHdr)
  | laneClearTrip (h : CmdHdr)
  | laneWarp (h : CmdHdr)
  | laneGetState (h : CmdHdr)
  | laneSetPolicy (h : CmdHdr) (mask fallback policyEn : Byte)
  | phaseReadmit (h : CmdHdr)
  | phaseGetHealth (h : CmdHdr)
  | segmentSetMode (h : CmdHdr) (mode : Byte)
  | segmentSetTarget (h : CmdHdr) (mask : Byte) (cmdV slew droop plim : Word)
  | segmentSetSharing (h : CmdHdr) (policy : Byte) (buf : Dma)
  | telemetryStreamOpen (h : CmdHdr) (p : StreamOpen)
  | telemetryStreamClose (h : CmdHdr) (stream : Byte)
  | meterRead (h : CmdHdr) (opts : Byte)
  | meterStatement (h : CmdHdr) (nonce : BitVec 64)
  | meterResolveDispute (h : CmdHdr) (choice : Byte)
  | meterCalibrate (h : CmdHdr) (chan kind src nexp : Byte) (eRef : Word)
  | calibrated (l : Lane)
  | logRead (h : CmdHdr) (start : Word)
  | logConfig (h : CmdHdr) (k : Byte) (sel : Vector Word 8)
  | logMark (h : CmdHdr) (flags : Byte) (data : Vector Word 8)
  | paramWrite (h : CmdHdr) (op : Byte) (buf : Dma)
  | paramRead (h : CmdHdr) (src : Byte) (first : Word)
  | paramCommit (h : CmdHdr)
  | linkSend (h : CmdHdr) (chan len : Byte) (data : Vector Byte 32)
  | linkRenegotiate (h : CmdHdr)
  | linkRoleSwap (h : CmdHdr) (dir : Byte)
  | portmTransfer (h : CmdHdr) (addr proto wlen rlen flags : Byte) (data : Vector Byte 32)
  | tenantHeartbeat (h : CmdHdr) (interval : Word)
  | tenantSetRole (h : CmdHdr) (role : Byte)
  | tenantReleaseQuarantine (h : CmdHdr)
  | sealDevice (h : CmdHdr)
  | unsealChallenge (h : CmdHdr)
  | unsealResponse (h : CmdHdr) (response : Vector Byte 16)
  | deviceSoftReset (h : CmdHdr) (key : Word)
  -- Port S (chapter 21)
  | page (write : Option (Byte × PecByte)) (pec : Bool)
  | operationRead (pec : Bool)
  | operationOff (pec : PecByte)
  | operationOn (pec : PecByte)
  | clearFaults (pec : PecByte)
  | capability (pec : Bool)
  | voutMode (pec : Bool)
  | statusByte (pec : Bool)
  | statusWord (pec : Bool)
  | statusVout (pec : Bool)
  | statusIout (pec : Bool)
  | statusTemperature (pec : Bool)
  | readVin (pec : Bool)
  | readVout (pec : Bool)
  | readIout (pec : Bool)
  | readTemperature1 (pec : Bool)
  | readPout (pec : Bool)
  | pmbusRevision (pec : Bool)
  | mfrSafeAll (pec : PecByte)
  | mfrLaneState (pec : Bool)
  | mfrSupResult (pec : Bool)
  | alertResponse (lost : Bool)
  | psCommFault (kind : Fin 8) (code : Byte)
  | psAddress (codes : Vector (BitVec 12) 8)
  -- Treadle port (chapter 10)
  | setVbus (sg : Seg) (value : BitVec 24) (parityOk : Bool)
  | setSlew (sg : Seg) (value : BitVec 24) (parityOk : Bool)
  | setDroop (sg : Seg) (value : BitVec 24) (parityOk : Bool)
  | setPlimit (sg : Seg) (value : BitVec 24) (parityOk : Bool)
  | getStatus (sg : Seg) (value : BitVec 24) (parityOk : Bool)
  | getIbus (sg : Seg) (value : BitVec 24) (parityOk : Bool)
  | trdUnknown (sg : Seg) (code : BitVec 4) (value : BitVec 24) (parityOk : Bool)
  | trdAbort (response : Bool)
  -- module link (chapter 11)
  | caps (l : Lane) (f : JmlRx)
  | contractAck (l : Lane) (f : JmlRx)
  | kaMod (l : Lane) (f : JmlRx)
  | attnInfo (l : Lane) (f : JmlRx)
  | swapAck (l : Lane) (f : JmlRx)
  | swapReq (l : Lane) (f : JmlRx)
  | ack (l : Lane) (f : JmlRx)
  | nak (l : Lane) (f : JmlRx)
  | linkData (l : Lane) (f : JmlRx)
  | badFrame (l : Lane) (kind : Fin 4)
  | unknownType (l : Lane) (type : Byte) (f : JmlRx)
  | attentionPulse (l : Lane) (widthNs : Nat)
  | attnCollision (l : Lane)
  | pilotTrunc (l : Lane)
  | pilotNoise (l : Lane)
  | frameReleased (l : Lane)
  | kaDev (l : Lane)
  | responseTimeout (l : Lane)
  | graceExpiry (l : Lane)
  | hardResetDrive (l : Lane)
  | hardResetRelease (l : Lane)
  | presenceTimeout (l : Lane)
  | contactorTimeout (l : Lane)
  | swapTimeout (l : Lane)
  | contractBreach (l : Lane)
  | idAverage (l : Lane) (mv : BitVec 12)
  | idRestart (l : Lane)
  -- control engines (chapters 3 to 9)
  | laneUpdate (l : Lane)
  | phaseUpdate (p : Phase) (code : BitVec 12)
  | dutySaturated (p : Phase)
  | headroomLost (l : Lane)
  | segmentUpdate (sg : Seg)
  | segCapacity (sg : Seg)
  | sharingCompute (sg : Seg)
  | shuttleSequenceStart (b : Bay)
  | shuttleHandback (b : Bay)
  | shuttleAbort (b : Bay)
  | glideStep (p : Phase)
  | pulsePeriod (l : Lane)
  | watchSample (p : Phase) (code : BitVec 12)
  | controlTapSample (l : Lane) (v i : BitVec 16)
  | segmentSarConversion (sg : Seg) (code : BitVec 12)
  | meterSample (l : Lane) (alt : Bool) (v i : BitVec 24) (ovrV ovrI : Bool) (elapsed : Nat)
  | xchkWindow (l : Lane)
  | policyMove (l : Lane)
  | prestartEnd (l : Lane)
  | parkRampEnd (l : Lane)
  | heartbeatLapsed (t : HostT)
  | surveyStart (b : Bay)
  | surveyStep (b : Bay) (values : List Int)
  | surveyDone (b : Bay)
  | readmitPassed (b : Bay)
  | adaptEstimate (p : Phase) (high : Bool) (dt : Nat) (di : Int)
  | heddleCommit (b : Bay) (w : BusWrite)
  | heddleCommitDone (b : Bay)
  | lnCoefCommit (l : Lane) (w : BusWrite)
  | busCoefCommit (w : BusWrite)
  -- trips, pins, monitors (chapters 1, 6, 15)
  | phaseTrip (p : Phase) (low : Bool)
  | laneTrip (l : Lane) (low : Bool)
  | lfltAttributed (l : Lane)
  | faultInEdge (n : Fin 4) (high : Bool)
  | safeNEdge (high : Bool)
  | contextEcc (ctx : Fin 256)
  | comparator (src : Fin 6) (idx : Fin 192) (high : Bool)
  | isrefWindow (b : Bay) (code : BitVec 12)
  | supplyWindow (b : Bay) (tap : Fin 4) (mv : BitVec 12)
  | dieTempWarn (b : Bay) (quarterC : BitVec 12)
  | dieTempTrip (b : Bay) (quarterC : BitVec 12)
  | auxTempAverage (l : Lane) (mv : Fin 2049)
  | interlockOpen (l : Lane) (mv : Fin 2049)
  | refCheck (mv : BitVec 12)
  | dlLock (b : Bay)
  | dlCompare (b : Bay) (err : Int)
  | autoReadback (b : Bay)
  | readbackDone (b : Bay) (sel : Fin 42) (code : BitVec 12)
  -- register writes with an effect of their own
  | go (b : Bay) (w : BusWrite)
  | pwmEn (b : Bay) (w : BusWrite)
  | unlock (b : Bay) (w : BusWrite)
  | baySafe (b : Bay) (w : BusWrite)
  | bayPhTrip (b : Bay) (w : BusWrite)
  | lnTrip (l : Lane) (w : BusWrite)
  | glbTrip (w : BusWrite)
  | glbPwmPer (w : BusWrite)
  | glbPwmSs (w : BusWrite)
  | glbRef (w : BusWrite)
  | mtrCfg (l : Lane) (w : BusWrite)
  | lnReed (l : Lane) (w : BusWrite)
  | plan (w : BusWrite)
  | planEn (w : BusWrite)
  | tmrCfg (g : TimerIx) (w : BusWrite)
  | pop (w : BusWrite) (g : TimerIx)
  | tmrCnt (g : TimerIx) (w : BusWrite)
  | tmrCv (g : TimerIx) (w : BusWrite)
  | tmrCcfg (g : TimerIx) (w : BusWrite)
  | arm (w : BusWrite)
  | dropClr (w : BusWrite)
  | timerMatch (g : TimerIx) (c : Fin 4)
  | timerOverflow (g : TimerIx)
  | timerCapture (g : TimerIx) (c : Fin 4) (rising : Bool)
  | rtrRoute (n : Fin 128) (w : BusWrite)
  | rtrTio (w : BusWrite)
  | hitClr (w : BusWrite)
  | glbThmEn (hi : Bool) (w : BusWrite)
  | ckptNow (w : BusWrite)
  | nvmCntClr (w : BusWrite)
  | flushNow (w : BusWrite)
  | slvCntClr (w : BusWrite)
  | slvSnapAddr (w : BusWrite)
  | shtlCntClr (b : Bay) (w : BusWrite)
  | trdCfg (w : BusWrite)
  | trdCntClr (w : BusWrite)
  | dorm (w : BusWrite)
  | qrel (w : BusWrite)
  | nvmTvalLo (t : HostT)
  | nvmTstoLo (t : HostT)
  | nvmTaltLo (t : HostT)
  | glbOptimeLo (t : HostT)
  | sqTailDb (w : BusWrite)
  | cqHeadDb (w : BusWrite)
  | hstSqCfg (w : BusWrite)
  | hstCqCfg (w : BusWrite)
  | registerWrite (t : HostT) (offset : BitVec 32) (bytes : Nat) (dws : List WriteDw)
  -- host ports (chapter 18)
  | sqFetchDone (t : HostT) (entries : List Fetched) (error : Option (Fin 5))
  | msixCoalTimeout (t : HostT)
  | telemetrySample (t : HostT) (stream : Fin 4) (room : Nat)
  | portReset (port : Fin 2) (kind : Fin 3)
  | linkTraining (port : Fin 2)
  | functionLevelReset (t : HostT)
  | busMasterDisable (t : HostT) (enable : Bool)
  | aspmL1Entry (port : Fin 2) (substate : Fin 3)
  | ltrIdle (port : Fin 2)
  -- tenancy (chapter 20)
  | violationWindowEnd (t : HostT)
  -- Selvedge and NVM (chapters 13, 14)
  | recordClose (slot : Fin 64)
  | flashProgramDone (bank : Fin 4) (ok : Bool)
  | flashEraseDone (bank : Fin 4) (ok : Bool)
  -- start-up, reset, Dormant (chapter 17)
  | resetN (widthNs : Nat)
  | bayAnalogueEnable (b : Bay)
  | recoveryDone (ecc : List (Nat × Bool))
  | wake (sources : BitVec 4) (ticks : BitVec 48)
  -- Port M (chapter 21)
  | poll (entry : Option (Fin 32))
  | pmTransactionDone (result : Fin 3) (data : List Byte)
  | pmBusStuck (sda freed : Bool)
  | pmRecoveryRetry (freed : Bool)
  -- JTAG (chapter 20)
  | dbg (value : BitVec 16)
  -- carriers and link edges
  | carrierStart (p : Phase)
  | idleGuard (l : Lane)
  | preambleStart (l : Lane)
  | unlockExpiry (b : Bay)
  | eraseSuspendDone (bank : Fin 4)
  | linkUp (port : Fin 2) (gen width : Fin 4) (ltrEn aspmEn : Bool) (fns : Vector FnConfig 4)
  | pciPmD3hot (t : HostT) (enter : Bool)
  -- rows without operands, in the order of their chapters' rows above
  | softResetCycle
  | psTimeout
  | refBoundary
  | startTokenGrant
  | reedReplan
  | reedPlanStart
  | planAdopted
  | powerFail
  | pfRestart
  | xinLost
  | pllUnlocked
  | pllRelock
  | xtalFail
  | managerPromoted
  | challengeExpiry
  | selvedgeReport
  | checkpoint
  | powerOnReset
  | xinReady
  | pllLock
  | pllRetry
  | paramLoaded
  | startupComplete
  | dormantEntered
  | pmArbLoss
  | pmBackoffEnd
  | pmClockTimeout
  | pmAlert
  | extest
  | samplePreload
  | idcode
  | bypass
  | slowOnXtal
  | chargePumpReady
  | pmBusFree
  | statementSigned
  deriving DecidableEq, Repr

end Sys2Proof
end

