-- ==== Sys2Proof/Decode.lean ====
section
/-!
DEFINITION. Sys2Proof/Decode.lean: the decoder of the block's command table. The rows of the table give no bits: the commands are
register writes, bus and protocol operations, pin events and arrivals of results, which no word spells.
-/
namespace Sys2Proof

/-- The command that a word of the table spells; no row of this table has bits. -/
def decodeTableWord (_nbits _w : Nat) : Option Instr := none

end Sys2Proof
end

