-- ==== Sys2Proof/Machine/Base.lean ====
section
/-!
DEFINITION. Sys2Proof/Machine/Base.lean: the arithmetic of R13 (saturation, wrapping, rounding), byte and word packing (R6),
the CRCs of R252 and R310, SHA-256 and HMAC (R478), and sparse tables: lists of (key, value) pairs with keys strictly rising.
-/
namespace Sys2Proof.Machine

/-! ### Integer arithmetic (R13) -/

/-- sat(x, n): clamp to the n-bit signed range. -/
def sat (x : Int) (n : Nat) : Int := max (-(2 ^ (n - 1) : Nat)) (min ((2 ^ (n - 1) : Nat) - 1) x)

/-- wrap(x, n): keep the low n bits, read as signed. -/
def wrap (x : Int) (n : Nat) : Int :=
  let m := x % (2 ^ n : Nat)
  if m < (2 ^ (n - 1) : Nat) then m else m - (2 ^ n : Nat)

/-- The quotient rounded to the nearest integer, halves away from zero; `b` is taken as positive. -/
def rndDiv (a b : Int) : Int :=
  if b ≤ 0 then 0 else if 0 ≤ a then (2 * a + b) / (2 * b) else -((2 * (-a) + b) / (2 * b))

/-- The quotient of integers of any sign rounded to the nearest integer, halves away from zero; 0 for a zero divisor. -/
def rndQuot (a b : Int) : Int := if b < 0 then rndDiv (-a) (-b) else rndDiv a b

/-- x limited to [lo, hi]. -/
def clampI (x lo hi : Int) : Int := max lo (min hi x)

/-- x limited to at most `m` (a saturating count). -/
def capN (x m : Nat) : Nat := min x m

/-- The sign of x with sgn(0) = 1 (R215). -/
def sgn1 (x : Int) : Int := if x < 0 then -1 else 1

/-- A natural number read as an n-bit two's complement value. -/
def toS (x n : Nat) : Int := wrap (x : Int) n

/-- The n-bit two's complement encoding of x. -/
def ofS (x : Int) (n : Nat) : Nat := (x % (2 ^ n : Nat)).toNat

/-- Bit `i` of a natural number. -/
def bitN (x i : Nat) : Bool := x.testBit i

/-- The `w` bits of `x` from bit `lo` up. -/
def bitsN (x lo w : Nat) : Nat := (x >>> lo) % 2 ^ w

/-- `x` with the `w` bits from `lo` up replaced by `v`. -/
def putBits (x lo w v : Nat) : Nat :=
  x % 2 ^ lo + (v % 2 ^ w) * 2 ^ lo + (x >>> (lo + w)) * 2 ^ (lo + w)

/-- `x` with bit `i` set or cleared. -/
def putBit (x i : Nat) (b : Bool) : Nat := putBits x i 1 b.toNat

/-- The number of set bits among the low `n` bits. -/
def popN (x n : Nat) : Nat := (List.range n).countP (fun i => x.testBit i)

/-- The lowest set bit among the low `n` bits. -/
def lowBit? (x n : Nat) : Option Nat := (List.range n).find? (fun i => x.testBit i)

/-- A bit mask over the indices of a list. -/
def maskOf (l : List Nat) : Nat := l.foldl (fun m i => m ||| 2 ^ i) 0

/-! ### Bytes and words, little-endian (R6) -/

/-- The `n` bytes of a value, least significant first. -/
def leBytes : Nat → Nat → List Byte
  | 0, _ => []
  | n + 1, x => BitVec.ofNat 8 x :: leBytes n (x / 256)

/-- The value of a byte list, least significant first. -/
def leVal : List Byte → Nat
  | [] => 0
  | b :: bs => b.toNat + 256 * leVal bs

/-- The bytes of a signed 32-bit value. -/
def leInt32 (x : Int) : List Byte := leBytes 4 (ofS x 32)

/-- `n` zero bytes. -/
def zeros (n : Nat) : List Byte := List.replicate n 0

/-- A list cut or zero-padded to exactly `n` bytes. -/
def fitBytes (n : Nat) (l : List Byte) : List Byte := l.take n ++ zeros (n - l.length)

/-- The `n` bytes from offset `k`, zeros beyond the end. -/
def bytesAt (l : List Byte) (k n : Nat) : List Byte := fitBytes n (l.drop k)

/-- The little-endian value of the `n` bytes at offset `k`. -/
def leAt (l : List Byte) (k n : Nat) : Nat := leVal (bytesAt l k n)

/-! ### CRCs -/

/-- One bit of a CRC-16/CCITT: polynomial 0x1021, most significant bit first (R252). -/
def crc16Bit (c : BitVec 16) : BitVec 16 := if c.msb then (c <<< 1) ^^^ 0x1021#16 else c <<< 1

/-- One byte of a CRC-16/CCITT. -/
def crc16Byte (c : BitVec 16) (b : Byte) : BitVec 16 :=
  let c := c ^^^ (b.setWidth 16 <<< 8)
  crc16Bit (crc16Bit (crc16Bit (crc16Bit (crc16Bit (crc16Bit (crc16Bit (crc16Bit c)))))))

/-- CRC-16/CCITT over bytes, initial value 0xFFFF (R252, R334). -/
def crc16 (l : List Byte) : BitVec 16 := l.foldl crc16Byte 0xFFFF#16

/-- One bit of the reflected CRC-32C (R310). -/
def crc32Bit (c : BitVec 32) : BitVec 32 := if c.getLsbD 0 then (c >>> 1) ^^^ 0x82F63B78#32 else c >>> 1

/-- One byte of the reflected CRC-32C. -/
def crc32Byte (c : BitVec 32) (b : Byte) : BitVec 32 :=
  let c := c ^^^ b.setWidth 32
  crc32Bit (crc32Bit (crc32Bit (crc32Bit (crc32Bit (crc32Bit (crc32Bit (crc32Bit c)))))))

/-- CRC-32C (Castagnoli), reflected, initial value and final XOR 0xFFFF_FFFF (R310). -/
def crc32c (l : List Byte) : BitVec 32 := (l.foldl crc32Byte 0xFFFFFFFF#32) ^^^ 0xFFFFFFFF#32

/-- One bit of the SMBus packet error code: polynomial 0x07. -/
def crc8Bit (c : BitVec 8) : BitVec 8 := if c.msb then (c <<< 1) ^^^ 0x07#8 else c <<< 1

/-- CRC-8 with polynomial 0x07 and initial value 0, the SMBus packet error code. -/
def crc8 (l : List Byte) : BitVec 8 :=
  l.foldl (fun c b => let c := c ^^^ b
    crc8Bit (crc8Bit (crc8Bit (crc8Bit (crc8Bit (crc8Bit (crc8Bit (crc8Bit c)))))))) 0

/-! ### SHA-256 (FIPS 180-4) and HMAC (FIPS 198-1), for R478 to R480 -/

/-- The SHA-256 round constants, first half. -/
def shaK1 : List Word :=
  [0x428a2f98, 0x71374491, 0xb5c0fbcf, 0xe9b5dba5, 0x3956c25b, 0x59f111f1, 0x923f82a4, 0xab1c5ed5] ++
  [0xd807aa98, 0x12835b01, 0x243185be, 0x550c7dc3, 0x72be5d74, 0x80deb1fe, 0x9bdc06a7, 0xc19bf174] ++
  [0xe49b69c1, 0xefbe4786, 0x0fc19dc6, 0x240ca1cc, 0x2de92c6f, 0x4a7484aa, 0x5cb0a9dc, 0x76f988da] ++
  [0x983e5152, 0xa831c66d, 0xb00327c8, 0xbf597fc7, 0xc6e00bf3, 0xd5a79147, 0x06ca6351, 0x14292967]

/-- The SHA-256 round constants, second half. -/
def shaK2 : List Word :=
  [0x27b70a85, 0x2e1b2138, 0x4d2c6dfc, 0x53380d13, 0x650a7354, 0x766a0abb, 0x81c2c92e, 0x92722c85] ++
  [0xa2bfe8a1, 0xa81a664b, 0xc24b8b70, 0xc76c51a3, 0xd192e819, 0xd6990624, 0xf40e3585, 0x106aa070] ++
  [0x19a4c116, 0x1e376c08, 0x2748774c, 0x34b0bcb5, 0x391c0cb3, 0x4ed8aa4a, 0x5b9cca4f, 0x682e6ff3] ++
  [0x748f82ee, 0x78a5636f, 0x84c87814, 0x8cc70208, 0x90befffa, 0xa4506ceb, 0xbef9a3f7, 0xc67178f2]

/-- The SHA-256 working variables. -/
structure Sha where
  a : Word
  b : Word
  c : Word
  d : Word
  e : Word
  f : Word
  g : Word
  h : Word
  deriving DecidableEq, Repr

/-- The initial hash value. -/
def Sha.init : Sha :=
  ⟨0x6a09e667, 0xbb67ae85, 0x3c6ef372, 0xa54ff53a, 0x510e527f, 0x9b05688c, 0x1f83d9ab, 0x5be0cd19⟩

/-- One SHA-256 round. -/
def Sha.round (s : Sha) (k w : Word) : Sha :=
  let s1 := s.e.rotateRight 6 ^^^ s.e.rotateRight 11 ^^^ s.e.rotateRight 25
  let ch := (s.e &&& s.f) ^^^ (~~~s.e &&& s.g)
  let t1 := s.h + s1 + ch + k + w
  let s0 := s.a.rotateRight 2 ^^^ s.a.rotateRight 13 ^^^ s.a.rotateRight 22
  let mj := (s.a &&& s.b) ^^^ (s.a &&& s.c) ^^^ (s.b &&& s.c)
  ⟨t1 + (s0 + mj), s.a, s.b, s.c, s.d + t1, s.e, s.f, s.g⟩

/-- The next message-schedule word from the latest sixteen (oldest first). -/
def shaNext (w : List Word) : Word :=
  let g := fun i => w.getD i 0
  let a := g 1
  let b := g 14
  (b.rotateRight 17 ^^^ b.rotateRight 19 ^^^ (b >>> 10)) + g 9 +
    (a.rotateRight 7 ^^^ a.rotateRight 18 ^^^ (a >>> 3)) + g 0

/-- The rounds over a list of constants; `w` holds the sixteen schedule words from the present one on. -/
def shaRounds : List Word → List Word → Sha → Sha
  | [], _, s => s
  | k :: ks, w, s => shaRounds ks (w.drop 1 ++ [shaNext w]) (s.round k (w.getD 0 0))

/-- The sixteen big-endian words of a 64-byte block. -/
def shaWords : Nat → List Byte → List Word
  | 0, _ => []
  | n + 1, l => BitVec.ofNat 32 (leVal (bytesAt l 0 4).reverse) :: shaWords n (l.drop 4)

/-- Compress one 64-byte block. -/
def shaBlock (s : Sha) (blk : List Byte) : Sha :=
  let r := shaRounds (shaK1 ++ shaK2) (shaWords 16 blk) s
  ⟨s.a + r.a, s.b + r.b, s.c + r.c, s.d + r.d, s.e + r.e, s.f + r.f, s.g + r.g, s.h + r.h⟩

/-- Compress `n` blocks. -/
def shaBlocks : Nat → List Byte → Sha → Sha
  | 0, _, s => s
  | n + 1, l, s => shaBlocks n (l.drop 64) (shaBlock s (l.take 64))

/-- A word as four big-endian bytes. -/
def beBytes (w : Word) : List Byte := (leBytes 4 w.toNat).reverse

/-- SHA-256 of a byte string. -/
def sha256 (m : List Byte) : List Byte :=
  let pad := m ++ [0x80] ++ zeros ((119 - m.length % 64) % 64) ++ (leBytes 8 (8 * m.length)).reverse
  let s := shaBlocks (pad.length / 64) pad Sha.init
  beBytes s.a ++ beBytes s.b ++ beBytes s.c ++ beBytes s.d ++ beBytes s.e ++ beBytes s.f ++ beBytes s.g ++ beBytes s.h

/-- HMAC-SHA-256 under a key of at most 64 bytes. -/
def hmac (key msg : List Byte) : List Byte :=
  let k := fitBytes 64 key
  sha256 (k.map (· ^^^ 0x5C) ++ sha256 (k.map (· ^^^ 0x36) ++ msg))

/-! ### Sparse tables: pairs (key, value) with keys strictly rising -/

/-- The value at a key, if listed. -/
def tabGet? {α : Type} : List (Nat × α) → Nat → Option α
  | [], _ => none
  | (k, v) :: t, i => if k = i then some v else tabGet? t i

/-- List a value at a key, keeping the order of keys. -/
def tabSet {α : Type} : List (Nat × α) → Nat → α → List (Nat × α)
  | [], i, x => [(i, x)]
  | (k, v) :: t, i, x =>
    if i < k then (i, x) :: (k, v) :: t
    else if k = i then (i, x) :: t
    else (k, v) :: tabSet t i x

/-- Remove a key. -/
def tabDel {α : Type} : List (Nat × α) → Nat → List (Nat × α)
  | [], _ => []
  | (k, v) :: t, i => if k = i then tabDel t i else (k, v) :: tabDel t i

/-- The keys of a table rise strictly, from above `lo` on. -/
def tabSorted {α : Type} : Option Nat → List (Nat × α) → Bool
  | _, [] => true
  | none, (k, _) :: t => tabSorted (some k) t
  | some j, (k, _) :: t => decide (j < k) && tabSorted (some k) t

/-! ### Instance tables -/

/-- Entry `i` of a table of instances; the default beyond its end. -/
def vget {α : Type} {n : Nat} (v : Vector α n) (i : Nat) (d : α) : α := v.toList.getD i d

/-- A table with entry `i` changed by `f`; unchanged beyond its end. -/
def vupd {α : Type} {n : Nat} (v : Vector α n) (i : Nat) (f : α → α) : Vector α n :=
  if h : i < n then v.set i (f v[i]) else v

end Sys2Proof.Machine
end

