-- ==== Sys2Proof/Machine/F64.lean ====
section
/-!
DEFINITION. Sys2Proof/Machine/F64.lean: IEEE 754 binary64 with round-to-nearest-even as R184 uses it: addition, subtraction,
multiplication, division and the correctly rounded square root on exact integers, and the synthesis procedures of R183 and R184. The
magnitudes that the register ranges allow stay far from the exponent limits, so only infinity and NaN leave the finite numbers.
-/
namespace Sys2Proof.Machine

/-- A binary64 value: m · 2^e with |m| below 2^53, an infinity, or NaN. -/
inductive F64 where
  | fin (m e : Int)
  | inf (neg : Bool)
  | nan
  deriving DecidableEq, Repr

namespace F64

/-- n · 2^e with a non-zero remainder below it (`low`) rounded to 53 bits, ties to even. -/
def round (neg : Bool) (n : Nat) (e : Int) (low : Bool) : F64 :=
  let bits := if n = 0 then 0 else n.log2 + 1
  let d := bits - 53
  let q := n / 2 ^ d
  let r := n % 2 ^ d
  let half := 2 ^ (d - 1)
  let up := decide (d ≠ 0) && (decide (half < r) || decide (r = half) && (low || q % 2 == 1))
  let q := if up then q + 1 else q
  .fin (if neg then -(q : Int) else q) (e + d)

/-- The nearest value to an exact m · 2^e. -/
def ofDyadic (m e : Int) : F64 := round (decide (m < 0)) m.natAbs e false

/-- The nearest value to an integer. -/
def ofInt (x : Int) : F64 := ofDyadic x 0

/-- x = m · 2^e in the common exponent `b`, with b ≤ e. -/
def align (m e b : Int) : Int := m * 2 ^ (e - b).toNat

/-- Addition. -/
def add : F64 → F64 → F64
  | .fin m e, .fin n f => let b := min e f; ofDyadic (align m e b + align n f b) b
  | .nan, _ => .nan
  | _, .nan => .nan
  | .inf a, .inf b => if a = b then .inf a else .nan
  | .inf a, _ => .inf a
  | _, .inf b => .inf b

/-- Negation. -/
def neg : F64 → F64
  | .fin m e => .fin (-m) e
  | .inf a => .inf (!a)
  | .nan => .nan

/-- Subtraction. -/
def sub (a b : F64) : F64 := a.add b.neg

/-- The sign of a value: below 0. -/
def isNeg : F64 → Bool
  | .fin m _ => decide (m < 0)
  | .inf a => a
  | .nan => false

/-- Multiplication. -/
def mul : F64 → F64 → F64
  | .fin m e, .fin n f => ofDyadic (m * n) (e + f)
  | .nan, _ => .nan
  | _, .nan => .nan
  | .inf a, .inf b => .inf (a != b)
  | .inf a, .fin n _ => if n = 0 then .nan else .inf (a != decide (n < 0))
  | .fin n _, .inf a => if n = 0 then .nan else .inf (a != decide (n < 0))

/-- Division; a zero divisor counts as +0. -/
def div : F64 → F64 → F64
  | .fin m e, .fin n f =>
    if n = 0 then (if m = 0 then .nan else .inf (decide (m < 0)))
    else
      let a := m.natAbs * 2 ^ 120
      let b := n.natAbs
      round (decide (m < 0) != decide (n < 0)) (a / b) (e - f - 120) (decide (a % b ≠ 0))
  | .nan, _ => .nan
  | _, .nan => .nan
  | .inf _, .inf _ => .nan
  | .inf a, .fin n _ => .inf (a != decide (n < 0))
  | .fin _ _, .inf _ => .fin 0 0

/-- The integer square root, bit by bit from 2^k down. -/
def isqrt (n : Nat) : Nat → Nat → Nat
  | 0, r => if (r + 1) * (r + 1) ≤ n then r + 1 else r
  | k + 1, r => isqrt n k (if (r + 2 ^ (k + 1)) * (r + 2 ^ (k + 1)) ≤ n then r + 2 ^ (k + 1) else r)

/-- The correctly rounded square root of a value that is not below 0. -/
def sqrt : F64 → F64
  | .fin m e =>
    if m < 0 then .nan
    else
      let odd := e % 2
      let a := m.natAbs * 2 ^ (odd.toNat + 120)
      let r := isqrt a 90 0
      round false r ((e - odd - 120) / 2) (decide (r * r ≠ a))
  | .inf false => .inf false
  | _ => .nan

/-- a ≤ b; false where one is NaN. -/
def le : F64 → F64 → Bool
  | .fin m e, .fin n f => let b := min e f; decide (align m e b ≤ align n f b)
  | .nan, _ => false
  | _, .nan => false
  | .inf a, b => a || b == .inf false
  | _, .inf b => !b

/-- a < b. -/
def lt (a b : F64) : Bool := a.le b && !b.le a

/-- rnd(x · 2^k): nearest, halves away from zero; none where x is not finite. -/
def rnd (k : Int) : F64 → Option Int
  | .fin m e =>
    let x := e + k
    some (if 0 ≤ x then m * 2 ^ x.toNat else rndDiv m (2 ^ (-x).toNat))
  | _ => none

end F64

/-! ### R184 -/

/-- PI of R184. -/
def f64Pi : F64 := .fin 7074237752028440 (-51)

/-- TPM and TLIM of R184 for PM in units of 5 degrees, 9 to 15. -/
def tpmTlim (pm : Nat) : F64 × F64 :=
  match pm with
  | 9 => (.fin 6018418129500560 (-53), .fin 5436325649948134 (-51))
  | 10 => (.fin 6306908816326523 (-53), .fin 4829000284050149 (-51))
  | 11 => (.fin 6604351738331017 (-53), .fin 8651334391212725 (-52))
  | 12 => (.fin 6911467074266742 (-53), .fin 7800463371553962 (-52))
  | 13 => (.fin 7229041677842569 (-53), .fin 7069235380195171 (-52))
  | 14 => (.fin 7557937572593438 (-53), .fin 6431806830993703 (-52))
  | _ => (.fin 7899101743893751 (-53), .fin 5869205303507430 (-52))

/-- The inputs of synth_lane: nd, PERIOD, RATE_DIV, XO_DIV, PM, rx in uOhm, cx and cb in uF, VM and VB in mV. -/
structure SynthIn where
  nd : Nat
  period : Nat
  rateDiv : Nat
  xoDiv : Nat
  pm : Nat
  rx : Int
  cx : Nat
  cb : Nat
  vm : Int
  vb : Int
  deriving DecidableEq, Repr

/-- A design: b0 to b3, a1 to a3, the crossover, and how often it was reduced. -/
structure Design where
  bb : List F64
  aa : List F64
  f : F64
  reduced : Nat
  deriving DecidableEq, Repr

/-- A value given in millionths, in the base unit. -/
def micro (x : Int) : F64 := (F64.ofInt x).div (.ofInt 1000000)

/-- design of R184. -/
def designLane (w t3 mag fu tpm : F64) : List F64 × List F64 :=
  let one := F64.ofInt 1
  let two := F64.ofInt 2
  let tq := t3.div (one.add (one.add (t3.mul t3)).sqrt)
  let sk := (tq.add tpm).div (one.sub (tq.mul tpm))
  let sk := if sk.lt one then one else sk
  let wint := w.div ((sk.mul sk).mul mag)
  let kk := two.mul fu
  let a := (kk.mul sk).div w
  let c := kk.div (w.mul sk)
  let q := (one.sub a).div (one.add a)
  let r := (one.sub c).div (one.add c)
  let g := ((wint.mul (one.add a)).mul (one.add a)).div ((kk.mul (one.add c)).mul (one.add c))
  ([g, g.mul ((two.mul q).add one), g.mul ((q.mul q).add (two.mul q)), (g.mul q).mul q],
   [one.sub (two.mul r), (two.mul r).sub (r.mul r), r.mul r])

/-- The search of synth_lane from crossover f, `n` trials left, `k` reductions made. -/
def synthFrom (set : Nat) (x : SynthIn) (fu wph tau : F64) : Nat → Nat → F64 → Option Design
  | 0, _, _ => none
  | n + 1, k, f =>
    let one := F64.ofInt 1
    let w := ((F64.ofInt 2).mul f64Pi).mul f
    let (tz, mz) :=
      if set = 0 then
        let rx := micro x.rx
        let xz := (w.mul rx).mul (micro x.cx)
        let s := (one.add (xz.mul xz)).sqrt
        (xz.div (one.add s), rx.div s)
      else (one, ((F64.ofInt x.vm).div (.ofInt x.vb)).div (w.mul (micro x.cb)))
    let xh := w.div wph
    let sh := (one.add (xh.mul xh)).sqrt
    let th := xh.div (one.add sh)
    let td := (w.mul tau).div (.ofInt 2)
    let t2 := (tz.add th).div (one.sub (tz.mul th))
    let den := one.sub (t2.mul td)
    let t3 := (t2.add td).div den
    if (F64.ofInt 0).lt den && t3.le (tpmTlim x.pm).2 then
      let d := designLane w t3 (mz.div sh) fu (tpmTlim x.pm).1
      some ⟨d.1, d.2, f, k⟩
    else synthFrom set x fu wph tau n (k + 1) (f.mul (.fin 27 (-5)))

/-- synth_lane of R184. -/
def synthLane (set : Nat) (x : SynthIn) : Option Design :=
  let fsw := (F64.ofInt 400000000).div (.ofInt x.period)
  let fu := (F64.ofInt 2000000).div (.ofInt (x.rateDiv + 1))
  let wph := (((F64.ofInt 2).mul f64Pi).mul fsw).div (.ofInt 10)
  let tau := ((F64.ofInt 15).div (.ofInt 10000000)).add ((F64.fin 1 (-1)).div fu)
  synthFrom set x fu wph tau 24 0 (((F64.ofInt x.nd).mul fsw).div (.ofInt x.xoDiv))

/-- Every value of a list, or none where one is missing. -/
def allSome : List (Option Int) → Option (List Int)
  | [] => some []
  | none :: _ => none
  | some x :: t => (allSome t).map (x :: ·)

/-- b0 to b3 for a value of ESH, where each fits its 24-bit word. -/
def bWords (bb : List F64) (e : Nat) : Option (List Int) :=
  (allSome (bb.map (fun b => b.rnd (20 - (e : Int))))).filter (fun l => l.all (fun v => v.natAbs ≤ 8388607))

/-- The words of a design (R184): b0 to b3, a1 to a3, ESH; none where no ESH fits. -/
def Design.words (d : Design) : Option (List Int) :=
  match (List.range 16).findSome? (fun e => (bWords d.bb e).map (fun b => (b, e))), allSome (d.aa.map (fun a => a.rnd 20)) with
  | some (b, e), some a => some (b ++ a ++ [(e : Int)])
  | _, _ => none

/-! ### R183 -/

/-- 2 pi as a fraction, to 65 places: enough to decide every rounding of R183. -/
def twoPi : Int × Int :=
  (628318530717958647692528676655900576839433879875021164194988918462, 10 ^ 65)

/-- KP of R183; none where VB is 0. -/
def kpOf (period lnom : Nat) (vb : Int) : Option Int :=
  if vb ≤ 0 ∨ period = 0 then none
  else some (rndDiv (twoPi.1 * (40000000 * lnom * 2 ^ 32)) (twoPi.2 * ((period : Int) * vb * 1000000000)))

/-- KI of R183. -/
def kiOf (kp : Int) (positions : Nat) : Int := rndDiv (twoPi.1 * kp) (twoPi.2 * (50 * max 1 positions))

end Sys2Proof.Machine
end

