-- ==== Sys2Proof/Config.lean ====
section
/-!
DEFINITION. Sys2Proof/Config.lean: what one part or one occasion fixes and the spec leaves open: opaque constants, so that no
proof can see a value of them. Each is named in the assumption log.
-/
namespace Sys2Proof.Config

/-- The device identifier UID in one-time-programmable memory, "per device" (R512). -/
opaque uid : BitVec 64
/-- Whether K is programmed on this part (R478). -/
opaque keyProgrammed : Bool
/-- The bytes of the device key K (R478); the first 32 are used. -/
opaque deviceKey : List (BitVec 8)
/-- The random generator of R479: the `n`-th challenge. -/
opaque challenge : Nat → BitVec 128
/-- Whether a RESET_N pulse between 100 ns and 1 us resets the device (R400 states neither): the `n`-th such pulse. -/
opaque midPulseResets : Nat → Bool
/-- The AUX temperature of R366 in degrees C for an average V in mV, R25 and BETA: carried to at least 16 significant bits, so the
last place of the rounding is open. -/
opaque auxTemperature : Nat → Nat → Nat → Int
/-- TAU1 of R181 in ms, carried to at least 16 significant bits: from T_HOLD in ms, e1 and e2. -/
opaque tau1 : Nat → Int → Int → Int
/-- RRLX of R181, carried to at least 16 significant bits: from e1, e2 and I2. -/
opaque rrlx : Int → Int → Int → Int
/-- A positive ERR asks TRIM to rise (R131, which does not state the sign). -/
opaque errTrimsUp : Bool
/-- A value the spec leaves open on the `n`-th occasion: 64 bits wide. -/
opaque freeValue : Nat → BitVec 64

end Sys2Proof.Config
end

