-- ==== Sys2Proof/Machine/Regs.lean ====
section
/-!
DEFINITION. Sys2Proof/Machine/Regs.lean: the 3,000 setup registers of the register map (chapter 22, R509 to R519, and the
register tables of the owning chapters): one constructor of `Reg` per register name, its address, the number of its
instances and their stride (Tables 22-1 to 22-6), its reset word, the masks of its access types (Table 0-5), and one
`Field` per row of each register table.
-/
namespace Sys2Proof.Machine

/-- One constructor per register name of the register map (R509, R510). -/
inductive Reg where
  | GLB_ID
  | GLB_CLK_CFG
  | GLB_CLK_STAT
  | BAY_HEDDLE_LO
  | BAY_HEDDLE_HI
  | BAY_LANE_SEG
  | BAY_HEDDLE_CMT
  | BAY_HEDDLE_STAT
  | BAY_HEDDLE_ACT_LO
  | BAY_HEDDLE_ACT_HI
  | BAY_PHASE_SVC
  | PH_SAMP
  | PH_OCTHR
  | PH_ISNCAL
  | BAY_ISN_OFS
  | BAY_ISN_SCALE
  | BAY_WATCH
  | BAY_XCHK
  | BAY_RB_CTL
  | BAY_RB_STAT
  | BAY_ISREF_STAT
  | LN_CMPTHR
  | LN_SNS_STAT
  | BUS_CMPTHR
  | BUS_VSCALE
  | PH_LOOP
  | BAY_DLIM
  | LN_LOOP_CFG
  | LN_IPH
  | LN_COEF_SEL
  | LN_COEF_DATA
  | LN_LOOP_STAT
  | BUS_WIN_HI
  | BUS_WIN_LO
  | BUS_COEF_SEL
  | BUS_COEF_DATA
  | BUS_LOOP_STAT
  | BAY_SHTL_CFG
  | BAY_SHTL_STAT
  | LN_SHTL_CFG
  | LN_SHTL_STAT
  | GLB_PWM_PER
  | GLB_PWM_SS
  | GLB_PWM_STAT
  | GLB_TRIP
  | GLB_TRIP_CFG
  | BAY_PWM_CTL
  | BAY_DT
  | BAY_SAFE
  | BAY_PH_TRIP
  | BAY_DL_STAT
  | LN_TRIP
  | REED_CFG
  | REED_STAT
  | REED_OFS
  | REED_RIP
  | LN_REED
  | PH_WARP
  | BAY_WARP_CFG
  | LN_WARP_CFG
  | LN_WARP_DATA
  | LN_WARP_STAT
  | LN_CTL
  | LN_STATE
  | LN_POLICY
  | LN_LOSS
  | LN_PULSE
  | GLB_START
  | BUS_STAT
  | BUS_SOC
  | BUS_SOC_LO
  | BUS_SOC_HI
  | BUS_TGT
  | TRD_CFG
  | TRD_STAT
  | TRD_CNT
  | TRD_LAST
  | LN_JML
  | GLB_REF
  | MTR_CFG
  | MTR_FILT
  | MTR_SEL
  | MTR_DATA
  | MTR_STAT
  | MTR_TAP
  | NVM_CFG
  | NVM_CTL
  | NVM_STAT
  | NVM_EVT
  | NVM_PF
  | NVM_UM_LO
  | NVM_UM_HI
  | NVM_TSEL
  | NVM_TVAL_LO
  | NVM_TVAL_HI
  | NVM_TSTO_LO
  | NVM_TSTO_HI
  | NVM_TINFO
  | NVM_TSEQ
  | NVM_TALT_LO
  | NVM_TALT_HI
  | NVM_DISP
  | NVM_PBANK
  | NVM_PSEQ0
  | NVM_PSEQ1
  | NVM_PCNT
  | NVM_ECC
  | NVM_ELAST
  | NVM_FOLDS
  | SLV_CFG
  | SLV_CTL
  | SLV_STAT
  | SLV_EVT
  | SLV_NEXT
  | SLV_SNAP_SEL
  | SLV_SNAP_ADDR
  | SLV_RSEL
  | SLV_RDAT
  | SLV_CCNT
  | RTR_ROUTE
  | RTR_CTL
  | RTR_FOUT
  | RTR_TIO
  | RTR_IRQ
  | RTR_LIVE
  | RTR_HIT
  | RTR_ERR
  | RTR_PROBE_SEL
  | RTR_PROBE
  | RTR_FOUT_STAT
  | GLB_PF
  | GLB_SUP_STAT
  | GLB_SUP_RD
  | GLB_TEMP_CFG
  | GLB_TEMP_STAT
  | GLB_TEMP_RD
  | GLB_THM_CFG
  | GLB_THM_EN_LO
  | GLB_THM_EN_HI
  | GLB_THM_RD
  | GLB_ATTR
  | GLB_FLT_EVT
  | TMR_TB_LO
  | TMR_TB_HI
  | TMR_CTL
  | TMR_RUN
  | TMR_CHF
  | TMR_OVF
  | TMR_MKUP
  | TMR_MKFR
  | TMR_CFG
  | TMR_CNT
  | TMR_STEP
  | TMR_CCFG
  | TMR_CV
  | TMR_CSTAT
  | GLB_BOOT
  | GLB_PWR_CTL
  | GLB_PWR_STAT
  | GLB_WAKE_EN
  | GLB_WAKE_TMR
  | GLB_PRES_EN_LO
  | GLB_PRES_EN_HI
  | GLB_PORT_STAT
  | HST_CTL
  | HST_LINK_A
  | HST_LINK_B
  | HST_LTR
  | HST_BUDGET
  | HST_DMA_ERR
  | HST_DMA_ADDR_LO
  | HST_DMA_ADDR_HI
  | HST_SQ_BASE_LO
  | HST_SQ_BASE_HI
  | HST_SQ_CFG
  | HST_CQ_BASE_LO
  | HST_CQ_BASE_HI
  | HST_CQ_CFG
  | HST_SQ_TAIL_DB
  | HST_CQ_HEAD_DB
  | HST_SQ_STAT
  | HST_CQ_STAT
  | HST_EVT_CFG
  | HST_T_ERR
  | SEC_STAT
  | SEC_ROLE
  | SEC_TFLAGS
  | SEC_TSEL
  | SEC_TINFO
  | SEC_STMT
  | SMB_S_CFG
  | SMB_S_STAT
  | SMB_S_EVT
  | SMB_S_CNT
  | SMB_S_HOLD_LO
  | SMB_S_HOLD_HI
  | SMB_M_CFG
  | SMB_M_STAT
  | SMB_M_EVT
  | SMB_POLL_SEL
  | SMB_POLL_CFG
  | SMB_POLL_STAT
  | SMB_PRES
  | GLB_UID_LO
  | GLB_UID_HI
  | GLB_FEAT
  | GLB_OPTIME_LO
  | GLB_OPTIME_HI
  | GLB_PCYC
  | GLB_LTRIP_LO
  | GLB_LTRIP_HI
  | GLB_LANE_SUM
  | GLB_BAY_STAT
  | GLB_SCRATCH
  deriving DecidableEq, Repr

/-- A register's place and contents: `addr` of instance 0, `count` instances `stride` bytes apart, the reset word, and the
masks of its fields by access type (R10): RW or RWS, RWL, W1C, WO; every other bit is RO or reserved (R11). -/
structure RegInfo where
  addr : Nat
  count : Nat
  stride : Nat
  reset : Nat
  rw : Nat
  rwl : Nat
  w1c : Nat
  wo : Nat
  deriving DecidableEq, Repr

/-- The register tables, one line a register (the chapters named in Tables 22-2 to 22-6). -/
def Reg.info : Reg → RegInfo
  | .GLB_ID => ⟨0x0, 1, 0x4, 0x5A9248B1, 0x0, 0x0, 0x0, 0x0⟩
  | .GLB_CLK_CFG => ⟨0x10, 1, 0x4, 0x1100, 0x1103, 0x0, 0x0, 0x0⟩
  | .GLB_CLK_STAT => ⟨0x14, 1, 0x4, 0xFFF0000, 0x0, 0x0, 0x1C, 0x0⟩
  | .BAY_HEDDLE_LO => ⟨0x10040, 12, 0x400, 0x0, 0xFFFFFFFF, 0x0, 0x0, 0x0⟩
  | .BAY_HEDDLE_HI => ⟨0x10044, 12, 0x400, 0x0, 0xFFFFFFFF, 0x0, 0x0, 0x0⟩
  | .BAY_LANE_SEG => ⟨0x10048, 12, 0x400, 0x0, 0x0, 0xFF, 0x0, 0x0⟩
  | .BAY_HEDDLE_CMT => ⟨0x1004C, 12, 0x400, 0x0, 0x0, 0x0, 0x0, 0x1⟩
  | .BAY_HEDDLE_STAT => ⟨0x10050, 12, 0x400, 0x0, 0x0, 0x0, 0x2, 0x0⟩
  | .BAY_HEDDLE_ACT_LO => ⟨0x10054, 12, 0x400, 0x0, 0x0, 0x0, 0x0, 0x0⟩
  | .BAY_HEDDLE_ACT_HI => ⟨0x10058, 12, 0x400, 0x0, 0x0, 0x0, 0x0, 0x0⟩
  | .BAY_PHASE_SVC => ⟨0x1005C, 12, 0x400, 0x0, 0x0, 0x0, 0x0, 0x0⟩
  | .PH_SAMP => ⟨0x30008, 192, 0x20, 0x80, 0xFFFFFFFF, 0x0, 0x0, 0x0⟩
  | .PH_OCTHR => ⟨0x3000C, 192, 0x20, 0x3FF, 0x3FF03FF, 0x0, 0x0, 0x0⟩
  | .PH_ISNCAL => ⟨0x30010, 192, 0x20, 0x0, 0xFFFF00FF, 0x0, 0x0, 0x0⟩
  | .BAY_ISN_OFS => ⟨0x10060, 12, 0x400, 0x0, 0xFFF, 0x0, 0x0, 0x0⟩
  | .BAY_ISN_SCALE => ⟨0x10064, 12, 0x400, 0x320000, 0xFFFFFF, 0x0, 0x0, 0x0⟩
  | .BAY_WATCH => ⟨0x10068, 12, 0x400, 0x407D0, 0xFFFFF, 0x0, 0x0, 0x0⟩
  | .BAY_XCHK => ⟨0x1006C, 12, 0x400, 0x830801F4, 0xCFFFFFFF, 0x0, 0x0, 0x0⟩
  | .BAY_RB_CTL => ⟨0x10070, 12, 0x400, 0x10000, 0x100FF, 0x0, 0x0, 0x100⟩
  | .BAY_RB_STAT => ⟨0x10074, 12, 0x400, 0x0, 0x0, 0x0, 0x40000000, 0x0⟩
  | .BAY_ISREF_STAT => ⟨0x10078, 12, 0x400, 0x0, 0x0, 0x0, 0x20000, 0x0⟩
  | .LN_CMPTHR => ⟨0x20048, 48, 0x100, 0x3FF03FF, 0x3FF03FF, 0x0, 0x0, 0x0⟩
  | .LN_SNS_STAT => ⟨0x2004C, 48, 0x100, 0x0, 0x0, 0x0, 0xE0000, 0x0⟩
  | .BUS_CMPTHR => ⟨0x7020, 4, 0x4, 0x3FF, 0x3FF03FF, 0x0, 0x0, 0x0⟩
  | .BUS_VSCALE => ⟨0x7030, 4, 0x4, 0x320000, 0xFFFFFF, 0x0, 0x80000000, 0x0⟩
  | .PH_LOOP => ⟨0x30004, 192, 0x20, 0x4000, 0xFFFFFF, 0x0, 0x0, 0x0⟩
  | .BAY_DLIM => ⟨0x10080, 12, 0x400, 0x1008, 0xFFFF, 0x0, 0x0, 0x0⟩
  | .LN_LOOP_CFG => ⟨0x20010, 48, 0x100, 0xFAE10E10, 0xFFFF7F1F, 0x0, 0x0, 0x0⟩
  | .LN_IPH => ⟨0x20014, 48, 0x100, 0x3C2DC350, 0xFFFFFFFF, 0x0, 0x0, 0x0⟩
  | .LN_COEF_SEL => ⟨0x20018, 48, 0x100, 0x0, 0x3F, 0x0, 0x20000, 0x100⟩
  | .LN_COEF_DATA => ⟨0x2001C, 48, 0x100, 0x0, 0xFFFFFF, 0x0, 0x0, 0x0⟩
  | .LN_LOOP_STAT => ⟨0x20020, 48, 0x100, 0x0, 0x0, 0x0, 0xE0000000, 0x0⟩
  | .BUS_WIN_HI => ⟨0x7040, 4, 0x4, 0x2BF20, 0x80FFFFFF, 0x0, 0x0, 0x0⟩
  | .BUS_WIN_LO => ⟨0x7050, 4, 0x4, 0x1D4C0, 0xFFFFFF, 0x0, 0x0, 0x0⟩
  | .BUS_COEF_SEL => ⟨0x7060, 1, 0x4, 0x0, 0x3F, 0x0, 0x0, 0x100⟩
  | .BUS_COEF_DATA => ⟨0x7064, 1, 0x4, 0x0, 0xFFFFFF, 0x0, 0x0, 0x0⟩
  | .BUS_LOOP_STAT => ⟨0x7070, 4, 0x4, 0x0, 0x0, 0x0, 0x20000000, 0x0⟩
  | .BAY_SHTL_CFG => ⟨0x10084, 12, 0x400, 0xC0282710, 0xFFFFFFFF, 0x0, 0x0, 0x0⟩
  | .BAY_SHTL_STAT => ⟨0x10088, 12, 0x400, 0x0, 0x0, 0x0, 0xE0000, 0x10000⟩
  | .LN_SHTL_CFG => ⟨0x20024, 48, 0x100, 0x2710, 0xFFFFFFFF, 0x0, 0x0, 0x0⟩
  | .LN_SHTL_STAT => ⟨0x20028, 48, 0x100, 0x0, 0x0, 0x0, 0x0, 0x0⟩
  | .GLB_PWM_PER => ⟨0x40, 1, 0x4, 0x640, 0x1FFF, 0x0, 0x10000, 0x0⟩
  | .GLB_PWM_SS => ⟨0x44, 1, 0x4, 0x81388, 0x10F3FFF, 0x0, 0x0, 0x0⟩
  | .GLB_PWM_STAT => ⟨0x48, 1, 0x4, 0x640, 0x0, 0x0, 0x0, 0x0⟩
  | .GLB_TRIP => ⟨0x50, 1, 0x4, 0x0, 0x0, 0x0, 0x3, 0x0⟩
  | .GLB_TRIP_CFG => ⟨0x54, 1, 0x4, 0xF, 0xF, 0x0, 0x0, 0x0⟩
  | .BAY_PWM_CTL => ⟨0x1008C, 12, 0x400, 0x0, 0x1, 0x0, 0x20000, 0xFF00⟩
  | .BAY_DT => ⟨0x10090, 12, 0x400, 0x0, 0xFFF0FFF, 0x0, 0x0, 0x0⟩
  | .BAY_SAFE => ⟨0x10094, 12, 0x400, 0x0, 0xFFFFFFFF, 0x0, 0x0, 0x0⟩
  | .BAY_PH_TRIP => ⟨0x10098, 12, 0x400, 0x0, 0x0, 0x0, 0x1FFFF, 0x0⟩
  | .BAY_DL_STAT => ⟨0x1009C, 12, 0x400, 0x80, 0x0, 0x0, 0x40000, 0x0⟩
  | .LN_TRIP => ⟨0x2002C, 48, 0x100, 0x0, 0x0, 0x0, 0x3, 0x0⟩
  | .REED_CFG => ⟨0x7080, 1, 0x4, 0x400A060F, 0xFFFF0F0F, 0x0, 0x0, 0xF0⟩
  | .REED_STAT => ⟨0x7084, 1, 0x4, 0x0, 0x0, 0x0, 0xF0000, 0x0⟩
  | .REED_OFS => ⟨0x7088, 1, 0x4, 0x0, 0xFF, 0x0, 0x0, 0x0⟩
  | .REED_RIP => ⟨0x7090, 4, 0x4, 0x0, 0xFFFF0000, 0x0, 0x0, 0x0⟩
  | .LN_REED => ⟨0x20030, 48, 0x100, 0x0, 0x3F0100, 0x0, 0x0, 0x0⟩
  | .PH_WARP => ⟨0x30000, 192, 0x20, 0x0, 0x0, 0x0, 0x0, 0x0⟩
  | .BAY_WARP_CFG => ⟨0x100A0, 12, 0x400, 0xCA6BCC28, 0xFFFFFFFF, 0x0, 0x0, 0x0⟩
  | .LN_WARP_CFG => ⟨0x20034, 48, 0x100, 0xA50, 0xF7FFF, 0x0, 0x0, 0x0⟩
  | .LN_WARP_DATA => ⟨0x20038, 48, 0x100, 0x80000000, 0xFFFFFF, 0x0, 0x0, 0x0⟩
  | .LN_WARP_STAT => ⟨0x2003C, 48, 0x100, 0x0, 0x0, 0x0, 0x0, 0x0⟩
  | .LN_CTL => ⟨0x20000, 48, 0x100, 0x7370522, 0xFFFFF3F, 0x0, 0x0, 0x0⟩
  | .LN_STATE => ⟨0x20004, 48, 0x100, 0x0, 0x0, 0x0, 0x0, 0x0⟩
  | .LN_POLICY => ⟨0x20008, 48, 0x100, 0x0, 0xFFFFFF, 0x0, 0x0, 0x0⟩
  | .LN_LOSS => ⟨0x2000C, 48, 0x100, 0x596190, 0xFFFFFFFF, 0x0, 0x0, 0x0⟩
  | .LN_PULSE => ⟨0x20040, 48, 0x100, 0xA4281E, 0xFFFFFFF, 0x0, 0x0, 0x0⟩
  | .GLB_START => ⟨0x58, 1, 0x4, 0xC8, 0x1FFF, 0x0, 0x0, 0x0⟩
  | .BUS_STAT => ⟨0x7004, 1, 0x4, 0x0, 0x0, 0x0, 0x0, 0x0⟩
  | .BUS_SOC => ⟨0x7008, 1, 0x4, 0x14321480, 0xFFFFFFFF, 0x0, 0x0, 0x0⟩
  | .BUS_SOC_LO => ⟨0x700C, 1, 0x4, 0x0, 0x0, 0x0, 0x0, 0x0⟩
  | .BUS_SOC_HI => ⟨0x7010, 1, 0x4, 0x0, 0x0, 0x0, 0x0, 0x0⟩
  | .BUS_TGT => ⟨0x7014, 1, 0x4, 0x0, 0x3, 0x0, 0x0, 0x0⟩
  | .TRD_CFG => ⟨0x6080, 1, 0x4, 0x1F00, 0x1F1F, 0x0, 0x0, 0x80000000⟩
  | .TRD_STAT => ⟨0x6084, 1, 0x4, 0x0, 0x0, 0x0, 0x70000, 0x0⟩
  | .TRD_CNT => ⟨0x6088, 1, 0x4, 0x0, 0x0, 0x0, 0x0, 0x0⟩
  | .TRD_LAST => ⟨0x6090, 1, 0x4, 0x0, 0x0, 0x0, 0x0, 0x0⟩
  | .LN_JML => ⟨0x20044, 48, 0x100, 0x14F19, 0x3FFFF, 0x0, 0x80000000, 0x0⟩
  | .GLB_REF => ⟨0x60, 1, 0x4, 0x0, 0x0, 0x3, 0xC00, 0x0⟩
  | .MTR_CFG => ⟨0x40000, 48, 0x40, 0x100030, 0xFF7100, 0x33, 0x0, 0x0⟩
  | .MTR_FILT => ⟨0x40004, 48, 0x40, 0x400201, 0x0, 0x1FFF7F07, 0x0, 0x0⟩
  | .MTR_SEL => ⟨0x40008, 48, 0x40, 0x0, 0xF, 0x0, 0x0, 0x0⟩
  | .MTR_DATA => ⟨0x4000C, 48, 0x40, 0x0, 0xFFFFFF, 0x0, 0x0, 0x0⟩
  | .MTR_STAT => ⟨0x40010, 48, 0x40, 0x0, 0x0, 0x0, 0x14070, 0x0⟩
  | .MTR_TAP => ⟨0x40014, 48, 0x40, 0x2804280, 0x0, 0x0, 0x0, 0x0⟩
  | .NVM_CFG => ⟨0x3000, 1, 0x4, 0x10A, 0x13F, 0x0, 0x0, 0x0⟩
  | .NVM_CTL => ⟨0x3004, 1, 0x4, 0x0, 0x0, 0x0, 0x0, 0x3⟩
  | .NVM_STAT => ⟨0x3008, 1, 0x4, 0x0, 0x0, 0x0, 0x0, 0x0⟩
  | .NVM_EVT => ⟨0x300C, 1, 0x4, 0x0, 0x0, 0x0, 0xFF, 0x0⟩
  | .NVM_PF => ⟨0x3010, 1, 0x4, 0x0, 0x0, 0x0, 0x0, 0x0⟩
  | .NVM_UM_LO => ⟨0x3014, 1, 0x4, 0x0, 0x0, 0x0, 0x0, 0x0⟩
  | .NVM_UM_HI => ⟨0x3018, 1, 0x4, 0x0, 0x0, 0x0, 0x0, 0x0⟩
  | .NVM_TSEL => ⟨0x301C, 1, 0x4, 0x0, 0x1FF, 0x0, 0x0, 0x0⟩
  | .NVM_TVAL_LO => ⟨0x3020, 1, 0x4, 0x0, 0x0, 0x0, 0x0, 0x0⟩
  | .NVM_TVAL_HI => ⟨0x3024, 1, 0x4, 0x0, 0x0, 0x0, 0x0, 0x0⟩
  | .NVM_TSTO_LO => ⟨0x3028, 1, 0x4, 0x0, 0x0, 0x0, 0x0, 0x0⟩
  | .NVM_TSTO_HI => ⟨0x302C, 1, 0x4, 0x0, 0x0, 0x0, 0x0, 0x0⟩
  | .NVM_TINFO => ⟨0x3030, 1, 0x4, 0x0, 0x0, 0x0, 0x0, 0x0⟩
  | .NVM_TSEQ => ⟨0x3034, 1, 0x4, 0x0, 0x0, 0x0, 0x0, 0x0⟩
  | .NVM_TALT_LO => ⟨0x3038, 1, 0x4, 0x0, 0x0, 0x0, 0x0, 0x0⟩
  | .NVM_TALT_HI => ⟨0x303C, 1, 0x4, 0x0, 0x0, 0x0, 0x0, 0x0⟩
  | .NVM_DISP => ⟨0x3040, 1, 0x4, 0x1FF0000, 0x0, 0x0, 0x0, 0x0⟩
  | .NVM_PBANK => ⟨0x3044, 1, 0x4, 0x0, 0x0, 0x0, 0x0, 0x0⟩
  | .NVM_PSEQ0 => ⟨0x3048, 1, 0x4, 0x0, 0x0, 0x0, 0x0, 0x0⟩
  | .NVM_PSEQ1 => ⟨0x304C, 1, 0x4, 0x0, 0x0, 0x0, 0x0, 0x0⟩
  | .NVM_PCNT => ⟨0x3050, 1, 0x4, 0x0, 0x0, 0x0, 0x0, 0x0⟩
  | .NVM_ECC => ⟨0x3054, 1, 0x4, 0x0, 0x0, 0x0, 0x0, 0x0⟩
  | .NVM_ELAST => ⟨0x3058, 1, 0x4, 0x0, 0x0, 0x0, 0x0, 0x0⟩
  | .NVM_FOLDS => ⟨0x305C, 1, 0x4, 0x0, 0x0, 0x0, 0x0, 0x0⟩
  | .SLV_CFG => ⟨0x4000, 1, 0x4, 0x823000A, 0xFFFF00FF, 0x0, 0x0, 0x0⟩
  | .SLV_CTL => ⟨0x4004, 1, 0x4, 0x0, 0x0, 0x0, 0x0, 0x3⟩
  | .SLV_STAT => ⟨0x4008, 1, 0x4, 0x0, 0x0, 0x0, 0x0, 0x0⟩
  | .SLV_EVT => ⟨0x400C, 1, 0x4, 0x0, 0x0, 0x0, 0x7, 0x0⟩
  | .SLV_NEXT => ⟨0x4010, 1, 0x4, 0x0, 0x0, 0x0, 0x0, 0x0⟩
  | .SLV_SNAP_SEL => ⟨0x4014, 1, 0x4, 0x0, 0xF7, 0x0, 0x0, 0x0⟩
  | .SLV_SNAP_ADDR => ⟨0x4018, 1, 0x4, 0x80000000, 0xFFFFFFFF, 0x0, 0x0, 0x0⟩
  | .SLV_RSEL => ⟨0x401C, 1, 0x4, 0x0, 0xFFFFFFFF, 0x0, 0x0, 0x0⟩
  | .SLV_RDAT => ⟨0x4040, 16, 0x4, 0x0, 0x0, 0x0, 0x0, 0x0⟩
  | .SLV_CCNT => ⟨0x4080, 16, 0x4, 0x0, 0x0, 0x0, 0x0, 0x0⟩
  | .RTR_ROUTE => ⟨0x1000, 128, 0x4, 0x0, 0x807FFFFF, 0x0, 0x0, 0x0⟩
  | .RTR_CTL => ⟨0x1200, 1, 0x4, 0x0, 0x0, 0x0, 0x0, 0x1⟩
  | .RTR_FOUT => ⟨0x1204, 1, 0x4, 0x1B, 0x1F, 0x0, 0x0, 0x0⟩
  | .RTR_TIO => ⟨0x1208, 1, 0x4, 0x0, 0xFFFF, 0x0, 0x0, 0x0⟩
  | .RTR_IRQ => ⟨0x120C, 1, 0x4, 0x101, 0x1FF, 0x0, 0x0, 0x0⟩
  | .RTR_LIVE => ⟨0x1210, 4, 0x4, 0x0, 0x0, 0x0, 0x0, 0x0⟩
  | .RTR_HIT => ⟨0x1220, 4, 0x4, 0x0, 0x0, 0x0, 0xFFFFFFFF, 0x0⟩
  | .RTR_ERR => ⟨0x1230, 1, 0x4, 0x0, 0x0, 0x0, 0x10000, 0x0⟩
  | .RTR_PROBE_SEL => ⟨0x1234, 1, 0x4, 0x0, 0x3FFF, 0x0, 0x0, 0x0⟩
  | .RTR_PROBE => ⟨0x1238, 1, 0x4, 0x0, 0x0, 0x0, 0x0, 0x0⟩
  | .RTR_FOUT_STAT => ⟨0x123C, 1, 0x4, 0x1, 0x0, 0x0, 0x0, 0x0⟩
  | .GLB_PF => ⟨0x80, 1, 0x4, 0x100, 0x100, 0x0, 0x0, 0x0⟩
  | .GLB_SUP_STAT => ⟨0x84, 1, 0x4, 0x0, 0x0, 0x0, 0x80000000, 0x0⟩
  | .GLB_SUP_RD => ⟨0x88, 1, 0x4, 0x0, 0x3F, 0x0, 0x0, 0x0⟩
  | .GLB_TEMP_CFG => ⟨0x8C, 1, 0x4, 0x7D6E, 0xFFFF, 0x0, 0x0, 0x0⟩
  | .GLB_TEMP_STAT => ⟨0x90, 1, 0x4, 0x0, 0x0, 0x0, 0x30000000, 0x0⟩
  | .GLB_TEMP_RD => ⟨0x94, 1, 0x4, 0x0, 0xF, 0x0, 0x0, 0x0⟩
  | .GLB_THM_CFG => ⟨0x98, 1, 0x4, 0x3C640D6B, 0xFFFF1FFF, 0x0, 0x0, 0x0⟩
  | .GLB_THM_EN_LO => ⟨0x9C, 1, 0x4, 0x0, 0xFFFFFFFF, 0x0, 0x0, 0x0⟩
  | .GLB_THM_EN_HI => ⟨0xA0, 1, 0x4, 0x0, 0xFFFF, 0x0, 0x0, 0x0⟩
  | .GLB_THM_RD => ⟨0xA4, 1, 0x4, 0x0, 0x3F, 0x0, 0x0, 0x0⟩
  | .GLB_ATTR => ⟨0xA8, 1, 0x4, 0x27100F00, 0xFFFF403F, 0x0, 0x0, 0x0⟩
  | .GLB_FLT_EVT => ⟨0xAC, 1, 0x4, 0x0, 0x0, 0x0, 0x1F, 0x0⟩
  | .TMR_TB_LO => ⟨0x2000, 1, 0x4, 0x0, 0x0, 0x0, 0x0, 0x0⟩
  | .TMR_TB_HI => ⟨0x2004, 1, 0x4, 0x0, 0x0, 0x0, 0x0, 0x0⟩
  | .TMR_CTL => ⟨0x2008, 1, 0x4, 0x0, 0x0, 0x0, 0x0, 0x100FF⟩
  | .TMR_RUN => ⟨0x200C, 1, 0x4, 0x0, 0x0, 0x0, 0x0, 0x0⟩
  | .TMR_CHF => ⟨0x2010, 1, 0x4, 0x0, 0x0, 0x0, 0xFFFFFFFF, 0x0⟩
  | .TMR_OVF => ⟨0x2014, 1, 0x4, 0x0, 0x0, 0x0, 0xFFFF, 0x0⟩
  | .TMR_MKUP => ⟨0x2018, 1, 0x4, 0x0, 0x0, 0x0, 0x0, 0x0⟩
  | .TMR_MKFR => ⟨0x201C, 1, 0x4, 0x0, 0x0, 0x0, 0x0, 0x0⟩
  | .TMR_CFG => ⟨0x2100, 8, 0x20, 0x0, 0x33F, 0x0, 0x0, 0x1000⟩
  | .TMR_CNT => ⟨0x2104, 8, 0x20, 0x0, 0xFFFFFFFF, 0x0, 0x0, 0x0⟩
  | .TMR_STEP => ⟨0x2108, 8, 0x20, 0x4E20, 0xFFFFFFFF, 0x0, 0x0, 0x0⟩
  | .TMR_CCFG => ⟨0x210C, 8, 0x20, 0x0, 0x7F7F7F7F, 0x0, 0x0, 0x0⟩
  | .TMR_CV => ⟨0x2110, 8, 0x20, 0x0, 0xFFFFFFFF, 0x0, 0x0, 0x0⟩
  | .TMR_CSTAT => ⟨0x2114, 8, 0x20, 0x0, 0x0, 0x0, 0x0, 0x0⟩
  | .GLB_BOOT => ⟨0x20, 1, 0x4, 0x2, 0x0, 0x0, 0x0, 0x0⟩
  | .GLB_PWR_CTL => ⟨0x24, 1, 0x4, 0x0, 0x0, 0x0, 0x0, 0xFF⟩
  | .GLB_PWR_STAT => ⟨0x28, 1, 0x4, 0x0, 0x0, 0x0, 0x101, 0x0⟩
  | .GLB_WAKE_EN => ⟨0x2C, 1, 0x4, 0x304, 0x30F, 0x0, 0x0, 0x0⟩
  | .GLB_WAKE_TMR => ⟨0x30, 1, 0x4, 0x8000, 0xFFFFFFFF, 0x0, 0x0, 0x0⟩
  | .GLB_PRES_EN_LO => ⟨0x34, 1, 0x4, 0x0, 0xFFFFFFFF, 0x0, 0x0, 0x0⟩
  | .GLB_PRES_EN_HI => ⟨0x38, 1, 0x4, 0x0, 0xFFFF, 0x0, 0x0, 0x0⟩
  | .GLB_PORT_STAT => ⟨0x3C, 1, 0x4, 0x0, 0x0, 0x0, 0xC, 0x0⟩
  | .HST_CTL => ⟨0x5000, 1, 0x4, 0xFF, 0xFF, 0x0, 0x0, 0x0⟩
  | .HST_LINK_A => ⟨0x5004, 1, 0x4, 0x0, 0x0, 0x0, 0x0, 0x0⟩
  | .HST_LINK_B => ⟨0x5008, 1, 0x4, 0x0, 0x0, 0x0, 0x0, 0x0⟩
  | .HST_LTR => ⟨0x500C, 1, 0x4, 0x200014, 0x3FF03FF, 0x0, 0x0, 0x0⟩
  | .HST_BUDGET => ⟨0x5010, 1, 0x4, 0x0, 0x0, 0x0, 0x0, 0x0⟩
  | .HST_DMA_ERR => ⟨0x5014, 1, 0x4, 0x0, 0x0, 0x0, 0x10000, 0x0⟩
  | .HST_DMA_ADDR_LO => ⟨0x5018, 1, 0x4, 0x0, 0x0, 0x0, 0x0, 0x0⟩
  | .HST_DMA_ADDR_HI => ⟨0x501C, 1, 0x4, 0x0, 0x0, 0x0, 0x0, 0x0⟩
  | .HST_SQ_BASE_LO => ⟨0x5100, 8, 0x100, 0x0, 0xFFFFF000, 0x0, 0x0, 0x0⟩
  | .HST_SQ_BASE_HI => ⟨0x5104, 8, 0x100, 0x0, 0xFFFFFFFF, 0x0, 0x0, 0x0⟩
  | .HST_SQ_CFG => ⟨0x5108, 8, 0x100, 0x4, 0x10F, 0x0, 0x0, 0x0⟩
  | .HST_CQ_BASE_LO => ⟨0x510C, 8, 0x100, 0x0, 0xFFFFF000, 0x0, 0x0, 0x0⟩
  | .HST_CQ_BASE_HI => ⟨0x5110, 8, 0x100, 0x0, 0xFFFFFFFF, 0x0, 0x0, 0x0⟩
  | .HST_CQ_CFG => ⟨0x5114, 8, 0x100, 0x10004, 0xFFFF710F, 0x0, 0x0, 0x0⟩
  | .HST_SQ_TAIL_DB => ⟨0x5118, 8, 0x100, 0x0, 0x0, 0x0, 0x0, 0xFFF⟩
  | .HST_CQ_HEAD_DB => ⟨0x511C, 8, 0x100, 0x0, 0x0, 0x0, 0x0, 0x3FFF⟩
  | .HST_SQ_STAT => ⟨0x5120, 8, 0x100, 0x0, 0x0, 0x0, 0x0, 0x0⟩
  | .HST_CQ_STAT => ⟨0x5124, 8, 0x100, 0x0, 0x0, 0x0, 0x0, 0x0⟩
  | .HST_EVT_CFG => ⟨0x5128, 8, 0x100, 0x0, 0x1FFFF, 0x0, 0x0, 0x0⟩
  | .HST_T_ERR => ⟨0x512C, 8, 0x100, 0x0, 0x0, 0x0, 0x1F, 0x0⟩
  | .SEC_STAT => ⟨0x7100, 1, 0x4, 0x0, 0x0, 0x0, 0x30000, 0x0⟩
  | .SEC_ROLE => ⟨0x7104, 1, 0x4, 0xC000003, 0x0, 0x0, 0x0, 0x0⟩
  | .SEC_TFLAGS => ⟨0x7108, 1, 0x4, 0x0, 0x0, 0x0, 0x0, 0x0⟩
  | .SEC_TSEL => ⟨0x710C, 1, 0x4, 0x0, 0x7, 0x0, 0x0, 0x100⟩
  | .SEC_TINFO => ⟨0x7110, 1, 0x4, 0x3E8, 0x0, 0x0, 0x0, 0x0⟩
  | .SEC_STMT => ⟨0x7114, 1, 0x4, 0x0, 0x0, 0x0, 0x0, 0x0⟩
  | .SMB_S_CFG => ⟨0x6000, 1, 0x4, 0x0, 0x3F01, 0x0, 0x0, 0x0⟩
  | .SMB_S_STAT => ⟨0x6004, 1, 0x4, 0x0, 0x0, 0x0, 0x0, 0x0⟩
  | .SMB_S_EVT => ⟨0x6008, 1, 0x4, 0x0, 0x0, 0x0, 0x7, 0x0⟩
  | .SMB_S_CNT => ⟨0x600C, 1, 0x4, 0x0, 0x0, 0x0, 0x0, 0x0⟩
  | .SMB_S_HOLD_LO => ⟨0x6010, 1, 0x4, 0x0, 0x0, 0x0, 0x0, 0x0⟩
  | .SMB_S_HOLD_HI => ⟨0x6014, 1, 0x4, 0x0, 0x0, 0x0, 0x0, 0x0⟩
  | .SMB_M_CFG => ⟨0x6040, 1, 0x4, 0x0, 0x33, 0x0, 0x0, 0x0⟩
  | .SMB_M_STAT => ⟨0x6044, 1, 0x4, 0x0, 0x0, 0x0, 0x0, 0x0⟩
  | .SMB_M_EVT => ⟨0x6048, 1, 0x4, 0x0, 0x0, 0x0, 0x3F, 0x0⟩
  | .SMB_POLL_SEL => ⟨0x604C, 1, 0x4, 0x0, 0x1F, 0x0, 0x0, 0x0⟩
  | .SMB_POLL_CFG => ⟨0x6050, 1, 0x4, 0x1000000, 0xFF03FFFF, 0x0, 0x0, 0x0⟩
  | .SMB_POLL_STAT => ⟨0x6054, 1, 0x4, 0x0, 0x0, 0x0, 0x0, 0x0⟩
  | .SMB_PRES => ⟨0x60C0, 16, 0x4, 0x0, 0x0, 0x0, 0x0, 0x0⟩
  | .GLB_UID_LO => ⟨0x4, 1, 0x4, 0x0, 0x0, 0x0, 0x0, 0x0⟩
  | .GLB_UID_HI => ⟨0x8, 1, 0x4, 0x0, 0x0, 0x0, 0x0, 0x0⟩
  | .GLB_FEAT => ⟨0xC, 1, 0x4, 0x284300C, 0x0, 0x0, 0x0, 0x0⟩
  | .GLB_OPTIME_LO => ⟨0x18, 1, 0x4, 0x0, 0x0, 0x0, 0x0, 0x0⟩
  | .GLB_OPTIME_HI => ⟨0x1C, 1, 0x4, 0x0, 0x0, 0x0, 0x0, 0x0⟩
  | .GLB_PCYC => ⟨0x4C, 1, 0x4, 0x0, 0x0, 0x0, 0x0, 0x0⟩
  | .GLB_LTRIP_LO => ⟨0x64, 1, 0x4, 0x0, 0x0, 0x0, 0x0, 0x0⟩
  | .GLB_LTRIP_HI => ⟨0x68, 1, 0x4, 0x0, 0x0, 0x0, 0x0, 0x0⟩
  | .GLB_LANE_SUM => ⟨0xB0, 6, 0x4, 0x0, 0x0, 0x0, 0x0, 0x0⟩
  | .GLB_BAY_STAT => ⟨0xC8, 12, 0x4, 0x2, 0x0, 0x0, 0x0, 0x0⟩
  | .GLB_SCRATCH => ⟨0x100, 8, 0x4, 0x0, 0xFFFFFFFF, 0x0, 0x0, 0x0⟩

/-- The registers of the GLB block (Table 22-1). -/
def regsG0 : List Reg :=
  [.GLB_ID, .GLB_CLK_CFG, .GLB_CLK_STAT, .GLB_PWM_PER, .GLB_PWM_SS, .GLB_PWM_STAT, .GLB_TRIP, .GLB_TRIP_CFG] ++
  [.GLB_START, .GLB_REF, .GLB_PF, .GLB_SUP_STAT, .GLB_SUP_RD, .GLB_TEMP_CFG, .GLB_TEMP_STAT, .GLB_TEMP_RD] ++
  [.GLB_THM_CFG, .GLB_THM_EN_LO, .GLB_THM_EN_HI, .GLB_THM_RD, .GLB_ATTR, .GLB_FLT_EVT, .GLB_BOOT, .GLB_PWR_CTL] ++
  [.GLB_PWR_STAT, .GLB_WAKE_EN, .GLB_WAKE_TMR, .GLB_PRES_EN_LO, .GLB_PRES_EN_HI, .GLB_PORT_STAT, .GLB_UID_LO, .GLB_UID_HI] ++
  [.GLB_FEAT, .GLB_OPTIME_LO, .GLB_OPTIME_HI, .GLB_PCYC, .GLB_LTRIP_LO, .GLB_LTRIP_HI, .GLB_LANE_SUM, .GLB_BAY_STAT] ++
  [.GLB_SCRATCH]

/-- The registers of the RTR block (Table 22-1). -/
def regsG1 : List Reg :=
  [.RTR_ROUTE, .RTR_CTL, .RTR_FOUT, .RTR_TIO, .RTR_IRQ, .RTR_LIVE, .RTR_HIT, .RTR_ERR] ++
  [.RTR_PROBE_SEL, .RTR_PROBE, .RTR_FOUT_STAT]

/-- The registers of the TMR block (Table 22-1). -/
def regsG2 : List Reg :=
  [.TMR_TB_LO, .TMR_TB_HI, .TMR_CTL, .TMR_RUN, .TMR_CHF, .TMR_OVF, .TMR_MKUP, .TMR_MKFR] ++
  [.TMR_CFG, .TMR_CNT, .TMR_STEP, .TMR_CCFG, .TMR_CV, .TMR_CSTAT]

/-- The registers of the NVM block (Table 22-1). -/
def regsG3 : List Reg :=
  [.NVM_CFG, .NVM_CTL, .NVM_STAT, .NVM_EVT, .NVM_PF, .NVM_UM_LO, .NVM_UM_HI, .NVM_TSEL] ++
  [.NVM_TVAL_LO, .NVM_TVAL_HI, .NVM_TSTO_LO, .NVM_TSTO_HI, .NVM_TINFO, .NVM_TSEQ, .NVM_TALT_LO, .NVM_TALT_HI] ++
  [.NVM_DISP, .NVM_PBANK, .NVM_PSEQ0, .NVM_PSEQ1, .NVM_PCNT, .NVM_ECC, .NVM_ELAST, .NVM_FOLDS]

/-- The registers of the SLV block (Table 22-1). -/
def regsG4 : List Reg :=
  [.SLV_CFG, .SLV_CTL, .SLV_STAT, .SLV_EVT, .SLV_NEXT, .SLV_SNAP_SEL, .SLV_SNAP_ADDR, .SLV_RSEL] ++
  [.SLV_RDAT, .SLV_CCNT]

/-- The registers of the HST block (Table 22-1). -/
def regsG5 : List Reg :=
  [.HST_CTL, .HST_LINK_A, .HST_LINK_B, .HST_LTR, .HST_BUDGET, .HST_DMA_ERR, .HST_DMA_ADDR_LO, .HST_DMA_ADDR_HI] ++
  [.HST_SQ_BASE_LO, .HST_SQ_BASE_HI, .HST_SQ_CFG, .HST_CQ_BASE_LO, .HST_CQ_BASE_HI, .HST_CQ_CFG, .HST_SQ_TAIL_DB, .HST_CQ_HEAD_DB] ++
  [.HST_SQ_STAT, .HST_CQ_STAT, .HST_EVT_CFG, .HST_T_ERR]

/-- The registers of the SMB and TRD block (Table 22-1). -/
def regsG6 : List Reg :=
  [.TRD_CFG, .TRD_STAT, .TRD_CNT, .TRD_LAST, .SMB_S_CFG, .SMB_S_STAT, .SMB_S_EVT, .SMB_S_CNT] ++
  [.SMB_S_HOLD_LO, .SMB_S_HOLD_HI, .SMB_M_CFG, .SMB_M_STAT, .SMB_M_EVT, .SMB_POLL_SEL, .SMB_POLL_CFG, .SMB_POLL_STAT] ++
  [.SMB_PRES]

/-- The registers of the BUS, REED and SEC block (Table 22-1). -/
def regsG7 : List Reg :=
  [.BUS_CMPTHR, .BUS_VSCALE, .BUS_WIN_HI, .BUS_WIN_LO, .BUS_COEF_SEL, .BUS_COEF_DATA, .BUS_LOOP_STAT, .REED_CFG] ++
  [.REED_STAT, .REED_OFS, .REED_RIP, .BUS_STAT, .BUS_SOC, .BUS_SOC_LO, .BUS_SOC_HI, .BUS_TGT] ++
  [.SEC_STAT, .SEC_ROLE, .SEC_TFLAGS, .SEC_TSEL, .SEC_TINFO, .SEC_STMT]

/-- The registers of the bay block (Table 22-1). -/
def regsBAY : List Reg :=
  [.BAY_HEDDLE_LO, .BAY_HEDDLE_HI, .BAY_LANE_SEG, .BAY_HEDDLE_CMT, .BAY_HEDDLE_STAT, .BAY_HEDDLE_ACT_LO, .BAY_HEDDLE_ACT_HI, .BAY_PHASE_SVC] ++
  [.BAY_ISN_OFS, .BAY_ISN_SCALE, .BAY_WATCH, .BAY_XCHK, .BAY_RB_CTL, .BAY_RB_STAT, .BAY_ISREF_STAT, .BAY_DLIM] ++
  [.BAY_SHTL_CFG, .BAY_SHTL_STAT, .BAY_PWM_CTL, .BAY_DT, .BAY_SAFE, .BAY_PH_TRIP, .BAY_DL_STAT, .BAY_WARP_CFG]

/-- The registers of the lane block (Table 22-1). -/
def regsLN : List Reg :=
  [.LN_CMPTHR, .LN_SNS_STAT, .LN_LOOP_CFG, .LN_IPH, .LN_COEF_SEL, .LN_COEF_DATA, .LN_LOOP_STAT, .LN_SHTL_CFG] ++
  [.LN_SHTL_STAT, .LN_TRIP, .LN_REED, .LN_WARP_CFG, .LN_WARP_DATA, .LN_WARP_STAT, .LN_CTL, .LN_STATE] ++
  [.LN_POLICY, .LN_LOSS, .LN_PULSE, .LN_JML]

/-- The registers of the phase block (Table 22-1). -/
def regsPH : List Reg :=
  [.PH_SAMP, .PH_OCTHR, .PH_ISNCAL, .PH_LOOP, .PH_WARP]

/-- The registers of the metering block (Table 22-1). -/
def regsMTR : List Reg :=
  [.MTR_CFG, .MTR_FILT, .MTR_SEL, .MTR_DATA, .MTR_STAT, .MTR_TAP]

/-- A named field of a register: its lowest bit and its width (one row of a register table). -/
structure Field where
  reg : Reg
  lo : Nat
  width : Nat
  deriving DecidableEq, Repr

/-- The field `n` bits higher, for the indexed rows of a table (BUS_STAT, TMR_CCFG, SEC_ROLE, …). -/
def Field.up (f : Field) (n : Nat) : Field := ⟨f.reg, f.lo + n, f.width⟩

namespace F

/-! ### 01_architecture.md -/
abbrev GLB_ID_STEPPING : Field := ⟨.GLB_ID, 0, 8⟩
abbrev GLB_ID_PART : Field := ⟨.GLB_ID, 8, 16⟩
abbrev GLB_ID_VENDOR : Field := ⟨.GLB_ID, 24, 8⟩
abbrev GLB_CLK_CFG_SLOW_SRC : Field := ⟨.GLB_CLK_CFG, 0, 2⟩
abbrev GLB_CLK_CFG_BAY_AUTOGATE : Field := ⟨.GLB_CLK_CFG, 8, 1⟩
abbrev GLB_CLK_CFG_PLL_RELOCK_AUTO : Field := ⟨.GLB_CLK_CFG, 12, 1⟩
abbrev GLB_CLK_STAT_PLL_LOCK : Field := ⟨.GLB_CLK_STAT, 0, 1⟩
abbrev GLB_CLK_STAT_SLOW_ON_XTAL : Field := ⟨.GLB_CLK_STAT, 1, 1⟩
abbrev GLB_CLK_STAT_XTAL_FAIL : Field := ⟨.GLB_CLK_STAT, 2, 1⟩
abbrev GLB_CLK_STAT_XIN_LOST : Field := ⟨.GLB_CLK_STAT, 3, 1⟩
abbrev GLB_CLK_STAT_PLL_UNLOCKED : Field := ⟨.GLB_CLK_STAT, 4, 1⟩
abbrev GLB_CLK_STAT_BAY_GATED : Field := ⟨.GLB_CLK_STAT, 16, 12⟩

/-! ### 02_heddle_mapping.md -/
abbrev BAY_HEDDLE_LO_PH0_7 : Field := ⟨.BAY_HEDDLE_LO, 0, 32⟩
abbrev BAY_HEDDLE_HI_PH8_15 : Field := ⟨.BAY_HEDDLE_HI, 0, 32⟩
abbrev BAY_LANE_SEG_SEG0 : Field := ⟨.BAY_LANE_SEG, 0, 2⟩
abbrev BAY_LANE_SEG_SEG1 : Field := ⟨.BAY_LANE_SEG, 2, 2⟩
abbrev BAY_LANE_SEG_SEG2 : Field := ⟨.BAY_LANE_SEG, 4, 2⟩
abbrev BAY_LANE_SEG_SEG3 : Field := ⟨.BAY_LANE_SEG, 6, 2⟩
abbrev BAY_HEDDLE_CMT_COMMIT : Field := ⟨.BAY_HEDDLE_CMT, 0, 1⟩
abbrev BAY_HEDDLE_STAT_BUSY : Field := ⟨.BAY_HEDDLE_STAT, 0, 1⟩
abbrev BAY_HEDDLE_STAT_REFUSED : Field := ⟨.BAY_HEDDLE_STAT, 1, 1⟩
abbrev BAY_HEDDLE_STAT_ERR : Field := ⟨.BAY_HEDDLE_STAT, 4, 4⟩
abbrev BAY_HEDDLE_STAT_ERR_PHASE : Field := ⟨.BAY_HEDDLE_STAT, 8, 4⟩
abbrev BAY_HEDDLE_STAT_ERR_SLOT : Field := ⟨.BAY_HEDDLE_STAT, 12, 2⟩
abbrev BAY_HEDDLE_STAT_ACT_SEG : Field := ⟨.BAY_HEDDLE_STAT, 16, 8⟩
abbrev BAY_HEDDLE_STAT_SLOT_CFG : Field := ⟨.BAY_HEDDLE_STAT, 24, 4⟩
abbrev BAY_HEDDLE_ACT_LO_PH0_7 : Field := ⟨.BAY_HEDDLE_ACT_LO, 0, 32⟩
abbrev BAY_HEDDLE_ACT_HI_PH8_15 : Field := ⟨.BAY_HEDDLE_ACT_HI, 0, 32⟩
abbrev BAY_PHASE_SVC_DRIVEN : Field := ⟨.BAY_PHASE_SVC, 0, 16⟩
abbrev BAY_PHASE_SVC_QUAR : Field := ⟨.BAY_PHASE_SVC, 16, 16⟩

/-! ### 03_phase_sensing.md -/
abbrev PH_SAMP_POS0 : Field := ⟨.PH_SAMP, 0, 8⟩
abbrev PH_SAMP_POS1 : Field := ⟨.PH_SAMP, 8, 8⟩
abbrev PH_SAMP_POS2 : Field := ⟨.PH_SAMP, 16, 8⟩
abbrev PH_SAMP_POS3 : Field := ⟨.PH_SAMP, 24, 8⟩
abbrev PH_OCTHR_OCH_THR : Field := ⟨.PH_OCTHR, 0, 10⟩
abbrev PH_OCTHR_OCL_THR : Field := ⟨.PH_OCTHR, 16, 10⟩
abbrev PH_OCTHR_OCH_LIVE : Field := ⟨.PH_OCTHR, 30, 1⟩
abbrev PH_OCTHR_OCL_LIVE : Field := ⟨.PH_OCTHR, 31, 1⟩
abbrev PH_ISNCAL_OFS : Field := ⟨.PH_ISNCAL, 0, 8⟩
abbrev PH_ISNCAL_GAIN : Field := ⟨.PH_ISNCAL, 16, 16⟩
abbrev BAY_ISN_OFS_OFS : Field := ⟨.BAY_ISN_OFS, 0, 12⟩
abbrev BAY_ISN_SCALE_SCALE : Field := ⟨.BAY_ISN_SCALE, 0, 24⟩
abbrev BAY_WATCH_WATCH_THR : Field := ⟨.BAY_WATCH, 0, 16⟩
abbrev BAY_WATCH_WATCH_SETTLE : Field := ⟨.BAY_WATCH, 16, 4⟩
abbrev BAY_XCHK_ABS : Field := ⟨.BAY_XCHK, 0, 16⟩
abbrev BAY_XCHK_REL : Field := ⟨.BAY_XCHK, 16, 8⟩
abbrev BAY_XCHK_COUNT : Field := ⟨.BAY_XCHK, 24, 4⟩
abbrev BAY_XCHK_TRIP : Field := ⟨.BAY_XCHK, 30, 1⟩
abbrev BAY_XCHK_EN : Field := ⟨.BAY_XCHK, 31, 1⟩
abbrev BAY_RB_CTL_SEL : Field := ⟨.BAY_RB_CTL, 0, 8⟩
abbrev BAY_RB_CTL_GO : Field := ⟨.BAY_RB_CTL, 8, 1⟩
abbrev BAY_RB_CTL_AUTO : Field := ⟨.BAY_RB_CTL, 16, 1⟩
abbrev BAY_RB_STAT_CODE : Field := ⟨.BAY_RB_STAT, 0, 12⟩
abbrev BAY_RB_STAT_SEL : Field := ⟨.BAY_RB_STAT, 16, 8⟩
abbrev BAY_RB_STAT_PENDING : Field := ⟨.BAY_RB_STAT, 28, 1⟩
abbrev BAY_RB_STAT_DONE : Field := ⟨.BAY_RB_STAT, 29, 1⟩
abbrev BAY_RB_STAT_MISMATCH : Field := ⟨.BAY_RB_STAT, 30, 1⟩
abbrev BAY_ISREF_STAT_CODE : Field := ⟨.BAY_ISREF_STAT, 0, 12⟩
abbrev BAY_ISREF_STAT_ISREF_BAD : Field := ⟨.BAY_ISREF_STAT, 16, 1⟩
abbrev BAY_ISREF_STAT_ISREF_EVT : Field := ⟨.BAY_ISREF_STAT, 17, 1⟩
abbrev LN_CMPTHR_BOV_THR : Field := ⟨.LN_CMPTHR, 0, 10⟩
abbrev LN_CMPTHR_SHC_THR : Field := ⟨.LN_CMPTHR, 16, 10⟩
abbrev LN_CMPTHR_BOV_LIVE : Field := ⟨.LN_CMPTHR, 30, 1⟩
abbrev LN_CMPTHR_SHC_LIVE : Field := ⟨.LN_CMPTHR, 31, 1⟩
abbrev LN_SNS_STAT_XDIFF : Field := ⟨.LN_SNS_STAT, 0, 16⟩
abbrev LN_SNS_STAT_XMIS : Field := ⟨.LN_SNS_STAT, 16, 1⟩
abbrev LN_SNS_STAT_XMIS_EVT : Field := ⟨.LN_SNS_STAT, 17, 1⟩
abbrev LN_SNS_STAT_TAP_V_SAT : Field := ⟨.LN_SNS_STAT, 18, 1⟩
abbrev LN_SNS_STAT_TAP_I_SAT : Field := ⟨.LN_SNS_STAT, 19, 1⟩
abbrev BUS_CMPTHR_BUSOV_THR : Field := ⟨.BUS_CMPTHR, 0, 10⟩
abbrev BUS_CMPTHR_BUSUV_THR : Field := ⟨.BUS_CMPTHR, 16, 10⟩
abbrev BUS_CMPTHR_BUSOV_LIVE : Field := ⟨.BUS_CMPTHR, 30, 1⟩
abbrev BUS_CMPTHR_BUSUV_LIVE : Field := ⟨.BUS_CMPTHR, 31, 1⟩
abbrev BUS_VSCALE_SCALE : Field := ⟨.BUS_VSCALE, 0, 24⟩
abbrev BUS_VSCALE_SAR_SAT : Field := ⟨.BUS_VSCALE, 31, 1⟩

/-! ### 04_control_loops.md -/
abbrev PH_LOOP_LRATIO : Field := ⟨.PH_LOOP, 0, 16⟩
abbrev PH_LOOP_SHARE_TRIM : Field := ⟨.PH_LOOP, 16, 8⟩
abbrev PH_LOOP_DSAT : Field := ⟨.PH_LOOP, 31, 1⟩
abbrev BAY_DLIM_TON_MIN : Field := ⟨.BAY_DLIM, 0, 8⟩
abbrev BAY_DLIM_TOFF_MIN : Field := ⟨.BAY_DLIM, 8, 8⟩
abbrev LN_LOOP_CFG_RATE_DIV : Field := ⟨.LN_LOOP_CFG, 0, 4⟩
abbrev LN_LOOP_CFG_FF_EN : Field := ⟨.LN_LOOP_CFG, 4, 1⟩
abbrev LN_LOOP_CFG_LIM_EVT : Field := ⟨.LN_LOOP_CFG, 8, 7⟩
abbrev LN_LOOP_CFG_DMAX : Field := ⟨.LN_LOOP_CFG, 16, 16⟩
abbrev LN_IPH_IPH_MAX : Field := ⟨.LN_IPH, 0, 16⟩
abbrev LN_IPH_T_START : Field := ⟨.LN_IPH, 16, 8⟩
abbrev LN_IPH_T_STOP : Field := ⟨.LN_IPH, 24, 8⟩
abbrev LN_COEF_SEL_INDEX : Field := ⟨.LN_COEF_SEL, 0, 4⟩
abbrev LN_COEF_SEL_SET : Field := ⟨.LN_COEF_SEL, 4, 2⟩
abbrev LN_COEF_SEL_COMMIT : Field := ⟨.LN_COEF_SEL, 8, 1⟩
abbrev LN_COEF_SEL_PENDING : Field := ⟨.LN_COEF_SEL, 16, 1⟩
abbrev LN_COEF_SEL_REFUSED : Field := ⟨.LN_COEF_SEL, 17, 1⟩
abbrev LN_COEF_DATA_DATA : Field := ⟨.LN_COEF_DATA, 0, 24⟩
abbrev LN_LOOP_STAT_IREF : Field := ⟨.LN_LOOP_STAT, 0, 24⟩
abbrev LN_LOOP_STAT_WIN : Field := ⟨.LN_LOOP_STAT, 24, 3⟩
abbrev LN_LOOP_STAT_CONFLICT : Field := ⟨.LN_LOOP_STAT, 27, 1⟩
abbrev LN_LOOP_STAT_HEADROOM : Field := ⟨.LN_LOOP_STAT, 28, 1⟩
abbrev LN_LOOP_STAT_TAKEOVER_EVT : Field := ⟨.LN_LOOP_STAT, 29, 1⟩
abbrev LN_LOOP_STAT_CONFLICT_EVT : Field := ⟨.LN_LOOP_STAT, 30, 1⟩
abbrev LN_LOOP_STAT_SAT_EVT : Field := ⟨.LN_LOOP_STAT, 31, 1⟩
abbrev BUS_WIN_HI_VMAX : Field := ⟨.BUS_WIN_HI, 0, 24⟩
abbrev BUS_WIN_HI_WIN_EN : Field := ⟨.BUS_WIN_HI, 31, 1⟩
abbrev BUS_WIN_LO_VMIN : Field := ⟨.BUS_WIN_LO, 0, 24⟩
abbrev BUS_COEF_SEL_INDEX : Field := ⟨.BUS_COEF_SEL, 0, 4⟩
abbrev BUS_COEF_SEL_SEG : Field := ⟨.BUS_COEF_SEL, 4, 2⟩
abbrev BUS_COEF_SEL_COMMIT : Field := ⟨.BUS_COEF_SEL, 8, 1⟩
abbrev BUS_COEF_SEL_PENDING : Field := ⟨.BUS_COEF_SEL, 16, 1⟩
abbrev BUS_COEF_DATA_DATA : Field := ⟨.BUS_COEF_DATA, 0, 24⟩
abbrev BUS_LOOP_STAT_ISEG : Field := ⟨.BUS_LOOP_STAT, 0, 24⟩
abbrev BUS_LOOP_STAT_CAP_LIM : Field := ⟨.BUS_LOOP_STAT, 28, 1⟩
abbrev BUS_LOOP_STAT_CAP_EVT : Field := ⟨.BUS_LOOP_STAT, 29, 1⟩

/-! ### 05_shuttle.md -/
abbrev BAY_SHTL_CFG_THR : Field := ⟨.BAY_SHTL_CFG, 0, 16⟩
abbrev BAY_SHTL_CFG_OVS : Field := ⟨.BAY_SHTL_CFG, 16, 8⟩
abbrev BAY_SHTL_CFG_TMAX : Field := ⟨.BAY_SHTL_CFG, 24, 7⟩
abbrev BAY_SHTL_CFG_EN : Field := ⟨.BAY_SHTL_CFG, 31, 1⟩
abbrev BAY_SHTL_STAT_SLOT : Field := ⟨.BAY_SHTL_STAT, 0, 2⟩
abbrev BAY_SHTL_STAT_ACTIVE : Field := ⟨.BAY_SHTL_STAT, 2, 1⟩
abbrev BAY_SHTL_STAT_BUSY_CNT : Field := ⟨.BAY_SHTL_STAT, 8, 8⟩
abbrev BAY_SHTL_STAT_CNT_CLR : Field := ⟨.BAY_SHTL_STAT, 16, 1⟩
abbrev BAY_SHTL_STAT_ABORT_EVT : Field := ⟨.BAY_SHTL_STAT, 17, 1⟩
abbrev BAY_SHTL_STAT_LIMIT_EVT : Field := ⟨.BAY_SHTL_STAT, 18, 1⟩
abbrev BAY_SHTL_STAT_OVER_EVT : Field := ⟨.BAY_SHTL_STAT, 19, 1⟩
abbrev LN_SHTL_CFG_LNOM : Field := ⟨.LN_SHTL_CFG, 0, 16⟩
abbrev LN_SHTL_CFG_RPATH : Field := ⟨.LN_SHTL_CFG, 16, 16⟩
abbrev LN_SHTL_STAT_TC : Field := ⟨.LN_SHTL_STAT, 0, 16⟩
abbrev LN_SHTL_STAT_TB : Field := ⟨.LN_SHTL_STAT, 16, 16⟩

/-! ### 06_pwm.md -/
abbrev GLB_PWM_PER_PERIOD : Field := ⟨.GLB_PWM_PER, 0, 13⟩
abbrev GLB_PWM_PER_PER_REFUSED : Field := ⟨.GLB_PWM_PER, 16, 1⟩
abbrev GLB_PWM_SS_FREQ : Field := ⟨.GLB_PWM_SS, 0, 14⟩
abbrev GLB_PWM_SS_DEPTH : Field := ⟨.GLB_PWM_SS, 16, 4⟩
abbrev GLB_PWM_SS_EN : Field := ⟨.GLB_PWM_SS, 24, 1⟩
abbrev GLB_PWM_SS_ACTIVE : Field := ⟨.GLB_PWM_SS, 25, 1⟩
abbrev GLB_PWM_STAT_TCUR : Field := ⟨.GLB_PWM_STAT, 0, 13⟩
abbrev GLB_PWM_STAT_FREEZE : Field := ⟨.GLB_PWM_STAT, 16, 1⟩
abbrev GLB_TRIP_TRIP : Field := ⟨.GLB_TRIP, 0, 1⟩
abbrev GLB_TRIP_CLEAR_REFUSED : Field := ⟨.GLB_TRIP, 1, 1⟩
abbrev GLB_TRIP_FIN_SRC : Field := ⟨.GLB_TRIP, 8, 4⟩
abbrev GLB_TRIP_SAFE_SRC : Field := ⟨.GLB_TRIP, 12, 1⟩
abbrev GLB_TRIP_PFI_SRC : Field := ⟨.GLB_TRIP, 13, 1⟩
abbrev GLB_TRIP_CLK_SRC : Field := ⟨.GLB_TRIP, 14, 1⟩
abbrev GLB_TRIP_RTR_SRC : Field := ⟨.GLB_TRIP, 15, 1⟩
abbrev GLB_TRIP_FIN_LIVE : Field := ⟨.GLB_TRIP, 16, 4⟩
abbrev GLB_TRIP_SAFE_LIVE : Field := ⟨.GLB_TRIP, 20, 1⟩
abbrev GLB_TRIP_CFG_FIN_EN : Field := ⟨.GLB_TRIP_CFG, 0, 4⟩
abbrev BAY_PWM_CTL_PWM_EN : Field := ⟨.BAY_PWM_CTL, 0, 1⟩
abbrev BAY_PWM_CTL_UNLOCK : Field := ⟨.BAY_PWM_CTL, 8, 8⟩
abbrev BAY_PWM_CTL_UNLOCKED : Field := ⟨.BAY_PWM_CTL, 16, 1⟩
abbrev BAY_PWM_CTL_SAFE_REFUSED : Field := ⟨.BAY_PWM_CTL, 17, 1⟩
abbrev BAY_DT_DT_LH : Field := ⟨.BAY_DT, 0, 12⟩
abbrev BAY_DT_DT_HL : Field := ⟨.BAY_DT, 16, 12⟩
abbrev BAY_SAFE_LEVELS : Field := ⟨.BAY_SAFE, 0, 32⟩
abbrev BAY_PH_TRIP_TRIP : Field := ⟨.BAY_PH_TRIP, 0, 16⟩
abbrev BAY_PH_TRIP_CLEAR_REFUSED : Field := ⟨.BAY_PH_TRIP, 16, 1⟩
abbrev BAY_DL_STAT_TRIM : Field := ⟨.BAY_DL_STAT, 0, 8⟩
abbrev BAY_DL_STAT_ERR : Field := ⟨.BAY_DL_STAT, 8, 8⟩
abbrev BAY_DL_STAT_DL_LOCK : Field := ⟨.BAY_DL_STAT, 16, 1⟩
abbrev BAY_DL_STAT_DL_FAULT : Field := ⟨.BAY_DL_STAT, 17, 1⟩
abbrev BAY_DL_STAT_DL_FAULT_EVT : Field := ⟨.BAY_DL_STAT, 18, 1⟩
abbrev LN_TRIP_TRIP : Field := ⟨.LN_TRIP, 0, 1⟩
abbrev LN_TRIP_CLEAR_REFUSED : Field := ⟨.LN_TRIP, 1, 1⟩
abbrev LN_TRIP_LFLT_LIVE : Field := ⟨.LN_TRIP, 2, 1⟩
abbrev LN_TRIP_LFLT_SRC : Field := ⟨.LN_TRIP, 3, 1⟩
abbrev LN_TRIP_RTR_SRC : Field := ⟨.LN_TRIP, 4, 1⟩
abbrev LN_TRIP_BAY_SRC : Field := ⟨.LN_TRIP, 5, 1⟩

/-! ### 07_reed.md -/
abbrev REED_CFG_PLAN_EN : Field := ⟨.REED_CFG, 0, 4⟩
abbrev REED_CFG_PLAN : Field := ⟨.REED_CFG, 4, 4⟩
abbrev REED_CFG_GSHIFT : Field := ⟨.REED_CFG, 8, 4⟩
abbrev REED_CFG_REPLAN : Field := ⟨.REED_CFG, 16, 8⟩
abbrev REED_CFG_HYST : Field := ⟨.REED_CFG, 24, 8⟩
abbrev REED_STAT_PENDING : Field := ⟨.REED_STAT, 0, 4⟩
abbrev REED_STAT_BUSY : Field := ⟨.REED_STAT, 4, 1⟩
abbrev REED_STAT_CUR_SEG : Field := ⟨.REED_STAT, 5, 2⟩
abbrev REED_STAT_GLIDING : Field := ⟨.REED_STAT, 8, 4⟩
abbrev REED_STAT_RIP_EVT : Field := ⟨.REED_STAT, 16, 4⟩
abbrev REED_OFS_PSEL : Field := ⟨.REED_OFS, 0, 8⟩
abbrev REED_OFS_OFS : Field := ⟨.REED_OFS, 8, 13⟩
abbrev REED_OFS_GLIDE : Field := ⟨.REED_OFS, 21, 1⟩
abbrev REED_RIP_PLAN : Field := ⟨.REED_RIP, 0, 16⟩
abbrev REED_RIP_LIM : Field := ⟨.REED_RIP, 16, 16⟩
abbrev LN_REED_BASE : Field := ⟨.LN_REED, 0, 6⟩
abbrev LN_REED_PIN_EN : Field := ⟨.LN_REED, 8, 1⟩
abbrev LN_REED_PIN_BASE : Field := ⟨.LN_REED, 16, 6⟩
abbrev LN_REED_GLIDING : Field := ⟨.LN_REED, 24, 1⟩

/-! ### 08_warping.md -/
abbrev PH_WARP_LSURV : Field := ⟨.PH_WARP, 0, 16⟩
abbrev PH_WARP_LTRACK : Field := ⟨.PH_WARP, 16, 16⟩
abbrev BAY_WARP_CFG_PULSE_I : Field := ⟨.BAY_WARP_CFG, 0, 8⟩
abbrev BAY_WARP_CFG_PULSES : Field := ⟨.BAY_WARP_CFG, 8, 3⟩
abbrev BAY_WARP_CFG_TRACK_EN : Field := ⟨.BAY_WARP_CFG, 11, 1⟩
abbrev BAY_WARP_CFG_RHO : Field := ⟨.BAY_WARP_CFG, 12, 12⟩
abbrev BAY_WARP_CFG_XO_DIV : Field := ⟨.BAY_WARP_CFG, 24, 4⟩
abbrev BAY_WARP_CFG_PM : Field := ⟨.BAY_WARP_CFG, 28, 4⟩
abbrev LN_WARP_CFG_TEST_I : Field := ⟨.LN_WARP_CFG, 0, 8⟩
abbrev LN_WARP_CFG_T_HOLD : Field := ⟨.LN_WARP_CFG, 8, 7⟩
abbrev LN_WARP_CFG_IDX : Field := ⟨.LN_WARP_CFG, 16, 4⟩
abbrev LN_WARP_DATA_DATA : Field := ⟨.LN_WARP_DATA, 0, 24⟩
abbrev LN_WARP_DATA_NM : Field := ⟨.LN_WARP_DATA, 31, 1⟩
abbrev LN_WARP_STAT_VALID : Field := ⟨.LN_WARP_STAT, 0, 1⟩
abbrev LN_WARP_STAT_RUNNING : Field := ⟨.LN_WARP_STAT, 1, 1⟩
abbrev LN_WARP_STAT_LOADED : Field := ⟨.LN_WARP_STAT, 2, 1⟩
abbrev LN_WARP_STAT_SUSP : Field := ⟨.LN_WARP_STAT, 3, 1⟩
abbrev LN_WARP_STAT_STEP : Field := ⟨.LN_WARP_STAT, 4, 3⟩
abbrev LN_WARP_STAT_RESULT : Field := ⟨.LN_WARP_STAT, 8, 4⟩
abbrev LN_WARP_STAT_FAIL_PH : Field := ⟨.LN_WARP_STAT, 12, 4⟩
abbrev LN_WARP_STAT_FROZEN : Field := ⟨.LN_WARP_STAT, 16, 16⟩

/-! ### 09_lane_states.md -/
abbrev LN_CTL_FALLBACK : Field := ⟨.LN_CTL, 0, 2⟩
abbrev LN_CTL_PTRIP_ACT : Field := ⟨.LN_CTL, 2, 2⟩
abbrev LN_CTL_AUTO_ENTRY : Field := ⟨.LN_CTL, 4, 1⟩
abbrev LN_CTL_POLICY_EN : Field := ⟨.LN_CTL, 5, 1⟩
abbrev LN_CTL_SS_STEP : Field := ⟨.LN_CTL, 8, 8⟩
abbrev LN_CTL_SHED_DW : Field := ⟨.LN_CTL, 16, 4⟩
abbrev LN_CTL_ADD_DW : Field := ⟨.LN_CTL, 20, 4⟩
abbrev LN_CTL_PARK_DW : Field := ⟨.LN_CTL, 24, 4⟩
abbrev LN_STATE_STATE : Field := ⟨.LN_STATE, 0, 4⟩
abbrev LN_STATE_PREV : Field := ⟨.LN_STATE, 4, 4⟩
abbrev LN_STATE_N : Field := ⟨.LN_STATE, 8, 5⟩
abbrev LN_STATE_NFULL : Field := ⟨.LN_STATE, 16, 5⟩
abbrev LN_STATE_PARKING : Field := ⟨.LN_STATE, 21, 1⟩
abbrev LN_STATE_PARK_SRC : Field := ⟨.LN_STATE, 22, 1⟩
abbrev LN_STATE_CONTRACT : Field := ⟨.LN_STATE, 23, 1⟩
abbrev LN_STATE_PRESTART : Field := ⟨.LN_STATE, 24, 1⟩
abbrev LN_STATE_TOKEN_WAIT : Field := ⟨.LN_STATE, 25, 1⟩
abbrev LN_STATE_FB_ACTIVE : Field := ⟨.LN_STATE, 26, 1⟩
abbrev LN_STATE_SUP_HOLD : Field := ⟨.LN_STATE, 27, 1⟩
abbrev LN_STATE_FCAUSE : Field := ⟨.LN_STATE, 28, 3⟩
abbrev LN_POLICY_LAT : Field := ⟨.LN_POLICY, 0, 24⟩
abbrev LN_LOSS_PSW : Field := ⟨.LN_LOSS, 0, 10⟩
abbrev LN_LOSS_RPH : Field := ⟨.LN_LOSS, 10, 10⟩
abbrev LN_LOSS_HYST : Field := ⟨.LN_LOSS, 20, 6⟩
abbrev LN_LOSS_PK_SAVE : Field := ⟨.LN_LOSS, 26, 6⟩
abbrev LN_PULSE_PULSE_MAX : Field := ⟨.LN_PULSE, 0, 8⟩
abbrev LN_PULSE_PULSE_I : Field := ⟨.LN_PULSE, 8, 8⟩
abbrev LN_PULSE_BURST_ON : Field := ⟨.LN_PULSE, 16, 4⟩
abbrev LN_PULSE_HOLD_I : Field := ⟨.LN_PULSE, 20, 8⟩
abbrev GLB_START_START_GAP : Field := ⟨.GLB_START, 0, 13⟩
abbrev GLB_START_QLEN : Field := ⟨.GLB_START, 16, 6⟩
abbrev GLB_START_LAST : Field := ⟨.GLB_START, 24, 6⟩

/-! ### 10_bus_segments_treadle.md -/
abbrev BUS_STAT_MODE0 : Field := ⟨.BUS_STAT, 0, 1⟩
abbrev BUS_STAT_MODE1 : Field := ⟨.BUS_STAT, 8, 1⟩
abbrev BUS_STAT_MODE2 : Field := ⟨.BUS_STAT, 16, 1⟩
abbrev BUS_STAT_MODE3 : Field := ⟨.BUS_STAT, 24, 1⟩
abbrev BUS_STAT_POLICY0 : Field := ⟨.BUS_STAT, 1, 2⟩
abbrev BUS_STAT_POLICY1 : Field := ⟨.BUS_STAT, 9, 2⟩
abbrev BUS_STAT_POLICY2 : Field := ⟨.BUS_STAT, 17, 2⟩
abbrev BUS_STAT_POLICY3 : Field := ⟨.BUS_STAT, 25, 2⟩
abbrev BUS_STAT_HOLDER0 : Field := ⟨.BUS_STAT, 3, 2⟩
abbrev BUS_STAT_HOLDER1 : Field := ⟨.BUS_STAT, 11, 2⟩
abbrev BUS_STAT_HOLDER2 : Field := ⟨.BUS_STAT, 19, 2⟩
abbrev BUS_STAT_HOLDER3 : Field := ⟨.BUS_STAT, 27, 2⟩
abbrev BUS_SOC_SOC_GAIN : Field := ⟨.BUS_SOC, 0, 8⟩
abbrev BUS_SOC_JUMP : Field := ⟨.BUS_SOC, 8, 8⟩
abbrev BUS_SOC_QTOL : Field := ⟨.BUS_SOC, 16, 8⟩
abbrev BUS_SOC_QSTALL : Field := ⟨.BUS_SOC, 24, 8⟩
abbrev BUS_SOC_LO_SUSPECT : Field := ⟨.BUS_SOC_LO, 0, 32⟩
abbrev BUS_SOC_HI_SUSPECT : Field := ⟨.BUS_SOC_HI, 0, 16⟩
abbrev BUS_TGT_SEL : Field := ⟨.BUS_TGT, 0, 2⟩
abbrev BUS_TGT_VTGT : Field := ⟨.BUS_TGT, 8, 24⟩
abbrev TRD_CFG_SEG_EN : Field := ⟨.TRD_CFG, 0, 4⟩
abbrev TRD_CFG_PORT_EN : Field := ⟨.TRD_CFG, 4, 1⟩
abbrev TRD_CFG_ALT_EN : Field := ⟨.TRD_CFG, 8, 5⟩
abbrev TRD_CFG_CNT_CLR : Field := ⟨.TRD_CFG, 31, 1⟩
abbrev TRD_STAT_HOLD : Field := ⟨.TRD_STAT, 0, 4⟩
abbrev TRD_STAT_ALERT : Field := ⟨.TRD_STAT, 4, 4⟩
abbrev TRD_STAT_ALT_LIVE : Field := ⟨.TRD_STAT, 8, 1⟩
abbrev TRD_STAT_IN_FRAME : Field := ⟨.TRD_STAT, 9, 1⟩
abbrev TRD_STAT_ABORT_EVT : Field := ⟨.TRD_STAT, 16, 1⟩
abbrev TRD_STAT_PARITY_EVT : Field := ⟨.TRD_STAT, 17, 1⟩
abbrev TRD_STAT_REFUSE_EVT : Field := ⟨.TRD_STAT, 18, 1⟩
abbrev TRD_CNT_OK_CNT : Field := ⟨.TRD_CNT, 0, 16⟩
abbrev TRD_CNT_ABORTS : Field := ⟨.TRD_CNT, 16, 8⟩
abbrev TRD_CNT_PAR_CNT : Field := ⟨.TRD_CNT, 24, 8⟩
abbrev TRD_LAST_FRAME : Field := ⟨.TRD_LAST, 0, 32⟩

/-! ### 11_module_link.md -/
abbrev LN_JML_KA_INT : Field := ⟨.LN_JML, 0, 8⟩
abbrev LN_JML_RSP_TMO : Field := ⟨.LN_JML, 8, 6⟩
abbrev LN_JML_AUX_PREF : Field := ⟨.LN_JML, 14, 2⟩
abbrev LN_JML_PU_EN : Field := ⟨.LN_JML, 16, 1⟩
abbrev LN_JML_SWAP_OK : Field := ⟨.LN_JML, 17, 1⟩
abbrev LN_JML_LSTATE : Field := ⟨.LN_JML, 18, 3⟩
abbrev LN_JML_ROLE : Field := ⟨.LN_JML, 21, 1⟩
abbrev LN_JML_HRST : Field := ⟨.LN_JML, 22, 2⟩
abbrev LN_JML_AUX_USE : Field := ⟨.LN_JML, 24, 2⟩
abbrev LN_JML_LATE : Field := ⟨.LN_JML, 26, 1⟩
abbrev LN_JML_ATTN : Field := ⟨.LN_JML, 27, 1⟩
abbrev LN_JML_CLASS : Field := ⟨.LN_JML, 28, 3⟩
abbrev LN_JML_VIOL_EVT : Field := ⟨.LN_JML, 31, 1⟩

/-! ### 12_metering.md -/
abbrev GLB_REF_REF_SEL : Field := ⟨.GLB_REF, 0, 2⟩
abbrev GLB_REF_REF_SETTLED : Field := ⟨.GLB_REF, 8, 1⟩
abbrev GLB_REF_REF_IN_WIN : Field := ⟨.GLB_REF, 9, 1⟩
abbrev GLB_REF_REF_LOST_EVT : Field := ⟨.GLB_REF, 10, 1⟩
abbrev GLB_REF_REF_REFUSED : Field := ⟨.GLB_REF, 11, 1⟩
abbrev MTR_CFG_MODE : Field := ⟨.MTR_CFG, 0, 2⟩
abbrev MTR_CFG_AUTO_START : Field := ⟨.MTR_CFG, 4, 1⟩
abbrev MTR_CFG_REC_EN : Field := ⟨.MTR_CFG, 5, 1⟩
abbrev MTR_CFG_LOG_WIN : Field := ⟨.MTR_CFG, 8, 1⟩
abbrev MTR_CFG_WIN_EN : Field := ⟨.MTR_CFG, 12, 3⟩
abbrev MTR_CFG_REARM : Field := ⟨.MTR_CFG, 16, 8⟩
abbrev MTR_FILT_ORDER : Field := ⟨.MTR_FILT, 0, 2⟩
abbrev MTR_FILT_NOTCH : Field := ⟨.MTR_FILT, 2, 1⟩
abbrev MTR_FILT_K : Field := ⟨.MTR_FILT, 8, 7⟩
abbrev MTR_FILT_OSR : Field := ⟨.MTR_FILT, 16, 13⟩
abbrev MTR_SEL_IDX : Field := ⟨.MTR_SEL, 0, 4⟩
abbrev MTR_DATA_DATA : Field := ⟨.MTR_DATA, 0, 24⟩
abbrev MTR_STAT_MODE_NOW : Field := ⟨.MTR_STAT, 0, 2⟩
abbrev MTR_STAT_OVR_V : Field := ⟨.MTR_STAT, 2, 1⟩
abbrev MTR_STAT_OVR_I : Field := ⟨.MTR_STAT, 3, 1⟩
abbrev MTR_STAT_OVR_EVT : Field := ⟨.MTR_STAT, 4, 1⟩
abbrev MTR_STAT_CLIP_EVT : Field := ⟨.MTR_STAT, 5, 1⟩
abbrev MTR_STAT_UNMET : Field := ⟨.MTR_STAT, 6, 1⟩
abbrev MTR_STAT_ACCT : Field := ⟨.MTR_STAT, 7, 1⟩
abbrev MTR_STAT_WIN_OUT : Field := ⟨.MTR_STAT, 8, 6⟩
abbrev MTR_STAT_WIN_EVT : Field := ⟨.MTR_STAT, 14, 1⟩
abbrev MTR_STAT_CAL_BUSY : Field := ⟨.MTR_STAT, 15, 1⟩
abbrev MTR_STAT_CAL_EVT : Field := ⟨.MTR_STAT, 16, 1⟩
abbrev MTR_TAP_OSR_OUT : Field := ⟨.MTR_TAP, 0, 13⟩
abbrev MTR_TAP_ORDER_OUT : Field := ⟨.MTR_TAP, 13, 2⟩
abbrev MTR_TAP_OSR_N : Field := ⟨.MTR_TAP, 16, 13⟩

/-! ### 13_tally_nvm.md -/
abbrev NVM_CFG_CKPT : Field := ⟨.NVM_CFG, 0, 6⟩
abbrev NVM_CFG_SCRUB_EN : Field := ⟨.NVM_CFG, 8, 1⟩
abbrev NVM_CTL_CKPT_NOW : Field := ⟨.NVM_CTL, 0, 1⟩
abbrev NVM_CTL_CNT_CLR : Field := ⟨.NVM_CTL, 1, 1⟩
abbrev NVM_STAT_RECOVERED : Field := ⟨.NVM_STAT, 0, 1⟩
abbrev NVM_STAT_PLOADED : Field := ⟨.NVM_STAT, 1, 1⟩
abbrev NVM_STAT_SAVING : Field := ⟨.NVM_STAT, 2, 1⟩
abbrev NVM_STAT_COMMIT : Field := ⟨.NVM_STAT, 3, 1⟩
abbrev NVM_STAT_RESOLVE : Field := ⟨.NVM_STAT, 4, 1⟩
abbrev NVM_STAT_ERASE_PEND : Field := ⟨.NVM_STAT, 8, 9⟩
abbrev NVM_STAT_BANK_BUSY : Field := ⟨.NVM_STAT, 20, 4⟩
abbrev NVM_STAT_FLUSHED : Field := ⟨.NVM_STAT, 24, 1⟩
abbrev NVM_STAT_NVM_FAIL : Field := ⟨.NVM_STAT, 25, 1⟩
abbrev NVM_EVT_TORN_EVT : Field := ⟨.NVM_EVT, 0, 1⟩
abbrev NVM_EVT_ECC_C_EVT : Field := ⟨.NVM_EVT, 1, 1⟩
abbrev NVM_EVT_ECC_U_EVT : Field := ⟨.NVM_EVT, 2, 1⟩
abbrev NVM_EVT_DISP_EVT : Field := ⟨.NVM_EVT, 3, 1⟩
abbrev NVM_EVT_UNMET_EVT : Field := ⟨.NVM_EVT, 4, 1⟩
abbrev NVM_EVT_OPFAIL_EVT : Field := ⟨.NVM_EVT, 5, 1⟩
abbrev NVM_EVT_COMMIT_EVT : Field := ⟨.NVM_EVT, 6, 1⟩
abbrev NVM_EVT_CFAIL_EVT : Field := ⟨.NVM_EVT, 7, 1⟩
abbrev NVM_PF_SAVED : Field := ⟨.NVM_PF, 0, 1⟩
abbrev NVM_PF_UM : Field := ⟨.NVM_PF, 1, 1⟩
abbrev NVM_PF_CKPT_CNT : Field := ⟨.NVM_PF, 16, 16⟩
abbrev NVM_UM_LO_START : Field := ⟨.NVM_UM_LO, 0, 32⟩
abbrev NVM_UM_HI_START_HI : Field := ⟨.NVM_UM_HI, 0, 8⟩
abbrev NVM_UM_HI_SPAN : Field := ⟨.NVM_UM_HI, 8, 16⟩
abbrev NVM_TSEL_ID : Field := ⟨.NVM_TSEL, 0, 9⟩
abbrev NVM_TVAL_LO_VAL : Field := ⟨.NVM_TVAL_LO, 0, 32⟩
abbrev NVM_TVAL_HI_VAL_HI : Field := ⟨.NVM_TVAL_HI, 0, 32⟩
abbrev NVM_TSTO_LO_STO : Field := ⟨.NVM_TSTO_LO, 0, 32⟩
abbrev NVM_TSTO_HI_STO_HI : Field := ⟨.NVM_TSTO_HI, 0, 32⟩
abbrev NVM_TINFO_SLOTS : Field := ⟨.NVM_TINFO, 0, 7⟩
abbrev NVM_TINFO_SECT : Field := ⟨.NVM_TINFO, 7, 1⟩
abbrev NVM_TINFO_STATE : Field := ⟨.NVM_TINFO, 8, 2⟩
abbrev NVM_TINFO_EPEND : Field := ⟨.NVM_TINFO, 10, 1⟩
abbrev NVM_TINFO_SAVE : Field := ⟨.NVM_TINFO, 11, 1⟩
abbrev NVM_TINFO_DIRTY : Field := ⟨.NVM_TINFO, 12, 1⟩
abbrev NVM_TSEQ_SEQ : Field := ⟨.NVM_TSEQ, 0, 32⟩
abbrev NVM_TALT_LO_ALT : Field := ⟨.NVM_TALT_LO, 0, 32⟩
abbrev NVM_TALT_HI_ALT_HI : Field := ⟨.NVM_TALT_HI, 0, 32⟩
abbrev NVM_DISP_COUNT : Field := ⟨.NVM_DISP, 0, 9⟩
abbrev NVM_DISP_FIRST : Field := ⟨.NVM_DISP, 16, 9⟩
abbrev NVM_PBANK_ACTIVE : Field := ⟨.NVM_PBANK, 0, 1⟩
abbrev NVM_PBANK_VALID0 : Field := ⟨.NVM_PBANK, 1, 1⟩
abbrev NVM_PBANK_VALID1 : Field := ⟨.NVM_PBANK, 2, 1⟩
abbrev NVM_PSEQ0_SEQ : Field := ⟨.NVM_PSEQ0, 0, 32⟩
abbrev NVM_PSEQ1_SEQ : Field := ⟨.NVM_PSEQ1, 0, 32⟩
abbrev NVM_PCNT_COUNT : Field := ⟨.NVM_PCNT, 0, 14⟩
abbrev NVM_PCNT_IGNORED : Field := ⟨.NVM_PCNT, 16, 14⟩
abbrev NVM_ECC_CORR : Field := ⟨.NVM_ECC, 0, 16⟩
abbrev NVM_ECC_UNCORR : Field := ⟨.NVM_ECC, 16, 16⟩
abbrev NVM_ELAST_OFS : Field := ⟨.NVM_ELAST, 0, 21⟩
abbrev NVM_ELAST_KIND : Field := ⟨.NVM_ELAST, 24, 3⟩
abbrev NVM_FOLDS_FOLDS : Field := ⟨.NVM_FOLDS, 0, 16⟩
abbrev NVM_FOLDS_ERASES : Field := ⟨.NVM_FOLDS, 16, 16⟩

/-! ### 14_selvedge.md -/
abbrev SLV_CFG_COAL : Field := ⟨.SLV_CFG, 0, 8⟩
abbrev SLV_CFG_FLUSH_MASK : Field := ⟨.SLV_CFG, 16, 16⟩
abbrev SLV_CTL_FLUSH_NOW : Field := ⟨.SLV_CTL, 0, 1⟩
abbrev SLV_CTL_CNT_CLR : Field := ⟨.SLV_CTL, 1, 1⟩
abbrev SLV_STAT_PEND : Field := ⟨.SLV_STAT, 0, 9⟩
abbrev SLV_STAT_OPEN : Field := ⟨.SLV_STAT, 9, 7⟩
abbrev SLV_STAT_FCOUNT : Field := ⟨.SLV_STAT, 16, 14⟩
abbrev SLV_STAT_FLUSHING : Field := ⟨.SLV_STAT, 30, 1⟩
abbrev SLV_STAT_ERASING : Field := ⟨.SLV_STAT, 31, 1⟩
abbrev SLV_EVT_DROP_EVT : Field := ⟨.SLV_EVT, 0, 1⟩
abbrev SLV_EVT_GAP_EVT : Field := ⟨.SLV_EVT, 1, 1⟩
abbrev SLV_EVT_LOST_EVT : Field := ⟨.SLV_EVT, 2, 1⟩
abbrev SLV_EVT_DROPS : Field := ⟨.SLV_EVT, 16, 16⟩
abbrev SLV_NEXT_NEXT : Field := ⟨.SLV_NEXT, 0, 32⟩
abbrev SLV_SNAP_SEL_N : Field := ⟨.SLV_SNAP_SEL, 0, 3⟩
abbrev SLV_SNAP_SEL_K : Field := ⟨.SLV_SNAP_SEL, 4, 4⟩
abbrev SLV_SNAP_ADDR_ADDR : Field := ⟨.SLV_SNAP_ADDR, 0, 32⟩
abbrev SLV_RSEL_SEQ : Field := ⟨.SLV_RSEL, 0, 32⟩
abbrev SLV_RDAT_WORD : Field := ⟨.SLV_RDAT, 0, 32⟩
abbrev SLV_CCNT_OPENED : Field := ⟨.SLV_CCNT, 0, 24⟩

/-! ### 15_faults_router.md -/
abbrev RTR_ROUTE_SIDX : Field := ⟨.RTR_ROUTE, 0, 8⟩
abbrev RTR_ROUTE_SRC : Field := ⟨.RTR_ROUTE, 8, 6⟩
abbrev RTR_ROUTE_TGT : Field := ⟨.RTR_ROUTE, 14, 2⟩
abbrev RTR_ROUTE_FOUT : Field := ⟨.RTR_ROUTE, 16, 1⟩
abbrev RTR_ROUTE_LOG : Field := ⟨.RTR_ROUTE, 17, 1⟩
abbrev RTR_ROUTE_IRQ : Field := ⟨.RTR_ROUTE, 18, 1⟩
abbrev RTR_ROUTE_TIO_EN : Field := ⟨.RTR_ROUTE, 19, 1⟩
abbrev RTR_ROUTE_TIO : Field := ⟨.RTR_ROUTE, 20, 3⟩
abbrev RTR_ROUTE_EN : Field := ⟨.RTR_ROUTE, 31, 1⟩
abbrev RTR_CTL_HIT_CLR : Field := ⟨.RTR_CTL, 0, 1⟩
abbrev RTR_FOUT_SEL : Field := ⟨.RTR_FOUT, 0, 5⟩
abbrev RTR_TIO_MODE : Field := ⟨.RTR_TIO, 0, 16⟩
abbrev RTR_TIO_CLAIMED : Field := ⟨.RTR_TIO, 16, 8⟩
abbrev RTR_IRQ_TEN : Field := ⟨.RTR_IRQ, 0, 8⟩
abbrev RTR_IRQ_OWNER : Field := ⟨.RTR_IRQ, 8, 1⟩
abbrev RTR_LIVE_LIVE : Field := ⟨.RTR_LIVE, 0, 32⟩
abbrev RTR_HIT_HIT : Field := ⟨.RTR_HIT, 0, 32⟩
abbrev RTR_ERR_ENTRY : Field := ⟨.RTR_ERR, 0, 7⟩
abbrev RTR_ERR_REASON : Field := ⟨.RTR_ERR, 8, 3⟩
abbrev RTR_ERR_ERR : Field := ⟨.RTR_ERR, 16, 1⟩
abbrev RTR_PROBE_SEL_SIDX : Field := ⟨.RTR_PROBE_SEL, 0, 8⟩
abbrev RTR_PROBE_SEL_SRC : Field := ⟨.RTR_PROBE_SEL, 8, 6⟩
abbrev RTR_PROBE_LEVEL : Field := ⟨.RTR_PROBE, 0, 1⟩
abbrev RTR_FOUT_STAT_FOUT_LIVE : Field := ⟨.RTR_FOUT_STAT, 0, 1⟩
abbrev RTR_FOUT_STAT_WHY : Field := ⟨.RTR_FOUT_STAT, 1, 6⟩
abbrev RTR_FOUT_STAT_ENTRY : Field := ⟨.RTR_FOUT_STAT, 8, 7⟩
abbrev GLB_PF_PFI_LIVE : Field := ⟨.GLB_PF, 0, 1⟩
abbrev GLB_PF_PF_STATE : Field := ⟨.GLB_PF, 1, 1⟩
abbrev GLB_PF_PF_RESTART : Field := ⟨.GLB_PF, 8, 1⟩
abbrev GLB_SUP_STAT_OUT : Field := ⟨.GLB_SUP_STAT, 0, 12⟩
abbrev GLB_SUP_STAT_KIND : Field := ⟨.GLB_SUP_STAT, 16, 4⟩
abbrev GLB_SUP_STAT_SUP_EVT : Field := ⟨.GLB_SUP_STAT, 31, 1⟩
abbrev GLB_SUP_RD_BSEL : Field := ⟨.GLB_SUP_RD, 0, 4⟩
abbrev GLB_SUP_RD_SUP : Field := ⟨.GLB_SUP_RD, 4, 2⟩
abbrev GLB_SUP_RD_MV : Field := ⟨.GLB_SUP_RD, 16, 12⟩
abbrev GLB_TEMP_CFG_TWARN : Field := ⟨.GLB_TEMP_CFG, 0, 8⟩
abbrev GLB_TEMP_CFG_TTRIP : Field := ⟨.GLB_TEMP_CFG, 8, 8⟩
abbrev GLB_TEMP_STAT_WARN : Field := ⟨.GLB_TEMP_STAT, 0, 12⟩
abbrev GLB_TEMP_STAT_TRIP : Field := ⟨.GLB_TEMP_STAT, 16, 12⟩
abbrev GLB_TEMP_STAT_WARN_EVT : Field := ⟨.GLB_TEMP_STAT, 28, 1⟩
abbrev GLB_TEMP_STAT_TRIP_EVT : Field := ⟨.GLB_TEMP_STAT, 29, 1⟩
abbrev GLB_TEMP_RD_BSEL : Field := ⟨.GLB_TEMP_RD, 0, 4⟩
abbrev GLB_TEMP_RD_TEMP : Field := ⟨.GLB_TEMP_RD, 16, 12⟩
abbrev GLB_THM_CFG_BETA : Field := ⟨.GLB_THM_CFG, 0, 13⟩
abbrev GLB_THM_CFG_R25 : Field := ⟨.GLB_THM_CFG, 16, 8⟩
abbrev GLB_THM_CFG_TOVER : Field := ⟨.GLB_THM_CFG, 24, 8⟩
abbrev GLB_THM_EN_LO_EN : Field := ⟨.GLB_THM_EN_LO, 0, 32⟩
abbrev GLB_THM_EN_HI_EN : Field := ⟨.GLB_THM_EN_HI, 0, 16⟩
abbrev GLB_THM_RD_LSEL : Field := ⟨.GLB_THM_RD, 0, 6⟩
abbrev GLB_THM_RD_TEMP : Field := ⟨.GLB_THM_RD, 8, 8⟩
abbrev GLB_THM_RD_VALID : Field := ⟨.GLB_THM_RD, 16, 1⟩
abbrev GLB_THM_RD_OPEN : Field := ⟨.GLB_THM_RD, 17, 1⟩
abbrev GLB_THM_RD_SHORT : Field := ⟨.GLB_THM_RD, 18, 1⟩
abbrev GLB_THM_RD_OVER : Field := ⟨.GLB_THM_RD, 19, 1⟩
abbrev GLB_ATTR_LSEL : Field := ⟨.GLB_ATTR, 0, 6⟩
abbrev GLB_ATTR_PH : Field := ⟨.GLB_ATTR, 8, 4⟩
abbrev GLB_ATTR_BASIS : Field := ⟨.GLB_ATTR, 12, 2⟩
abbrev GLB_ATTR_ATTR_QUAR : Field := ⟨.GLB_ATTR, 14, 1⟩
abbrev GLB_ATTR_ATTR_THR : Field := ⟨.GLB_ATTR, 16, 16⟩
abbrev GLB_FLT_EVT_SAFE_EVT : Field := ⟨.GLB_FLT_EVT, 0, 1⟩
abbrev GLB_FLT_EVT_FIN_EVT : Field := ⟨.GLB_FLT_EVT, 1, 1⟩
abbrev GLB_FLT_EVT_THM_EVT : Field := ⟨.GLB_FLT_EVT, 2, 1⟩
abbrev GLB_FLT_EVT_ATTR_EVT : Field := ⟨.GLB_FLT_EVT, 3, 1⟩
abbrev GLB_FLT_EVT_ILK_EVT : Field := ⟨.GLB_FLT_EVT, 4, 1⟩

/-! ### 16_timers.md -/
abbrev TMR_TB_LO_TB : Field := ⟨.TMR_TB_LO, 0, 32⟩
abbrev TMR_TB_HI_TB_HI : Field := ⟨.TMR_TB_HI, 0, 32⟩
abbrev TMR_CTL_ARM : Field := ⟨.TMR_CTL, 0, 8⟩
abbrev TMR_CTL_DROP_CLR : Field := ⟨.TMR_CTL, 16, 1⟩
abbrev TMR_RUN_RUN : Field := ⟨.TMR_RUN, 0, 8⟩
abbrev TMR_RUN_PINS : Field := ⟨.TMR_RUN, 16, 8⟩
abbrev TMR_CHF_FLAG : Field := ⟨.TMR_CHF, 0, 32⟩
abbrev TMR_OVF_OVF : Field := ⟨.TMR_OVF, 0, 8⟩
abbrev TMR_OVF_DROP_EVT : Field := ⟨.TMR_OVF, 8, 8⟩
abbrev TMR_MKUP_TICKS : Field := ⟨.TMR_MKUP, 0, 32⟩
abbrev TMR_MKFR_FRAC : Field := ⟨.TMR_MKFR, 0, 6⟩
abbrev TMR_CFG_PSC : Field := ⟨.TMR_CFG, 0, 5⟩
abbrev TMR_CFG_EN : Field := ⟨.TMR_CFG, 5, 1⟩
abbrev TMR_CFG_CSEL : Field := ⟨.TMR_CFG, 8, 2⟩
abbrev TMR_CFG_POP : Field := ⟨.TMR_CFG, 12, 1⟩
abbrev TMR_CNT_COUNT : Field := ⟨.TMR_CNT, 0, 32⟩
abbrev TMR_STEP_STEP : Field := ⟨.TMR_STEP, 0, 32⟩
abbrev TMR_CCFG_MODE0 : Field := ⟨.TMR_CCFG, 0, 2⟩
abbrev TMR_CCFG_MODE1 : Field := ⟨.TMR_CCFG, 8, 2⟩
abbrev TMR_CCFG_MODE2 : Field := ⟨.TMR_CCFG, 16, 2⟩
abbrev TMR_CCFG_MODE3 : Field := ⟨.TMR_CCFG, 24, 2⟩
abbrev TMR_CCFG_ACT0 : Field := ⟨.TMR_CCFG, 2, 2⟩
abbrev TMR_CCFG_ACT1 : Field := ⟨.TMR_CCFG, 10, 2⟩
abbrev TMR_CCFG_ACT2 : Field := ⟨.TMR_CCFG, 18, 2⟩
abbrev TMR_CCFG_ACT3 : Field := ⟨.TMR_CCFG, 26, 2⟩
abbrev TMR_CCFG_PIN0 : Field := ⟨.TMR_CCFG, 4, 3⟩
abbrev TMR_CCFG_PIN1 : Field := ⟨.TMR_CCFG, 12, 3⟩
abbrev TMR_CCFG_PIN2 : Field := ⟨.TMR_CCFG, 20, 3⟩
abbrev TMR_CCFG_PIN3 : Field := ⟨.TMR_CCFG, 28, 3⟩
abbrev TMR_CV_VALUE : Field := ⟨.TMR_CV, 0, 32⟩
abbrev TMR_CSTAT_LEVEL0 : Field := ⟨.TMR_CSTAT, 0, 3⟩
abbrev TMR_CSTAT_LEVEL1 : Field := ⟨.TMR_CSTAT, 8, 3⟩
abbrev TMR_CSTAT_LEVEL2 : Field := ⟨.TMR_CSTAT, 16, 3⟩
abbrev TMR_CSTAT_LEVEL3 : Field := ⟨.TMR_CSTAT, 24, 3⟩
abbrev TMR_CSTAT_DROPS0 : Field := ⟨.TMR_CSTAT, 3, 5⟩
abbrev TMR_CSTAT_DROPS1 : Field := ⟨.TMR_CSTAT, 11, 5⟩
abbrev TMR_CSTAT_DROPS2 : Field := ⟨.TMR_CSTAT, 19, 5⟩
abbrev TMR_CSTAT_DROPS3 : Field := ⟨.TMR_CSTAT, 27, 5⟩

/-! ### 17_startup_reset.md -/
abbrev GLB_BOOT_STARTED : Field := ⟨.GLB_BOOT, 0, 1⟩
abbrev GLB_BOOT_CAUSE : Field := ⟨.GLB_BOOT, 1, 3⟩
abbrev GLB_BOOT_PLL_TRIES : Field := ⟨.GLB_BOOT, 4, 2⟩
abbrev GLB_BOOT_XIN_WAIT : Field := ⟨.GLB_BOOT, 6, 1⟩
abbrev GLB_PWR_CTL_DORM : Field := ⟨.GLB_PWR_CTL, 0, 8⟩
abbrev GLB_PWR_STAT_DORM_REFUSED : Field := ⟨.GLB_PWR_STAT, 0, 1⟩
abbrev GLB_PWR_STAT_RCAUSE : Field := ⟨.GLB_PWR_STAT, 1, 3⟩
abbrev GLB_PWR_STAT_WSRC : Field := ⟨.GLB_PWR_STAT, 4, 4⟩
abbrev GLB_PWR_STAT_WOKE : Field := ⟨.GLB_PWR_STAT, 8, 1⟩
abbrev GLB_WAKE_EN_SRC : Field := ⟨.GLB_WAKE_EN, 0, 4⟩
abbrev GLB_WAKE_EN_WAKEN_EN : Field := ⟨.GLB_WAKE_EN, 8, 2⟩
abbrev GLB_WAKE_TMR_TICKS : Field := ⟨.GLB_WAKE_TMR, 0, 32⟩
abbrev GLB_PRES_EN_LO_EN : Field := ⟨.GLB_PRES_EN_LO, 0, 32⟩
abbrev GLB_PRES_EN_HI_EN : Field := ⟨.GLB_PRES_EN_HI, 0, 16⟩
abbrev GLB_PORT_STAT_PERST_A : Field := ⟨.GLB_PORT_STAT, 0, 1⟩
abbrev GLB_PORT_STAT_PERST_B : Field := ⟨.GLB_PORT_STAT, 1, 1⟩
abbrev GLB_PORT_STAT_A_EVT : Field := ⟨.GLB_PORT_STAT, 2, 1⟩
abbrev GLB_PORT_STAT_B_EVT : Field := ⟨.GLB_PORT_STAT, 3, 1⟩

/-! ### 18_host_rings.md -/
abbrev HST_CTL_FN_EN_A : Field := ⟨.HST_CTL, 0, 4⟩
abbrev HST_CTL_FN_EN_B : Field := ⟨.HST_CTL, 4, 4⟩
abbrev HST_LINK_A_UP : Field := ⟨.HST_LINK_A, 0, 1⟩
abbrev HST_LINK_A_GEN : Field := ⟨.HST_LINK_A, 1, 2⟩
abbrev HST_LINK_A_WIDTH : Field := ⟨.HST_LINK_A, 4, 2⟩
abbrev HST_LINK_A_PM : Field := ⟨.HST_LINK_A, 8, 2⟩
abbrev HST_LINK_A_LTR_EN : Field := ⟨.HST_LINK_A, 12, 1⟩
abbrev HST_LINK_A_LTR_IDLE : Field := ⟨.HST_LINK_A, 13, 1⟩
abbrev HST_LINK_B_UP : Field := ⟨.HST_LINK_B, 0, 1⟩
abbrev HST_LINK_B_GEN : Field := ⟨.HST_LINK_B, 1, 2⟩
abbrev HST_LINK_B_WIDTH : Field := ⟨.HST_LINK_B, 4, 2⟩
abbrev HST_LINK_B_PM : Field := ⟨.HST_LINK_B, 8, 2⟩
abbrev HST_LINK_B_LTR_EN : Field := ⟨.HST_LINK_B, 12, 1⟩
abbrev HST_LINK_B_LTR_IDLE : Field := ⟨.HST_LINK_B, 13, 1⟩
abbrev HST_LTR_LTR_ACT : Field := ⟨.HST_LTR, 0, 10⟩
abbrev HST_LTR_LTR_IDLE : Field := ⟨.HST_LTR, 16, 10⟩
abbrev HST_BUDGET_RATE_A : Field := ⟨.HST_BUDGET, 0, 16⟩
abbrev HST_BUDGET_RATE_B : Field := ⟨.HST_BUDGET, 16, 16⟩
abbrev HST_DMA_ERR_KIND : Field := ⟨.HST_DMA_ERR, 0, 3⟩
abbrev HST_DMA_ERR_TENANT : Field := ⟨.HST_DMA_ERR, 4, 4⟩
abbrev HST_DMA_ERR_WHAT : Field := ⟨.HST_DMA_ERR, 8, 2⟩
abbrev HST_DMA_ERR_ERR : Field := ⟨.HST_DMA_ERR, 16, 1⟩
abbrev HST_DMA_ERR_COUNT : Field := ⟨.HST_DMA_ERR, 24, 8⟩
abbrev HST_DMA_ADDR_LO_ADDR : Field := ⟨.HST_DMA_ADDR_LO, 0, 32⟩
abbrev HST_DMA_ADDR_HI_ADDR_HI : Field := ⟨.HST_DMA_ADDR_HI, 0, 32⟩
abbrev HST_SQ_BASE_LO_ADDR : Field := ⟨.HST_SQ_BASE_LO, 12, 20⟩
abbrev HST_SQ_BASE_HI_ADDR_HI : Field := ⟨.HST_SQ_BASE_HI, 0, 32⟩
abbrev HST_SQ_CFG_SIZE : Field := ⟨.HST_SQ_CFG, 0, 4⟩
abbrev HST_SQ_CFG_EN : Field := ⟨.HST_SQ_CFG, 8, 1⟩
abbrev HST_CQ_BASE_LO_ADDR : Field := ⟨.HST_CQ_BASE_LO, 12, 20⟩
abbrev HST_CQ_BASE_HI_ADDR_HI : Field := ⟨.HST_CQ_BASE_HI, 0, 32⟩
abbrev HST_CQ_CFG_SIZE : Field := ⟨.HST_CQ_CFG, 0, 4⟩
abbrev HST_CQ_CFG_EN : Field := ⟨.HST_CQ_CFG, 8, 1⟩
abbrev HST_CQ_CFG_VEC : Field := ⟨.HST_CQ_CFG, 12, 3⟩
abbrev HST_CQ_CFG_COAL_N : Field := ⟨.HST_CQ_CFG, 16, 8⟩
abbrev HST_CQ_CFG_COAL_T : Field := ⟨.HST_CQ_CFG, 24, 8⟩
abbrev HST_SQ_TAIL_DB_TAIL : Field := ⟨.HST_SQ_TAIL_DB, 0, 12⟩
abbrev HST_CQ_HEAD_DB_HEAD : Field := ⟨.HST_CQ_HEAD_DB, 0, 14⟩
abbrev HST_SQ_STAT_HEAD : Field := ⟨.HST_SQ_STAT, 0, 12⟩
abbrev HST_SQ_STAT_TAIL : Field := ⟨.HST_SQ_STAT, 16, 12⟩
abbrev HST_SQ_STAT_STOPPED : Field := ⟨.HST_SQ_STAT, 28, 1⟩
abbrev HST_CQ_STAT_TAIL : Field := ⟨.HST_CQ_STAT, 0, 14⟩
abbrev HST_CQ_STAT_PHASE : Field := ⟨.HST_CQ_STAT, 14, 1⟩
abbrev HST_CQ_STAT_DROPPED : Field := ⟨.HST_CQ_STAT, 16, 16⟩
abbrev HST_EVT_CFG_MIRROR : Field := ⟨.HST_EVT_CFG, 0, 16⟩
abbrev HST_EVT_CFG_LANE_ALL : Field := ⟨.HST_EVT_CFG, 16, 1⟩
abbrev HST_T_ERR_WR_DENIED : Field := ⟨.HST_T_ERR, 0, 1⟩
abbrev HST_T_ERR_BAD_ACCESS : Field := ⟨.HST_T_ERR, 1, 1⟩
abbrev HST_T_ERR_DB_RANGE : Field := ⟨.HST_T_ERR, 2, 1⟩
abbrev HST_T_ERR_OVERRUN : Field := ⟨.HST_T_ERR, 3, 1⟩
abbrev HST_T_ERR_FAULT : Field := ⟨.HST_T_ERR, 4, 1⟩
abbrev HST_T_ERR_OUTST : Field := ⟨.HST_T_ERR, 16, 7⟩

/-! ### 20_tenancy_security.md -/
abbrev SEC_STAT_SEALED : Field := ⟨.SEC_STAT, 0, 1⟩
abbrev SEC_STAT_SEALER : Field := ⟨.SEC_STAT, 1, 3⟩
abbrev SEC_STAT_DBG_LOCK : Field := ⟨.SEC_STAT, 4, 1⟩
abbrev SEC_STAT_CHAL : Field := ⟨.SEC_STAT, 5, 1⟩
abbrev SEC_STAT_KEY_OK : Field := ⟨.SEC_STAT, 6, 1⟩
abbrev SEC_STAT_MGR : Field := ⟨.SEC_STAT, 8, 3⟩
abbrev SEC_STAT_PROMO_EVT : Field := ⟨.SEC_STAT, 16, 1⟩
abbrev SEC_STAT_SEAL_EVT : Field := ⟨.SEC_STAT, 17, 1⟩
abbrev SEC_ROLE_ROLE0 : Field := ⟨.SEC_ROLE, 0, 3⟩
abbrev SEC_ROLE_ROLE1 : Field := ⟨.SEC_ROLE, 3, 3⟩
abbrev SEC_ROLE_ROLE2 : Field := ⟨.SEC_ROLE, 6, 3⟩
abbrev SEC_ROLE_ROLE3 : Field := ⟨.SEC_ROLE, 9, 3⟩
abbrev SEC_ROLE_ROLE4 : Field := ⟨.SEC_ROLE, 12, 3⟩
abbrev SEC_ROLE_ROLE5 : Field := ⟨.SEC_ROLE, 15, 3⟩
abbrev SEC_ROLE_ROLE6 : Field := ⟨.SEC_ROLE, 18, 3⟩
abbrev SEC_ROLE_ROLE7 : Field := ⟨.SEC_ROLE, 21, 3⟩
abbrev SEC_ROLE_STBY : Field := ⟨.SEC_ROLE, 24, 3⟩
abbrev SEC_ROLE_STBY_VALID : Field := ⟨.SEC_ROLE, 27, 1⟩
abbrev SEC_TFLAGS_LAPSED : Field := ⟨.SEC_TFLAGS, 0, 8⟩
abbrev SEC_TFLAGS_QUAR : Field := ⟨.SEC_TFLAGS, 8, 8⟩
abbrev SEC_TFLAGS_PRESENT : Field := ⟨.SEC_TFLAGS, 16, 8⟩
abbrev SEC_TSEL_TSEL : Field := ⟨.SEC_TSEL, 0, 3⟩
abbrev SEC_TSEL_QREL : Field := ⟨.SEC_TSEL, 8, 1⟩
abbrev SEC_TINFO_HB_INT : Field := ⟨.SEC_TINFO, 0, 14⟩
abbrev SEC_TINFO_VIOL : Field := ⟨.SEC_TINFO, 16, 7⟩
abbrev SEC_TINFO_TOTAL : Field := ⟨.SEC_TINFO, 24, 8⟩
abbrev SEC_STMT_STMT_NO : Field := ⟨.SEC_STMT, 0, 32⟩

/-! ### 21_pmbus_ports.md -/
abbrev SMB_S_CFG_PEC_REQ : Field := ⟨.SMB_S_CFG, 0, 1⟩
abbrev SMB_S_CFG_ALERT_MASK : Field := ⟨.SMB_S_CFG, 8, 6⟩
abbrev SMB_S_STAT_ADDR : Field := ⟨.SMB_S_STAT, 0, 7⟩
abbrev SMB_S_STAT_STRAP : Field := ⟨.SMB_S_STAT, 8, 4⟩
abbrev SMB_S_STAT_ADDR_VALID : Field := ⟨.SMB_S_STAT, 12, 1⟩
abbrev SMB_S_STAT_ALERT : Field := ⟨.SMB_S_STAT, 13, 1⟩
abbrev SMB_S_STAT_BUSY : Field := ⟨.SMB_S_STAT, 14, 1⟩
abbrev SMB_S_STAT_PAGE : Field := ⟨.SMB_S_STAT, 16, 8⟩
abbrev SMB_S_STAT_LAST_CMD : Field := ⟨.SMB_S_STAT, 24, 8⟩
abbrev SMB_S_EVT_CML_EVT : Field := ⟨.SMB_S_EVT, 0, 1⟩
abbrev SMB_S_EVT_TMO_EVT : Field := ⟨.SMB_S_EVT, 1, 1⟩
abbrev SMB_S_EVT_SAFE_EVT : Field := ⟨.SMB_S_EVT, 2, 1⟩
abbrev SMB_S_CNT_XFERS : Field := ⟨.SMB_S_CNT, 0, 16⟩
abbrev SMB_S_CNT_PEC_ERR : Field := ⟨.SMB_S_CNT, 16, 8⟩
abbrev SMB_S_CNT_NACKS : Field := ⟨.SMB_S_CNT, 24, 8⟩
abbrev SMB_S_HOLD_LO_HOLD : Field := ⟨.SMB_S_HOLD_LO, 0, 32⟩
abbrev SMB_S_HOLD_HI_HOLD : Field := ⟨.SMB_S_HOLD_HI, 0, 16⟩
abbrev SMB_M_CFG_SPEED : Field := ⟨.SMB_M_CFG, 0, 2⟩
abbrev SMB_M_CFG_EN : Field := ⟨.SMB_M_CFG, 4, 1⟩
abbrev SMB_M_CFG_ARA_EN : Field := ⟨.SMB_M_CFG, 5, 1⟩
abbrev SMB_M_STAT_BUSY : Field := ⟨.SMB_M_STAT, 0, 1⟩
abbrev SMB_M_STAT_STUCK : Field := ⟨.SMB_M_STAT, 1, 1⟩
abbrev SMB_M_STAT_RECOVERING : Field := ⟨.SMB_M_STAT, 2, 1⟩
abbrev SMB_M_STAT_PTQ : Field := ⟨.SMB_M_STAT, 3, 4⟩
abbrev SMB_M_STAT_ALERT_ADDR : Field := ⟨.SMB_M_STAT, 8, 7⟩
abbrev SMB_M_STAT_LOSSES : Field := ⟨.SMB_M_STAT, 16, 8⟩
abbrev SMB_M_STAT_SKIPS : Field := ⟨.SMB_M_STAT, 24, 8⟩
abbrev SMB_M_EVT_STUCK_EVT : Field := ⟨.SMB_M_EVT, 0, 1⟩
abbrev SMB_M_EVT_SKIP_EVT : Field := ⟨.SMB_M_EVT, 1, 1⟩
abbrev SMB_M_EVT_NACK_EVT : Field := ⟨.SMB_M_EVT, 2, 1⟩
abbrev SMB_M_EVT_ALERT_EVT : Field := ⟨.SMB_M_EVT, 3, 1⟩
abbrev SMB_M_EVT_CLR_EVT : Field := ⟨.SMB_M_EVT, 4, 1⟩
abbrev SMB_M_EVT_TMO_EVT : Field := ⟨.SMB_M_EVT, 5, 1⟩
abbrev SMB_POLL_SEL_ENTRY : Field := ⟨.SMB_POLL_SEL, 0, 5⟩
abbrev SMB_POLL_CFG_ADDR : Field := ⟨.SMB_POLL_CFG, 0, 7⟩
abbrev SMB_POLL_CFG_EN : Field := ⟨.SMB_POLL_CFG, 7, 1⟩
abbrev SMB_POLL_CFG_CMD : Field := ⟨.SMB_POLL_CFG, 8, 8⟩
abbrev SMB_POLL_CFG_WORD : Field := ⟨.SMB_POLL_CFG, 16, 1⟩
abbrev SMB_POLL_CFG_PEC : Field := ⟨.SMB_POLL_CFG, 17, 1⟩
abbrev SMB_POLL_CFG_PER : Field := ⟨.SMB_POLL_CFG, 24, 8⟩
abbrev SMB_POLL_STAT_LAST : Field := ⟨.SMB_POLL_STAT, 0, 2⟩
abbrev SMB_POLL_STAT_VALID : Field := ⟨.SMB_POLL_STAT, 2, 1⟩
abbrev SMB_POLL_STAT_FAILS : Field := ⟨.SMB_POLL_STAT, 8, 8⟩
abbrev SMB_POLL_STAT_AGE : Field := ⟨.SMB_POLL_STAT, 16, 16⟩
abbrev SMB_PRES_DATA0 : Field := ⟨.SMB_PRES, 0, 16⟩
abbrev SMB_PRES_DATA1 : Field := ⟨.SMB_PRES, 16, 16⟩

/-! ### 22_register_map.md -/
abbrev GLB_UID_LO_UID : Field := ⟨.GLB_UID_LO, 0, 32⟩
abbrev GLB_UID_HI_UID_HI : Field := ⟨.GLB_UID_HI, 0, 32⟩
abbrev GLB_FEAT_BAYS : Field := ⟨.GLB_FEAT, 0, 4⟩
abbrev GLB_FEAT_LANES : Field := ⟨.GLB_FEAT, 8, 6⟩
abbrev GLB_FEAT_SEGS : Field := ⟨.GLB_FEAT, 16, 3⟩
abbrev GLB_FEAT_TIMERS : Field := ⟨.GLB_FEAT, 20, 4⟩
abbrev GLB_FEAT_PORTS : Field := ⟨.GLB_FEAT, 24, 2⟩
abbrev GLB_OPTIME_LO_OPT : Field := ⟨.GLB_OPTIME_LO, 0, 32⟩
abbrev GLB_OPTIME_HI_OPT_HI : Field := ⟨.GLB_OPTIME_HI, 0, 32⟩
abbrev GLB_PCYC_PCYC : Field := ⟨.GLB_PCYC, 0, 32⟩
abbrev GLB_LTRIP_LO_TRIP : Field := ⟨.GLB_LTRIP_LO, 0, 32⟩
abbrev GLB_LTRIP_HI_TRIP : Field := ⟨.GLB_LTRIP_HI, 0, 16⟩
abbrev GLB_LANE_SUM_STATE0 : Field := ⟨.GLB_LANE_SUM, 0, 4⟩
abbrev GLB_LANE_SUM_STATE1 : Field := ⟨.GLB_LANE_SUM, 4, 4⟩
abbrev GLB_LANE_SUM_STATE2 : Field := ⟨.GLB_LANE_SUM, 8, 4⟩
abbrev GLB_LANE_SUM_STATE3 : Field := ⟨.GLB_LANE_SUM, 12, 4⟩
abbrev GLB_LANE_SUM_STATE4 : Field := ⟨.GLB_LANE_SUM, 16, 4⟩
abbrev GLB_LANE_SUM_STATE5 : Field := ⟨.GLB_LANE_SUM, 20, 4⟩
abbrev GLB_LANE_SUM_STATE6 : Field := ⟨.GLB_LANE_SUM, 24, 4⟩
abbrev GLB_LANE_SUM_STATE7 : Field := ⟨.GLB_LANE_SUM, 28, 4⟩
abbrev GLB_BAY_STAT_AN_ON : Field := ⟨.GLB_BAY_STAT, 0, 1⟩
abbrev GLB_BAY_STAT_GATED : Field := ⟨.GLB_BAY_STAT, 1, 1⟩
abbrev GLB_BAY_STAT_DL_LOCK : Field := ⟨.GLB_BAY_STAT, 2, 1⟩
abbrev GLB_BAY_STAT_PWM_EN : Field := ⟨.GLB_BAY_STAT, 3, 1⟩
abbrev GLB_BAY_STAT_ISREF_BAD : Field := ⟨.GLB_BAY_STAT, 4, 1⟩
abbrev GLB_BAY_STAT_TEMP_WARN : Field := ⟨.GLB_BAY_STAT, 5, 1⟩
abbrev GLB_BAY_STAT_TEMP_TRIP : Field := ⟨.GLB_BAY_STAT, 6, 1⟩
abbrev GLB_BAY_STAT_SUP_OUT : Field := ⟨.GLB_BAY_STAT, 7, 1⟩
abbrev GLB_BAY_STAT_SHTL_ACTIVE : Field := ⟨.GLB_BAY_STAT, 8, 1⟩
abbrev GLB_BAY_STAT_WARP_BUSY : Field := ⟨.GLB_BAY_STAT, 9, 1⟩
abbrev GLB_BAY_STAT_SLOT_CFG : Field := ⟨.GLB_BAY_STAT, 12, 4⟩
abbrev GLB_BAY_STAT_PH_TRIP : Field := ⟨.GLB_BAY_STAT, 16, 16⟩
abbrev GLB_SCRATCH_DATA : Field := ⟨.GLB_SCRATCH, 0, 32⟩
end F

end Sys2Proof.Machine
end

