-- ==== Sys2Proof/Machine/State.lean ====
section
/-!
DEFINITION. Sys2Proof/Machine/State.lean: the state of the block as plain data: the 3,000 setup registers (a sparse table over
their reset words), the hidden state of every engine (lanes, phases, bays, segments, router, timers, Tally, Selvedge, rings,
ports), the commands that wait, and the state right after power-on reset.
-/
namespace Sys2Proof.Machine

/-- Reasons a step can stop. The spec gives every command of this block an effect, so no meaning raises one: safe. -/
inductive Fault where
  /-- Raised by no meaning; the outcome type asks for a type of reasons. Safe. -/
  | stuck
  deriving DecidableEq, Repr

/-- Reasons a command is refused. -/
inductive Refusal where
  /-- Raised by a refused arm of `exec`: the command has no meaning in this model yet. Safe. -/
  | notModelled (mnemonic : String)
  deriving DecidableEq, Repr

/-! ### What leaves the block -/

/-- What the block sends out during a command: host memory writes and reads, messages, bus answers, pin drives. -/
inductive Out where
  /-- A memory write of tenant `t`'s function (R428, R434, command output buffers). -/
  | hostWrite (t : Nat) (addr : Nat) (bytes : List Byte)
  /-- A submission fetch or data read request (R426). -/
  | hostRead (t : Nat) (addr : Nat) (len : Nat)
  /-- An MSI-X message on a vector (R431). -/
  | msix (t : Nat) (vec : Nat)
  /-- The data of a register or window read (R420). -/
  | readData (t : Nat) (value : Word)
  /-- A Completer Abort (R420). -/
  | abort (t : Nat)
  /-- A JML frame or pulse sent on PLT (R248). -/
  | jml (l : Nat) (bytes : List Byte)
  /-- PLT of a lane driven low (true) or released (R267). -/
  | pltLow (l : Nat) (low : Bool)
  /-- The bytes a Port S read returns. -/
  | psRead (bytes : List Byte)
  /-- Port S acknowledges (true) or refuses a write. -/
  | psAck (ok : Bool)
  /-- A Port M transaction starts (R499). -/
  | pmStart (addr : Nat) (bytes : List Byte) (rlen : Nat)
  /-- Port M clocks recovery pulses on SCL_M (R504). -/
  | pmRecover
  /-- A Treadle reply: status and data (R234). -/
  | treadle (status : Nat) (data : Nat)
  /-- A TIO pin driven or pulsed by a timer channel (R384). -/
  | tio (pin : Nat) (high : Bool)
  /-- An LTR message of a port: active or idle value (R414). -/
  | ltr (port : Nat) (idle : Bool)
  /-- A request for ASPM L1 (R414). -/
  | l1 (port : Nat)
  /-- WAKE_N of a port driven low or released (R408). -/
  | wakeN (port : Nat) (low : Bool)
  /-- A JTAG data register captured (R483). -/
  | jtag (value : Nat) (width : Nat)
  deriving DecidableEq, Repr

/-! ### Commands in progress (chapter 19) -/

/-- A dispatched command: who issued it, and what its completion entry repeats. -/
structure CmdRef where
  tenant : Nat
  cid : Nat
  opcode : Nat
  quiet : Bool
  dptr : Nat
  dlen : Nat
  deriving DecidableEq, Repr

/-- The event a waiting command completes at (Table 19-1, "Completes"). -/
inductive WaitFor where
  | laneOff (l : Nat)
  | rampEntered (l : Nat)
  | parkingClear (l : Nat)
  | surveyEnd (l : Nat)
  | readmitEnd (p : Nat)
  | segMode (s : Nat)
  | dispute
  | calibrate (l : Nat)
  | markOpen (flags : Nat) (data : List Word)
  | markFlash (seq : Nat)
  | commit
  | linkData (l : Nat)
  | contract (l : Nat)
  | roles (l : Nat)
  | safeAll
  | sealRecord
  | unsealRecord
  deriving DecidableEq, Repr

/-- A command that holds its place in OUTST until its event (R443). -/
structure Waiting where
  cmd : CmdRef
  wait : WaitFor
  deriving DecidableEq, Repr

/-! ### Selvedge (chapter 14) -/

/-- A report on its way to the recorder: the event, its detection time, and the snapshot or own content it carries (R336). -/
structure Report where
  code : Nat
  src : Nat
  flags : Nat
  tb : Nat
  optime : Nat
  pcyc : Nat
  early : Bool
  snap : List Word
  deriving DecidableEq, Repr

/-- A record (Table 14-1), with the full detection time of its first occurrence and whether it may still take repeats. -/
structure Rec where
  seq : Nat
  code : Nat
  src : Nat
  flags : Nat
  rept : Nat
  tFirst : Nat
  tLast : Nat
  pcyc : Nat
  tb : Nat
  first : Nat
  snap : List Word
  deriving DecidableEq, Repr

/-- A used slot of the flash log: a record, or a row whose program verify failed (R343). -/
inductive LogSlot where
  | held (r : Rec)
  | lost (seq : Nat)
  deriving DecidableEq, Repr

/-- Why a flush runs (Table 14-3); the closing kinds carry the close-marker flags. -/
inductive FlushKind where
  | closed
  | all
  | closing (cause : Nat)
  | marker (cause : Nat)
  deriving DecidableEq, Repr

/-- The recorder's hidden state. -/
structure Selvedge where
  /-- Reports waiting in detection order, at most 64 (R337). -/
  intake : List Report
  /-- The RAM buffer: slot q mod 512 to record (R340). -/
  ram : List (Nat × Rec)
  /-- SEQs of open records in order of first occurrence, at most 64 (R338). -/
  opened : List Nat
  /-- SEQs not yet written to flash, ascending from the lowest (R340). -/
  pend : List Nat
  /-- Reports lost since the latest 0x0B01 (R341). -/
  lost : Nat
  /-- The flush in progress and the SEQs it still has to write (R342). -/
  flush : Option FlushKind
  flushQ : List Nat
  /-- A further flush asked for while one runs (R342). -/
  again : Option FlushKind
  /-- Used flash slots (R343). -/
  log : List (Nat × LogSlot)
  /-- Snapshot selections S[k][n] at index 8k + n (R336). -/
  sel : List Word
  /-- The closing save's snapshot has been taken: records opened after it are not admitted (R345). -/
  sealedOff : Bool
  deriving DecidableEq, Repr

/-! ### Tally counters and flash (chapter 13) -/

/-- A used cell slot (R311): its increment and SAVE bit, or torn. -/
inductive Cell where
  | ok (inc : Nat) (save : Bool)
  | torn
  deriving DecidableEq, Repr

/-- A Tally sector as `classify` sees it (R311). -/
inductive Sector where
  | erased
  | junk
  | valid (seq value pcyc : Nat) (save void : Bool) (cells : List Cell)
  deriving DecidableEq, Repr

/-- The state of a counter (R319, R323). -/
inductive CtrState where
  | normal
  | disputed
  | void
  deriving DecidableEq, Repr

/-- One Tally counter: its two sectors, the active one, its state, and its live accumulator (R292, R307, R319). -/
structure Counter where
  s0 : Sector
  s1 : Sector
  active : Nat
  st : CtrState
  held : Bool
  heldLogged : Bool
  acc : Nat
  /-- The other copy's value and the difference found at recovery, for a DISPUTED counter (R322, R324). -/
  alt : Nat
  deriving DecidableEq, Repr

/-- What a program operation writes (R304). -/
inductive ProgOp where
  /-- A cell of a counter: increment and SAVE bit; `rest` is what a split increment still has to write (R312). -/
  | cell (c inc : Nat) (save : Bool) (rest : Nat)
  /-- A fold base into the other sector (R313); `resolve` marks the fold of a resolution with its VALUE (R324). -/
  | fold (c : Nat)
  | resolveBase (c value : Nat)
  /-- The VOID base of R323. -/
  | voidBase (c : Nat)
  | slv (seq : Nat)
  | seal (sealed : Bool) (sealer count : Nat)
  | paramHeader
  | paramRow (n : Nat)
  | paramTrailer
  deriving DecidableEq, Repr

/-- What an erase clears (R304). -/
inductive EraseOp where
  /-- A Tally sector; `junk` reports 0x0A04 at its end (R319). -/
  | tally (c x : Nat) (junk : Bool)
  | slv (sector : Nat)
  | param (bank sector : Nat)
  | seal (half sector : Nat)
  deriving DecidableEq, Repr

/-- One flash bank: the program and erase operations in progress and the work queued for it (R304, R306). -/
structure Bank where
  prog : Option ProgOp
  erase : Option EraseOp
  suspended : Bool
  progQ : List ProgOp
  eraseQ : List EraseOp
  tries : Nat
  deriving DecidableEq, Repr

/-- A save in progress (R314): its SAVE bit and whether counter 288's cell has been queued. -/
structure SaveRun where
  save : Bool
  reading288 : Nat
  last : Bool
  deriving DecidableEq, Repr

/-- A parameter bank with a valid header and trailer (R325). -/
structure ParamBank where
  seq : Nat
  pcyc : Nat
  entries : List (Nat × Word)
  deriving DecidableEq, Repr

/-- A resolution in progress (R324): counter, choice, the step reached and the difference to add. -/
structure Resolve where
  ctr : Nat
  choice : Nat
  step : Nat
  deriving DecidableEq, Repr

/-- A record slot of the security partition (R475): sealed, sealer, count; or a torn record. -/
inductive SealRec where
  | ok (sealed : Bool) (sealer count : Nat)
  | torn
  deriving DecidableEq, Repr

/-- What the storage is being closed for (R315, R316). -/
inductive Closing where
  | powerFail
  | softReset
  | dormant
  deriving DecidableEq, Repr

/-- The hidden state of the NVM controller and its flash. -/
structure Nvm where
  ctrs : Vector Counter 304
  banks : Vector Bank 4
  save : Option SaveRun
  /-- A checkpoint that fell due during a save, a recovery (R330). -/
  ckptDue : Bool
  closing : Option Closing
  closed : Bool
  resolve : Option Resolve
  bank0 : Option ParamBank
  bank1 : Option ParamBank
  staging : List (Nat × Word)
  /-- The image a commit writes, taken when it starts (R328). -/
  commit : Option ParamBank
  commitBank : Nat
  sealHalf0 : List SealRec
  sealHalf1 : List SealRec
  sealActive : Nat
  /-- A seal record that waits for the erase of a half: sealed, sealer, count (R475). -/
  sealNext : Option (Bool × Nat × Nat)
  /-- Counters whose reads needed a correction at recovery (R320). -/
  scrub : List Nat
  /-- The wake marker of R408 is still to be written. -/
  wakeMark : Bool
  deriving DecidableEq, Repr

/-! ### Metering (chapter 12) -/

/-- A calibration window in progress (R298, R299). -/
structure Calib where
  chan : Nat
  kind : Nat
  internal : Bool
  n : Nat
  eRef : Int
  sum : Int
  count : Nat
  /-- NORMAL samples still to pass whose support begins before the window (R299). -/
  skip : Nat
  deriving DecidableEq, Repr

/-- The hidden metering state of one lane. -/
structure Meter where
  /-- Items 0 to 12 of MTR_DATA (Table 12-11), 24 bits each. -/
  items : Vector (BitVec 24) 13
  /-- A sample has been accounted since the last halt (R292). -/
  counted : Bool
  /-- The latest sample the tap supplied was over-range (R285). -/
  isOver : Bool
  vMin : Int
  vMax : Int
  iMin : Int
  iMax : Int
  pMin : Int
  pMax : Int
  trkStart : Nat
  trkEmpty : Bool
  trkOver : Bool
  /-- Consecutive inside samples of each disarmed band (R297). -/
  inside : Vector Nat 3
  calib : Option Calib
  deriving DecidableEq, Repr

/-! ### Lanes (chapter 9) -/

/-- A lane state, Table 9-1. -/
inductive LaneState where
  | off | detect | negotiate | warping | ready | ramp | runFull | runShed | runPulse | hold | park | faulted | lost
  deriving DecidableEq, Repr

/-- The code of a lane state (Table 9-1). -/
def LaneState.code : LaneState → Nat
  | .off => 0 | .detect => 1 | .negotiate => 2 | .warping => 3 | .ready => 4 | .ramp => 5 | .runFull => 6
  | .runShed => 7 | .runPulse => 8 | .hold => 9 | .park => 10 | .faulted => 11 | .lost => 12

/-- The lane state of a code; codes 13 to 15 are not used (R196). -/
def LaneState.ofCode : Nat → LaneState
  | 0 => .off | 1 => .detect | 2 => .negotiate | 3 => .warping | 4 => .ready | 5 => .ramp | 6 => .runFull
  | 7 => .runShed | 8 => .runPulse | 9 => .hold | 10 => .park | 11 => .faulted | _ => .lost

/-- A state change on its way to the lane update that carries it out: of a command, a JML event or SAFE_ALL (R198). -/
inductive Move where
  | claim
  | identified
  | contractOk
  | entryFailed
  | release (by' : Nat)
  | park (cause : Nat)
  | arm
  | warp
  | clearTrip
  | renegotiate
  | lostModule
  deriving DecidableEq, Repr

/-- Who owns the claim on AUX of a lane (Table 1-6). -/
inductive AuxClaim where
  | none | ident | jml | warping | thermistor
  deriving DecidableEq, Repr

/-- The pre-start check of R200: its sums and counts. -/
structure Prestart where
  sumI : Int
  sumV : Int
  n : Nat
  sumB : Int
  nB : Nat
  deriving DecidableEq, Repr

/-- The host target of a lane: KIND (0 current, 1 power, 2 voltage) and VALUE (R92, Table 19-2). -/
structure Target where
  kind : Nat
  value : Int
  deriving DecidableEq, Repr

/-- Latest LFLT attribution of a lane: bay phase (15 none) and basis (R374). -/
structure Attr where
  ph : Nat
  basis : Nat
  deriving DecidableEq, Repr

/-- What the attribution of R372 holds of one phase at c0. -/
structure AttrPh where
  p : Nat
  iLast : Int
  iref : Int
  drv : Bool
  deriving DecidableEq, Repr

/-- An attribution in progress: c0 and the lane's phases (R372). -/
structure AttrRun where
  c0 : Nat
  phases : List AttrPh
  deriving DecidableEq, Repr

/-- The values a lane's latest keep-alive puts in force (R265): currents in 10 mA, voltages in 10 mV, SOC in 0.1 %, the highest
module temperature in degrees C; TMIN, VPACK and MFLAGS as the record gave them. -/
structure InForce where
  ichg : Nat
  idis : Nat
  vlo : Nat
  vhi : Nat
  soc : Option Nat
  tmax : Option Int
  tmin : Nat
  vpack : Nat
  mflags : Nat
  deriving DecidableEq, Repr

/-! ### The module link (chapter 11) -/

/-- A frame the Kuvin has due, on the wire or outstanding (R256, R259): a new request takes its SEQ as it starts; a retry, a resend
after a collision and a response carry theirs. -/
structure JFrame where
  type : Nat
  payload : List Byte
  seq : Option Nat
  retry : Bool
  response : Bool
  deriving DecidableEq, Repr

/-- A contract, requested or in force (Table 11-5, CONTRACT_REQ). -/
structure Contract where
  cnum : Nat
  vlo : Nat
  vhi : Nat
  ichg : Nat
  idis : Nat
  aux : Nat
  ka : Nat
  deriving DecidableEq, Repr

/-- Where the link engine of a lane stands; `hard` is a hard reset: decided, PLT low, presence wait (R267). -/
inductive Link where
  | idle | ident | negot | contactor | held
  | hard (stage : Nat)
  deriving DecidableEq, Repr

/-- The hidden state of a lane's link engine. -/
structure Jml where
  link : Link
  /-- The entry that runs follows a hard reset (R267). -/
  afterHard : Bool
  /-- Identification (R247): averages since the latest start, the class of the latest one and how often in a row it came, whether
  0x0813 has been recorded since DETECT was entered, whether a failed entry holds it off (R264). -/
  idN : Nat
  idCls : Nat
  idRun : Nat
  idLogged : Bool
  idOff : Bool
  /-- Frames due, the one on the wire, the request whose response is awaited, the response timer, failures of that request. -/
  due : List JFrame
  wire : Option JFrame
  out : Option JFrame
  timing : Bool
  tries : Nat
  /-- SEQ of the next new request, SEQ expected of the module's next request, the latest answer sent (R256). -/
  seqOut : Nat
  seqIn : Nat
  answered : Option JFrame
  /-- CAPS of the latest entry; the contract in force and the one requested; the latest CNUM (R263). -/
  caps : List Byte
  con : Option Contract
  ask : Option Contract
  cnum : Nat
  /-- The grace window is open; a renegotiation runs; a swap waits for its first keep-alive; READY has been sent under the
  contract; LANE_RELEASE waits for the end of a CONTRACT_DROP, with the flags its 0x0E07 will
  carry (R264, R266, R269, R272, R468). -/
  grace : Bool
  reneg : Bool
  swap : Bool
  ready : Bool
  leaving : Option Nat
  deriving DecidableEq, Repr

/-- A link engine right after reset. -/
def Jml.reset : Jml where
  link := .idle
  afterHard := false
  idN := 0
  idCls := 0
  idRun := 0
  idLogged := false
  idOff := false
  due := []
  wire := none
  out := none
  timing := false
  tries := 0
  seqOut := 0
  seqIn := 0
  answered := none
  caps := []
  con := none
  ask := none
  cnum := 0
  grace := false
  reneg := false
  swap := false
  ready := false
  leaving := none

/-! ### Tenants (chapters 18, 20) -/

/-- One MSI-X table entry (Table 18-2). -/
structure MsixEntry where
  addr : BitVec 64
  data : Word
  masked : Bool
  deriving DecidableEq, Repr

/-- The sums of one lane over a telemetry interval (R435). -/
structure TeleAcc where
  sumV : Int
  sumI : Int
  n : Nat
  sumB : Int
  nB : Nat
  isOver : Bool
  deriving DecidableEq, Repr

/-- An open telemetry stream (R433, R434). -/
structure Stream where
  mask : Nat
  per : Nat
  base : Nat
  bsz : Nat
  wbAddr : Nat
  wbN : Nat
  vec : Nat
  seq : Nat
  sinceWb : Nat
  dropped : Nat
  acc : Vector TeleAcc 48
  deriving DecidableEq, Repr

/-- The hidden state of a PCIe tenant. -/
structure TenantSt where
  /-- Fetched entries not yet dispatched, in ring order (R426, R427). -/
  fetched : List Fetched
  /-- Entries asked for by the read request that is open (R426). -/
  fetching : Option Nat
  /-- CQ head: entries before it are released (R430). -/
  cqHead : Nat
  /-- The next entry carries LOST = 1 (R429). -/
  lostNext : Bool
  /-- Unsignalled entries, and the timebase of the oldest (R431). -/
  unsig : Nat
  oldest : Nat
  msixEn : Bool
  msixMask : Bool
  msix : Vector MsixEntry 8
  pba : BitVec 8
  /-- Bus Master Enable of the function (R439). -/
  bme : Bool
  d3hot : Bool
  /-- The function exists: FN_EN in effect (R412). -/
  exists' : Bool
  streams : Vector (Option Stream) 4
  /-- Heartbeat interval in ms, and the timebase of its latest restart while it runs (R469). -/
  hbInt : Nat
  hbStart : Option Nat
  /-- Violations in the open window, total, and the window's opening (R471). -/
  viol : Nat
  total : Nat
  window : Option Nat
  /-- Quarantine: 1 violations, 2 ring ECC; 0 none (R472). -/
  quar : Nat
  /-- High words latched by this tenant's reads (R515): NVM_TVAL, NVM_TSTO, NVM_TALT, GLB_OPTIME. -/
  latch : Vector Word 4
  deriving DecidableEq, Repr

/-- The link state of one PCIe port that no register shows. -/
structure Port where
  /-- SerDes started: step 7 of Table 17-1 has passed. -/
  started : Bool
  training : Bool
  aspmEn : Bool
  /-- WAKE_N is driven low since a wake (R408). -/
  wakeLow : Bool
  deriving DecidableEq, Repr

/-- A statement waiting for its signature (R478): command, the 112 bytes before MAC. -/
structure Signing where
  cmd : CmdRef
  body : List Byte
  deriving DecidableEq, Repr

/-- The hidden state of the security block (chapter 20). -/
structure Sec where
  challenge : Option (List Byte)
  stmts : List Signing
  /-- Consecutive Manager absence has reached 2 s and no standby was present (R466). -/
  promoDue : Bool
  /-- JTAG instruction register code in force (R483). -/
  jtagIr : Nat
  /-- EXTEST drives the balls (R482). -/
  extest : Bool
  deriving DecidableEq, Repr

/-! ### Start-up and clocks (chapters 1, 17) -/

/-- The step of Table 17-1 the start-up has reached. -/
inductive Boot where
  | waitXin
  | pllEnabled
  | bays (next : Nat)
  | pump
  | recovery
  | done
  | halted
  deriving DecidableEq, Repr

/-- The steps of a soft reset (Table 17-3) and of Dormant (R406). -/
inductive Stage where
  | run
  | softReset
  | entering
  | dormant
  | waking
  deriving DecidableEq, Repr

/-- The hidden state of clocks, start-up and power. -/
structure Power where
  boot : Boot
  stage : Stage
  /-- Wake sources recognised while Dormant is entered (R407). -/
  wakeSrc : Nat
  xinAbsent : Bool
  /-- Host intake stopped: power-fail, soft reset, Dormant entry (R369, R401, R406). -/
  intakeOff : Bool
  /-- The first Port S transaction after a wake is not acknowledged (R407). -/
  psWake : Bool
  /-- Slow-clock ticks from entry to the latest wake (R390). -/
  ticks : Nat
  /-- Failed enables of the PLL in the start-up that runs (R397). -/
  tries : Nat
  /-- The charge pump is ready (Table 17-1, step 5). -/
  pump : Bool
  deriving DecidableEq, Repr

/-- One timer (chapter 16): its count and prescaler phase, and of each channel: armed one-shot, value in force, capture queue (oldest
first), DROPS. -/
structure TimerSt where
  count : Nat
  ph : Nat
  armed : Vector Bool 4
  val : Vector Nat 4
  q : Vector (List Nat) 4
  drops : Vector Nat 4
  deriving DecidableEq, Repr

/-- A timer right after reset. -/
def TimerSt.reset : TimerSt where
  count := 0
  ph := 0
  armed := Vector.replicate 4 false
  val := Vector.replicate 4 0
  q := Vector.replicate 4 []
  drops := Vector.replicate 4 0

/-- A pass-through transfer of Port M (R459). -/
structure PmReq where
  cmd : CmdRef
  addr : Nat
  proto : Nat
  wlen : Nat
  rlen : Nat
  pec : Bool
  data : List Byte
  deriving DecidableEq, Repr

/-- What the present Port M transaction carries (R500, R505). -/
inductive PmAct where
  | poll (n : Nat)
  | alert
  | pass (r : PmReq) (discard : Bool)
  deriving DecidableEq, Repr

/-- One entry of the poll list (R500): its configuration word, LAST, VALID, FAILS, the timebase of its latest success. -/
structure PollEnt where
  cfg : Nat
  last : Nat
  valid : Bool
  fails : Nat
  okAt : Option Nat
  deriving DecidableEq, Repr

/-- The hidden state of Port M (R499 to R505). -/
structure PortM where
  /-- Pass-through transfers waiting, oldest first (Table 1-6). -/
  q : List PmReq
  /-- The transaction in progress, its lost arbitrations, and whether it waits for its back-off to start again (R501). -/
  act : Option PmAct
  losses : Nat
  wait : Bool
  /-- Poll entries due, as a mask; an alert read is to be inserted, and when one was last inserted (R505). -/
  due : Nat
  ara : Bool
  araAt : Option Nat
  /-- The bus is free (R499). -/
  free : Bool
  /-- The poll list had the latest turn (Table 1-6). -/
  polled : Bool
  /-- Recovery attempts made (R504). -/
  tries : Nat
  polls : Vector PollEnt 32
  deriving DecidableEq, Repr

/-- Port M right after reset: the bus is taken as busy (R499); every poll entry is disabled with PER 1. -/
def PortM.reset : PortM where
  q := []
  act := none
  losses := 0
  wait := false
  due := 0
  ara := false
  araAt := none
  free := false
  polled := false
  tries := 0
  polls := Vector.replicate 32 ⟨0x1000000, 0, false, 0, none⟩

/-! ### Control engines (chapters 3 to 9) -/

/-- One compensator instance (R90, R91): error history, output history, accumulator. -/
structure Comp where
  x1 : Int
  x2 : Int
  x3 : Int
  y1 : Int
  y2 : Int
  y3 : Int
  acc : Int
  deriving DecidableEq, Repr

/-- A compensator with cleared histories (Table 4-9). -/
def Comp.zero : Comp := ⟨0, 0, 0, 0, 0, 0, 0⟩

/-- The hidden state of one phase. -/
structure PhaseSt where
  /-- Latest converted current in mA (R51, R54). -/
  i : Int
  /-- The latest SAR sample was an end code (R50). -/
  atEnd : Bool
  /-- 0x0202 has been recorded since the latest write to PH_SAMP (R53). -/
  deferred : Bool
  /-- Reference, integrator and duty shadow (R77). -/
  iref : Int
  acc : Int
  duty : Nat
  /-- Effective gains (R76). -/
  kp : Int
  ki : Int
  /-- Consecutive clamped updates (R84). -/
  clamped : Nat
  /-- The carrier logic drives the phase; it begins at its next carrier start; it takes its safe level in place of its next rise. -/
  on : Bool
  begins : Bool
  stops : Bool
  /-- Driving, or entitled to, when debug freeze was entered (R148). -/
  frz : Bool
  /-- Present and target offset (R151), present period, and the glide step that ends with it (R154). -/
  ofs : Nat
  ofsT : Nat
  per : Nat
  glide : Nat
  /-- LRATIO was last written by Warping or adaptation (R116). -/
  surveyed : Bool
  /-- The latest read-backs of OCH and of OCL failed (Table 15-1). -/
  rbH : Bool
  rbL : Bool
  /-- Cycles in which an OCH or OCL output was high or the latch was set: intervals, the open one last (R372). -/
  hits : List (Nat × Option Nat)
  deriving DecidableEq, Repr

/-- A phase right after reset. -/
def PhaseSt.reset : PhaseSt where
  i := 0
  atEnd := false
  deferred := false
  iref := 0
  acc := 0
  duty := 0
  kp := 0
  ki := 0
  clamped := 0
  on := false
  begins := false
  stops := false
  frz := false
  ofs := 0
  ofsT := 0
  per := 1600
  glide := 0
  surveyed := false
  rbH := false
  rbL := false
  hits := []

/-- What the Shuttle plan and its hand-back hold of one phase (R108, R112). -/
structure ShPhase where
  p : Nat
  c : Nat
  b : Nat
  g : Int
  lim : Int
  accEntry : Int
  irefOld : Int
  deriving DecidableEq, Repr

/-- A granted Shuttle sequence (R106 to R113). -/
structure ShRun where
  lane : Nat
  iStart : Int
  iLand : Int
  up : Bool
  t : Nat
  hMax : Nat
  hMin : Nat
  tonff : Nat
  tL : Nat
  tc : Nat
  tb : Nat
  overWhy : Option Nat
  /-- The timebase at t0. -/
  t0 : Nat
  started : Bool
  phases : List ShPhase
  /-- A pending abort: its count from t0 and its cause (R113). -/
  abort : Option (Nat × Nat)
  deriving DecidableEq, Repr

/-- The kinds of survey (Table 8-2). -/
inductive Kind where
  | entry | re | loaded | readmit (p : Nat)
  deriving DecidableEq, Repr

/-- What a survey holds of one surveyed phase (R174 to R177, R182): the sum of its inductance estimates as a fraction over their
number, the sums of its pulse means of ISN and of the shunt, pulses taken, slope pairs of a loaded survey. -/
structure SvPhase where
  p : Nat
  ofs : Int
  gain : Int
  l : Int
  num : Int
  den : Int
  nL : Nat
  sumIsn : Int
  sumSh : Int
  pulses : Nat
  wired : Bool
  deriving DecidableEq, Repr

/-- A running survey or readmit check (R171 to R184, R188, R193). -/
structure Survey where
  lane : Nat
  kind : Kind
  /-- Boundaries of Table 8-3 passed; PULSES and LNOM as they stood at its start. -/
  step : Nat
  pulses : Nat
  lnom0 : Nat
  phases : List SvPhase
  /-- Failures found: code of Table 8-4 and bay phase. -/
  fails : List (Nat × Nat)
  vm : Int
  vb : Int
  /-- The window of R172 at step 1. -/
  up : Bool
  /-- I_r, the running level with its sign, whether the level has been limited, whether it ramps to 0, whether the steps have ended. -/
  ir : Int
  level : Int
  limited : Bool
  ramp : Bool
  ended : Bool
  /-- AUX carries the terminal voltage (R180); the claim of Warping was refused (R29). -/
  term : Bool
  refused : Bool
  lnom : Nat
  kp : Int
  ki : Int
  cmod : Option Int
  d1 : Option (Int × Int)
  rcable : Option Int
  rmod : Option Int
  v1 : Option Int
  v2 : Option Int
  tau : Option (Int × Int)
  shuttled : Bool
  deriving DecidableEq, Repr

/-- A survey waiting in its bay's Warping queue (R170). -/
structure SvReq where
  lane : Nat
  kind : Kind
  deriving DecidableEq, Repr

/-- The snapshot of a Heddle commit (R47): shadow words and segments, and the quarantine flags of the commit cycle. -/
structure Snap where
  lo : Nat
  hi : Nat
  seg : Nat
  quar : Nat
  deriving DecidableEq, Repr

/-- A candidate of the state policy (R212). -/
inductive Cand where
  | run (m : Nat)
  | pulse
  | hold
  | park
  deriving DecidableEq, Repr

/-- The hidden state of one lane. -/
structure LaneSt where
  /-- State changes waiting for a lane update, oldest first (R198). -/
  moves : List Move
  aux : AuxClaim
  /-- The full driving order: physical phases, Bobbins substituted (R196, R36). -/
  order : List Nat
  target : Option Target
  /-- Host limits ICHG, IDIS, PCHG, PDIS, VLO, VHI; absent ones give no bound (Table 19-2). -/
  limits : Vector (Option Nat) 6
  /-- The owner, tenant 0 to 7 (R468). -/
  owner : Option Nat
  prestart : Option Prestart
  attr : Attr
  attrRun : Option AttrRun
  /-- A claim waits for the conditions of R398. -/
  wants : Bool
  /-- The latest control-tap module voltage in mV and shunt current in mA, and whether each tap's latest code was saturated (R59). -/
  vMod : Int
  iShunt : Int
  vSat : Bool
  iSat : Bool
  /-- Bus voltage latched by the latest lane update, and its feedforward (R75). -/
  vBus : Int
  ff : Nat
  /-- Compensators VHI, VLO, VTGT, BHI, BLO (Table 4-4) and the coefficient words, working and staging (Table 4-8). -/
  comps : Vector Comp 5
  coefW : Vector Int 18
  coefS : Vector Int 18
  /-- The sets a COMMIT waits to copy (R97). -/
  coefPend : List Nat
  /-- The framed interval of the latest selection (R94). -/
  lo : Int
  hi : Int
  iSel : Int
  /-- Consecutive failed headroom tests (R83). -/
  head : Nat
  /-- Soft-start value r (R202); park ramp I0 and t_end (R203); fallback target (R208). -/
  ramp : Int
  i0 : Int
  tEnd : Nat
  fbTgt : Int
  /-- Policy: filtered demand, dwell count, the candidate a dwell has reached (R210 to R213). -/
  f : Nat
  dwell : Nat
  deeper : Bool
  due : Option Cand
  /-- RUN-PULSE: q, burst and ib (R215). -/
  q : Int
  burst : Nat
  ib : Int
  /-- Quarantined phases whose loss waits for a lane update; a re-forming of the order waits (R206, R204, R193). -/
  lose : List Nat
  reform : Bool
  /-- Cross-check sums, samples, discard mark, consecutive fails and passes (R71, R72). -/
  xSum : Int
  xShunt : Int
  xN : Nat
  xBad : Bool
  xFail : Nat
  xPass : Nat
  /-- The state a re-survey returns to, and the module serial number of the latest successful survey (R169, R185). -/
  back : LaneState
  serial : Option Nat
  /-- I_now left by an aborted Shuttle sequence (R105). -/
  iNow : Option Int
  /-- LNOM was last written by Warping (R116). -/
  surveyed : Bool
  /-- LN_WARP_DATA items and the NM bits of items 5 to 13 (Table 8-11). -/
  warp : Vector Nat 14
  nm : Vector Bool 14
  /-- The latest read-backs of BOV and of SHC failed (Table 15-1). -/
  rbB : Bool
  rbS : Bool
  /-- The contract's values in force; none without a contract (R93, R265). -/
  ka : Option InForce
  /-- The phase-current sum of the latest lane update (R234), and the last target R101 gave (R221). -/
  iSum : Int
  segTgt : Int
  /-- Sharing: weight w (Q0.16) and host weight h (R226, R227). -/
  w : Nat
  h : Nat
  /-- SOC check: latest SOC, the metered charge when it last changed, passing changes (R229). -/
  soc : Option Nat
  qBase : Int
  socPass : Nat
  /-- AUX: latest temperature, open, short, at or above TOVER; interlock counts and state (R246, R366, R367). -/
  auxT : Int
  auxSeen : Bool
  thOpen : Bool
  thShort : Bool
  thOver : Bool
  ilkHi : Nat
  ilkLo : Nat
  ilkOpen : Bool
  /-- A voltage and a current condition of R271, and a rank-2 factor below 256, as the latest lane update found them. -/
  brV : Bool
  brI : Bool
  derated : Bool
  /-- Port S: the causes of Table 21-3 true at the latest look, and the latched status bits (R497). -/
  psWas : Nat
  psLat : Nat
  /-- The fallback "ramp to zero" is in force (R208). -/
  fbRamp : Bool
  /-- VM of the latest successful step Q (R184); the module voltage latched by the latest lane update. -/
  vmQ : Int
  vLat : Int
  /-- Control-tap samples of the latest 2 ms: timebase, module voltage, shunt current (the 1 ms means of R261 and R491). -/
  taps : List (Nat × Int × Int)
  jml : Jml
  deriving DecidableEq, Repr

/-- The reset words of the lane coefficient sets (Table 4-8): a1 of sets 0 and 1 is 1.0. -/
def coefReset : Vector Int 18 := #v[0, 0, 0, 0, 0x100000, 0, 0, 0, 0, 0, 0, 0, 0x100000, 0, 0, 0, 0, 0]

/-- A lane right after reset: OFF, unowned, identification holding AUX (Table 1-6). -/
def LaneSt.reset : LaneSt where
  moves := []
  aux := .ident
  order := []
  target := none
  limits := Vector.replicate 6 none
  owner := none
  prestart := none
  attr := ⟨15, 0⟩
  attrRun := none
  wants := false
  vMod := 0
  iShunt := 0
  vSat := false
  iSat := false
  vBus := 0
  ff := 0
  comps := Vector.replicate 5 Comp.zero
  coefW := coefReset
  coefS := coefReset
  coefPend := []
  lo := 0
  hi := 0
  iSel := 0
  head := 0
  ramp := 0
  i0 := 0
  tEnd := 0
  fbTgt := 0
  f := 0
  dwell := 0
  deeper := false
  due := none
  q := 0
  burst := 0
  ib := 0
  lose := []
  reform := false
  xSum := 0
  xShunt := 0
  xN := 0
  xBad := false
  xFail := 0
  xPass := 0
  back := .off
  serial := none
  iNow := none
  surveyed := false
  warp := #v[2500, 1000, 470, 50000, 0x3C0000, 0, 0, 0, 0, 0, 0, 0, 0, 0]
  nm := Vector.replicate 14 true
  rbB := false
  rbS := false
  ka := none
  iSum := 0
  segTgt := 0
  w := 0
  h := 0
  soc := none
  qBase := 0
  socPass := 0
  auxT := 0
  auxSeen := false
  thOpen := false
  thShort := false
  thOver := false
  ilkHi := 0
  ilkLo := 0
  ilkOpen := false
  brV := false
  brI := false
  derated := false
  psWas := 0
  psLat := 0
  fbRamp := false
  vmQ := 0
  vLat := 0
  taps := []
  jml := Jml.reset

/-- A tenant right after reset: rings disabled, heartbeat interval 1,000 ms (R469), function existing (R412), absent. -/
def TenantSt.reset : TenantSt where
  fetched := []
  fetching := none
  cqHead := 0
  lostNext := false
  unsig := 0
  oldest := 0
  msixEn := false
  msixMask := false
  msix := Vector.replicate 8 ⟨0, 0, true⟩
  pba := 0
  bme := false
  d3hot := false
  exists' := true
  streams := Vector.replicate 4 none
  hbInt := 1000
  hbStart := none
  viol := 0
  total := 0
  window := none
  quar := 0
  latch := Vector.replicate 4 0

/-- A lane's meter right after reset (Table 12-11). -/
def Meter.reset : Meter where
  items := #v[200000, 156250, 0, 0, 0, 0, 0, 0, 0, 0, 0, 0, 0]
  counted := false
  isOver := false
  vMin := 0
  vMax := 0
  iMin := 0
  iMax := 0
  pMin := 0
  pMax := 0
  trkStart := 0
  trkEmpty := true
  trkOver := false
  inside := Vector.replicate 3 0
  calib := none

/-- A counter as manufactured: sector 0 holds a base with VALUE 0 and SEQ 0, sector 1 is erased (R308). -/
def Counter.made : Counter where
  s0 := .valid 0 0 0 false false []
  s1 := .erased
  active := 0
  st := .normal
  held := false
  heldLogged := false
  acc := 0
  alt := 0

/-- The hidden state of one bay. -/
structure BaySt where
  /-- The Warping queue and the survey that runs (R170). -/
  warpQ : List SvReq
  survey : Option Survey
  shuttle : Option ShRun
  /-- Consecutive replica comparisons with |ERR| above 64 and at most 16 (R133). -/
  dlBad : Nat
  dlGood : Nat
  /-- The unlock sequence of R138: the timebase of its first key. -/
  key1 : Option Nat
  /-- The Heddle commit in progress (R47). -/
  snap : Option Snap
  /-- The utility-ADC and phase-SAR read-back queue: SEL, and whether it was requested (R65, R68). -/
  rbQ : List (Nat × Bool)
  /-- Consecutive ISREF conversions outside and inside the window (R70). -/
  isOut : Nat
  isIn : Nat
  /-- Supply taps: consecutive conversions outside and inside, out-of-window state, latest reading (R364). -/
  supOut : Vector Nat 4
  supIn : Vector Nat 4
  supBad : Vector Bool 4
  supMv : Vector Int 4
  /-- Die temperature: consecutive readings at or above and below the thresholds, latest reading (R365). -/
  warnHi : Nat
  warnLo : Nat
  tripHi : Nat
  tripLo : Nat
  die : Int
  deriving DecidableEq, Repr

/-- A bay right after reset. -/
def BaySt.reset : BaySt where
  warpQ := []
  survey := none
  shuttle := none
  dlBad := 0
  dlGood := 0
  key1 := none
  snap := none
  rbQ := []
  isOut := 0
  isIn := 0
  supOut := Vector.replicate 4 0
  supIn := Vector.replicate 4 0
  supBad := Vector.replicate 4 false
  supMv := Vector.replicate 4 0
  warnHi := 0
  warnLo := 0
  tripHi := 0
  tripLo := 0
  die := 0

/-- The Reed engine (R160 to R162): causes waiting for each segment, and the plan that runs with its latched inputs: lane,
il, nl, vm of each planned lane, vb, causes served. -/
structure ReedIn where
  l : Nat
  il : Int
  nl : Nat
  vm : Int
  deriving DecidableEq, Repr

/-- A plan in progress. -/
structure ReedRun where
  seg : Nat
  causes : Nat
  vb : Int
  lanes : List ReedIn
  deriving DecidableEq, Repr

/-- The carrier reference, the dithering procedure and the Reed engine. -/
structure Pwm where
  /-- A PERIOD that waits for a reference boundary (R124). -/
  perPend : Option Nat
  /-- The timebase of the latest reference boundary (R122). -/
  refTb : Nat
  /-- next_period of R134: acc, v_prev, t_prev. -/
  ssAcc : Nat
  vPrev : Int
  tPrev : Nat
  reedPend : Vector Nat 4
  reed : Option ReedRun
  deriving DecidableEq, Repr

/-- The carrier logic and the Reed right after reset. -/
def Pwm.reset : Pwm where
  perPend := none
  refTb := 0
  ssAcc := 0
  vPrev := 0
  tPrev := 1600
  reedPend := Vector.replicate 4 0
  reed := none

/-- The hidden state of one bus segment (chapters 3, 4, 10). -/
structure SegSt where
  /-- Latest SAR code, whether it was an end code, the bus voltage in mV (R60). -/
  code : Nat
  sat : Bool
  vBus : Int
  /-- A mode change that waits for a segment update (R219). -/
  pend : Option Bool
  /-- The target values (Table 10-1), the slewed target, the applied demand (R99). -/
  cmdV : Nat
  slew : Nat
  droop : Nat
  plim : Nat
  vTgt : Int
  iApp : Int
  comp : Comp
  coefW : Vector Int 8
  coefS : Vector Int 8
  coefPend : Bool
  /-- Consecutive updates with CAP_LIM (R100). -/
  cap : Nat
  /-- I_bus as the latest segment update published it (R234). -/
  iBus : Int
  /-- The pending-alert byte, and the BUSOV and BUSUV levels at the latest look (R239). -/
  alerts : Nat
  was : Nat
  /-- The latest read-backs of BUSOV and of BUSUV failed (Table 15-1). -/
  rbO : Bool
  rbU : Bool
  /-- Segment-SAR samples of the latest 2 ms: timebase and bus voltage (R491). -/
  hist : List (Nat × Int)
  deriving DecidableEq, Repr

/-- A segment right after reset. -/
def SegSt.reset : SegSt where
  code := 0
  sat := false
  vBus := 0
  pend := none
  cmdV := 0
  slew := 0
  droop := 0
  plim := 0
  vTgt := 0
  iApp := 0
  comp := Comp.zero
  coefW := #v[0, 0, 0, 0, 0x100000, 0, 0, 0]
  coefS := #v[0, 0, 0, 0, 0x100000, 0, 0, 0]
  coefPend := false
  cap := 0
  iBus := 0
  alerts := 0
  was := 0
  rbO := false
  rbU := false
  hist := []

/-- The whole state of the block. -/
structure State where
  /-- Commands waiting, first in, first out. -/
  pending : List Instr
  /-- Registers that differ from their reset word: (address, word), addresses strictly rising (R509). -/
  regs : List (Nat × Word)
  /-- The 64-bit timebase (R378). -/
  tb : Nat
  /-- The next occasion number of a free value (the model's own field). -/
  free : Nat
  /-- What the latest command sent out (the model's own field). -/
  outs : List Out
  waits : List Waiting
  /-- Supervisor commands outstanding; the first status that is neither OK nor LANE_STATE, and the number of statuses other than OK
  of the latest transaction (R496). -/
  supOut : Nat
  supRes : Nat
  supBad : Nat
  /-- The tenant the dispatcher served last (R427). -/
  served : Nat
  tenants : Vector TenantSt 8
  ports : Vector Port 2
  sec : Sec
  slv : Selvedge
  nvm : Nvm
  meters : Vector Meter 48
  lanes : Vector LaneSt 48
  phases : Vector PhaseSt 192
  bays : Vector BaySt 12
  segs : Vector SegSt 4
  pwm : Pwm
  power : Power
  /-- Router: the (entry, instance) pairs asserted in the latest evaluation, as 256 · entry + instance (R354). -/
  rtrLive : List Nat
  /-- REF_SETTLED has read 1 since reset (Table 15-1). -/
  refSeen : Bool
  /-- The reference monitor (R280): consecutive checks inside since the 2 ms count started (none: it waits for a check inside, or
  the reference is off), and consecutive checks outside. -/
  refRun : Option Nat
  refOut : Nat
  /-- The reference is enabled (Table 17-1, step 3). -/
  refOn : Bool
  timers : Vector TimerSt 8
  /-- The levels timer channels drive on TIO pins, as a mask (R382, R384). -/
  tioDrv : Nat
  portM : PortM
  /-- The bits of FN_EN in force since the latest port reset are `exists'`; the start token queue holds lanes in order (R201). -/
  tokenQ : List Nat
  /-- The timebase of the latest grant of the start token (R201). -/
  lastGrant : Option Nat
  deriving DecidableEq, Repr

/-- A flash bank at rest. -/
def Bank.idle : Bank := ⟨none, none, false, [], [], 0⟩

/-- The NVM controller and its flash as manufactured: counters at 0, no parameter bank, no seal record (R308, R325, R475). -/
def Nvm.made : Nvm where
  ctrs := Vector.replicate 304 Counter.made
  banks := Vector.replicate 4 Bank.idle
  save := none
  ckptDue := false
  closing := none
  closed := false
  resolve := none
  bank0 := none
  bank1 := none
  staging := []
  commit := none
  commitBank := 0
  sealHalf0 := []
  sealHalf1 := []
  sealActive := 0
  sealNext := none
  scrub := []
  wakeMark := false

/-- The recorder right after reset, over an empty log: every selection names nothing (SLV_SNAP_ADDR). -/
def Selvedge.reset : Selvedge where
  intake := []
  ram := []
  opened := []
  pend := []
  lost := 0
  flush := none
  flushQ := []
  again := none
  log := []
  sel := List.replicate 128 0x80000000
  sealedOff := false

/-- The security block right after reset; JTAG stands at IDCODE. -/
def Sec.reset : Sec where
  challenge := none
  stmts := []
  promoDue := false
  jtagIr := 3
  extest := false

/-- Start-up right after reset: it waits for XIN (Table 17-1, step 2). -/
def Power.reset : Power where
  boot := .waitXin
  stage := .run
  wakeSrc := 0
  xinAbsent := false
  intakeOff := false
  psWake := false
  ticks := 0
  tries := 0
  pump := false

/-- The machine right after power-on reset (R395): every register at its reset word, the timebase at 0, the flash as manufactured,
start-up at step 2 of Table 17-1, the tenant served last counting as 8 (R427), and no command waiting. -/
def State.reset : State where
  pending := []
  regs := []
  tb := 0
  free := 0
  outs := []
  waits := []
  supOut := 0
  supRes := 0
  supBad := 0
  served := 8
  tenants := Vector.replicate 8 TenantSt.reset
  ports := Vector.replicate 2 ⟨false, false, false, false⟩
  sec := Sec.reset
  slv := Selvedge.reset
  nvm := Nvm.made
  meters := Vector.replicate 48 Meter.reset
  lanes := Vector.replicate 48 LaneSt.reset
  phases := Vector.replicate 192 PhaseSt.reset
  bays := Vector.replicate 12 BaySt.reset
  segs := Vector.replicate 4 SegSt.reset
  pwm := Pwm.reset
  power := Power.reset
  rtrLive := []
  refSeen := false
  refRun := none
  refOut := 0
  refOn := false
  timers := Vector.replicate 8 TimerSt.reset
  tioDrv := 0
  portM := PortM.reset
  tokenQ := []
  lastGrant := none

end Sys2Proof.Machine
end

