-- ==== Sys2Proof/Machine/Operands.lean ====
section
/-!
DEFINITION. Sys2Proof/Machine/Operands.lean: the forms in which registers are read and addressed: the address map of R509 to
R518, the field accessors, and what a read of every register returns (R10, R11), the computed views among them.
-/
namespace Sys2Proof.Machine

/-! ### Addresses (R509 to R518) -/

/-- The address of instance `i` of a register (R511, Table 22-6). -/
def Reg.addrOf (r : Reg) (i : Nat) : Nat := r.info.addr + r.info.stride * i

/-- A block of Table 22-1 as the procedure of R518 answers it. -/
inductive Block where
  | bay | ln | ph | mtr | global | none
  deriving DecidableEq, Repr

/-- decode(a) of R518: block, instance, offset. -/
def decodeBlock (a : Nat) : Block × Nat × Nat :=
  if 0x10000 ≤ a ∧ a < 0x13000 then (.bay, (a - 0x10000) / 0x400, (a - 0x10000) % 0x400)
  else if 0x20000 ≤ a ∧ a < 0x23000 then (.ln, (a - 0x20000) / 0x100, (a - 0x20000) % 0x100)
  else if 0x30000 ≤ a ∧ a < 0x31800 then (.ph, (a - 0x30000) / 0x20, (a - 0x30000) % 0x20)
  else if 0x40000 ≤ a ∧ a < 0x40C00 then (.mtr, (a - 0x40000) / 0x40, (a - 0x40000) % 0x40)
  else if a < 0x8000 then (.global, a / 0x1000, a % 0x1000)
  else (.none, 0, 0)

/-- The registers of the global block with a number (the order of Table 22-1). -/
def globalRegs : Nat → List Reg
  | 0 => regsG0 | 1 => regsG1 | 2 => regsG2 | 3 => regsG3 | 4 => regsG4 | 5 => regsG5 | 6 => regsG6 | 7 => regsG7
  | _ => []

/-- The register of a list that stands at an address, with its instance number. -/
def findReg (a : Nat) : List Reg → Option (Reg × Nat)
  | [] => none
  | r :: rs =>
    let k := r.info
    if k.addr ≤ a ∧ (a - k.addr) % k.stride = 0 ∧ (a - k.addr) / k.stride < k.count then
      some (r, (a - k.addr) / k.stride)
    else findReg a rs

/-- The register at an address; none for an unmapped one (R509, R518). -/
def decodeAddr (a : Nat) : Option (Reg × Nat) :=
  match decodeBlock a with
  | (.bay, _, _) => findReg a regsBAY
  | (.ln, _, _) => findReg a regsLN
  | (.ph, _, _) => findReg a regsPH
  | (.mtr, _, _) => findReg a regsMTR
  | (.global, g, _) => findReg a (globalRegs g)
  | (.none, _, _) => none

/-! ### Stored words and fields -/

/-- The stored word of instance `i` of a register. -/
def State.reg (s : State) (r : Reg) (i : Nat) : Word :=
  (tabGet? s.regs (r.addrOf i)).getD (BitVec.ofNat 32 r.info.reset)

/-- Store a word: a word equal to the reset word is not listed. Instances the map does not have are ignored. -/
def State.setReg (s : State) (r : Reg) (i : Nat) (w : Word) : State :=
  if r.info.count ≤ i then s
  else if w = BitVec.ofNat 32 r.info.reset then { s with regs := tabDel s.regs (r.addrOf i) }
  else { s with regs := tabSet s.regs (r.addrOf i) w }

/-- Read a field of instance `i`, unsigned. -/
def State.rd (s : State) (f : Field) (i : Nat := 0) : Nat := bitsN (s.reg f.reg i).toNat f.lo f.width

/-- Read a field as two's complement. -/
def State.rdS (s : State) (f : Field) (i : Nat := 0) : Int := toS (s.rd f i) f.width

/-- Read a one-bit field. -/
def State.flag (s : State) (f : Field) (i : Nat := 0) : Bool := s.rd f i != 0

/-- Bit `b` of a field. -/
def State.rdBit (s : State) (f : Field) (b : Nat) (i : Nat := 0) : Bool := bitN (s.rd f i) b

/-- Store the low bits of `v` in a field. -/
def State.wr (s : State) (f : Field) (v : Nat) (i : Nat := 0) : State :=
  s.setReg f.reg i (BitVec.ofNat 32 (putBits (s.reg f.reg i).toNat f.lo f.width v))

/-- Store a signed value in a field. -/
def State.wrS (s : State) (f : Field) (v : Int) (i : Nat := 0) : State := s.wr f (ofS v f.width) i

/-- Set or clear a one-bit field. -/
def State.put (s : State) (f : Field) (b : Bool) (i : Nat := 0) : State := s.wr f b.toNat i

/-- Set or clear bit `b` of a field. -/
def State.putBit (s : State) (f : Field) (b : Nat) (v : Bool) (i : Nat := 0) : State :=
  s.wr f (Machine.putBit (s.rd f i) b v) i

/-! ### Instances -/

/-- The bay of a lane, of a phase (R1). -/
def bayOfLane (l : Nat) : Nat := l / 4
def bayOfPhase (p : Nat) : Nat := p / 16
/-- The slot of a lane (R1). -/
def slotOf (l : Nat) : Nat := l % 4

/-- The state of a lane (LN_STATE, Table 9-1). -/
def State.laneState (s : State) (l : Nat) : LaneState := LaneState.ofCode (s.rd F.LN_STATE_STATE l)

/-- The lane slot is configured in the active Heddle (R34). -/
def State.configured (s : State) (l : Nat) : Bool := s.rdBit F.BAY_HEDDLE_STAT_SLOT_CFG (slotOf l) (bayOfLane l)

/-- The segment the active Heddle assigns to a lane (R40). -/
def State.segOf (s : State) (l : Nat) : Nat := bitsN (s.rd F.BAY_HEDDLE_STAT_ACT_SEG (bayOfLane l)) (2 * slotOf l) 2

/-- The active Heddle entry of a phase (R44): 4 bits. -/
def State.heddle (s : State) (p : Nat) : Nat :=
  let k := p % 16
  if k < 8 then bitsN (s.rd F.BAY_HEDDLE_ACT_LO_PH0_7 (p / 16)) (4 * k) 4
  else bitsN (s.rd F.BAY_HEDDLE_ACT_HI_PH8_15 (p / 16)) (4 * (k - 8)) 4

/-- The role of a phase: 0 unassigned, 1 active, 2 Bobbin (R44). -/
def State.role (s : State) (p : Nat) : Nat := s.heddle p / 4

/-- The lane that holds a phase in the active Heddle (R355). -/
def State.laneOf (s : State) (p : Nat) : Option Nat :=
  if s.role p = 1 ∨ s.role p = 2 then some (4 * (p / 16) + s.heddle p % 4) else none

/-- The phases of a bay. -/
def bayPhases (b : Nat) : List Nat := (List.range 16).map (16 * b + ·)

/-- The phases a lane holds, active and Bobbin, in ascending index. -/
def State.phasesOf (s : State) (l : Nat) : List Nat :=
  (bayPhases (bayOfLane l)).filter (fun p => s.laneOf p = some l)

/-- The active phases of a lane in position order (R35). -/
def State.activeOf (s : State) (l : Nat) : List Nat := (s.phasesOf l).filter (fun p => s.role p = 1)

/-- The Bobbins of a lane in ascending index (R36). -/
def State.bobbinsOf (s : State) (l : Nat) : List Nat := (s.phasesOf l).filter (fun p => s.role p = 2)

/-- The quarantine flag of a phase (BAY_PHASE_SVC). -/
def State.quarPh (s : State) (p : Nat) : Bool := s.rdBit F.BAY_PHASE_SVC_QUAR (p % 16) (p / 16)

/-- A phase is in its lane's driven set (BAY_PHASE_SVC). -/
def State.driven (s : State) (p : Nat) : Bool := s.rdBit F.BAY_PHASE_SVC_DRIVEN (p % 16) (p / 16)

/-- The trip latch of a phase, of a lane, of the device (R140). -/
def State.phLatch (s : State) (p : Nat) : Bool := s.rdBit F.BAY_PH_TRIP_TRIP (p % 16) (p / 16)
def State.lnLatch (s : State) (l : Nat) : Bool := s.flag F.LN_TRIP_TRIP l
def State.glbLatch (s : State) : Bool := s.flag F.GLB_TRIP_TRIP

/-- A latch that covers a phase is set (R140). -/
def State.covered (s : State) (p : Nat) : Bool :=
  s.glbLatch || s.phLatch p || (match s.laneOf p with | some l => s.lnLatch l | none => false)

/-- The hidden state of a lane. -/
def State.lane (s : State) (l : Nat) : LaneSt := vget s.lanes l LaneSt.reset

/-- Change the hidden state of a lane. -/
def State.onLane (s : State) (l : Nat) (f : LaneSt → LaneSt) : State := { s with lanes := vupd s.lanes l f }

/-- The hidden state of a tenant 0 to 7. -/
def State.tenant (s : State) (t : Nat) : TenantSt := vget s.tenants t TenantSt.reset

/-- Change the hidden state of a tenant. -/
def State.onTenant (s : State) (t : Nat) (f : TenantSt → TenantSt) : State := { s with tenants := vupd s.tenants t f }

/-- The hidden metering state of a lane. -/
def State.meter (s : State) (l : Nat) : Meter := vget s.meters l Meter.reset

/-- Change the hidden metering state of a lane. -/
def State.onMeter (s : State) (l : Nat) (f : Meter → Meter) : State := { s with meters := vupd s.meters l f }

/-- A Tally counter. -/
def State.ctr (s : State) (c : Nat) : Counter := vget s.nvm.ctrs c Counter.made

/-- Change a Tally counter. -/
def State.onCtr (s : State) (c : Nat) (f : Counter → Counter) : State :=
  { s with nvm := { s.nvm with ctrs := vupd s.nvm.ctrs c f } }

/-! ### Tally values (R293, R307, R311, R312) -/

/-- UNIT: accumulator counts per unit of a counter's reading (Table 12-5, Table 13-3). -/
def ctrUnit (c : Nat) : Nat :=
  if c < 288 then
    match c % 6 with
    | 0 => 2359296000000000000
    | 1 => 2359296000000000000
    | 2 => 9216000000000
    | 3 => 9216000000000
    | 4 => 2359296000000000000
    | _ => 1000000
  else if c = 288 then 20000000
  else if 290 ≤ c ∧ c ≤ 297 then 2359296000000000000
  else 1

/-- The live reading of a counter (R293). -/
def State.reading (s : State) (c : Nat) : Nat := (s.ctr c).acc / ctrUnit c

/-- The INC of a used slot; a torn cell adds nothing (R311). -/
def Cell.inc : Cell → Nat
  | .ok i _ => i
  | .torn => 0

/-- The value of a sector: VALUE plus every valid cell, limited to 2^64 - 1 (R311). -/
def Sector.total : Sector → Nat
  | .valid _ v _ _ _ cs => min (cs.foldl (fun a c => a + c.inc) v) (2 ^ 64 - 1)
  | _ => 0

/-- The used slots of a sector. -/
def Sector.used : Sector → Nat
  | .valid _ _ _ _ _ cs => cs.length
  | _ => 0

/-- The SEQ of a sector's base; 0 where it has none. -/
def Sector.seq : Sector → Nat
  | .valid q _ _ _ _ _ => q
  | _ => 0

/-- The latest valid cell's slot, if any. -/
def lastOk : Nat → List Cell → Option Nat → Option Nat
  | _, [], r => r
  | j, .ok _ _ :: t, _ => lastOk (j + 1) t (some j)
  | j, .torn :: t, r => lastOk (j + 1) t r

/-- The SEQ of the last record of a sector: its last valid cell, or its base (R321, Table 20-4). -/
def Sector.lastSeq : Sector → Nat
  | .valid q _ _ _ _ cs => match lastOk 0 cs none with | some j => q + j | none => q
  | _ => 0

/-- The SAVE bit of the last record of a sector (R321). -/
def Sector.lastSave : Sector → Bool
  | .valid _ _ _ sv _ cs =>
    match lastOk 0 cs none with
    | some j => (match cs.getD j .torn with | .ok _ b => b | .torn => sv)
    | none => sv
  | _ => false

/-- The active sector of a counter. -/
def Counter.sector (c : Counter) : Sector := if c.active = 0 then c.s0 else c.s1

/-- The other sector. -/
def Counter.other (c : Counter) : Sector := if c.active = 0 then c.s1 else c.s0

/-- The stored value: the value as of the latest completed cell (R312). -/
def Counter.stored (c : Counter) : Nat := c.sector.total

/-- The STATE of NVM_TINFO. -/
def Counter.code (c : Counter) : Nat :=
  match c.st with
  | .disputed => 1
  | .void => 2
  | .normal => if c.held then 3 else 0

/-- Operating time in 0.1 s and the power-cycle count, as records carry them (R334). -/
def State.opTime (s : State) : Nat := s.reading 288
def State.pCyc (s : State) : Nat := s.reading 289

/-- An erase of the counter is queued or runs. -/
def State.erasePend (s : State) (c : Nat) : Bool :=
  s.nvm.banks.toList.any (fun b =>
    b.eraseQ.any (fun e => match e with | .tally d _ _ => d == c | _ => false) ||
    (match b.erase with | some (.tally d _ _) => d == c | _ => false))

/-- Queued Tally erases, the one that runs included (NVM_STAT). -/
def State.eraseCount (s : State) : Nat :=
  s.nvm.banks.toList.foldl (fun n b =>
    n + b.eraseQ.countP (fun e => match e with | .tally _ _ _ => true | _ => false) +
    (match b.erase with | some (.tally _ _ _) => 1 | _ => 0)) 0

/-- IDs of the counters that are DISPUTED or VOID. -/
def State.disputed (s : State) : List Nat := (List.range 304).filter (fun c => (s.ctr c).st ≠ .normal)

/-! ### Record words (R333, R334) -/

/-- Bytes 0 to 61 of a record (Table 14-1). -/
def Rec.body (r : Rec) : List Byte :=
  leBytes 4 r.seq ++ leBytes 2 r.code ++ leBytes 2 r.src ++ leBytes 1 r.flags ++ leBytes 3 r.rept ++
  leBytes 5 r.tFirst ++ leBytes 5 r.tLast ++ leBytes 2 r.pcyc ++ leBytes 4 r.tb ++
  ((List.range 8).foldl (fun a n => a ++ leBytes 4 (r.snap.getD n 0).toNat) []) ++ leBytes 2 r.seq

/-- The 64 bytes of a record: ECHO and CHECK as R334 states. -/
def Rec.bytes (r : Rec) : List Byte := r.body ++ leBytes 2 (crc16 r.body).toNat

/-- Word `n` of a record. -/
def Rec.word (r : Rec) (n : Nat) : Word := BitVec.ofNat 32 (leAt r.bytes (4 * n) 4)

/-! ### What a read returns -/

/-- The roles of the tenants (Table 20-1). -/
def State.roleOf (s : State) (t : Nat) : Nat := if t < 8 then s.rd (F.SEC_ROLE_ROLE0.up (3 * t)) else 4

/-- The tenant that is Manager (R463). -/
def State.manager (s : State) : Nat := if s.roleOf 0 = 3 then 0 else 4

/-- The port of a tenant: 0 A, 1 B. -/
def portOf (t : Nat) : Nat := t / 4

/-- A tenant is absent (R466). -/
def State.absent (s : State) (t : Nat) : Bool :=
  !(s.tenant t).exists' || s.rdBit F.GLB_PORT_STAT_PERST_A 0 && decide (t < 4) ||
  s.flag F.GLB_PORT_STAT_PERST_B && decide (4 ≤ t) ||
  !(if t < 4 then s.flag F.HST_LINK_A_UP else s.flag F.HST_LINK_B_UP) || (s.tenant t).d3hot

/-- The hidden state of a bay. -/
def State.bay (s : State) (b : Nat) : BaySt := vget s.bays b BaySt.reset

/-- Change the hidden state of a bay. -/
def State.onBay (s : State) (b : Nat) (f : BaySt → BaySt) : State := { s with bays := vupd s.bays b f }

end Sys2Proof.Machine
end

