-- ==== Sys2Proof/Machine/Views.lean ====
section
/-!
DEFINITION. Sys2Proof/Machine/Views.lean: what a read of every register returns (R10, R11, R513): the words registers hold, and the
status their engines maintain.
-/
namespace Sys2Proof.Machine

/-- A bay is clock-gated: BAY_AUTOGATE, and every slot in OFF, DETECT, NEGOTIATE or LOST (R22). -/
def State.gated (s : State) (b : Nat) : Bool :=
  s.flag F.GLB_CLK_CFG_BAY_AUTOGATE && (List.range 4).all (fun n => match s.laneState (4 * b + n) with
    | .off | .detect | .negotiate | .lost => true
    | _ => false)

/-- A survey or readmit check of the bay runs (GLB_BAY_STAT). -/
def State.warpBusy (s : State) (b : Nat) : Bool := (s.bay b).survey.isSome

/-- A log sector erase runs or is suspended (SLV_STAT). -/
def State.slvErasing (s : State) : Bool :=
  s.nvm.banks.toList.any (fun b => match b.erase with | some (.slv _) => true | _ => false)

/-- The summary word of a bay (GLB_BAY_STAT): AN_ON is held in the register, every other bit is a copy (R512). -/
def State.bayStat (s : State) (b : Nat) : Word :=
  BitVec.ofNat 32 (
    (s.flag F.GLB_BAY_STAT_AN_ON b).toNat +
    (s.gated b).toNat * 2 ^ 1 +
    (s.flag F.BAY_DL_STAT_DL_LOCK b).toNat * 2 ^ 2 +
    (s.flag F.BAY_PWM_CTL_PWM_EN b).toNat * 2 ^ 3 +
    (s.flag F.BAY_ISREF_STAT_ISREF_BAD b).toNat * 2 ^ 4 +
    (s.rdBit F.GLB_TEMP_STAT_WARN b).toNat * 2 ^ 5 +
    (s.rdBit F.GLB_TEMP_STAT_TRIP b).toNat * 2 ^ 6 +
    (s.rdBit F.GLB_SUP_STAT_OUT b).toNat * 2 ^ 7 +
    (s.flag F.BAY_SHTL_STAT_ACTIVE b).toNat * 2 ^ 8 +
    (s.warpBusy b).toNat * 2 ^ 9 +
    s.rd F.BAY_HEDDLE_STAT_SLOT_CFG b * 2 ^ 12 + s.rd F.BAY_PH_TRIP_TRIP b * 2 ^ 16)

/-- Accounting runs for a lane (R294). -/
def State.acct (s : State) (l : Nat) : Bool :=
  s.configured l && s.flag F.GLB_REF_REF_SETTLED && s.flag F.GLB_CLK_STAT_PLL_LOCK && s.rd F.MTR_CFG_MODE l != 2 &&
    s.flag F.NVM_STAT_RECOVERED && s.nvm.closing != some .powerFail && !s.nvm.wakeMark

/-- LSTATE of LN_JML. -/
def Jml.code (j : Jml) : Nat :=
  match j.link with
  | .idle => 0
  | .ident => 1
  | .negot => 2
  | .contactor => 3
  | .held => if j.swap then 7 else if j.grace then 5 else 4
  | .hard _ => 6

/-- The hidden state of a phase, of a segment, a timer. -/
def State.ph (s : State) (p : Nat) : PhaseSt := vget s.phases p PhaseSt.reset
def State.seg (s : State) (g : Nat) : SegSt := vget s.segs g SegSt.reset
def State.timer (s : State) (g : Nat) : TimerSt := vget s.timers g TimerSt.reset

/-- The phase drives and has not reached its target offset (R154). -/
def State.gliding (s : State) (p : Nat) : Bool := (s.ph p).on && (s.ph p).ofs != (s.ph p).ofsT

/-- A phase of a lane glides. -/
def State.laneGlides (s : State) (l : Nat) : Bool := (s.phasesOf l).any s.gliding

/-- Place the values of fields in a word. -/
def putFields (w : Nat) (fs : List (Field × Nat)) : Word :=
  BitVec.ofNat 32 (fs.foldl (fun w f => putBits w f.1.lo f.1.width f.2) w)

/-- The mask of the numbers below `n` that satisfy a predicate. -/
def maskBelow (n : Nat) (f : Nat → Bool) : Nat := maskOf ((List.range n).filter f)

/-- Some pin is held by a timer channel: a compare channel with a pin action (R382). -/
def State.timerHolds (s : State) (n : Nat) : Bool :=
  (List.range 8).any (fun g => (List.range 4).any (fun c =>
    let m := s.rd (F.TMR_CCFG_MODE0.up (8 * c)) g
    (m == 1 || m == 2) && s.rd (F.TMR_CCFG_ACT0.up (8 * c)) g != 0 && s.rd (F.TMR_CCFG_PIN0.up (8 * c)) g == n))

/-- What TMR_CV reads: the oldest capture of channel CSEL, or its compare value (R387). -/
def State.timerValue (s : State) (g : Nat) : Nat :=
  let c := s.rd F.TMR_CFG_CSEL g
  if s.rd (F.TMR_CCFG_MODE0.up (8 * c)) g = 3 then (vget (s.timer g).q c []).headD 0 else vget (s.timer g).val c 0

/-- LEVEL and DROPS of the channels of a timer (TMR_CSTAT). -/
def State.timerStat (s : State) (g : Nat) : Nat :=
  (List.range 4).foldl (fun w c =>
    w + ((vget (s.timer g).q c []).length + 8 * vget (s.timer g).drops c 0) * 2 ^ (8 * c)) 0

/-- Milliseconds since a poll entry's latest success, saturating; 0 before the first (SMB_POLL_STAT). -/
def State.pollAge (s : State) (e : PollEnt) : Nat :=
  match e.okAt with
  | some t => min ((s.tb - t) / 200000) 65535
  | none => 0

/-- SMB_POLL_STAT of an entry. -/
def State.pollStat (s : State) (e : PollEnt) : Word :=
  putFields 0 [(F.SMB_POLL_STAT_LAST, e.last), (F.SMB_POLL_STAT_VALID, e.valid.toNat), (F.SMB_POLL_STAT_FAILS, e.fails),
    (F.SMB_POLL_STAT_AGE, s.pollAge e)]

/-- The poll entry SMB_POLL_SEL selects. -/
def State.pollSel (s : State) : PollEnt := vget s.portM.polls (s.rd F.SMB_POLL_SEL_ENTRY) ⟨0, 0, false, 0, none⟩

/-- GLB_THM_RD for the lane it selects (R366, R367). -/
def State.thermRead (s : State) (w : Nat) : Word :=
  let x := s.lane (s.rd F.GLB_THM_RD_LSEL)
  let held := x.aux == .thermistor
  putFields w [(F.GLB_THM_RD_TEMP, ofS x.auxT 8), (F.GLB_THM_RD_VALID, (held && x.auxSeen && !x.thOpen && !x.thShort).toNat),
    (F.GLB_THM_RD_OPEN, x.thOpen.toNat), (F.GLB_THM_RD_SHORT, x.thShort.toNat), (F.GLB_THM_RD_OVER, x.thOver.toNat)]

/-- The word LN_WARP_DATA reads: the item at IDX, with NM of a read-only one (R195). -/
def State.warpWord (s : State) (l : Nat) : Nat :=
  let x := s.lane l
  let k := s.rd F.LN_WARP_CFG_IDX l
  vget x.warp k 0 + (if 5 ≤ k ∧ vget x.nm k true then 2 ^ 31 else 0)

/-- The working coefficient word LN_COEF_SEL selects (R97). -/
def State.coefRead (s : State) (l : Nat) : Nat :=
  ofS (vget (s.lane l).coefW (8 * s.rd F.LN_COEF_SEL_SET l + s.rd F.LN_COEF_SEL_INDEX l) 0) 24

/-- Status words of the lane, phase, bay and metering blocks that their engines maintain. -/
def State.viewUnit (s : State) (r : Reg) (i : Nat) : Word :=
  let w := (s.reg r i).toNat
  match r with
  | .GLB_BAY_STAT => s.bayStat i
  | .LN_COEF_DATA => BitVec.ofNat 32 (s.coefRead i)
  | .LN_REED => putFields w [(F.LN_REED_GLIDING, (s.laneGlides i).toNat)]
  | .LN_WARP_DATA => BitVec.ofNat 32 (s.warpWord i)
  | .LN_JML => putFields w [(F.LN_JML_LSTATE, (s.lane i).jml.code)]
  | .MTR_DATA => ((s.meter i).items.toList.getD (s.rd F.MTR_SEL_IDX i) 0).setWidth 32
  | .MTR_STAT => putFields w [(F.MTR_STAT_ACCT, (s.acct i).toNat)]
  | _ => s.reg r i

/-- Status words of the segment, Treadle, Reed, timer, router and monitor registers. -/
def State.viewEngine (s : State) (r : Reg) (i : Nat) : Word :=
  let w := (s.reg r i).toNat
  match r with
  | .BUS_COEF_DATA =>
    BitVec.ofNat 32 (ofS (vget (s.seg (s.rd F.BUS_COEF_SEL_SEG)).coefW (s.rd F.BUS_COEF_SEL_INDEX) 0) 24)
  | .BUS_TGT =>
    let g := s.rd F.BUS_TGT_SEL
    putFields w [(F.BUS_TGT_VTGT, if s.flag (F.BUS_STAT_MODE0.up g) then (s.seg g).vTgt.toNat else 0)]
  | .TRD_STAT =>
    let m := maskBelow 4 (fun g => (s.seg g).alerts != 0)
    let live := s.flag F.TRD_CFG_PORT_EN && s.power.stage == .run && !s.flag F.GLB_PF_PFI_LIVE && !s.flag F.GLB_PF_PF_STATE
    putFields w [(F.TRD_STAT_ALERT, m), (F.TRD_STAT_ALT_LIVE, (m != 0 && live).toNat)]
  | .REED_STAT =>
    putFields w [(F.REED_STAT_PENDING, maskBelow 4 (fun g => vget s.pwm.reedPend g 0 != 0)), (F.REED_STAT_BUSY, s.pwm.reed.isSome.toNat),
      (F.REED_STAT_GLIDING, maskBelow 4 (fun g => (List.range 48).any (fun l => s.configured l && s.segOf l == g && s.laneGlides l)))]
  | .REED_OFS =>
    let p := s.rd F.REED_OFS_PSEL
    putFields w [(F.REED_OFS_OFS, (s.ph p).ofs), (F.REED_OFS_GLIDE, ((s.ph p).ofs != (s.ph p).ofsT).toNat)]
  | .RTR_LIVE => BitVec.ofNat 32 (maskBelow 32 (fun n => s.rtrLive.any (fun k => k / 256 == 32 * i + n)))
  | .TMR_TB_LO => BitVec.ofNat 32 s.tb
  | .TMR_TB_HI => BitVec.ofNat 32 (s.tb / 2 ^ 32)
  | .TMR_RUN => putFields w [(F.TMR_RUN_RUN, maskBelow 8 (fun g => s.flag F.TMR_CFG_EN g)), (F.TMR_RUN_PINS, maskBelow 8 s.timerHolds)]
  | .TMR_CNT => BitVec.ofNat 32 (s.timer i).count
  | .TMR_CV => BitVec.ofNat 32 (s.timerValue i)
  | .TMR_CSTAT => BitVec.ofNat 32 (s.timerStat i)
  | .GLB_CLK_STAT => putFields w [(F.GLB_CLK_STAT_BAY_GATED, maskBelow 12 s.gated)]
  | .GLB_BOOT => putFields w [(F.GLB_BOOT_XIN_WAIT, (s.power.boot == .waitXin).toNat)]
  | .GLB_SUP_RD =>
    putFields w [(F.GLB_SUP_RD_MV, ofS (vget (s.bay (s.rd F.GLB_SUP_RD_BSEL)).supMv (s.rd F.GLB_SUP_RD_SUP) 0) 12)]
  | .GLB_TEMP_RD => putFields w [(F.GLB_TEMP_RD_TEMP, ofS (s.bay (s.rd F.GLB_TEMP_RD_BSEL)).die 12)]
  | .GLB_THM_RD => s.thermRead w
  | .SMB_S_STAT => putFields w [(F.SMB_S_STAT_BUSY, (s.supOut != 0).toNat)]
  | .SMB_S_HOLD_LO => BitVec.ofNat 32 (maskBelow 32 (fun l => s.flag F.LN_STATE_SUP_HOLD l))
  | .SMB_S_HOLD_HI => BitVec.ofNat 32 (maskBelow 16 (fun l => s.flag F.LN_STATE_SUP_HOLD (l + 32)))
  | .SMB_M_STAT => putFields w [(F.SMB_M_STAT_PTQ, s.portM.q.length)]
  | .SMB_POLL_CFG => BitVec.ofNat 32 s.pollSel.cfg
  | .SMB_POLL_STAT => s.pollStat s.pollSel
  | r => s.viewUnit r i

/-- The word a register holds or its hardware maintains, before the rules of WO and reserved bits. -/
def State.view (s : State) (r : Reg) (i : Nat) : Word :=
  let sel := s.rd F.NVM_TSEL_ID
  let c := s.ctr sel
  match r with
  | .GLB_UID_LO => BitVec.ofNat 32 Config.uid.toNat
  | .GLB_UID_HI => BitVec.ofNat 32 (Config.uid.toNat / 2 ^ 32)
  | .GLB_OPTIME_LO => if s.flag F.NVM_STAT_RECOVERED then BitVec.ofNat 32 s.opTime else 0
  | .GLB_PCYC => if s.flag F.NVM_STAT_RECOVERED then BitVec.ofNat 32 s.pCyc else 0
  | .GLB_LTRIP_LO => BitVec.ofNat 32 (maskOf ((List.range 32).filter (fun l => s.lnLatch l)))
  | .GLB_LTRIP_HI => BitVec.ofNat 32 (maskOf ((List.range 16).filter (fun l => s.lnLatch (l + 32))))
  | .GLB_LANE_SUM =>
    BitVec.ofNat 32 ((List.range 8).foldl (fun a k => a + s.rd F.LN_STATE_STATE (8 * i + k) * 16 ^ k) 0)
  | .NVM_TVAL_LO => BitVec.ofNat 32 (s.reading sel)
  | .NVM_TSTO_LO => BitVec.ofNat 32 c.stored
  | .NVM_TALT_LO => if c.st = .disputed then BitVec.ofNat 32 c.alt else 0
  | .NVM_TINFO =>
    BitVec.ofNat 32 (c.sector.used + c.active * 2 ^ 7 + c.code * 2 ^ 8 + (s.erasePend sel).toNat * 2 ^ 10 +
      c.sector.lastSave.toNat * 2 ^ 11 + (decide (c.stored < s.reading sel)).toNat * 2 ^ 12)
  | .NVM_TSEQ => BitVec.ofNat 32 c.sector.seq
  | .NVM_DISP =>
    BitVec.ofNat 32 (s.disputed.length + (match s.disputed with | d :: _ => d | [] => 0x1FF) * 2 ^ 16)
  | .NVM_STAT =>
    BitVec.ofNat 32 (putBits (putBits (s.reg r i).toNat 8 9 s.eraseCount) 20 4
      (maskOf ((List.range 4).filter (fun n => match s.nvm.banks.toList[n]? with
        | some b => b.prog.isSome || b.erase.isSome
        | none => false))))
  | .NVM_PSEQ0 => BitVec.ofNat 32 (match s.nvm.bank0 with | some b => b.seq | none => 0)
  | .NVM_PSEQ1 => BitVec.ofNat 32 (match s.nvm.bank1 with | some b => b.seq | none => 0)
  | .SLV_STAT =>
    BitVec.ofNat 32 (s.slv.pend.length + s.slv.opened.length * 2 ^ 9 +
      (s.slv.log.countP (fun e => match e.2 with | .held _ => true | .lost _ => false)) * 2 ^ 16 +
      s.slv.flush.isSome.toNat * 2 ^ 30 + s.slvErasing.toNat * 2 ^ 31)
  | .SLV_SNAP_ADDR => s.slv.sel.getD (8 * s.rd F.SLV_SNAP_SEL_K + s.rd F.SLV_SNAP_SEL_N) 0x80000000
  | .SLV_RDAT =>
    match tabGet? s.slv.ram (s.rd F.SLV_RSEL_SEQ % 512) with
    | some q => q.word i
    | none => 0
  | .SEC_TINFO =>
    let t := s.tenant (s.rd F.SEC_TSEL_TSEL)
    BitVec.ofNat 32 (t.hbInt + t.viol * 2 ^ 16 + t.total * 2 ^ 24)
  | .SEC_TFLAGS =>
    BitVec.ofNat 32 (putBits (s.reg r i).toNat 16 8 (maskOf ((List.range 8).filter (fun t => !s.absent t))))
  | .SEC_STAT =>
    BitVec.ofNat 32 (putBits (putBits (putBits (s.reg r i).toNat 8 3 s.manager) 5 1 s.sec.challenge.isSome.toNat)
      6 1 Config.keyProgrammed.toNat)
  | .GLB_ATTR =>
    let a := (s.lane (s.rd F.GLB_ATTR_LSEL)).attr
    BitVec.ofNat 32 (putBits (putBits (s.reg r i).toNat 8 4 a.ph) 12 2 a.basis)
  | r => s.viewEngine r i

/-- What a tenant's read of a register returns: the high words are those its own latest reads of the low registers latched (R515). -/
def State.viewFor (s : State) (t : Nat) (r : Reg) (i : Nat) : Word :=
  match r with
  | .NVM_TVAL_HI => vget (s.tenant t).latch 0 0
  | .NVM_TSTO_HI => vget (s.tenant t).latch 1 0
  | .NVM_TALT_HI => vget (s.tenant t).latch 2 0
  | .GLB_OPTIME_HI => vget (s.tenant t).latch 3 0
  | r => s.view r i

end Sys2Proof.Machine
end

