-- ==== Sys2Proof/Machine/Ops.lean ====
section
/-!
DEFINITION. Sys2Proof/Machine/Ops.lean: the operations the meanings share: register reads, the recording of events (R336, R337),
entries of the completion and event rings (R428 to R432), completions (R442 to R444), notices, host violations and quarantine
(R470 to R473), and the checks every ring command passes (R442).
-/
namespace Sys2Proof.Machine

/-- Every command starts with nothing sent out. -/
def State.begin (s : State) : State := { s with outs := [] }

/-- The tenant whose function sends a TLP. -/
def Out.sender : Out → Option Nat
  | .hostWrite t _ _ | .hostRead t _ _ | .msix t _ | .readData t _ | .abort t => some t
  | _ => none

/-- A TLP of a tenant's port takes its link back to L0 (R414). -/
def State.toL0 (s : State) (t : Nat) : State :=
  if t < 4 then (if s.rd F.HST_LINK_A_PM = 0 then s else s.wr F.HST_LINK_A_PM 0)
  else (if s.rd F.HST_LINK_B_PM = 0 then s else s.wr F.HST_LINK_B_PM 0)

/-- Send something out. -/
def State.emit (s : State) (o : Out) : State :=
  let s := { s with outs := s.outs ++ [o] }
  match o.sender with
  | some t => s.toL0 t
  | none => s

/-- A fresh occasion number for a free value. -/
def State.draw (s : State) : Nat × State := (s.free, { s with free := s.free + 1 })

/-- Apply `f` for every index of a list, in its order. -/
def State.forEach (s : State) (l : List Nat) (f : State → Nat → State) : State := l.foldl f s

/-- Add to a counting field, saturating at its largest value. -/
def State.bump (s : State) (f : Field) (n : Nat := 1) (i : Nat := 0) : State :=
  s.wr f (min (s.rd f i + n) (2 ^ f.width - 1)) i

/-! ### Register reads (R10, R11, R336) -/

/-- The bits of a register that a read returns: every listed bit but those of WO fields (R10, R11). -/
def Reg.readMask (r : Reg) : Word := ~~~ (BitVec.ofNat 32 r.info.wo)

/-- What a register-space read of an address returns (R509, R10). -/
def State.readAddr (s : State) (a : Nat) : Word :=
  match decodeAddr a with
  | some (r, i) => s.view r i &&& r.readMask
  | none => 0

/-! ### Recording events (R336, R337, R341) -/

/-- One snapshot word: nothing selected, an unmapped or misaligned address reads 0 (R336). -/
def State.snapWord (s : State) (sel : Word) : Word :=
  if sel.msb ∨ sel.toNat % 4 ≠ 0 then 0 else s.readAddr sel.toNat

/-- The snapshot of a trigger class in force now. -/
def State.snapshot (s : State) (k : Nat) : List Word :=
  (List.range 8).map (fun n => s.snapWord (s.slv.sel.getD (8 * k + n) 0x80000000))

/-- The report of an event detected now; `own` replaces the snapshot for events with content of their own (R338). -/
def State.report (s : State) (code src flags : Nat) (own : Option (List Word) := none) : Report where
  code := code
  src := src
  flags := flags % 256
  tb := s.tb
  optime := s.opTime % 2 ^ 40
  pcyc := s.pCyc % 65536
  early := !s.flag F.NVM_STAT_RECOVERED
  snap := match own with | some w => w | none => s.snapshot (code / 256 - 1)

/-- Count a lost report (R341). -/
def State.loseReport (s : State) : State :=
  let s := s.bump F.SLV_EVT_DROPS
  { s with slv := { s.slv with lost := s.slv.lost + 1 } }

/-- Record an event: its report enters the intake queue, or is dropped and counted when 64 already wait (R337, R341). -/
def State.record (s : State) (code src flags : Nat) (own : Option (List Word) := none) : State :=
  if 64 ≤ s.slv.intake.length then s.loseReport
  else { s with slv := { s.slv with intake := s.slv.intake ++ [s.report code src flags own] } }

/-- Source indices of Table 1-5. -/
def srcLane (l : Nat) : Nat := 0xC0 + l
def srcSeg (x : Nat) : Nat := 0x100 + x
def srcBay (b : Nat) : Nat := 0x110 + b
def srcTenant (t : Nat) : Nat := 0x120 + t
def srcTimer (g : Nat) : Nat := 0x130 + g
def srcTio (n : Nat) : Nat := 0x138 + n
def srcDevice : Nat := 0x160

/-- Source index and flags of a counter's events (R331). -/
def ctrSrc (c : Nat) : Nat × Nat := if c < 288 then (srcLane (c / 6), c % 6) else (srcDevice, 0x10 + (c - 288))

/-- Record an event of a counter (R331); `bit7` is the choice of 0x0A08. -/
def State.recordCtr (s : State) (code c : Nat) (bit7 : Bool := false) : State :=
  s.record code (ctrSrc c).1 ((ctrSrc c).2 + 128 * bit7.toNat)

/-! ### Completion and event ring entries (R428 to R432) -/

/-- Entries written and not yet released (R426). -/
def State.unreleased (s : State) (t : Nat) : Nat :=
  let n := 2 ^ s.rd F.HST_CQ_CFG_SIZE t
  (s.rd F.HST_CQ_STAT_TAIL t + n - (s.tenant t).cqHead) % n

/-- Post a message on a vector, or set its pending bit while masked; nothing while MSI-X is disabled (R431). -/
def State.postVec (s : State) (t v : Nat) : State :=
  let x := s.tenant t
  if !x.msixEn then s
  else if x.msixMask || (vget x.msix v ⟨0, 0, true⟩).masked then s.onTenant t (fun x => { x with pba := x.pba ||| 1#8 <<< v })
  else s.emit (.msix t v)

/-- Signal the completion ring: the message covers every unsignalled entry (R431). -/
def State.signalRing (s : State) (t : Nat) : State :=
  (s.postVec t (s.rd F.HST_CQ_CFG_VEC t)).onTenant t (fun x => { x with unsig := 0 })

/-- Write one entry at the ring's tail and advance it; the phase bit inverts at the wrap (R428). `body` is bytes 0 to 23. -/
def State.pushEntry (s : State) (t : Nat) (body : List Byte) (cid opcode status type : Nat) : State :=
  let x := s.tenant t
  let size := s.rd F.HST_CQ_CFG_SIZE t
  let tail := s.rd F.HST_CQ_STAT_TAIL t
  let ph := s.rd F.HST_CQ_STAT_PHASE t
  let base := s.rd F.HST_CQ_BASE_LO_ADDR t * 2 ^ 12 + s.rd F.HST_CQ_BASE_HI_ADDR_HI t * 2 ^ 32
  let bytes := fitBytes 24 body ++ leBytes 2 cid ++ leBytes 1 opcode ++ leBytes 1 status ++
    leBytes 2 (s.rd F.HST_SQ_STAT_HEAD t) ++ leBytes 1 x.lostNext.toNat ++ leBytes 1 (16 * type + ph)
  let s := s.emit (.hostWrite t (base + 32 * tail) bytes)
  let next := (tail + 1) % 2 ^ size
  let s := s.wr F.HST_CQ_STAT_TAIL next t
  let s := if next = 0 then s.wr F.HST_CQ_STAT_PHASE (1 - ph) t else s
  let s := s.onTenant t (fun x =>
    { x with lostNext := false, oldest := if x.unsig = 0 then s.tb else x.oldest, unsig := x.unsig + 1 })
  if max 1 (s.rd F.HST_CQ_CFG_COAL_N t) ≤ (s.tenant t).unsig then s.signalRing t else s

/-- No completion, event entry, telemetry record or message is written in the power-fail state (R369). -/
def State.ringsDead (s : State) : Bool := s.flag F.GLB_PF_PF_STATE

/-- An event entry, or a completion the Kuvin originates: written while there is room and CQ EN reads 1, else dropped and
counted (R429). While Bus Master Enable is 0 it is discarded (R439). -/
def State.pushEvent (s : State) (t : Nat) (body : List Byte) (status type : Nat) : State :=
  if s.ringsDead ∨ !(s.tenant t).bme then s
  else if s.flag F.HST_CQ_CFG_EN t ∧
      s.unreleased t + s.rd F.HST_T_ERR_OUTST t + 1 ≤ 2 ^ s.rd F.HST_CQ_CFG_SIZE t - 1 then
    s.pushEntry t body 0xFFFF 0 status type
  else (s.bump F.HST_CQ_STAT_DROPPED 1 t).onTenant t (fun x => { x with lostNext := true })

/-- An event entry for several tenants, each once (R432). -/
def State.notify (s : State) (ts : List Nat) (body : List Byte) (type : Nat) : State :=
  s.forEach ((List.range 8).filter (fun t => ts.contains t)) (fun s t => s.pushEvent t body 0 type)

/-- A tenant notice, type 5: KIND, bytes 1 to 7, timebase, bytes 16 to 23 (R432, R473). -/
def State.notice (s : State) (ts : List Nat) (kind : Nat) (b : List Byte) : State :=
  s.notify ts (leBytes 1 kind ++ fitBytes 7 b ++ leBytes 8 s.tb) 5

/-- A lane state change entry, type 3, to the owner and every tenant with LANE_ALL (R199, R432). -/
def State.laneEvent (s : State) (l : Nat) : State :=
  let g := fun f => s.rd f l
  s.notify ((s.lane l).owner.toList ++ (List.range 8).filter (fun t => s.flag F.HST_EVT_CFG_LANE_ALL t))
    (leBytes 1 l ++ leBytes 1 (g F.LN_STATE_STATE) ++ leBytes 1 (g F.LN_STATE_PREV) ++ leBytes 1 (g F.LN_STATE_N) ++
      leBytes 1 (g F.LN_STATE_NFULL) ++
      leBytes 1 (g F.LN_STATE_PARK_SRC + 2 * g F.LN_STATE_CONTRACT + 4 * g F.LN_STATE_FB_ACTIVE +
        8 * g F.LN_STATE_SUP_HOLD) ++
      leBytes 1 (g F.LN_STATE_FCAUSE) ++ zeros 1 ++ leBytes 8 s.tb ++ leInt32 (s.rdS F.LN_LOOP_STAT_IREF l)) 3

/-! ### Host violations and quarantine (R470 to R472) -/

/-- Quarantine a tenant for a cause: 1 violations, 2 ring ECC (R471, R24). -/
def State.quarantine (s : State) (t cause : Nat) : State :=
  let s := s.putBit F.SEC_TFLAGS_QUAR t true
  let s := s.onTenant t (fun x => { x with quar := cause })
  let s := if cause = 1 then s.record 0x0E02 (srcTenant t) 0 else s
  s.notice [t, s.manager] 0x10 (leBytes 1 t ++ leBytes 1 cause)

/-- A tenant is quarantined. -/
def State.quarT (s : State) (t : Nat) : Bool := s.rdBit F.SEC_TFLAGS_QUAR t

/-- Count a host violation of a kind of Table 20-2; the 65th inside one window quarantines (R470, R471). -/
def State.violation (s : State) (t kind : Nat) : State :=
  let s := s.record 0x0E01 (srcTenant t) kind
  let s := s.onTenant t (fun x =>
    { x with total := min (x.total + 1) 255, viol := (if x.window.isSome then min (x.viol + 1) 127 else 1),
             window := (if x.window.isSome then x.window else some s.tb) })
  if (s.tenant t).viol = 65 ∧ !s.quarT t then s.quarantine t 1 else s

/-! ### Completions (R442 to R444, R544) -/

/-- Status codes of Table 19-6. -/
def stOk : Nat := 0x00
def stInvalidOpcode : Nat := 0x01
def stFieldRange : Nat := 0x02
def stNotPermitted : Nat := 0x03
def stNotOwner : Nat := 0x04
def stDmaFault : Nat := 0x05
def stLaneState : Nat := 0x06
def stResourceBusy : Nat := 0x07
def stNvmBusy : Nat := 0x08
def stSealed : Nat := 0x09
def stQuarantined : Nat := 0x0A
def stPartnerRefused : Nat := 0x0B
def stTimeout : Nat := 0x0C
def stRingOverrun : Nat := 0x0D

/-- The violation a completion status counts as (Table 20-2). -/
def statusViolation (st : Nat) : Option Nat :=
  if st = stInvalidOpcode then some 1 else if st = stFieldRange then some 2
  else if st = stNotOwner then some 3 else if st = stDmaFault then some 4 else none

/-- A command of the supervisor completes (R496): no ring entry, no violation; its status enters MFR_SUP_RESULT. -/
def State.supResult (s : State) (status : Nat) : State :=
  { s with
    supOut := s.supOut - 1
    supRes := if s.supRes = 0 ∧ status ≠ stOk ∧ status ≠ stLaneState then status else s.supRes
    supBad := if status = stOk then s.supBad else min (s.supBad + 1) 255 }

/-- Fetch (R426): one request for up to eight entries from the SQ head on, not across the end of the ring, each with a completion slot;
none while the ring is disabled or stopped, the tenant quarantined (Table 18-9), intake stopped, or Bus Master Enable is 0. -/
def State.kickFetch (s : State) (t : Nat) : State :=
  let x := s.tenant t
  if x.fetching.isSome ∨ !s.flag F.HST_SQ_CFG_EN t ∨ s.flag F.HST_SQ_STAT_STOPPED t ∨ s.quarT t ∨ s.power.intakeOff ∨ s.ringsDead ∨
      !x.bme ∨ !x.exists' then s
  else
    let size := 2 ^ s.rd F.HST_SQ_CFG_SIZE t
    let head := s.rd F.HST_SQ_STAT_HEAD t
    let out := s.rd F.HST_T_ERR_OUTST t
    let n := min (min 8 ((s.rd F.HST_SQ_STAT_TAIL t + size - head) % size))
      (min (size - head) (min (64 - out) (2 ^ s.rd F.HST_CQ_CFG_SIZE t - 1 - s.unreleased t - out)))
    if n = 0 then s
    else
      let base := s.rd F.HST_SQ_BASE_LO_ADDR t * 2 ^ 12 + s.rd F.HST_SQ_BASE_HI_ADDR_HI t * 2 ^ 32
      (s.onTenant t (fun x => { x with fetching := some n })).emit (.hostRead t (base + 64 * head) (64 * n))

/-- A command without a tenant: its function has been reset (R415). -/
def orphan : Nat := 9

/-- Complete a command: its entry is written unless QUIET and OK; OUTST falls (R424, R426, R428). Nothing is written in the
power-fail state (R369), to a disabled ring, or while Bus Master Enable is 0 (R439). -/
def State.complete (s : State) (c : CmdRef) (status : Nat) (res : List Byte := []) : State :=
  if orphan ≤ c.tenant then s
  else if c.tenant = 8 then s.supResult status
  else
    let t := c.tenant
    let s := s.wr F.HST_T_ERR_OUTST (s.rd F.HST_T_ERR_OUTST t - 1) t
    let s := match statusViolation status with | some k => s.violation t k | none => s
    let s := if s.ringsDead ∨ !(s.tenant t).bme ∨ !s.flag F.HST_CQ_CFG_EN t ∨ (c.quiet ∧ status = stOk) then s
      else s.pushEntry t (fitBytes 16 res ++ leBytes 8 s.tb) c.cid c.opcode status 1
    s.kickFetch t

/-- Write a command's output buffer: at most DLEN bytes, none when DPTR is 0 (R443). -/
def State.writeBuf (s : State) (c : CmdRef) (b : List Byte) : State :=
  if c.dptr = 0 ∨ s.ringsDead ∨ 8 ≤ c.tenant ∨ !(s.tenant c.tenant).bme then s
  else s.emit (.hostWrite c.tenant c.dptr (b.take c.dlen))

/-- Hold a command until its event (R443). -/
def State.hold (s : State) (c : CmdRef) (w : WaitFor) : State := { s with waits := s.waits ++ [⟨c, w⟩] }

/-- Complete every waiting command that `p` selects. -/
def State.finish (s : State) (p : WaitFor → Bool) (status : Nat) (res : List Byte := []) : State :=
  let hit := s.waits.filter (fun w => p w.wait)
  let s := { s with waits := s.waits.filter (fun w => !p w.wait) }
  hit.foldl (fun s w => s.complete w.cmd status res) s

/-- A command waits on an event that `p` selects. -/
def State.waitsOn (s : State) (p : WaitFor → Bool) : Bool := s.waits.any (fun w => p w.wait)

/-- The waits on an event of a lane (R444). -/
def WaitFor.ofLane (l : Nat) : WaitFor → Bool
  | .laneOff k | .rampEntered k | .parkingClear k | .surveyEnd k | .calibrate k | .linkData k | .contract k | .roles k => k == l
  | _ => false

/-! ### Dispatch (R427) and the checks of R442 -/

/-- The tenants after the one served last, in the order the dispatcher looks at them (R427). -/
def dispatchOrder (served : Nat) : List Nat := (List.range 9).map (fun k => (served + 1 + k) % 9)

/-- The transfer a Port M transaction carries. -/
def PmAct.req? : PmAct → Option PmReq
  | .pass r _ => some r
  | _ => none

/-- Commands of a tenant dispatched and not completed: those that wait for an event, statements not yet signed, Port M transfers. -/
def State.inProgress (s : State) (t : Nat) : Bool :=
  s.waits.any (fun w => w.cmd.tenant == t) || s.sec.stmts.any (fun w => w.cmd.tenant == t) ||
    s.portM.q.any (fun r => r.cmd.tenant == t) ||
    (match s.portM.act.bind PmAct.req? with | some r => r.cmd.tenant == t | none => false)

/-- A tenant has a fetched command that may be dispatched: FENCE waits for every earlier command (R427). -/
def State.ready (s : State) (t : Nat) : Bool :=
  match (s.tenant t).fetched with
    | f :: _ => !f.fence || !s.inProgress t
    | [] => false

/-- The tenant the dispatcher serves next (R427). -/
def State.nextServed (s : State) : Option Nat := (dispatchOrder s.served).find? (fun t => s.ready t)

/-- The opcode byte and CID of the entry at the head of a tenant's fetched list agree with a command. -/
def State.headIs (s : State) (h : CmdHdr) (opcode : Nat) : Bool :=
  if h.tenant.val = 8 then true
  else match (s.tenant h.tenant.val).fetched with
    | f :: _ => f.opcode.toNat == opcode && f.cid == h.cid && f.fence == h.fence
    | [] => false

/-- The dispatcher serves this command now: it is the oldest fetched entry of the tenant whose turn it is (R427), and commands
are still carried out (R369). -/
def State.dispatches (s : State) (h : CmdHdr) (opcode : Nat) : Bool :=
  s.nextServed == some h.tenant.val && s.headIs h opcode && !s.ringsDead && s.power.stage != .dormant

/-- Take the command from its tenant's fetched list. -/
def State.take (s : State) (t : Nat) : State :=
  { s.onTenant t (fun x => { x with fetched := x.fetched.drop 1 }) with served := t }

/-- The reference a command keeps of itself. -/
def cmdRef (h : CmdHdr) (opcode : Nat) : CmdRef :=
  ⟨h.tenant.val, h.cid.toNat, opcode, h.quiet, h.dptr.toNat, h.dlen.toNat⟩

/-- Who may issue an opcode (R445, Table 19-1). -/
inductive Issuers where
  | any | m | mo | mot | t | owner | ownerS | ownerM | mtOwner | sealer
  deriving DecidableEq, Repr

/-- What TGT names (Table 19-1). -/
inductive Tgt where
  | zero | lane | phase | segment | tenant | counter | laneOrDevice
  deriving DecidableEq, Repr

/-- TGT lies in the range the opcode's row names (R442 step 2). -/
def Tgt.inRange : Tgt → Nat → Bool
  | .zero, n => n == 0
  | .lane, n => decide (n < 48)
  | .phase, n => decide (n < 192)
  | .segment, n => decide (n < 4)
  | .tenant, n => decide (n < 8)
  | .counter, n => decide (n < 304)
  | .laneOrDevice, n => decide (n < 48) || n == 0x100

/-- The role check of R442 step 3; roles 0 Observer, 1 Operator, 2 Meter, 3 Manager, 4 supervisor. -/
def State.permits (s : State) (is : Issuers) (t : Nat) : Bool :=
  let r := s.roleOf t
  match is with
  | .any | .owner | .ownerM | .mtOwner => decide (t < 8)
  | .ownerS => true
  | .m => r == 3
  | .mo => r == 3 || r == 1
  | .mot => r == 3 || r == 1 || r == 2
  | .t => r == 2
  | .sealer => s.flag F.SEC_STAT_SEALED && s.rd F.SEC_STAT_SEALER == t || !s.flag F.SEC_STAT_SEALED && decide (t < 8)

/-- The ownership check of R442 step 4. -/
def State.ownsOk (s : State) (is : Issuers) (t l : Nat) : Bool :=
  let own := (s.lane l).owner == some t
  match is with
  | .owner => own
  | .ownerS => own || t == 8
  | .ownerM => own || (s.roleOf t == 3 &&
      (match (s.lane l).owner with | some o => s.rdBit F.SEC_TFLAGS_LAPSED o | none => false))
  | .mtOwner => own || s.roleOf t == 3 || s.roleOf t == 2
  | _ => true

/-- The owner's number as result byte 0 of a NOT_OWNER completion, 0xFF for none (R442). -/
def State.ownerByte (s : State) (l : Nat) : List Byte :=
  leBytes 1 (match (s.lane l).owner with | some o => o | none => 0xFF)

/-- What an opcode's row of Table 19-1 fixes: issuers, TGT, whether a buffer is required, and the least DLEN. -/
structure OpRow where
  opcode : Nat
  issuers : Issuers
  tgt : Tgt
  needBuf : Bool := false
  minLen : Nat := 0
  deriving DecidableEq, Repr

/-- The checks of R442 steps 2 to 4 in their order: the first that fails, with its results; none when all pass. -/
def State.check (s : State) (r : OpRow) (h : CmdHdr) : Option (Nat × List Byte) :=
  if h.rsvd ∨ h.cid = 0xFFFF#16 ∨ h.dptr.toNat % 8 ≠ 0 ∨ !r.tgt.inRange h.tgt.toNat ∨
      (r.needBuf ∧ (h.dptr = 0 ∨ h.dlen.toNat < r.minLen)) then some (stFieldRange, [])
  else if !s.permits r.issuers h.tenant.val then some (stNotPermitted, [])
  else if r.tgt = .lane ∧ !s.ownsOk r.issuers h.tenant.val h.tgt.toNat then
    some (stNotOwner, s.ownerByte h.tgt.toNat)
  else none

/-- Dispatch a command: nothing happens unless the dispatcher serves it (R427); a failing check completes it (R442); else `f`
carries it out. -/
def State.dispatch (s : State) (r : OpRow) (h : CmdHdr) (f : State → CmdRef → State) : State :=
  let s := s.begin
  if !s.dispatches h r.opcode then s
  else
    let s := s.take h.tenant.val
    match s.check r h with
    | some (st, res) => s.complete (cmdRef h r.opcode) st res
    | none => f s (cmdRef h r.opcode)

/-- The input buffer of a command (R442 step 5): a failed read loads HST_DMA_ERR and completes with DMA_FAULT (R438). -/
def State.dmaError (s : State) (t kind what addr : Nat) : State :=
  let s := s.wr F.HST_DMA_ERR_KIND kind
  let s := s.wr F.HST_DMA_ERR_TENANT t
  let s := s.wr F.HST_DMA_ERR_WHAT what
  let s := s.put F.HST_DMA_ERR_ERR true
  let s := s.bump F.HST_DMA_ERR_COUNT
  (s.wr F.HST_DMA_ADDR_LO_ADDR addr).wr F.HST_DMA_ADDR_HI_ADDR_HI (addr / 2 ^ 32)

/-- Read a command's input buffer, or complete it with DMA_FAULT. -/
def State.withBuf (s : State) (c : CmdRef) (d : Dma) (f : State → List Byte → State) : State :=
  match d with
  | .ok bytes => f s (fitBytes c.dlen bytes)
  | .err k => (s.dmaError c.tenant k.val 1 c.dptr).complete c stDmaFault

end Sys2Proof.Machine
end

