-- ==== Sys2Proof/Machine/Flash.lean ====
section
/-!
DEFINITION. Sys2Proof/Machine/Flash.lean: the four flash banks (R304 to R306): which operation a bank takes up next, what the
flash holds while an operation runs, and what an interrupted one leaves.
-/
namespace Sys2Proof.Machine

/-- A flash bank. -/
def State.bank (s : State) (n : Nat) : Bank := vget s.nvm.banks n Bank.idle

/-- Change a flash bank. -/
def State.onBank (s : State) (n : Nat) (f : Bank → Bank) : State :=
  { s with nvm := { s.nvm with banks := vupd s.nvm.banks n f } }

/-- Change the hidden state of the NVM controller. -/
def State.onNvm (s : State) (f : Nvm → Nvm) : State := { s with nvm := f s.nvm }

/-- The bank of a counter's sector pair (R308), of a log slot (R343). -/
def ctrBank (c : Nat) : Nat := c / 128
def slotBank (j : Nat) : Nat := if j < 5120 then 2 else 3

/-- A Tally operation takes precedence over a Selvedge operation in its bank (R314). -/
def ProgOp.isTally : ProgOp → Bool
  | .cell _ _ _ _ | .fold _ | .resolveBase _ _ | .voidBase _ => true
  | _ => false

/-- A program operation of a save: a cell or a fold of a counter other than 288 (R314). -/
def ProgOp.ofSave : ProgOp → Bool
  | .cell c _ _ _ | .fold c => c != 288
  | _ => false

/-- A Tally erase never suspends; the others do (R306). -/
def EraseOp.isTally : EraseOp → Bool
  | .tally _ _ _ => true
  | _ => false

/-- The next program operation of a queue: the first Tally operation, else the first of all (R314). -/
def pickProg (q : List ProgOp) : Option (ProgOp × List ProgOp) :=
  match q.find? ProgOp.isTally with
  | some op => some (op, q.erase op)
  | none => match q with
    | op :: r => some (op, r)
    | [] => none

/-- The next erase of a queue: Tally erases wait for the end of a save (R313). -/
def pickErase (saving : Bool) (q : List EraseOp) : Option (EraseOp × List EraseOp) :=
  match q.find? (fun e => !saving || !e.isTally) with
  | some e => some (e, q.erase e)
  | none => none

/-- Change one sector of a counter. -/
def Counter.setSector (c : Counter) (x : Nat) (v : Sector) : Counter :=
  if x = 0 then { c with s0 := v } else { c with s1 := v }

/-- What an erase leaves from its start until it completes: content that no reader finds valid (R306, R319, R328). -/
def State.spoil (s : State) (e : EraseOp) : State :=
  match e with
  | .tally c x _ => s.onCtr c (fun k => k.setSector x .junk)
  | .slv n => { s with slv := { s.slv with log := s.slv.log.map (fun z =>
      if z.1 / 32 = n then (z.1, match z.2 with | .held r => .lost r.seq | .lost q => .lost q) else z) } }
  | .param b _ => s.onNvm (fun n => if b = 0 then { n with bank0 := none } else { n with bank1 := none })
  | .seal h _ => s.onNvm (fun n =>
      if h = 0 then { n with sealHalf0 := n.sealHalf0.map (fun _ => .torn) }
      else { n with sealHalf1 := n.sealHalf1.map (fun _ => .torn) })

/-- Let an idle bank take up its next operation. A program operation waits until an erase in progress has suspended or ended
(R306); a suspended erase resumes when no program operation waits; nothing starts once the flash is closed (R315), and no erase
starts during a closing save. -/
def State.kick (s : State) (n : Nat) : State :=
  let b := s.bank n
  if s.nvm.closed ∨ b.prog.isSome then s
  else match pickProg b.progQ with
    | some (op, rest) =>
      if b.erase.isNone ∨ b.suspended then s.onBank n (fun b => { b with prog := some op, progQ := rest }) else s
    | none =>
      if b.suspended then s.onBank n (fun b => { b with suspended := false })
      else if b.erase.isSome ∨ s.nvm.closing.isSome then s
      else match pickErase s.nvm.save.isSome b.eraseQ with
        | some (e, rest) => (s.onBank n (fun b => { b with erase := some e, eraseQ := rest, tries := 0 })).spoil e
        | none => s

/-- Let every bank take up work. -/
def State.kickAll (s : State) : State := (((s.kick 0).kick 1).kick 2).kick 3

/-- Queue a program operation in a bank. -/
def State.prog (s : State) (n : Nat) (op : ProgOp) : State :=
  (s.onBank n (fun b => { b with progQ := b.progQ ++ [op] })).kick n

/-- Queue a program operation ahead of the others of a bank. -/
def State.progFirst (s : State) (n : Nat) (op : ProgOp) : State :=
  s.onBank n (fun b => { b with progQ := op :: b.progQ })

/-- Queue an erase in a bank. -/
def State.queueErase (s : State) (n : Nat) (e : EraseOp) : State :=
  (s.onBank n (fun b => { b with eraseQ := b.eraseQ ++ [e] })).kick n

/-- Queue the erase of a counter's sector, in ascending ID within the bank (R320). -/
def State.eraseTally (s : State) (c x : Nat) (junk : Bool) : State :=
  let n := ctrBank c
  (s.onBank n (fun b =>
    let before := b.eraseQ.takeWhile (fun e => match e with | .tally d _ _ => decide (d ≤ c) | _ => true)
    { b with eraseQ := before ++ [.tally c x junk] ++ b.eraseQ.drop before.length })).kick n

/-- A failed flash operation: event 0x0A10, NVM_FAIL, the offset and kind of NVM_ELAST (R306). -/
def State.flashFail (s : State) (kind ofs : Nat) : State :=
  let s := s.record 0x0A10 srcDevice kind
  let s := (s.put F.NVM_EVT_OPFAIL_EVT true).put F.NVM_STAT_NVM_FAIL true
  (s.wr F.NVM_ELAST_OFS ofs).wr F.NVM_ELAST_KIND (2 + kind)

/-- The flash offset an operation writes at (R305, R308, R343, R475). -/
def State.progOfs (s : State) : ProgOp → Nat
  | .cell c _ _ _ => c * 0x1000 + (s.ctr c).active * 0x800 + 0x20 + 16 * (s.ctr c).sector.used
  | .fold c | .resolveBase c _ => c * 0x1000 + (1 - (s.ctr c).active) * 0x800
  | .voidBase c => c * 0x1000
  | .slv q => 0x130000 + 64 * (q % 8192)
  | .seal _ _ _ =>
    if s.nvm.sealActive = 0 then 0x1F0000 + 16 * s.nvm.sealHalf0.length else 0x1F4000 + 16 * s.nvm.sealHalf1.length
  | .paramHeader => if s.nvm.commitBank = 0 then 0x1B0000 else 0x1C8000
  | .paramRow n => (if s.nvm.commitBank = 0 then 0x1B0000 else 0x1C8000) + 64 * n
  | .paramTrailer => (if s.nvm.commitBank = 0 then 0x1B0000 else 0x1C8000) + 32 +
      8 * (match s.nvm.commit with | some b => b.entries.length | none => 0)

/-- The offset of the sector an erase clears. -/
def eraseOfs : EraseOp → Nat
  | .tally c x _ => c * 0x1000 + x * 0x800
  | .slv n => 0x130000 + 0x800 * n
  | .param b k => (if b = 0 then 0x1B0000 else 0x1C8000) + 0x800 * k
  | .seal h k => 0x1F0000 + 0x4000 * h + 0x800 * k

/-- A used cell slot is added to the active sector (R311, R312). -/
def Sector.push (x : Sector) (c : Cell) : Sector :=
  match x with
  | .valid q v p sv vd cs => .valid q v p sv vd (cs ++ [c])
  | x => x

/-- Add a slot to a counter's active sector. -/
def Counter.push (k : Counter) (c : Cell) : Counter := k.setSector k.active (k.sector.push c)

/-- Append a seal record to the active half (R475). -/
def Nvm.pushSeal (n : Nvm) (r : SealRec) : Nvm :=
  if n.sealActive = 0 then { n with sealHalf0 := n.sealHalf0 ++ [r] } else { n with sealHalf1 := n.sealHalf1 ++ [r] }

/-- What a program operation leaves when power or a reset interrupts it (R311, R319, R328, R475). -/
def State.tear (s : State) (op : ProgOp) : State :=
  match op with
  | .cell c _ _ _ => s.onCtr c (fun k => k.push .torn)
  | .fold c | .resolveBase c _ => s.onCtr c (fun k => k.setSector (1 - k.active) .junk)
  | .voidBase c => s.onCtr c (fun k => k.setSector 0 .junk)
  | .slv q => { s with slv := { s.slv with log := tabSet s.slv.log (q % 8192) (.lost q) } }
  | .seal _ _ _ => s.onNvm (fun n => n.pushSeal .torn)
  | .paramHeader | .paramRow _ | .paramTrailer => s

/-- The flash after a reset or power loss that stops every operation where it stands. -/
def State.crashFlash (s : State) : State :=
  s.forEach (List.range 4) (fun s n =>
    let s := match (s.bank n).prog with | some op => s.tear op | none => s
    s.onBank n (fun _ => Bank.idle))

end Sys2Proof.Machine
end

