-- ==== Sys2Proof/Machine/Selvedge.lean ====
section
/-!
DEFINITION. Sys2Proof/Machine/Selvedge.lean: the event recorder (chapter 14): opening, coalescing and closing records, flushes,
the circular flash log, its recovery, and the log commands and register writes.
-/
namespace Sys2Proof.Machine

/-- Change the recorder's hidden state. -/
def State.onSlv (s : State) (f : Selvedge → Selvedge) : State := { s with slv := f s.slv }

/-- NEXT, the SEQ of the next record (R337). -/
def State.nextSeq (s : State) : Nat := s.rd F.SLV_NEXT_NEXT

/-- A record may be opened: NEXT - (lowest pending SEQ) is below 511 (R340). -/
def State.canOpen (s : State) : Bool :=
  match s.slv.pend with
  | q :: _ => decide ((s.nextSeq + 2 ^ 32 - q) % 2 ^ 32 < 511)
  | [] => true

/-- Events whose reports carry their own content and never coalesce (R338). -/
def ownContent (code : Nat) : Bool := code == 0x0B01 || code == 0x0B02 || code == 0x0B05 || code == 0x0B06

/-- COAL in CLK_CORE cycles (R338). -/
def State.coalWin (s : State) : Nat := s.rd F.SLV_CFG_COAL * 2000000

/-- The record with a SEQ, while its RAM slot holds it (R340). -/
def State.ramRec (s : State) (q : Nat) : Option Rec :=
  match tabGet? s.slv.ram (q % 512) with
  | some r => if r.seq = q then some r else none
  | none => none

/-! ### The circular log (R344) -/

/-- The write position W. -/
def State.writePos (s : State) : Nat :=
  match s.slv.pend with
  | q :: _ => q % 8192
  | [] => s.nextSeq % 8192

/-- The erased run: consecutive erased slots from W onward (R344). -/
def State.erasedRun (s : State) : Nat :=
  s.slv.log.foldl (fun m e => min m ((e.1 + 8192 - s.writePos) % 8192)) 8192

/-- A log erase is queued or runs. -/
def State.slvEraseAsked (s : State) : Bool :=
  s.nvm.banks.toList.any (fun b =>
    b.eraseQ.any (fun e => match e with | .slv _ => true | _ => false) ||
    (match b.erase with | some (.slv _) => true | _ => false))

/-- Keep the erased run at 544 slots or more: erase the sector after the run, one at a time (R344). -/
def State.keepRun (s : State) : State :=
  if 544 ≤ s.erasedRun ∨ s.slvEraseAsked ∨ !s.flag F.NVM_STAT_RECOVERED then s
  else
    let j := (s.writePos + s.erasedRun) % 8192
    s.queueErase (slotBank j) (.slv (j / 32))

/-! ### Flushes (R342) -/

/-- A record's slot lies in the erased run. -/
def State.inRun (s : State) (q : Nat) : Bool := decide ((q % 8192 + 8192 - s.writePos) % 8192 < s.erasedRun)

/-- A program operation of a Selvedge record is queued or runs. -/
def State.slvProgAsked (s : State) : Bool :=
  s.nvm.banks.toList.any (fun b =>
    b.progQ.any (fun e => match e with | .slv _ => true | _ => false) ||
    (match b.prog with | some (.slv _) => true | _ => false))

/-- Queue the program operation of the next record a flush writes, in ascending SEQ (R342). A normal flush waits where the slot is
not erased; a closing flush writes only what lies in the run (R345). -/
def State.flushNext (s : State) : State :=
  if s.slvProgAsked then s
  else match s.slv.flush with
    | none => s
    | some k =>
      let q := match k with
        | .closed | .all => s.slv.flushQ.head?
        | _ => s.slv.flushQ.find? s.inRun
      match q with
      | some q => if s.inRun q then s.prog (slotBank (q % 8192)) (.slv q) else s.keepRun
      | none => s

/-- Close every open record. -/
def State.closeOpened (s : State) : State := s.onSlv (fun v => { v with opened := [] })

/-- Begin a flush that has records to write (R342). -/
def State.beginFlush (s : State) (k : FlushKind) (q : List Nat) : State :=
  if q = [] then s else (s.onSlv (fun v => { v with flush := some k, flushQ := q })).flushNext

/-- Start a flush, or leave it to follow the one in progress; one with nothing to write is complete as it starts; a closing flush
takes over the one in progress (R342). -/
def State.startFlush (s : State) (k : FlushKind) : State :=
  match k with
  | .closed =>
    let q := s.slv.pend.filter (fun x => !s.slv.opened.contains x)
    if s.slv.flush.isSome then s.onSlv (fun v => { v with again := some (v.again.getD .closed) })
    else s.beginFlush .closed q
  | .all =>
    let s := s.closeOpened
    if s.slv.flush.isSome then s.onSlv (fun v => { v with again := some .all })
    else s.beginFlush .all s.slv.pend
  | k =>
    let s := s.closeOpened.onSlv (fun v => { v with again := none, sealedOff := true, flush := some k, flushQ := v.pend })
    s.flushNext

/-! ### Opening and closing records (R337 to R341) -/

/-- Close an open record; the close of a class in FLUSH_MASK starts a flush (R339, Table 14-3). -/
def State.closeRec (s : State) (q : Nat) : State :=
  let s := s.onSlv (fun v => { v with opened := v.opened.filter (· != q) })
  match s.ramRec q with
  | some r => if s.rdBit F.SLV_CFG_FLUSH_MASK (r.code / 256 - 1) then s.startFlush .closed else s
  | none => s

/-- The event flag a record of class 0x0B sets (SLV_EVT). -/
def State.slvEvt (s : State) (code : Nat) : State :=
  if code = 0x0B01 then s.put F.SLV_EVT_DROP_EVT true
  else if code = 0x0B02 then s.put F.SLV_EVT_GAP_EVT true
  else if code = 0x0B06 then s.put F.SLV_EVT_LOST_EVT true
  else s

/-- Open a record for a report (R337): it takes NEXT, a RAM slot and a place among the open records; it is mirrored (R432); the
earliest open record closes when 64 are open (R338). -/
def State.openRec (s : State) (r : Report) : State :=
  let q := s.nextSeq
  let x : Rec := {
    seq := q, code := r.code, src := r.src, flags := r.flags, rept := 0,
    tFirst := if r.early then s.opTime % 2 ^ 40 else r.optime, tLast := if r.early then s.opTime % 2 ^ 40 else r.optime,
    pcyc := if r.early then s.pCyc % 65536 else r.pcyc, tb := r.tb % 2 ^ 32, first := r.tb, snap := r.snap }
  let cls := r.code / 256 - 1
  let s := (s.wr F.SLV_NEXT_NEXT (q + 1)).bump F.SLV_CCNT_OPENED 1 cls
  let s := s.onSlv (fun v => { v with ram := tabSet v.ram (q % 512) x, pend := v.pend ++ [q] })
  let s := s.slvEvt r.code
  let s := s.notify ((List.range 8).filter (fun t => s.rdBit F.HST_EVT_CFG_MIRROR cls t))
    (leBytes 4 q ++ leBytes 2 r.code ++ leBytes 2 r.src ++ leBytes 1 r.flags ++ leBytes 5 x.tFirst ++
      leBytes 2 x.pcyc ++ leBytes 4 x.tb) 2
  let s :=
    if s.rd F.SLV_CFG_COAL = 0 ∨ ownContent r.code then s.closeRec q
    else
      let s := match s.slv.opened with
        | e :: _ => if 64 ≤ s.slv.opened.length then s.closeRec e else s
        | [] => s
      s.onSlv (fun v => { v with opened := v.opened ++ [q] })
  if 384 ≤ s.slv.pend.length then s.startFlush .all else s

/-- The device's own report, with content of its own. -/
def State.ownReport (s : State) (code src flags : Nat) (w : List Word) : Report := s.report code src flags (some w)

/-- Open 0x0B01 first when reports were lost and a record can be opened again (R341). -/
def State.openDropped (s : State) : State :=
  if s.slv.lost = 0 ∨ !s.canOpen then s
  else
    let n := s.slv.lost
    (s.onSlv (fun v => { v with lost := 0 })).openRec (s.ownReport 0x0B01 srcDevice 0 [BitVec.ofNat 32 n])

/-- The open record a report repeats (R338). -/
def State.repeats (s : State) (r : Report) : Option Rec :=
  if s.rd F.SLV_CFG_COAL = 0 ∨ ownContent r.code then none
  else (s.slv.opened.filterMap s.ramRec).find? (fun x =>
    x.code == r.code && x.src == r.src && x.flags == r.flags && decide (r.tb < x.first + s.coalWin))

/-- A repeat increments REPEAT and sets T_LAST; at 0xFF_FFFF the record closes (R338, R339). -/
def State.addRepeat (s : State) (x : Rec) (r : Report) : State :=
  let t := if r.early then s.opTime % 2 ^ 40 else r.optime
  let s := s.onSlv (fun v => { v with ram := tabSet v.ram (x.seq % 512) { x with rept := x.rept + 1, tLast := t } })
  if x.rept + 1 = 0xFFFFFF then s.closeRec x.seq else s

/-- Process one report (R337 to R341). -/
def State.processReport (s : State) (r : Report) : State :=
  match s.repeats r with
  | some x => s.addRepeat x r
  | none =>
    let s := s.openDropped
    if s.canOpen then s.openRec r else s.loseReport

/-! ### Marks (R350) -/

/-- Open a mark, flush, and hold its command until the mark is in flash (R350). -/
def State.openMark (s : State) (c : CmdRef) (flags : Nat) (data : List Word) : State :=
  let s := s.openDropped
  let q := s.nextSeq
  let s := s.openRec (s.ownReport 0x0B05 (srcTenant c.tenant) flags data)
  (s.hold c (.markFlash q)).startFlush .all

/-- Marks that waited for room open once a record can be opened (R350). -/
def State.retryMarks (s : State) : State :=
  match s.waits.find? (fun w => match w.wait with | .markOpen _ _ => true | _ => false) with
  | some w =>
    if s.canOpen then
      match w.wait with
      | .markOpen f d => ({ s with waits := s.waits.erase w }).openMark w.cmd f d
      | _ => s
    else s
  | none => s

/-! ### The end of a record's program operation (R343, R345) -/

/-- A flush with nothing left to write ends: a closing flush that wrote every pending record writes its close marker first (R345);
a flush asked for meanwhile follows (R342). -/
def State.flushEnd (s : State) : State :=
  match s.slv.flush with
  | none => s
  | some k =>
    let left := match k with
      | .closed | .all => !s.slv.flushQ.isEmpty
      | _ => s.slv.flushQ.any s.inRun
    if left then s.flushNext
    else match k with
      | .closing c =>
        if s.slv.pend.isEmpty then
          let q := s.nextSeq
          let s := s.onSlv (fun v => { v with flush := some (.marker c), flushQ := [q] })
          (s.openRec (s.report 0x0B03 srcDevice c)).flushNext
        else s.onSlv (fun v => { v with flush := none })
      | .marker _ => s.onSlv (fun v => { v with flush := none, opened := [] })
      | _ =>
        let s' := s.onSlv (fun v => { v with flush := none, again := none })
        match s.slv.again with
        | some k2 => s'.startFlush k2
        | none => s'

/-- The flush of a closing save (R345): the reports detected up to the snapshot cycle are processed first, so that the trips that meet a
power-fail are in the flush (Table 1-8, rank 2). -/
def State.closeFlush (s : State) (cause : Nat) : State :=
  let q := s.slv.intake
  let s := q.foldl State.processReport (s.onSlv (fun v => { v with intake := [] }))
  (s.startFlush (.closing cause)).flushEnd

/-- The program operation of record `q` has ended (R343): it leaves the pending set whatever the verify found. -/
def State.slvProgrammed (s : State) (q : Nat) (ok : Bool) : State :=
  let slot := match s.ramRec q, ok with
    | some r, true => LogSlot.held r
    | _, _ => LogSlot.lost q
  let s := s.onSlv (fun v => { v with
    log := tabSet v.log (q % 8192) slot, pend := v.pend.filter (· != q), flushQ := v.flushQ.filter (· != q) })
  let s := s.finish (fun w => match w with | .markFlash x => x == q | _ => false)
    (if ok then stOk else stTimeout) (leBytes 4 q)
  let s := if ok then s
    else if s.slv.sealedOff ∨ !s.canOpen then s.onSlv (fun v => { v with lost := v.lost + 1 })
    else s.openRec (s.ownReport 0x0B06 srcDevice 0 [BitVec.ofNat 32 q])
  let s := if s.slv.sealedOff then s else s.keepRun.retryMarks
  s.flushEnd

/-- A log sector has been erased (R344). -/
def State.slvErased (s : State) (n : Nat) : State :=
  (s.onSlv (fun v => { v with log := v.log.filter (fun e => e.1 / 32 != n) })).keepRun.flushNext

/-! ### Recovery (R346, R347) -/

/-- Serial order modulo 2^32: `a` is later than `b`. -/
def serialAfter (a b : Nat) : Bool := let d := (a + 2 ^ 32 - b) % 2 ^ 32; decide (0 < d ∧ d < 2 ^ 31)

/-- The SEQ of a used slot. -/
def LogSlot.seq : LogSlot → Nat
  | .held r => r.seq
  | .lost q => q

/-- The highest SEQ among used slots, with its slot (R346). -/
def newestSlot (l : List (Nat × LogSlot)) : Option LogSlot :=
  l.foldl (fun m e => match m with
    | none => some e.2
    | some x => if serialAfter e.2.seq x.seq then some e.2 else some x) none

/-- The log scan of a recovery: NEXT, and the gap record of a run that ended without a close marker (R346). -/
def State.slvRecover (s : State) : State :=
  let s := s.onSlv (fun v => { v with
    ram := [], opened := [], pend := [], flush := none, flushQ := [], again := none, sealedOff := false })
  match newestSlot s.slv.log with
  | none => s.wr F.SLV_NEXT_NEXT 0
  | some (.held r) =>
    if r.code = 0x0B03 then s.wr F.SLV_NEXT_NEXT (r.seq + 1)
    else (s.wr F.SLV_NEXT_NEXT (r.seq + 513)).openRec
      (s.ownReport 0x0B02 srcDevice 0 [BitVec.ofNat 32 (r.seq + 1), BitVec.ofNat 32 (r.seq + 512)])
  | some (.lost q) => (s.wr F.SLV_NEXT_NEXT (q + 513)).openRec
      (s.ownReport 0x0B02 srcDevice 0 [BitVec.ofNat 32 (q + 1), BitVec.ofNat 32 (q + 512)])

/-! ### Meanings -/

/-- SELVEDGE_REPORT (R337): take the oldest report of the intake queue; before RECOVERED reports wait (R347), and none is taken
once a closing save has begun (R345). -/
def execSelvedgeReport (s : State) : Host.Outcome State Fault Refusal :=
  let s := s.begin
  .next (match s.slv.intake with
    | r :: rest =>
      if s.flag F.NVM_STAT_RECOVERED ∧ !s.slv.sealedOff then
        (s.onSlv (fun v => { v with intake := rest })).processReport r
      else s
    | [] => s)

/-- RECORD_CLOSE (R339): the coalescing window of the `slot`-th open record has ended. -/
def execRecordClose (slot : Fin 64) (s : State) : Host.Outcome State Fault Refusal :=
  let s := s.begin
  .next (match s.slv.opened[slot.val]? with
    | some q => s.closeRec q
    | none => s)

/-- Sort SEQs by distance from a start, dropping those behind it. -/
def insertBy (k : Nat → Nat) (x : Nat) : List Nat → List Nat
  | [] => [x]
  | y :: t => if k x ≤ k y then x :: y :: t else y :: insertBy k x t

/-- Every SEQ held in RAM or in flash, once each, in serial order from `start`. -/
def State.heldFrom (s : State) (start : Nat) : List Nat :=
  let ram := s.slv.ram.map (fun e => e.2.seq)
  let log := s.slv.log.filterMap (fun e => match e.2 with
    | .held r => if ram.contains r.seq then none else some r.seq
    | .lost _ => none)
  let key := fun q => (q + 2 ^ 32 - start) % 2 ^ 32
  ((ram ++ log).filter (fun q => decide (key q < 2 ^ 31))).foldl (fun a q => insertBy key q a) []

/-- The record with a SEQ from RAM, else from flash (R350). -/
def State.findRec (s : State) (q : Nat) : Option Rec :=
  match s.ramRec q with
  | some r => some r
  | none => match tabGet? s.slv.log (q % 8192) with
    | some (.held r) => if r.seq = q then some r else none
    | _ => none

/-- The oldest SEQ held; NEXT when none is. -/
def State.oldestSeq (s : State) : Nat :=
  match s.heldFrom ((s.nextSeq + 2 ^ 31 + 1) % 2 ^ 32) with
  | q :: _ => q
  | [] => s.nextSeq

/-- LOG_READ (R350, R455): records in ascending SEQ from `start`, each from RAM where its slot still holds it. -/
def execLogRead (h : CmdHdr) (start : Word) (s : State) : Host.Outcome State Fault Refusal :=
  .next (s.dispatch { opcode := 0x40, issuers := .any, tgt := .zero, needBuf := true } h fun s c =>
    if c.dlen % 64 ≠ 0 then s.complete c stFieldRange
    else if !s.flag F.NVM_STAT_RECOVERED then s.complete c stNvmBusy
    else
      let qs := (s.heldFrom start.toNat).take (min (c.dlen / 64) 256)
      let s := s.writeBuf c ((qs.filterMap s.findRec).foldl (fun a r => a ++ r.bytes) [])
      s.complete c stOk (leBytes 2 qs.length ++ zeros 2 ++ leBytes 4 s.nextSeq ++ leBytes 4 s.oldestSeq))

/-- Replace the staging entry with an ADDR, or append it (R456). -/
def stagePut (l : List (Nat × Word)) (a : Nat) (v : Word) : List (Nat × Word) :=
  if l.any (fun e => e.1 == a) then l.map (fun e => if e.1 = a then (a, v) else e) else l ++ [(a, v)]

/-- LOG_CONFIG (R350, R455): the eight selections of trigger class `k`, live and in the staging image; 0x0B04. -/
def execLogConfig (h : CmdHdr) (k : Byte) (sel : Vector Word 8) (s : State) : Host.Outcome State Fault Refusal :=
  .next (s.dispatch { opcode := 0x41, issuers := .m, tgt := .zero } h fun s c =>
    if 15 < k.toNat then s.complete c stFieldRange
    else
      let s := s.forEach (List.range 8) (fun s n =>
        let i := 8 * k.toNat + n
        let w := vget sel n 0
        let s := s.onSlv (fun v => { v with sel := v.sel.set i w })
        s.onNvm (fun m => { m with staging := stagePut m.staging (0x80004000 + 4 * i) w }))
      (s.record 0x0B04 (srcTenant c.tenant) k.toNat).complete c stOk)

/-- LOG_MARK (R350, R455): open the mark at once where the buffer can open a record, else wait holding the place in OUTST. -/
def execLogMark (h : CmdHdr) (flags : Byte) (data : Vector Word 8) (s : State) : Host.Outcome State Fault Refusal :=
  .next (s.dispatch { opcode := 0x42, issuers := .mot, tgt := .zero } h fun s c =>
    if !s.flag F.NVM_STAT_RECOVERED then s.complete c stNvmBusy
    else if s.openDropped.canOpen then s.openMark c flags.toNat data.toList
    else s.hold c (.markOpen flags.toNat data.toList))

end Sys2Proof.Machine
end

