-- ==== Sys2Proof/Machine/Nvm.lean ====
section
/-!
DEFINITION. Sys2Proof/Machine/Nvm.lean: the Tally counters and the flash they live in (chapter 13): saves, folds, erases,
recovery, disputed and void counters, parameter banks, seal records, and the encodings of Tables 13-4, 13-5 and R325, R475.
-/
namespace Sys2Proof.Machine

/-! ### Encodings (R309, R310, R325, R475) -/

/-- The 32 bytes of a base record (Table 13-4). -/
def baseBytes (id seq value pcyc : Nat) (save void : Bool) : List Byte :=
  let b := leBytes 2 0x7A11 ++ leBytes 2 id ++ leBytes 4 seq ++ leBytes 8 value ++
    leBytes 2 (pcyc % 2 ^ 15 + save.toNat * 2 ^ 15) ++ leBytes 2 void.toNat ++ leBytes 4 pcyc ++ zeros 4
  b ++ leBytes 4 (crc32c b).toNat

/-- The 16 bytes of a cell (Table 13-5). -/
def cellBytes (inc seq pcyc : Nat) (save : Bool) : List Byte :=
  let b := leBytes 4 inc ++ leBytes 4 seq ++ leBytes 2 (pcyc % 2 ^ 15 + save.toNat * 2 ^ 15) ++ zeros 2
  b ++ leBytes 4 (crc32c b).toNat

/-- The 16 bytes of a seal record (R475). -/
def sealBytes (sealed : Bool) (sealer count : Nat) : List Byte :=
  let b := leBytes 1 sealed.toNat ++ leBytes 1 sealer ++ zeros 2 ++ leBytes 8 count
  b ++ leBytes 4 (crc32c b).toNat

/-- The bytes of a parameter bank image: header, entries, trailer (R325). -/
def paramBytes (b : ParamBank) : List Byte :=
  let n := b.entries.length
  let h := leBytes 2 0x5A50 ++ leBytes 1 1 ++ zeros 1 ++ leBytes 4 b.seq ++ leBytes 4 n ++ leBytes 4 b.pcyc ++ zeros 12
  let e := b.entries.foldl (fun a x => a ++ leBytes 4 x.1 ++ leBytes 4 x.2.toNat) []
  let t := leBytes 4 b.seq ++ leBytes 4 n ++ leBytes 4 (crc32c e).toNat
  h ++ leBytes 4 (crc32c h).toNat ++ e ++ t ++ leBytes 4 (crc32c t).toNat

/-! ### Cells and folds (R312, R313, R320) -/

/-- Slots of one sector: j = 0 to 125 (R308). -/
def slotsPerSector : Nat := 126

/-- The other sector of a counter is erased. -/
def Counter.otherErased (k : Counter) : Bool := match k.other with | .erased => true | _ => false

/-- The active sector has every slot used. -/
def Counter.full (k : Counter) : Bool := decide (slotsPerSector ≤ k.sector.used)

/-- Fold (R313): the base in the other sector takes SEQ + used slots and the active sector's value, and becomes active. -/
def Counter.foldTo (k : Counter) (pcyc : Nat) : Counter :=
  let x := k.sector
  let void := match x with | .valid _ _ _ _ v _ => v | _ => false
  let b := Sector.valid (x.seq + x.used) x.total pcyc x.lastSave void []
  { k.setSector (1 - k.active) b with active := 1 - k.active }

/-- A save leaves a counter out that can take no cell (R320). -/
def State.holdCtr (s : State) (c : Nat) : State :=
  let s := if (s.ctr c).heldLogged then s else s.recordCtr 0x0A09 c
  s.onCtr c (fun k => { k with held := true, heldLogged := true })

/-- A counter can take a cell: a slot is free, or a fold is possible (R320). -/
def Counter.canWrite (k : Counter) : Bool :=
  match k.sector with
  | .valid _ _ _ _ _ _ => !k.full || k.otherErased
  | _ => false

/-- The operations that write an increment on a counter: a fold first where the active sector is full (R313, R320). -/
def State.cellOps (s : State) (c inc : Nat) (save : Bool) : List ProgOp :=
  let k := s.ctr c
  let first := min inc 0xFFFFFFFF
  (if k.full then [ProgOp.fold c] else []) ++ [.cell c first save (inc - first)]

/-- Queue an increment of a counter (R312, R314); a counter that cannot take it is held (R320). -/
def State.writeInc (s : State) (c inc : Nat) (save : Bool) : State :=
  if (s.ctr c).canWrite ∧ !((s.ctr c).st = .void ∧ (s.ctr c).held) then
    s.onBank (ctrBank c) (fun b => { b with progQ := b.progQ ++ s.cellOps c inc save })
  else s.holdCtr c

/-- Write an increment at once, as recovery does before RECOVERED (R321). -/
def State.cellNow (s : State) (c inc : Nat) (save : Bool) : State :=
  let k := s.ctr c
  if !k.canWrite then s.holdCtr c
  else
    let s := if k.full then (s.onCtr c (fun k => k.foldTo (s.pCyc % 2 ^ 32))).eraseTally c k.active false else s
    s.onCtr c (fun k => k.push (.ok inc save))

/-! ### Saves (R314 to R316) -/

/-- Start a save: the readings of all counters are taken now (R314). -/
def State.startSave (s : State) (save : Bool) : State :=
  let s := s.put F.NVM_STAT_SAVING true
  let s := s.forEach (List.range 304) (fun s c =>
    if c = 288 then s
    else if (s.ctr c).stored < s.reading c then s.writeInc c (s.reading c - (s.ctr c).stored) save
    else if s.nvm.scrub.contains c ∧ s.flag F.NVM_CFG_SCRUB_EN ∧ (s.ctr c).otherErased then
      (s.recordCtr 0x0A11 c).onBank (ctrBank c) (fun b => { b with progQ := b.progQ ++ [.fold c] })
    else s)
  let s := s.onNvm (fun n => { n with save := some ⟨save, s.reading 288, false⟩, scrub := [] })
  s.kickAll

/-- A program operation of the save still waits or runs. -/
def State.saveBusy (s : State) : Bool :=
  s.nvm.banks.toList.any (fun b => b.progQ.any ProgOp.ofSave || (match b.prog with | some op => op.ofSave | none => false))

/-- A cell or fold of counter 288 waits or runs. -/
def State.save288Busy (s : State) : Bool :=
  let of288 := fun (op : ProgOp) => match op with | .cell 288 _ _ _ | .fold 288 => true | _ => false
  s.nvm.banks.toList.any (fun b => b.progQ.any of288 || (match b.prog with | some op => of288 op | none => false))

/-- A closing save and its Selvedge flush are both complete (R315, R316). -/
def State.closingDone (s : State) : Bool := s.nvm.closing.isSome && s.nvm.save.isNone && s.slv.flush.isNone

/-- After a closing save for power-fail nothing more is written until the next reset (R315). -/
def State.closeIfDone (s : State) : State :=
  if s.closingDone ∧ s.nvm.closing = some .powerFail ∧ !s.nvm.closed then
    (s.put F.NVM_STAT_FLUSHED true).onNvm (fun n => { n with closed := true })
  else s

/-- Queue counter 288's cell, the last of a save, once every other cell has completed in all banks (R314). -/
def State.lastCell (s : State) : State :=
  match s.nvm.save with
  | none => s
  | some v =>
    if v.last ∨ s.saveBusy then s
    else
      let s := s.onNvm (fun n => { n with save := some { v with last := true } })
      let st := (s.ctr 288).stored
      if v.save ∨ st < v.reading288 then (s.writeInc 288 (v.reading288 - st) v.save).kickAll else s

/-- The end of a save: a checkpoint is counted. -/
def State.endSave (s : State) (v : SaveRun) : State :=
  let s := (s.put F.NVM_STAT_SAVING false).onNvm (fun n => { n with save := none })
  let s := if v.save then s else s.bump F.NVM_PF_CKPT_CNT
  s.kickAll.closeIfDone

/-- End a save whose last cell has been queued and has completed. -/
def State.endIfLast (s : State) : State :=
  match s.nvm.save with
  | none => s
  | some v => if v.last ∧ !s.save288Busy then s.endSave v else s

/-- Make a checkpoint; one with no cell to write ends as it starts. -/
def State.runCheckpoint (s : State) : State := (s.startSave false).lastCell.endIfLast

/-- A save ends when counter 288's cell has completed; a checkpoint that fell due meanwhile starts (R330). -/
def State.endIfDone (s : State) : State :=
  if s.save288Busy then s
  else match s.nvm.save with
    | none => s
    | some v =>
      let s := s.endSave v
      if s.nvm.ckptDue ∧ s.nvm.closing.isNone then (s.onNvm (fun n => { n with ckptDue := false })).runCheckpoint else s

/-- Carry a save on (R314). -/
def State.saveStep (s : State) : State :=
  match s.nvm.save with
  | none => s
  | some v => if v.last then s.endIfDone else if s.saveBusy then s else s.lastCell.endIfDone

/-- A checkpoint falls due: it starts at once, or when a save, a recovery in progress ends (R314, R330). -/
def State.checkpoint (s : State) : State :=
  if !s.flag F.NVM_STAT_RECOVERED ∨ s.nvm.closing.isSome then s
  else if s.nvm.save.isSome then s.onNvm (fun n => { n with ckptDue := true })
  else s.runCheckpoint

/-- Make a closing save (R315, R316): a checkpoint in progress is abandoned, its queued cells dropped; erases in progress are to be
aborted and stay queued; the Selvedge flushes alongside with its close marker (R345). -/
def State.closingSave (s : State) (k : Closing) : State :=
  let cause := match k with | .powerFail => 1 | .softReset => 2 | .dormant => 3
  let s := s.forEach (List.range 4) (fun s n => s.onBank n (fun b =>
    { b with progQ := b.progQ.filter (fun op => match op with
      | .cell _ _ _ _ => false | .paramHeader | .paramRow _ | .paramTrailer => decide (k ≠ .powerFail) | _ => true) }))
  let s := s.onNvm (fun n => { n with closing := some k, save := none, ckptDue := false })
  let s := (s.startSave true).closeFlush cause
  s.saveStep

/-! ### The end of a program operation (R304, R306, R312, R313, R323, R324) -/

/-- A fold has written its base: count it, queue the erase of the old sector (R313). -/
def State.folded (s : State) (c : Nat) : State :=
  let old := (s.ctr c).active
  let s := s.onCtr c (fun k => k.foldTo (s.pCyc % 2 ^ 32))
  (s.bump F.NVM_FOLDS_FOLDS).eraseTally c old false

/-- A cell's slot has been used: write the increment that is still to be written, if any, folding first where the slot was the last
(R312, R313). -/
def State.afterCell (s : State) (c : Nat) (left : Option Nat) (save : Bool) : State :=
  let n := ctrBank c
  let s := match left with
    | some k => s.progFirst n (.cell c (min k 0xFFFFFFFF) save (k - 0xFFFFFFFF))
    | none => s
  if (s.ctr c).full ∧ (s.ctr c).otherErased then s.progFirst n (.fold c)
  else if (s.ctr c).full ∧ left.isSome then
    (s.onBank n (fun b => { b with progQ := b.progQ.drop 1 })).holdCtr c
  else s

/-- The command of a resolution completes (R324). -/
def State.resolved (s : State) (status : Nat) (res : List Byte) : State :=
  ((s.onNvm (fun n => { n with resolve := none })).put F.NVM_STAT_RESOLVE false).finish
    (fun w => match w with | .dispute => true | _ => false) status res

/-- The base of a resolution: SEQ = the active sector's last record + 1, VOID clear, the chosen VALUE; that sector becomes active,
and a choice of the higher value raises the accumulator by the difference (R324). -/
def State.resolveFold (s : State) (c value choice : Nat) : State :=
  let k := s.ctr c
  let old := k.active
  let b := Sector.valid (k.sector.lastSeq + 1) value (s.pCyc % 2 ^ 32) k.sector.lastSave false []
  let diff := if choice = 1 then value - k.stored else 0
  let s := s.onCtr c (fun k =>
    { k.setSector (1 - old) b with active := 1 - old, held := false, acc := min (k.acc + diff * ctrUnit c) (2 ^ 96 - 1) })
  let s := s.onNvm (fun n => { n with resolve := n.resolve.map (fun r => { r with step := 3 }) })
  s.eraseTally c old false

/-- The first step of a resolution: erase the sector that is not active (R324). -/
def State.resolveStart (s : State) (c : Nat) : State :=
  let s := s.onNvm (fun n => { n with resolve := n.resolve.map (fun r => { r with step := 1 }) })
  s.eraseTally c (1 - (s.ctr c).active) false

/-- A commit ends (R328): OK with 0x0A0C, or a failed status with 0x0A0D. -/
def State.commitEnd (s : State) (ok : Bool) : State :=
  let b := s.nvm.commitBank
  let seq := match s.nvm.commit with | some x => x.seq | none => 0
  let s := s.put F.NVM_STAT_COMMIT false
  let s := s.onNvm (fun n => { n with commit := none })
  let isCommit := fun w => match w with | WaitFor.commit => true | _ => false
  if ok then
    let s := (s.record 0x0A0C srcDevice b).put F.NVM_EVT_COMMIT_EVT true
    s.finish isCommit stOk (leBytes 1 b ++ zeros 3 ++ leBytes 4 seq)
  else
    let s := s.forEach (List.range 4) (fun s n => s.onBank n (fun k => { k with
      progQ := k.progQ.filter (fun op => match op with | .paramHeader | .paramRow _ | .paramTrailer => false | _ => true),
      eraseQ := k.eraseQ.filter (fun e => match e with | .param _ _ => false | _ => true) }))
    let s := (s.record 0x0A0D srcDevice 0).put F.NVM_EVT_CFAIL_EVT true
    s.finish isCommit stTimeout

/-- The active parameter bank: the valid bank with the higher SEQ, bank 0 on equal SEQ (R326). -/
def Nvm.activeBank (n : Nvm) : Option (Nat × ParamBank) :=
  match n.bank0, n.bank1 with
  | some a, some b => if a.seq < b.seq then some (1, b) else some (0, a)
  | some a, none => some (0, a)
  | none, some b => some (1, b)
  | none, none => none

/-- The status fields of the parameter banks (NVM_PBANK, NVM_PCNT). -/
def State.showBanks (s : State) : State :=
  let s := (s.put F.NVM_PBANK_VALID0 s.nvm.bank0.isSome).put F.NVM_PBANK_VALID1 s.nvm.bank1.isSome
  match s.nvm.activeBank with
  | some (a, b) => (s.wr F.NVM_PBANK_ACTIVE a).wr F.NVM_PCNT_COUNT b.entries.length
  | none => (s.wr F.NVM_PBANK_ACTIVE 0).wr F.NVM_PCNT_COUNT 0

/-- The trailer of a commit has been programmed: the bank becomes valid, and active by its SEQ (R326, R328). -/
def State.bankWritten (s : State) : State :=
  let s := s.onNvm (fun n => if n.commitBank = 0 then { n with bank0 := n.commit } else { n with bank1 := n.commit })
  s.showBanks.commitEnd true

/-- A seal record waits for its program operation. -/
def State.sealBusy (s : State) : Bool :=
  let isSeal := fun (o : ProgOp) => match o with | .seal _ _ _ => true | _ => false
  s.nvm.sealNext.isSome || (s.bank 3).progQ.any isSeal || (match (s.bank 3).prog with | some o => isSeal o | none => false)

/-- SEAL or UNSEAL_RESPONSE waits for its record and cell. -/
def WaitFor.isSeal : WaitFor → Bool
  | .sealRecord | .unsealRecord => true
  | _ => false

/-- A seal or unseal command completes once its record and its cell of counter 299 are written (R475). -/
def State.sealDone (s : State) : State :=
  let res := leBytes 8 (s.reading 299)
  let t := s.rd F.SEC_STAT_SEALER
  let hit := s.waits.filter (fun w => w.wait.isSeal)
  let s := { s with waits := s.waits.filter (fun w => !w.wait.isSeal) }
  hit.foldl (fun s w =>
    let on := w.wait == .sealRecord
    let s := (s.record (if on then 0x0E08 else 0x0E09) (srcTenant t) 0).put F.SEC_STAT_SEAL_EVT true
    (s.notice (List.range 8) 0x16 (leBytes 1 t ++ leBytes 1 on.toNat ++ leBytes 1 t)).complete w.cmd stOk res) s

/-- Write counter 299's cell of a seal or an unseal (R330); nothing is left to write where a save has stored it meanwhile. -/
def State.sealCell (s : State) : State :=
  let d := s.reading 299 - (s.ctr 299).stored
  if d = 0 then s.sealDone else (s.writeInc 299 d false).kick 2

/-- Append a seal record (R475): into the active half, or, when that is full, into the other half after its erase. -/
def State.writeSeal (s : State) (sealed : Bool) (sealer count : Nat) : State :=
  let len := if s.nvm.sealActive = 0 then s.nvm.sealHalf0.length else s.nvm.sealHalf1.length
  if len < 1024 then s.prog 3 (.seal sealed sealer count)
  else (s.onNvm (fun n => { n with sealNext := some (sealed, sealer, count) })).queueErase 3
    (.seal (1 - s.nvm.sealActive) 0)

/-- What a completed program operation changes. -/
def State.progDone (s : State) (op : ProgOp) : State :=
  match op with
  | .cell c inc save rest =>
    let s := (s.onCtr c (fun k => k.push (.ok inc save))).afterCell c (if rest = 0 then none else some rest) save
    if c = 299 ∧ !s.sealBusy then s.sealDone
    else if c = 288 ∧ inc = 0 ∧ !save then s.onNvm (fun n => { n with wakeMark := false })
    else s
  | .fold c => s.folded c
  | .resolveBase c value => s.resolveFold c value (match s.nvm.resolve with | some r => r.choice | none => 0)
  | .voidBase c =>
    let s := s.onCtr c (fun k =>
      { k with s0 := .valid 0 0 (s.pCyc % 2 ^ 32) false true [], active := 0, held := false })
    (match s.nvm.resolve with
      | some r => if r.ctr = c ∧ r.step = 0 then s.resolveStart c else s
      | none => s)
  | .slv q => s.slvProgrammed q true
  | .seal a b n => (s.onNvm (fun m => m.pushSeal (.ok a b n))).sealCell
  | .paramHeader | .paramRow _ => s
  | .paramTrailer => s.bankWritten

/-- What a program operation that failed its verify changes (R306, R312, R343): it is not retried in place. -/
def State.progFailed (s : State) (op : ProgOp) : State :=
  let s := s.flashFail 1 (s.progOfs op)
  match op with
  | .cell c inc save rest => (s.onCtr c (fun k => k.push .torn)).afterCell c (some (inc + rest)) save
  | .fold c =>
    let x := 1 - (s.ctr c).active
    (s.onCtr c (fun k => k.setSector x .junk)).eraseTally c x false
  | .resolveBase c _ => (s.onCtr c (fun k => k.setSector (1 - k.active) .junk)).resolved stTimeout []
  | .voidBase c => (s.onCtr c (fun k => k.setSector 0 .junk)).eraseTally c 0 false
  | .slv q => s.slvProgrammed q false
  | .seal a b n => (s.onNvm (fun m => m.pushSeal .torn)).progFirst 3 (.seal a b n)
  | .paramHeader | .paramRow _ | .paramTrailer => s.commitEnd false

/-- A soft reset goes on (Table 17-3, steps 2 to 4): once no lane ramps down and no commit, resolution or calibration runs, the closing
save is made; before RECOVERED there is none to make (R318). -/
def State.softAdvance (s : State) : State :=
  if s.power.stage ≠ .softReset ∨ s.nvm.closing.isSome ∨ s.nvm.commit.isSome ∨ s.nvm.resolve.isSome ∨
      s.meters.toList.any (fun m => m.calib.isSome) ∨ (List.range 48).any (fun l => s.flag F.LN_STATE_PARKING l) then s
  else if s.flag F.NVM_STAT_RECOVERED then s.closingSave .softReset
  else s.onNvm (fun n => { n with closing := some .softReset })

/-- FLASH_PROGRAM_DONE (R304): the operation in progress in a bank ends, and the save, fold or flush proceeds. -/
def execFlashProgramDone (bank : Fin 4) (ok : Bool) (s : State) : Host.Outcome State Fault Refusal :=
  let s := s.begin
  .next (match (s.bank bank.val).prog with
    | none => s
    | some op =>
      let s := s.onBank bank.val (fun b => { b with prog := none })
      let s := if ok then s.progDone op else s.progFailed op
      ((s.kickAll.saveStep).closeIfDone).softAdvance)

/-! ### The end of an erase (R306, R313, R319, R323, R324, R328, R344, R475) -/

/-- A resolution of a counter with a step. -/
def State.resolving (s : State) (c step : Nat) : Bool :=
  match s.nvm.resolve with
  | some r => r.ctr == c && r.step == step
  | none => false

/-- The value a resolution gives (R324). -/
def State.resolveValue (s : State) (c : Nat) : Nat :=
  let k := s.ctr c
  match s.nvm.resolve with
  | some r => if r.choice = 1 then k.stored + (k.alt - k.stored) else k.stored
  | none => k.stored

/-- A Tally sector has been erased. -/
def State.tallyErased (s : State) (c x : Nat) (junk : Bool) : State :=
  let s := s.bump F.NVM_FOLDS_ERASES
  let s := s.onCtr c (fun k => k.setSector x .erased)
  let s := if junk then s.recordCtr 0x0A04 c else s
  if s.resolving c 1 then
    let s := s.onNvm (fun n => { n with resolve := n.resolve.map (fun r => { r with step := 2 }) })
    s.prog (ctrBank c) (.resolveBase c (s.resolveValue c))
  else if s.resolving c 3 then
    let choice := match s.nvm.resolve with | some r => r.choice | none => 0
    let s := s.onCtr c (fun k => { k with st := .normal, alt := 0, held := false, heldLogged := false })
    (s.recordCtr 0x0A08 c (decide (choice = 1))).resolved stOk (leBytes 8 (s.reading c))
  else
    let k := s.ctr c
    let both : Bool := match k.s0, k.s1 with | .erased, .erased => true | _, _ => false
    if k.st = .void ∧ k.held ∧ both then s.prog (ctrBank c) (.voidBase c)
    else if k.full ∧ k.otherErased then s.prog (ctrBank c) (.fold c)
    else s.onCtr c (fun k => { k with held := if k.st = .void then k.held else false })

/-- An erase has completed. -/
def State.eraseDone (s : State) (e : EraseOp) : State :=
  match e with
  | .tally c x junk => s.tallyErased c x junk
  | .slv n => s.slvErased n
  | .param b k =>
    if k = 47 then
      let rows := (32 + 8 * (match s.nvm.commit with | some x => x.entries.length | none => 0) + 63) / 64
      let s := s.onBank 3 (fun q => { q with
        progQ := q.progQ ++ [.paramHeader] ++ (List.range rows).map ProgOp.paramRow ++ [.paramTrailer] })
      s.kick 3
    else s.queueErase 3 (.param b (k + 1))
  | .seal h k =>
    if k = 7 then
      let s := s.onNvm (fun n =>
        if h = 0 then { n with sealHalf0 := [], sealActive := 0 } else { n with sealHalf1 := [], sealActive := 1 })
      (match s.nvm.sealNext with
        | some (a, b, n) => (s.onNvm (fun m => { m with sealNext := none })).prog 3 (.seal a b n)
        | none => s)
    else s.queueErase 3 (.seal h (k + 1))

/-- FLASH_ERASE_DONE (R304, R306): the erase of a bank has ended. An erase that still finds words not erased is retried up to three
times; then event 0x0A10, and a commit or a resolution that needed it fails. -/
def execFlashEraseDone (bank : Fin 4) (ok : Bool) (s : State) : Host.Outcome State Fault Refusal :=
  let s := s.begin
  let b := s.bank bank.val
  .next (match b.erase with
    | none => s
    | some e =>
      if ok then
        let s := s.onBank bank.val (fun b => { b with erase := none, suspended := false, tries := 0 })
        ((s.eraseDone e).kickAll.saveStep).closeIfDone.softAdvance
      else if b.tries < 3 then s.onBank bank.val (fun b => { b with tries := b.tries + 1 })
      else
        let s := s.onBank bank.val (fun b => { b with erase := none, suspended := false, tries := 0 })
        let s := s.flashFail 2 (eraseOfs e)
        let s := match e with
          | .param _ _ => s.commitEnd false
          | .tally c _ _ => if s.resolving c 1 ∨ s.resolving c 3 then s.resolved stTimeout [] else s
          | _ => s
        s.kickAll.softAdvance)

/-- ERASE_SUSPEND_DONE (R306, R315): the bank is free for the program operations that wait. A closing save aborts the erase, which
stays queued; otherwise it is suspended. A Tally erase does not suspend. -/
def execEraseSuspendDone (bank : Fin 4) (s : State) : Host.Outcome State Fault Refusal :=
  let s := s.begin
  let b := s.bank bank.val
  .next (match b.erase with
    | none => s
    | some e =>
      if s.nvm.closing.isSome then
        (s.onBank bank.val (fun b => { b with erase := none, suspended := false, eraseQ := e :: b.eraseQ })).kickAll
      else if e.isTally ∨ b.progQ.isEmpty then s
      else (s.onBank bank.val (fun b => { b with suspended := true })).kick bank.val)

/-! ### Recovery (R318 to R323, R475) -/

/-- The count and record of one corrected (false) or unreadable (true) word at a flash offset (R306, R332). -/
def State.eccHit (s : State) (h : Nat × Bool) : State :=
  let s := (s.wr F.NVM_ELAST_OFS h.1).wr F.NVM_ELAST_KIND (if h.2 then 2 else 1)
  if h.2 then ((s.bump F.NVM_ECC_UNCORR).record 0x0A0F srcDevice 0).put F.NVM_EVT_ECC_U_EVT true
  else ((s.bump F.NVM_ECC_CORR).record 0x0A0E srcDevice 0).put F.NVM_EVT_ECC_C_EVT true

/-- A sector with an unreadable word: in the base it is junk, in a cell slot that cell is torn (R311). -/
def Sector.damage (x : Sector) (ofs : Nat) : Sector :=
  match x with
  | .valid q v p sv vd cs =>
    if ofs < 0x20 then .junk
    else
      let j := (ofs - 0x20) / 16
      if j < cs.length then .valid q v p sv vd (cs.set j .torn) else x
  | x => x

/-- What recovery finds of one counter (R319): the counter as decided, the sectors to erase with their junk mark, torn cells. -/
structure Found where
  ctr : Counter
  erase : List (Nat × Bool)
  torn : Bool
  folded : Bool
  deriving DecidableEq, Repr

/-- The VOID flag of a sector. -/
def Sector.isVoid : Sector → Bool
  | .valid _ _ _ _ v _ => v
  | _ => false

/-- A sector is valid; is junk (R311). -/
def Sector.isValid : Sector → Bool
  | .valid _ _ _ _ _ _ => true
  | _ => false
def Sector.isJunk : Sector → Bool
  | .junk => true
  | _ => false

/-- A sector holds a torn cell. -/
def Sector.hasTorn : Sector → Bool
  | .valid _ _ _ _ _ cs => cs.any (fun c => match c with | .torn => true | _ => false)
  | _ => false

/-- recover_counter of R319. -/
def recoverCounter (k : Counter) : Found :=
  let v0 := k.s0.isValid
  let v1 := k.s1.isValid
  let torn := k.s0.hasTorn || k.s1.hasTorn
  let fin := fun (a : Nat) (st : CtrState) (alt : Nat) =>
    let k' : Counter := { k with active := a, st := st, held := false, heldLogged := false, alt := alt }
    { k' with st := if st = .normal ∧ k'.sector.isVoid then .void else st }
  if v0 ∧ v1 then
    if k.s0.seq ≠ k.s1.seq then
      let a := if k.s1.seq < k.s0.seq then 0 else 1
      ⟨fin a .normal 0, [(1 - a, false)], torn, true⟩
    else if k.s0.total = k.s1.total then
      let a := if k.s1.used < k.s0.used then 1 else 0
      ⟨fin a .normal 0, [(1 - a, false)], torn, false⟩
    else
      let a := if k.s1.total < k.s0.total then 1 else 0
      ⟨fin a .disputed (max k.s0.total k.s1.total), [], torn, false⟩
  else if v0 ∨ v1 then
    let a := if v0 then 0 else 1
    let o := if v0 then k.s1 else k.s0
    ⟨fin a .normal 0, if o.isJunk then [(1 - a, true)] else [], torn, false⟩
  else ⟨{ fin 0 .void 0 with held := true }, [(0, false), (1, false)], torn, false⟩

/-- Recovery of one counter: its state, its accumulator at UNIT times the recovered value, its events, its queued erases (R318 to
R320, R322, R323). -/
def State.recoverOne (s : State) (c : Nat) : State :=
  let f := recoverCounter (s.ctr c)
  let s := s.onCtr c (fun _ => { f.ctr with acc := f.ctr.stored * ctrUnit c })
  let s := if f.torn then (s.recordCtr 0x0A02 c).put F.NVM_EVT_TORN_EVT true else s
  let s := if f.folded then s.recordCtr 0x0A03 c else s
  let s := match f.ctr.st with
    | .disputed => (s.recordCtr 0x0A07 c).put F.NVM_EVT_DISP_EVT true
    | .void => (s.recordCtr 0x0A06 c).put F.NVM_EVT_DISP_EVT true
    | .normal => s
  let s : State := f.erase.foldl (fun (s : State) (e : Nat × Bool) => s.onBank (ctrBank c) (fun b => { b with eraseQ := b.eraseQ ++ [.tally c e.1 e.2] })) s
  if (s.ctr c).full ∧ (s.ctr c).otherErased then s.folded c else s

/-- The newest valid seal record of both halves: the highest counter value (R475). -/
def Nvm.newestSeal (n : Nvm) : Option (Bool × Nat × Nat) :=
  (n.sealHalf0 ++ n.sealHalf1).foldl (fun m r => match r with
    | .torn => m
    | .ok a b v => match m with
      | some (_, _, w) => if w < v then some (a, b, v) else m
      | none => some (a, b, v)) none

/-- The flags of 0x0A01 (Table 13-9). -/
def State.recoveryFlags (s : State) (torn folds : Bool) : Nat :=
  torn.toNat + 2 * folds.toNat + 4 * (decide (0 < s.eraseCount)).toNat + 8 * (!s.disputed.isEmpty).toNat

/-- Tally recovery (R318 to R323): every counter is decided, then the power-cycle or reset cell, the run check and the recovery
marker are written; `cause` is the reset cause of Table 17-2. -/
def State.tallyRecover (s : State) (cause : Nat) (ecc : List (Nat × Bool)) : State :=
  let s := ecc.foldl (fun s h => s.eccHit h) s
  let s := ecc.foldl (fun s h =>
    if h.2 ∧ h.1 < 304 * 0x1000 then
      let c := h.1 / 0x1000
      let x := h.1 % 0x1000 / 0x800
      s.onCtr c (fun k => k.setSector x ((if x = 0 then k.s0 else k.s1).damage (h.1 % 0x800)))
    else s) s
  let scrub := (ecc.filter (fun h => !h.2 && decide (h.1 < 304 * 0x1000))).map (fun h => h.1 / 0x1000)
  let before := List.range 304
  let torn := before.any (fun c => (recoverCounter (s.ctr c)).torn)
  let folds := before.any (fun c => (recoverCounter (s.ctr c)).folded)
  let savedLast := (recoverCounter (s.ctr 288)).ctr.sector.lastSave
  let first := decide (cause = 1 ∧ (recoverCounter (s.ctr 289)).ctr.stored = 0)
  let s := s.forEach before State.recoverOne
  let s := s.onNvm (fun n => { n with scrub := scrub })
  let s := if cause = 1 then (s.cellNow 289 1 false).onCtr 289 (fun k => { k with acc := k.acc + 1 })
    else (s.cellNow 298 1 false).onCtr 298 (fun k => { k with acc := k.acc + 1 })
  let start := s.reading 288
  let s :=
    if first ∨ savedLast then s.put F.NVM_PF_SAVED (savedLast && !first)
    else
      let s := (s.record 0x0A05 srcDevice 0).put F.NVM_EVT_UNMET_EVT true
      let s := (s.put F.NVM_PF_UM true).put F.NVM_PF_SAVED false
      let s := (s.wr F.NVM_UM_LO_START start).wr F.NVM_UM_HI_START_HI (start / 2 ^ 32)
      let s := s.wr F.NVM_UM_HI_SPAN (600 * s.rd F.NVM_CFG_CKPT + 10)
      s.forEach (List.range 48) (fun s l => s.put F.MTR_STAT_UNMET true l)
  let s := s.cellNow 288 0 false
  let s := match s.nvm.newestSeal with
    | some (a, b, v) =>
      let s := (s.put F.SEC_STAT_SEALED a).wr F.SEC_STAT_SEALER (if a then b else 0)
      let s := s.put F.SEC_STAT_DBG_LOCK a
      let d := v - s.reading 299
      if d = 0 then s else (s.cellNow 299 d false).onCtr 299 (fun k => { k with acc := k.acc + d })
    | none => s
  s.record 0x0A01 srcDevice (s.recoveryFlags torn folds)

/-! ### Commands and register writes -/

/-- CHECKPOINT (R314): the interval has elapsed. -/
def execCheckpoint (s : State) : Host.Outcome State Fault Refusal := .next s.begin.checkpoint

/-- METER_RESOLVE_DISPUTE (R324, R453). -/
def execMeterResolveDispute (h : CmdHdr) (choice : Byte) (s : State) : Host.Outcome State Fault Refusal :=
  .next (s.dispatch { opcode := 0x3A, issuers := .t, tgt := .counter } h fun s c =>
    let k := s.ctr h.tgt.toNat
    if !s.flag F.NVM_STAT_RECOVERED then s.complete c stNvmBusy
    else if 1 < choice.toNat then s.complete c stFieldRange
    else if k.st = .normal then s.complete c stNotPermitted
    else if s.nvm.resolve.isSome then s.complete c stResourceBusy
    else
      let s := s.put F.NVM_STAT_RESOLVE true
      let s := s.onNvm (fun n => { n with resolve := some ⟨h.tgt.toNat, choice.toNat, 0⟩ })
      let s := s.hold c .dispute
      if k.st = .void ∧ k.held then s else s.resolveStart h.tgt.toNat)

/-- The (ADDR, VALUE) pairs of a buffer, in its order (R456). -/
def pairsOf : Nat → List Byte → List (Nat × Word)
  | 0, _ => []
  | n + 1, b => (leAt b 0 4, BitVec.ofNat 32 (leAt b 4 4)) :: pairsOf n (b.drop 8)

/-- The staging image after the pairs of an OP (R456). -/
def State.staged (s : State) (op : Nat) (ps : List (Nat × Word)) : List (Nat × Word) :=
  match op with
  | 0 => ps.foldl (fun l p => stagePut l p.1 p.2) s.nvm.staging
  | 1 => ps.foldl (fun l p => stagePut l p.1 (s.readAddr p.1)) s.nvm.staging
  | 2 => ps.foldl (fun l p => l.filter (fun e => e.1 != p.1)) s.nvm.staging
  | _ => []

/-- An edit of the staging image, its entries read (R456). -/
def State.paramEdit (s : State) (c : CmdRef) (op : Nat) (b : List Byte) : State :=
  let ps := if op = 3 then [] else pairsOf (c.dlen / 8) b
  let new := s.staged op ps
  if 3 < op ∨ c.dlen % 8 ≠ 0 ∨ ps.any (fun p => p.1 % 4 != 0) ∨ (op = 1 ∧ ps.any (fun p => (decodeAddr p.1).isNone)) ∨
      12280 < new.length then
    s.complete c stFieldRange
  else if !s.flag F.NVM_STAT_PLOADED ∨ s.flag F.NVM_STAT_COMMIT then s.complete c stNvmBusy
  else (s.onNvm (fun n => { n with staging := new })).complete c stOk (leBytes 4 new.length)

/-- PARAM_WRITE (R456): edit the staging image; a refused command leaves it unchanged. -/
def execParamWrite (h : CmdHdr) (op : Byte) (buf : Dma) (s : State) : Host.Outcome State Fault Refusal :=
  .next (s.dispatch { opcode := 0x48, issuers := .m, tgt := .zero, needBuf := decide (op.toNat ≠ 3) } h fun s c =>
    if op.toNat = 3 then s.paramEdit c op.toNat [] else s.withBuf c buf fun s b => s.paramEdit c op.toNat b)

/-- PARAM_READ (R457). -/
def execParamRead (h : CmdHdr) (src : Byte) (first : Word) (s : State) : Host.Outcome State Fault Refusal :=
  .next (s.dispatch { opcode := 0x49, issuers := .any, tgt := .zero, needBuf := true } h fun s c =>
    if 1 < src.toNat ∨ c.dlen % 8 ≠ 0 then s.complete c stFieldRange
    else if !s.flag F.NVM_STAT_PLOADED then s.complete c stNvmBusy
    else
      let act := s.nvm.activeBank
      let all := if src.toNat = 0 then s.nvm.staging else (match act with | some (_, b) => b.entries | none => [])
      let seq := match act with | some (_, b) => b.seq | none => 0
      let es := (all.drop first.toNat).take (c.dlen / 8)
      let s := s.writeBuf c (es.foldl (fun a e => a ++ leBytes 4 e.1 ++ leBytes 4 e.2.toNat) [])
      s.complete c stOk (leBytes 4 all.length ++ leBytes 4 es.length ++ leBytes 4 seq))

/-- A staging entry gives an RWL field a value that differs from its live one (R328, R517). -/
def State.changesSealed (s : State) (e : Nat × Word) : Bool :=
  match decodeAddr e.1 with
  | some (r, i) => (s.view r i &&& BitVec.ofNat 32 r.info.rwl) != (e.2 &&& BitVec.ofNat 32 r.info.rwl)
  | none => false

/-- PARAM_COMMIT (R328): erase the inactive bank, program header, entries in ascending ADDR and trailer. -/
def execParamCommit (h : CmdHdr) (s : State) : Host.Outcome State Fault Refusal :=
  .next (s.dispatch { opcode := 0x4A, issuers := .m, tgt := .zero } h fun s c =>
    if !s.flag F.NVM_STAT_PLOADED ∨ !s.flag F.NVM_STAT_RECOVERED ∨ s.flag F.NVM_STAT_COMMIT then s.complete c stNvmBusy
    else if s.flag F.SEC_STAT_SEALED ∧ s.nvm.staging.any s.changesSealed then s.complete c stSealed
    else
      let act := s.nvm.activeBank
      let bank := match act with | some (a, _) => 1 - a | none => 0
      let seq := match act with | some (_, b) => b.seq + 1 | none => 1
      let es := s.nvm.staging.foldl (fun t e => tabSet t e.1 e.2) []
      let s := s.put F.NVM_STAT_COMMIT true
      let s := s.onNvm (fun n => { n with commit := some ⟨seq % 2 ^ 32, s.pCyc % 2 ^ 32, es⟩, commitBank := bank })
      (s.hold c .commit).queueErase 3 (.param bank 0))

end Sys2Proof.Machine
end

