-- ==== Sys2Proof/Machine/LaneOps.lean ====
section
/-!
DEFINITION. Sys2Proof/Machine/LaneOps.lean: what every engine shares about lanes and phases: driving and stopping a phase (R78),
safe levels (R137, R139), the driven set and the full driving order (R196, R36), offsets (R152, R153), the lane state machine's
entries (R197 to R205), what ends with a state change (surveys R187, Shuttle sequences R114, calibrations R299), and the setting
of trip latches (R140, R143).
-/
namespace Sys2Proof.Machine

/-! ### Access -/

/-- Change the hidden state of a phase. -/
def State.onPh (s : State) (p : Nat) (f : PhaseSt → PhaseSt) : State := { s with phases := vupd s.phases p f }

/-- Change the hidden state of the carrier logic and the Reed. -/
def State.onPwm (s : State) (f : Pwm → Pwm) : State := { s with pwm := f s.pwm }

/-- The lanes of a bay. -/
def bayLanes (b : Nat) : List Nat := [4 * b, 4 * b + 1, 4 * b + 2, 4 * b + 3]

/-- Change the hidden state of a segment. -/
def State.onSeg (s : State) (g : Nat) (f : SegSt → SegSt) : State := { s with segs := vupd s.segs g f }

/-- Clear a segment loop (Table 4-9, R221). -/
def State.clearSeg (s : State) (g : Nat) : State :=
  (s.onSeg g (fun x => { x with comp := Comp.zero, iApp := 0 })).wr F.BUS_LOOP_STAT_ISEG 0 g

/-- PERIOD, in CLK_PWM counts. -/
def State.period (s : State) : Nat := s.rd F.GLB_PWM_PER_PERIOD

/-- a of R134: the dithering amplitude in counts. -/
def State.dither (s : State) : Nat := s.period * s.rd F.GLB_PWM_SS_DEPTH / 400

/-- The shortest carrier period in force (R80, R136). -/
def State.shortest (s : State) : Nat := if s.flag F.GLB_PWM_SS_ACTIVE then s.period - s.dither else s.period

/-- dlo and dhi of a lane's phases (R80): dhi for both where dlo exceeds it. -/
def State.clamps (s : State) (l : Nat) : Int × Int :=
  let b := bayOfLane l
  let t := max 1 s.shortest
  let dlo := (s.rd F.BAY_DLIM_TON_MIN b * 65536 + t - 1) / t
  let off := (s.rd F.BAY_DLIM_TOFF_MIN b * 65536 + t - 1) / t
  let dhi := min (s.rd F.LN_LOOP_CFG_DMAX l) (65536 - off)
  (min dlo dhi, dhi)

/-- The duty an integrator gives without error, clamped (R78, R112). -/
def State.dutyOf (s : State) (l : Nat) (acc : Int) : Nat :=
  let c := s.clamps l
  (clampI ((((s.lane l).ff : Int) * 65536 + acc) / 65536) c.1 c.2).toNat

/-! ### Safe levels (R137, R139) -/

/-- Clock loss (R21). -/
def State.clockLost (s : State) : Bool := s.flag F.GLB_CLK_STAT_XIN_LOST || !s.flag F.GLB_CLK_STAT_PLL_LOCK

/-- SAFE_N is low. -/
def State.safeLow (s : State) : Bool := s.flag F.GLB_TRIP_SAFE_LIVE

/-- The safe level of a phase: 0 Z, 1 LOW, 2 HIGH; HIGH only while a latch covers the phase or its bay is disabled, and in none
of the cases of R139. -/
def State.safeLevel (s : State) (p : Nat) : Nat :=
  let b := bayOfPhase p
  let v := bitsN (s.rd F.BAY_SAFE_LEVELS b) (2 * (p % 16)) 2
  if v = 2 then
    if (s.covered p ∨ !s.flag F.BAY_PWM_CTL_PWM_EN b) ∧ !s.safeLow ∧ !s.flag F.GLB_PF_PF_STATE ∧ !s.clockLost ∧
        !s.flag F.GLB_PWM_STAT_FREEZE ∧ s.flag F.BAY_DL_STAT_DL_LOCK b then 2 else 0
  else v

/-- The PWM outputs are held high impedance: power-on reset up to the clocks, and Dormant (R395, R400, R406). -/
def State.inReset (s : State) : Bool :=
  s.power.stage == .dormant || (match s.power.boot with | .waitXin | .pllEnabled | .halted => true | _ => false)

/-- The PWM ball of a phase: none while its carrier logic drives it, else the level it holds (R119, R121, R137, R142). -/
def State.ball (s : State) (p : Nat) : Option Nat :=
  if s.inReset then some 0
  else if (s.ph p).on ∧ !s.covered p ∧ s.flag F.BAY_PWM_CTL_PWM_EN (bayOfPhase p) then none
  else some (s.safeLevel p)

/-! ### Driving and stopping a phase (R78, R153, R202, R203) -/

/-- A phase is to begin driving at its next carrier start; its shadow is loaded from its held integrator, or from 0 (R78). -/
def State.beginPhase (s : State) (l p : Nat) (keep : Bool) : State :=
  let acc := if keep then (s.ph p).acc else 0
  let d := s.dutyOf l acc
  s.onPh p (fun x => { x with
    acc := acc, duty := if x.on then x.duty else d, begins := !x.on, stops := false, clamped := 0 })

/-- A phase takes its safe level in place of its next rise; its integrator is held or cleared (R78). -/
def State.stopPhase (s : State) (p : Nat) (keep : Bool) : State :=
  s.onPh p (fun x => { x with
    acc := if keep then x.acc else 0, iref := if keep then x.iref else 0, begins := false, stops := x.on, frz := false })

/-- A phase goes to its safe level at once, and its integrator is cleared (R78, R140). -/
def State.cutPhase (s : State) (p : Nat) : State :=
  s.onPh p (fun x => { x with acc := 0, iref := 0, on := false, begins := false, stops := false, frz := false })

/-- Clear the loop state of a lane: histories, I_app, every integrator (Table 4-9). -/
def State.clearLoops (s : State) (l : Nat) : State :=
  let s := s.forEach (s.phasesOf l) (fun s p => s.onPh p (fun x => { x with acc := 0, iref := 0 }))
  (s.wr F.LN_LOOP_STAT_IREF 0 l).onLane l (fun x => { x with comps := Vector.replicate 5 Comp.zero })

/-! ### The full driving order and the driven set (R196, R36, R152) -/

/-- Place active phases in order, each quarantined one replaced by the next Bobbin that is left, or dropped (R36, R204, R207). -/
def placeOrder (quar : Nat → Bool) : List Nat → List Nat → List Nat
  | [], _ => []
  | p :: ps, bs =>
    if !quar p then p :: placeOrder quar ps bs
    else match bs with
      | b :: rest => b :: placeOrder quar ps rest
      | [] => placeOrder quar ps []

/-- The full driving order as it is formed anew (R196, R204). -/
def State.formOrder (s : State) (l : Nat) : List Nat :=
  placeOrder s.quarPh (s.activeOf l) ((s.bobbinsOf l).filter (fun p => !s.quarPh p))

/-- The driven set of a lane, in the order of the full driving order. -/
def State.drivenOf (s : State) (l : Nat) : List Nat := (s.lane l).order.filter s.driven

/-- Base offset B[l] in counts (R151). -/
def State.baseOf (s : State) (l : Nat) : Nat := (s.rd F.LN_REED_BASE l * s.period + 32) / 64

/-- The phases of a driving order take their targets; a phase that does not drive takes its target as its offset (R152, R153). -/
def State.aim (s : State) (l n : Nat) : Nat → List Nat → State
  | _, [] => s
  | j, p :: ps =>
    let o := (s.baseOf l + (2 * j * s.period + n) / (2 * n)) % max 1 s.period
    (s.onPh p (fun x => { x with ofsT := o, ofs := if x.on then x.ofs else o })).aim l n (j + 1) ps

/-- Set the targets of a lane's driving order (R163); held during debug freeze (Table 7-2). -/
def State.retarget (s : State) (l : Nat) : State :=
  if s.flag F.GLB_PWM_STAT_FREEZE then s else s.aim l (s.drivenOf l).length 0 (s.drivenOf l)

/-- Set the driven set of a lane (BAY_PHASE_SVC) and its targets. -/
def State.setDriven (s : State) (l : Nat) (ds : List Nat) : State :=
  (s.forEach (s.phasesOf l) (fun s p =>
    s.putBit F.BAY_PHASE_SVC_DRIVEN (p % 16) (ds.contains p && !s.quarPh p) (bayOfPhase p))).retarget l

/-- Set the full driving order of a lane. -/
def State.setOrder (s : State) (l : Nat) (o : List Nat) : State := s.onLane l (fun x => { x with order := o })

/-! ### The Reed's requests (R160, R164) -/

/-- Request a plan of a segment for a cause of Table 7-1; ignored while PLAN_EN of the segment is 0. -/
def State.askReed (s : State) (g cause : Nat) : State :=
  if s.rdBit F.REED_CFG_PLAN_EN g then
    s.onPwm (fun x => { x with reedPend := vupd x.reedPend g (· ||| 2 ^ (cause - 1)) })
  else s

/-- RAMP and the RUN states but for HOLD: the lane is in its segment's planned set (R156). -/
def LaneState.planned : LaneState → Bool
  | .ramp | .runFull | .runShed | .runPulse => true
  | _ => false

/-- RUN-FULL, RUN-SHED, RUN-PULSE. -/
def LaneState.running : LaneState → Bool
  | .runFull | .runShed | .runPulse => true
  | _ => false

/-- RAMP, a RUN state or HOLD. -/
def LaneState.inService : LaneState → Bool
  | .ramp | .runFull | .runShed | .runPulse | .hold => true
  | _ => false

/-! ### What a state change ends -/

/-- The calibration of a lane fails (R299): event 0x0908, the command's status. -/
def State.calFail (s : State) (l flags status : Nat) : State :=
  if (s.meter l).calib.isNone then s
  else
    let s := (s.onMeter l (fun m => { m with calib := none })).put F.MTR_STAT_CAL_BUSY false l
    (s.record 0x0908 (srcLane l) flags).finish (fun w => match w with | .calibrate k => k == l | _ => false) status

/-- A Shuttle sequence of the lane ends with no hand-back (Table 5-1). -/
def State.endShuttle (s : State) (l cause : Nat) : State :=
  let b := bayOfLane l
  match (s.bay b).shuttle with
  | some r =>
    if r.lane = l then
      ((s.onBay b (fun x => { x with shuttle := none })).put F.BAY_SHTL_STAT_ACTIVE false b
        |>.record 0x0312 (srcLane l) cause).put F.BAY_SHTL_STAT_ABORT_EVT true b
    else s
  | none => s

/-- The Shuttle holds the lane (R106). -/
def State.held (s : State) (l : Nat) : Bool :=
  match (s.bay (bayOfLane l)).shuttle with | some r => r.lane == l | none => false

/-- An abort of the lane's Shuttle sequence is set for t_a, 48 counts after step 5 of the detecting update or after the trip's
recording (R113, Table 5-1); the first cause stands. -/
def State.abortShuttle (s : State) (l cause after : Nat) : State :=
  let b := bayOfLane l
  s.onBay b (fun x => { x with shuttle := x.shuttle.map (fun r =>
    if r.lane = l ∧ r.abort.isNone then
      { r with abort := some ((max 0 (2 * ((s.tb + after : Nat) - (r.t0 : Int)) + 48)).toNat, cause) }
    else r) })

/-- A survey is of the lane, and takes it out of service or checks one of its phases. -/
def SvReq.isReadmit (r : SvReq) : Bool := match r.kind with | .readmit _ => true | _ => false

/-- Whether a survey or readmit check of the lane waits or runs. -/
def State.surveyOf (s : State) (l : Nat) : List SvReq :=
  let b := s.bay (bayOfLane l)
  (match b.survey with | some v => if v.lane = l then [⟨v.lane, v.kind⟩] else [] | none => []) ++
    b.warpQ.filter (fun r => r.lane == l)

/-- A readmit check of the lane runs or waits. -/
def State.readmitting (s : State) (l : Nat) : Bool := (s.surveyOf l).any SvReq.isReadmit

/-- AUX of a lane passes to another holder: what was measured under the old one is void. -/
def State.setAux (s : State) (l : Nat) (a : AuxClaim) : State :=
  s.onLane l (fun x =>
    if x.aux = a then x
    else { x with aux := a, auxSeen := false, thOpen := false, thShort := false, thOver := false, ilkHi := 0, ilkLo := 0,
                  ilkOpen := false })

/-- AUX of a lane is held for a thermistor: by the host enable, or by a contract with AUX use thermistor (R366). -/
def State.thermHeld (s : State) (l : Nat) : Bool :=
  match (s.lane l).aux with
  | .thermistor => true
  | .jml => s.rd F.LN_JML_AUX_USE l == 2
  | _ => false

/-- Warping's claim on AUX is released. -/
def State.dropWarpAux (s : State) (l : Nat) : State :=
  if (s.lane l).aux = .warping then s.setAux l .none else s

/-- A survey or check of the lane ends: the queue moves on, STEP and RUNNING read 0. -/
def State.endSurvey (s : State) (l : Nat) : State :=
  let b := bayOfLane l
  let s := s.onBay b (fun x => { x with
    survey := match x.survey with | some v => if v.lane = l then none else some v | none => none,
    warpQ := x.warpQ.filter (fun r => r.lane != l) })
  ((s.put F.LN_WARP_STAT_RUNNING false l).wr F.LN_WARP_STAT_STEP 0 l).dropWarpAux l

/-- A readmit wait of a lane: its phase is held by the lane. -/
def State.readmitWait (s : State) (l : Nat) : WaitFor → Bool
  | .surveyEnd k => k == l
  | .readmitEnd p => s.laneOf p == some l
  | _ => false

/-- Abort the survey or readmit check of a lane with a cause of Table 8-9 (R187). -/
def State.abortSurvey (s : State) (l cause : Nat) : State :=
  if (s.surveyOf l).isEmpty then s
  else
    let s := (s.endSurvey l).record 0x0509 (srcLane l) cause
    s.finish (s.readmitWait l) stLaneState (zeros 3 ++ leBytes 1 cause)

/-! ### AUX (Table 1-6, R366) -/

/-- The host thermistor enable of a lane. -/
def State.thermEn (s : State) (l : Nat) : Bool :=
  if l < 32 then s.rdBit F.GLB_THM_EN_LO_EN l else s.rdBit F.GLB_THM_EN_HI_EN (l - 32)

/-- Write the host thermistor enable of a lane. -/
def State.putTherm (s : State) (l : Nat) (b : Bool) : State :=
  if l < 32 then s.putBit F.GLB_THM_EN_LO_EN l b else s.putBit F.GLB_THM_EN_HI_EN (l - 32) b

/-- Identification takes AUX when the lane enters OFF or DETECT, and gives it up when the lane leaves them. -/
def State.auxFor (s : State) (l : Nat) (st : LaneState) : State :=
  match st with
  | .off | .detect => (s.putTherm l false).setAux l .ident
  | _ => if (s.lane l).aux = .ident then s.setAux l .none else s

/-- What the link engine does as its lane enters a state: identification starts in DETECT (R247), which also clears LATE (R274), and
ends outside it; the first READY under a contract has READY sent (R264). -/
def State.linkFor (s : State) (l : Nat) (st : LaneState) : State :=
  let j := (s.lane l).jml
  match st with
  | .detect =>
    (s.put F.LN_JML_LATE false l).onLane l (fun x => { x with jml := { x.jml with
      link := .ident, idN := 0, idCls := 0, idRun := 0, idLogged := false, idOff := false, afterHard := false } })
  | .ready =>
    match j.con with
    | some c =>
      if j.ready then s
      else s.onLane l (fun x => { x with jml := { x.jml with
        ready := true, due := x.jml.due ++ [⟨0x05, leBytes 2 c.cnum, none, false, false⟩] } })
    | none => s
  | _ => if j.link = .ident then s.onLane l (fun x => { x with jml := { x.jml with link := .idle } }) else s

/-! ### Entering a lane state (R197, R199) -/

/-- N of LN_STATE: the phases that drive, or are entitled to in RUN-PULSE; 0 in states without switching. -/
def State.countN (s : State) (l : Nat) : Nat :=
  match s.laneState l with
  | .ramp | .runFull | .runShed | .runPulse => (s.drivenOf l).length
  | .park => if s.flag F.LN_STATE_PARKING l then (s.drivenOf l).length else 0
  | .warping => if s.rd F.LN_WARP_STAT_STEP l = 3 then (s.drivenOf l).length else 0
  | _ => 0

/-- N and NFULL follow; a change of STATE, N or PARK_SRC since `s0` makes an event entry of type 3 (R199), and a change of N in the
planned set requests a cause-3 plan (Table 7-1). -/
def State.show (s0 s : State) (l : Nat) : State :=
  let s := (s.wr F.LN_STATE_N (s.countN l) l).wr F.LN_STATE_NFULL (s.lane l).order.length l
  let n0 := s0.rd F.LN_STATE_N l
  let n1 := s.rd F.LN_STATE_N l
  let s := if n0 ≠ n1 then s.onLane l (fun x => { x with xBad := true }) else s
  let s := if n0 ≠ n1 ∧ (s0.laneState l).planned ∧ (s.laneState l).planned then s.askReed (s.segOf l) 3 else s
  if s0.laneState l ≠ s.laneState l ∨ n0 ≠ n1 ∨ s0.flag F.LN_STATE_PARK_SRC l ≠ s.flag F.LN_STATE_PARK_SRC l then
    s.laneEvent l
  else s

/-- Remove a lane from the start: its pre-start check ends without result, and it leaves the token queue (R200, R201). -/
def State.noStart (s : State) (l : Nat) : State :=
  let s := s.onLane l (fun x => { x with prestart := none })
  let s := (s.put F.LN_STATE_PRESTART false l).put F.LN_STATE_TOKEN_WAIT false l
  let s := { s with tokenQ := s.tokenQ.filter (· != l) }
  (s.wr F.GLB_START_QLEN s.tokenQ.length).finish (fun w => match w with | .rampEntered k => k == l | _ => false) stLaneState

/-- A lane enters a state (R197): what the change ends, the filters it clears, the commands it completes (R444), its entry of R199.
The phases and loops are the caller's. -/
def State.enter (s : State) (l : Nat) (new : LaneState) : State :=
  let s0 := s
  let old := s.laneState l
  if old = new then s.show s l
  else
    let s := (s.wr F.LN_STATE_PREV old.code l).wr F.LN_STATE_STATE new.code l
    let s := s.onLane l (fun x => { x with xBad := true, dwell := 0, due := none })
    let s := s.calFail l 3 stLaneState
    let s := if old.planned ≠ new.planned then s.askReed (s.segOf l) 2 else s
    let s := if old.planned ∧ !new.planned then
        (s.put F.LN_LOOP_STAT_HEADROOM false l).onLane l (fun x => { x with head := 0 })
      else s
    let s := if (old = .ready ∨ old = .park) ∧ new ≠ .ramp then s.noStart l else s
    let s := if (old = .runFull ∨ old = .runShed) ∧ new ≠ .runFull ∧ new ≠ .runShed then s.abortSurvey l 2 else s
    let s := match new with
      | .ramp => s.onLane l (fun x => { x with f := 0, ramp := 0 })
      | .runPulse => s.onLane l (fun x => { x with q := 0, burst := 0, ib := 0 })
      | _ => s
    let s := (s.auxFor l new).linkFor l new
    let s := match new with
      | .faulted | .lost => s.finish (WaitFor.ofLane l) stLaneState
      | .off => (s.finish (fun w => match w with | .laneOff k => k == l | _ => false) stOk).finish (WaitFor.ofLane l) stLaneState
      | _ => s
    s0.show s l

/-- Every phase of the lane to its safe level at once, loops cleared, and the lane in a state without switching. -/
def State.halt (s : State) (l : Nat) (new : LaneState) : State :=
  let s := s.endShuttle l 4
  let s := s.forEach (s.phasesOf l) State.cutPhase
  let s := (s.setDriven l (s.lane l).order).clearLoops l
  let s := (s.put F.LN_STATE_PARKING false l).put F.LN_STATE_PARK_SRC false l
  (s.enter l new).abortSurvey l (if new = .lost then 4 else 1)

/-- A lane enters FAULTED for a cause of 0x0601 (Table 9-2, first row, and R207, R186): not from OFF, LOST or FAULTED. -/
def State.faultLane (s : State) (l cause : Nat) : State :=
  match s.laneState l with
  | .off | .lost | .faulted => s
  | _ => ((s.record 0x0601 (srcLane l) cause).wr F.LN_STATE_FCAUSE cause l).halt l .faulted

/-- A latch that is set, or SAFE_N low, takes a lane that has left OFF to FAULTED (Table 9-2, first row; Table 17-5). -/
def State.recheckTrip (s : State) (l : Nat) : State :=
  if s.safeLow then s.faultLane l 3
  else if s.glbLatch then s.faultLane l 2
  else if s.lnLatch l then s.faultLane l 1
  else s

/-- Stop a lane's phases at their next rise, and clear its loops. -/
def State.stopLane (s : State) (l : Nat) : State :=
  ((s.forEach (s.phasesOf l) (fun s p => s.stopPhase p false)).clearLoops l).setDriven l (s.lane l).order

/-- The park ramp is over when no phase of the lane drives (R203). -/
def State.parkDone (s : State) (l : Nat) : State :=
  if s.flag F.LN_STATE_PARKING l ∧ s.laneState l = .park ∧ (s.phasesOf l).all (fun p => !(s.ph p).on && !(s.ph p).begins && !(s.ph p).frz) then
    let t := (s.put F.LN_STATE_PARKING false l).clearLoops l
    let t := t.setDriven l (t.lane l).order
    (s.show t l).finish (fun w => match w with | .parkingClear k => k == l | _ => false) stOk
  else s

/-- The event of a parking, unless the cause is 0 (R203). -/
def State.noteParked (s : State) (l cause : Nat) : State := if cause = 0 then s else s.record 0x0602 (srcLane l) cause

/-- LANE_PARK of a lane completes: no park ramp runs (R444). -/
def State.parkCleared (s : State) (l : Nat) : State :=
  s.finish (fun w => match w with | .parkingClear k => k == l | _ => false) stOk

/-- A lane parks for a cause of 0x0602; cause 0 records nothing (R203, Table 9-2, R401). -/
def State.parkLane (s : State) (l cause : Nat) : State :=
  match s.laneState l with
  | .ramp | .runFull | .runShed =>
    let s0 := s
    let s := (s.endShuttle l 4).noteParked l cause
    let s := s.onLane l (fun x => { x with i0 := s.rdS F.LN_LOOP_STAT_IREF l, tEnd := s.tb + 180000 })
    let s := (s.put F.LN_STATE_PARKING true l).put F.LN_STATE_PARK_SRC false l
    let s := s.enter l .park
    if s0.drivenOf l = [] then s.parkDone l else s
  | .runPulse | .hold =>
    let s := (s.noteParked l cause).stopLane l
    ((s.put F.LN_STATE_PARK_SRC false l).enter l .park).parkCleared l
  | .ready =>
    let s := (s.abortSurvey l 2).noteParked l cause
    ((s.put F.LN_STATE_PARK_SRC false l).enter l .park).parkCleared l
  | .park =>
    let s := s.abortSurvey l 2
    if s.flag F.LN_STATE_PARK_SRC l then
      let t := ((s.noteParked l cause).noStart l).put F.LN_STATE_PARK_SRC false l
      (s.show t l).parkCleared l
    else if s.flag F.LN_STATE_PARKING l then s else s.parkCleared l
  | .warping =>
    let s := (s.abortSurvey l 2).record 0x0602 (srcLane l) (if cause = 3 then 3 else 7)
    let s := s.forEach (s.phasesOf l) State.cutPhase
    let s := (s.clearLoops l).put F.LN_STATE_PARK_SRC false l
    (s.enter l .park).parkCleared l
  | _ => s

/-- The module of a lane is declared lost (Table 9-2). -/
def State.loseLane (s : State) (l : Nat) : State :=
  match s.laneState l with
  | .off | .lost => s
  | _ => (s.record 0x0608 (srcLane l) 0).halt l .lost

/-! ### Losing a phase (R205 to R207) -/

/-- Quarantine a phase: its flag, its place in the driven set; its lane takes the loss up at its next update (R206). -/
def State.quarantinePh (s : State) (p : Nat) : State :=
  let s := s.putBit F.BAY_PHASE_SVC_QUAR (p % 16) true (bayOfPhase p)
  let s := s.putBit F.BAY_PHASE_SVC_DRIVEN (p % 16) false (bayOfPhase p)
  match s.laneOf p with
  | some l => s.onLane l (fun x => { x with lose := if x.order.contains p then x.lose ++ [p] else x.lose })
  | none => s

/-- Replace an element of a list. -/
def swapIn (p b : Nat) (l : List Nat) : List Nat := l.map (fun x => if x = p then b else x)

/-- The loss of one phase of the full driving order: a Bobbin takes its entry (R206), or the entry leaves (R207). -/
def State.lostPhase (s : State) (l p : Nat) : State :=
  let o := (s.lane l).order
  if !o.contains p ∨ !s.quarPh p then s
  else
    let s0 := s
    let st := s.laneState l
    let n := s.rd F.LN_STATE_N l
    let j := o.idxOf p
    let moving := st.planned || s.flag F.LN_STATE_PARKING l
    match (s.bobbinsOf l).find? (fun b => !s.quarPh b && !o.contains b) with
    | some b =>
      let s := (s.setOrder l (swapIn p b o)).record 0x0605 b j
      let ds := if moving then (swapIn p b o).take n else swapIn p b o
      let s := s.setDriven l ds
      let s := if moving ∧ j < n ∧ (st ≠ .runPulse ∨ (s.lane l).ib ≠ 0) then s.beginPhase l b false else s
      s0.show s l
    | none =>
      let o := o.filter (· != p)
      let s := (s.setOrder l o).record 0x0606 (srcLane l) o.length
      let ds := if moving then o.take (if j < n then n - 1 else n) else o
      let s := s.setDriven l ds
      if o.isEmpty ∧ st.inService then (s0.show s l).faultLane l 5
      else if st = .runShed ∧ ds.length = o.length then s.enter l .runFull
      else s0.show s l

/-! ### Setting trip latches (R140, R143, R205) -/

/-- Keep the intervals in which a phase showed comparator evidence: an output high or its latch set (R372). -/
def State.noteHit (s : State) (p : Nat) : State :=
  let now := s.flag F.PH_OCTHR_OCH_LIVE p || s.flag F.PH_OCTHR_OCL_LIVE p || s.phLatch p
  s.onPh p (fun x =>
    let old := x.hits.filter (fun h => match h.2 with | some e => decide (s.tb ≤ e + 400) | none => true)
    let opened := old.any (fun h => h.2.isNone)
    { x with hits :=
        if now ∧ !opened then old ++ [(s.tb, none)]
        else if now then old
        else old.map (fun h => match h.2 with | none => (h.1, some s.tb) | some e => (h.1, some e)) })

/-- The global latch sets from a source bit; `extra` is recorded with it; every lane outside OFF and LOST enters FAULTED for
`cause` (R143, R197). -/
def State.setGlobal (s : State) (f : Field) (bit flags cause : Nat) (extra : State → State := id) : State :=
  if s.glbLatch then extra s
  else
    let s := (s.put F.GLB_TRIP_TRIP true).putBit f bit true
    let s := extra (s.record 0x0104 srcDevice flags)
    let s := (s.forEach (List.range 192) State.cutPhase).forEach (List.range 4) State.clearSeg
    s.forEach (List.range 48) (fun s l => s.faultLane l cause)

/-- The lane latch sets, from LFLT_N (0), a route or internal check (1), or a bay disable (2); the lane enters FAULTED. -/
def State.setLaneLatch (s : State) (l cause : Nat) : State :=
  if s.lnLatch l then s
  else
    let s := s.put F.LN_TRIP_TRIP true l
    let s := match cause with
      | 0 => s.put F.LN_TRIP_LFLT_SRC true l
      | 1 => s.put F.LN_TRIP_RTR_SRC true l
      | _ => s.put F.LN_TRIP_BAY_SRC true l
    let s := s.forEach (s.phasesOf l) State.cutPhase
    (s.record 0x0102 (srcLane l) cause).faultLane l 1

/-- The lane's response to the latch of one of its phases (R205, the WARPING row of Table 9-2, R187). -/
def State.phaseTripped (s : State) (l p : Nat) : State :=
  let st := s.laneState l
  if st = .warping then s.faultLane l 6
  else if st.inService ∧ (s.lane l).order.contains p then
    match s.rd F.LN_CTL_PTRIP_ACT l with
    | 0 => (s.quarantinePh p).record 0x0604 p 0
    | 1 => s.parkLane l 6
    | _ => s.setLaneLatch l 1
  else if s.readmitting l then s.abortSurvey l 1
  else s

/-- The phase latch sets, from OCH (0), OCL (1), or a route or internal check (2). -/
def State.setPhaseLatch (s : State) (p cause : Nat) : State :=
  if s.phLatch p then s
  else
    let was := (s.ph p).on
    let s := s.putBit F.BAY_PH_TRIP_TRIP (p % 16) true (bayOfPhase p)
    let s := ((s.cutPhase p).noteHit p).record 0x0101 p cause
    match s.laneOf p with
    | some l =>
      let s := if was ∧ s.held l then s.abortShuttle l 3 0 else s
      s.phaseTripped l p
    | none => s

end Sys2Proof.Machine
end

