-- ==== Sys2Proof/Machine/Ranges.lean ====
section
/-!
DEFINITION. Sys2Proof/Machine/Ranges.lean: what a word written to a register does to its fields: the ranges of the field
descriptions (R12), the access types of Table 0-5 (R10, R11), the seal (R517), and who may write (R419, R422, R516).
-/
namespace Sys2Proof.Machine

/-- The bits of a register that a field covers. -/
def Field.mask (f : Field) : Nat := (2 ^ f.width - 1) * 2 ^ f.lo

/-- The bits of some fields where a condition makes them out of range. -/
def keepIf (c : Bool) (fs : List Field) : Nat := if c then fs.foldl (fun m f => m ||| f.mask) 0 else 0

/-- The value a word gives a field. -/
def Field.of (f : Field) (w : Nat) : Nat := bitsN w f.lo f.width

/-- The signed value a word gives a field. -/
def Field.ofS (f : Field) (w : Nat) : Int := toS (f.of w) f.width

/-- x lies outside lo to hi. -/
def outside (x lo hi : Nat) : Bool := decide (x < lo) || decide (hi < x)

/-- OSR of R289 for a K: (K · PERIOD + 20) div 40. -/
def notchOsr (k period : Nat) : Nat := (k * period + 20) / 40

/-- The bits of a register that keep their previous value because a written word puts their field out of range, by the field
itself or by the relation it takes part in (R12). -/
def State.outOf (s : State) (r : Reg) (i w : Nat) : Nat :=
  match r with
  | .GLB_CLK_CFG => keepIf (decide (1 < F.GLB_CLK_CFG_SLOW_SRC.of w)) [F.GLB_CLK_CFG_SLOW_SRC]
  | .PH_SAMP =>
    keepIf ([F.PH_SAMP_POS0, F.PH_SAMP_POS1, F.PH_SAMP_POS2, F.PH_SAMP_POS3].all (fun f => f.of w < 64))
      [F.PH_SAMP_POS0, F.PH_SAMP_POS1, F.PH_SAMP_POS2, F.PH_SAMP_POS3]
  | .BAY_XCHK => keepIf (F.BAY_XCHK_COUNT.of w == 0) [F.BAY_XCHK_COUNT]
  | .BAY_RB_CTL =>
    keepIf (decide (0x29 < F.BAY_RB_CTL_SEL.of w) || decide (0x27 < F.BAY_RB_CTL_SEL.of w) && decide (4 ≤ i)) [F.BAY_RB_CTL_SEL]
  | .PH_LOOP => keepIf (decide (F.PH_LOOP_LRATIO.of w < 0x1000)) [F.PH_LOOP_LRATIO]
  | .BAY_DLIM =>
    let off := F.BAY_DLIM_TOFF_MIN.of w
    keepIf (outside (F.BAY_DLIM_TON_MIN.of w) 8 200) [F.BAY_DLIM_TON_MIN] |||
    keepIf (outside off 8 200 || decide (64 * off < s.rd F.BAY_DT_DT_LH i + s.rd F.BAY_DT_DT_HL i)) [F.BAY_DLIM_TOFF_MIN]
  | .BAY_DT =>
    let a := F.BAY_DT_DT_LH.of w
    let b := F.BAY_DT_DT_HL.of w
    let ka := decide (2048 < a)
    let kb := decide (2048 < b)
    let a' := if ka then s.rd F.BAY_DT_DT_LH i else a
    let b' := if kb then s.rd F.BAY_DT_DT_HL i else b
    let rel := decide (64 * s.rd F.BAY_DLIM_TOFF_MIN i < a' + b')
    keepIf (ka || rel) [F.BAY_DT_DT_LH] ||| keepIf (kb || rel) [F.BAY_DT_DT_HL]
  | .LN_LOOP_CFG => keepIf (outside (F.LN_LOOP_CFG_DMAX.of w) 0x8000 0xFD70) [F.LN_LOOP_CFG_DMAX]
  | .LN_IPH => keepIf (decide (F.LN_IPH_T_STOP.ofS w ≤ F.LN_IPH_T_START.ofS w)) [F.LN_IPH_T_START, F.LN_IPH_T_STOP]
  | .LN_COEF_SEL =>
    let set := F.LN_COEF_SEL_SET.of w
    let ix := F.LN_COEF_SEL_INDEX.of w
    let ks := set == 3
    let set' := if ks then s.rd F.LN_COEF_SEL_SET i else set
    keepIf (ks || decide (ix < 8) && set' == 2 && decide (1 < ix)) [F.LN_COEF_SEL_SET] |||
      keepIf (decide (7 < ix) || set' == 2 && decide (1 < ix)) [F.LN_COEF_SEL_INDEX]
  | .BUS_WIN_HI => keepIf (decide (F.BUS_WIN_HI_VMAX.of w ≤ s.rd F.BUS_WIN_LO_VMIN i)) [F.BUS_WIN_HI_VMAX]
  | .BUS_WIN_LO => keepIf (decide (s.rd F.BUS_WIN_HI_VMAX i ≤ F.BUS_WIN_LO_VMIN.of w)) [F.BUS_WIN_LO_VMIN]
  | .BUS_COEF_SEL => keepIf (decide (7 < F.BUS_COEF_SEL_INDEX.of w)) [F.BUS_COEF_SEL_INDEX]
  | .BAY_SHTL_CFG =>
    keepIf (decide (F.BAY_SHTL_CFG_THR.of w < 1000)) [F.BAY_SHTL_CFG_THR] |||
      keepIf (F.BAY_SHTL_CFG_TMAX.of w == 0) [F.BAY_SHTL_CFG_TMAX]
  | .LN_SHTL_CFG => keepIf (decide (F.LN_SHTL_CFG_LNOM.of w < 1000)) [F.LN_SHTL_CFG_LNOM]
  | .GLB_PWM_PER => keepIf (outside (F.GLB_PWM_PER_PERIOD.of w) 400 8000) [F.GLB_PWM_PER_PERIOD]
  | .GLB_PWM_SS =>
    let act := s.flag F.GLB_PWM_SS_ACTIVE
    let f := F.GLB_PWM_SS_FREQ.of w
    let d := F.GLB_PWM_SS_DEPTH.of w
    keepIf (outside f 1000 10000 || act && f != s.rd F.GLB_PWM_SS_FREQ) [F.GLB_PWM_SS_FREQ] |||
      keepIf (outside d 1 8 || act && d != s.rd F.GLB_PWM_SS_DEPTH) [F.GLB_PWM_SS_DEPTH]
  | .REED_CFG =>
    keepIf (outside (F.REED_CFG_GSHIFT.of w) 6 10) [F.REED_CFG_GSHIFT] |||
      keepIf (decide (100 < F.REED_CFG_REPLAN.of w)) [F.REED_CFG_REPLAN]
  | .REED_OFS => keepIf (decide (191 < F.REED_OFS_PSEL.of w)) [F.REED_OFS_PSEL]
  | .BAY_WARP_CFG =>
    keepIf (outside (F.BAY_WARP_CFG_PULSE_I.of w) 8 200) [F.BAY_WARP_CFG_PULSE_I] |||
      keepIf (outside (F.BAY_WARP_CFG_PULSES.of w) 2 7) [F.BAY_WARP_CFG_PULSES] |||
      keepIf (F.BAY_WARP_CFG_RHO.of w == 0) [F.BAY_WARP_CFG_RHO] |||
      keepIf (decide (F.BAY_WARP_CFG_XO_DIV.of w < 4)) [F.BAY_WARP_CFG_XO_DIV] |||
      keepIf (decide (F.BAY_WARP_CFG_PM.of w < 9)) [F.BAY_WARP_CFG_PM]
  | .LN_WARP_CFG =>
    keepIf (decide (F.LN_WARP_CFG_TEST_I.of w < 8)) [F.LN_WARP_CFG_TEST_I] |||
      keepIf (outside (F.LN_WARP_CFG_T_HOLD.of w) 1 100) [F.LN_WARP_CFG_T_HOLD] |||
      keepIf (decide (13 < F.LN_WARP_CFG_IDX.of w)) [F.LN_WARP_CFG_IDX]
  | .LN_CTL =>
    keepIf (F.LN_CTL_FALLBACK.of w == 3) [F.LN_CTL_FALLBACK] ||| keepIf (F.LN_CTL_PTRIP_ACT.of w == 3) [F.LN_CTL_PTRIP_ACT] |||
      keepIf (F.LN_CTL_SS_STEP.of w == 0) [F.LN_CTL_SS_STEP]
  | .LN_PULSE =>
    keepIf (outside (F.LN_PULSE_PULSE_I.of w) 8 200) [F.LN_PULSE_PULSE_I] |||
      keepIf (F.LN_PULSE_BURST_ON.of w == 0) [F.LN_PULSE_BURST_ON]
  | .GLB_START => keepIf (outside (F.GLB_START_START_GAP.of w) 20 5000) [F.GLB_START_START_GAP]
  | .LN_JML =>
    keepIf (outside (F.LN_JML_KA_INT.of w) 5 200) [F.LN_JML_KA_INT] |||
      keepIf (outside (F.LN_JML_RSP_TMO.of w) 5 50) [F.LN_JML_RSP_TMO]
  | .MTR_CFG =>
    keepIf (F.MTR_CFG_MODE.of w % 2 == 1) [F.MTR_CFG_MODE] ||| keepIf (F.MTR_CFG_REARM.of w == 0) [F.MTR_CFG_REARM]
  | .MTR_FILT =>
    let n := F.MTR_FILT_NOTCH.of w
    let k := F.MTR_FILT_K.of w
    keepIf (outside (F.MTR_FILT_OSR.of w) 64 4096) [F.MTR_FILT_OSR] |||
      keepIf (k == 0) [F.MTR_FILT_K] |||
      keepIf (n == 1 && outside (notchOsr (if k = 0 then s.rd F.MTR_FILT_K i else k) s.period) 64 4096)
        [F.MTR_FILT_NOTCH, F.MTR_FILT_K]
  | .MTR_SEL => keepIf (decide (12 < F.MTR_SEL_IDX.of w)) [F.MTR_SEL_IDX]
  | .NVM_CFG => keepIf (outside (F.NVM_CFG_CKPT.of w) 1 60) [F.NVM_CFG_CKPT]
  | .NVM_TSEL => keepIf (decide (303 < F.NVM_TSEL_ID.of w)) [F.NVM_TSEL_ID]
  | .RTR_TIO =>
    (List.range 8).foldl (fun m n => m ||| keepIf (bitsN w (2 * n) 2 == 3) [⟨.RTR_TIO, 2 * n, 2⟩]) 0
  | .RTR_PROBE_SEL => keepIf (F.RTR_PROBE_SEL_SIDX.of w == 0xFF) [F.RTR_PROBE_SEL_SIDX]
  | .GLB_SUP_RD => keepIf (decide (11 < F.GLB_SUP_RD_BSEL.of w)) [F.GLB_SUP_RD_BSEL]
  | .GLB_TEMP_CFG =>
    let a := F.GLB_TEMP_CFG_TWARN.ofS w
    let ka := decide (a < -40)
    let a' := if ka then s.rdS F.GLB_TEMP_CFG_TWARN else a
    let rel := decide (F.GLB_TEMP_CFG_TTRIP.ofS w ≤ a')
    keepIf (ka || rel) [F.GLB_TEMP_CFG_TWARN] ||| keepIf rel [F.GLB_TEMP_CFG_TTRIP]
  | .GLB_TEMP_RD => keepIf (decide (11 < F.GLB_TEMP_RD_BSEL.of w)) [F.GLB_TEMP_RD_BSEL]
  | .GLB_THM_CFG =>
    keepIf (decide (F.GLB_THM_CFG_BETA.of w < 1000)) [F.GLB_THM_CFG_BETA] |||
      keepIf (decide (F.GLB_THM_CFG_R25.of w < 10)) [F.GLB_THM_CFG_R25]
  | .GLB_THM_RD => keepIf (decide (47 < F.GLB_THM_RD_LSEL.of w)) [F.GLB_THM_RD_LSEL]
  | .GLB_ATTR => keepIf (decide (47 < F.GLB_ATTR_LSEL.of w)) [F.GLB_ATTR_LSEL]
  | .TMR_CFG => keepIf (decide (16 < F.TMR_CFG_PSC.of w) || s.flag F.TMR_CFG_EN i && F.TMR_CFG_PSC.of w != s.rd F.TMR_CFG_PSC i)
      [F.TMR_CFG_PSC]
  | .TMR_STEP => keepIf (w == 0) [F.TMR_STEP_STEP]
  | .GLB_WAKE_TMR => keepIf (w == 0) [F.GLB_WAKE_TMR_TICKS]
  | .HST_LTR =>
    keepIf (F.HST_LTR_LTR_ACT.of w == 0) [F.HST_LTR_LTR_ACT] ||| keepIf (F.HST_LTR_LTR_IDLE.of w == 0) [F.HST_LTR_LTR_IDLE]
  | .HST_SQ_CFG => keepIf (outside (F.HST_SQ_CFG_SIZE.of w) 4 12) [F.HST_SQ_CFG_SIZE]
  | .HST_CQ_CFG => keepIf (outside (F.HST_CQ_CFG_SIZE.of w) 4 14) [F.HST_CQ_CFG_SIZE]
  | .SMB_M_CFG => keepIf (F.SMB_M_CFG_SPEED.of w == 3) [F.SMB_M_CFG_SPEED]
  | .SMB_POLL_CFG => keepIf (F.SMB_POLL_CFG_PER.of w == 0) [F.SMB_POLL_CFG_PER]
  | _ => 0

/-- The bits of a register a write stores: RW and RWS, and RWL while the seal is clear (Table 0-5). -/
def State.stored (s : State) (r : Reg) : Nat := r.info.rw ||| (if s.flag F.SEC_STAT_SEALED then 0 else r.info.rwl)

/-- A word merged into a register: the bits of `m` from `w`, the others as they were. -/
def State.merge (s : State) (r : Reg) (i w m : Nat) : State :=
  let old := (s.reg r i).toNat
  s.setReg r i (BitVec.ofNat 32 ((old &&& (0xFFFFFFFF ^^^ m)) ||| (w &&& m)))

/-- Store the RW, RWS and RWL fields of a write that stay in range, but for the bits of `not` (R10, R12). -/
def State.storeBut (s : State) (r : Reg) (i w not : Nat) : State :=
  s.merge r i w (s.stored r &&& (0xFFFFFFFF ^^^ (s.outOf r i w ||| not)))

/-- Clear the W1C flags a word writes 1 to, but for the bits of `not` (R10). -/
def State.w1cBut (s : State) (r : Reg) (i w not : Nat) : State :=
  s.merge r i 0 (r.info.w1c &&& w &&& (0xFFFFFFFF ^^^ not))

/-- The plain effect of a register write: fields in range stored, flags cleared. -/
def State.plainWrite (s : State) (r : Reg) (i w : Nat) : State := (s.storeBut r i w 0).w1cBut r i w 0

/-- A register write of a tenant is discarded (R419, R516). -/
def State.deny (s : State) (t : Nat) (counted : Bool) : State :=
  let s := s.put F.HST_T_ERR_WR_DENIED true t
  if counted then s.violation t 7 else s

/-- A register-space write that reaches its commit cycle: only the Manager's is carried out, and none before PLOADED (R419,
R516). -/
def State.gate (s : State) (w : BusWrite) (f : State → Nat → State) : State :=
  let t := w.tenant.val
  let s := s.begin.toL0 t
  if !s.flag F.NVM_STAT_PLOADED then s.deny t false
  else if s.roleOf t ≠ 3 then s.deny t true
  else f s w.value.toNat

end Sys2Proof.Machine
end

