-- ==== Sys2Proof/Machine/Router.lean ====
section
/-!
DEFINITION. Sys2Proof/Machine/Router.lean: the event router (R353 to R358), the pins it drives (R361, R362), the status latches of
Port S (R495, R497) and the alerts of the Treadle port (R239), the setting and clearing of trip latches by their direct sources and
by writes (R140 to R145), the safety pins (R359, R360) and the attribution of lane faults (R372 to R374).
-/
namespace Sys2Proof.Machine

/-! ### Router sources (Table 15-1) -/

/-- A driving phase of the lane has O different from its target (Table 7 registers). -/
def State.glidingLane (s : State) (l : Nat) : Bool :=
  (s.drivenOf l).any (fun p => (s.ph p).on && (s.ph p).ofs != (s.ph p).ofsT)

/-- A lane of the segment glides. -/
def State.glidingSeg (s : State) (g : Nat) : Bool :=
  (List.range 48).any (fun l => s.configured l && s.segOf l == g && s.glidingLane l)

/-- The contract breach of a lane is pending (DFLAGS bit 2, R271). -/
def State.breachPending (s : State) (l : Nat) : Bool := (s.lane l).brV || (s.lane l).brI

/-- The instances of a source: how many SIDX values it has (Table 15-1); 0 for a code that is not listed. -/
def srcCount (src : Nat) : Nat :=
  if src ∈ [0x01, 0x02, 0x0B, 0x0E, 0x10, 0x16] then 192
  else if src ∈ [0x03, 0x04, 0x07, 0x0C, 0x11, 0x14, 0x15, 0x19, 0x1A, 0x1B, 0x23, 0x24, 0x25] then 48
  else if src ∈ [0x05, 0x06, 0x12, 0x21, 0x22, 0x08] then 4
  else if src ∈ [0x13, 0x17, 0x1C, 0x1D, 0x1E, 0x20] then 12
  else if src ∈ [0x09, 0x0A, 0x0D, 0x18, 0x1F, 0x2C] then 1
  else if src = 0x28 then 32
  else if src ∈ [0x29, 0x2D, 0x2E] then 8
  else 0

/-- A TGT that Table 15-1 allows a source. -/
def tgtAllowed (src tgt : Nat) : Bool :=
  if src ∈ [0x01, 0x02, 0x10, 0x16] then true
  else if src ∈ [0x03, 0x04, 0x05, 0x06, 0x07, 0x0E, 0x11, 0x12, 0x13, 0x14, 0x15, 0x17, 0x19, 0x1A, 0x1B, 0x1C, 0x1D, 0x1E, 0x25] then
    tgt != 1
  else if src ∈ [0x08, 0x09, 0x18, 0x21, 0x28, 0x29] then tgt == 0 || tgt == 3
  else tgt == 0

/-- The live level of an instance of a source (Table 15-1); the comparators of an unassigned phase are masked (R38). -/
def State.srcLevel (s : State) (src i : Nat) : Bool :=
  match src with
  | 0x01 => s.flag F.PH_OCTHR_OCH_LIVE i && (s.laneOf i).isSome
  | 0x02 => s.flag F.PH_OCTHR_OCL_LIVE i && (s.laneOf i).isSome
  | 0x03 => s.flag F.LN_CMPTHR_BOV_LIVE i
  | 0x04 => s.flag F.LN_CMPTHR_SHC_LIVE i
  | 0x05 => s.flag F.BUS_CMPTHR_BUSOV_LIVE i
  | 0x06 => s.flag F.BUS_CMPTHR_BUSUV_LIVE i
  | 0x07 => s.flag F.LN_TRIP_LFLT_LIVE i
  | 0x08 => s.rdBit F.GLB_TRIP_FIN_LIVE i
  | 0x09 => s.safeLow
  | 0x0A => s.flag F.GLB_PF_PF_STATE
  | 0x0B => s.phLatch i
  | 0x0C => s.lnLatch i
  | 0x0D => s.glbLatch
  | 0x0E => s.quarPh i
  | 0x10 => (s.ph i).rbH || (s.ph i).rbL
  | 0x11 => (s.lane i).rbB || (s.lane i).rbS
  | 0x12 => (s.seg i).rbO || (s.seg i).rbU
  | 0x13 => s.flag F.BAY_ISREF_STAT_ISREF_BAD i
  | 0x14 => s.flag F.LN_SNS_STAT_XMIS i
  | 0x15 => s.flag F.LN_LOOP_STAT_HEADROOM i
  | 0x16 => match s.laneOf i with | some l => s.rdBit F.LN_WARP_STAT_FROZEN (i % 16) l | none => false
  | 0x17 => s.flag F.BAY_DL_STAT_DL_FAULT i
  | 0x18 => s.refSeen && !s.flag F.GLB_REF_REF_SETTLED
  | 0x19 => (s.lane i).ilkOpen
  | 0x1A => (s.lane i).thOver
  | 0x1B => (s.lane i).thOpen || (s.lane i).thShort
  | 0x1C => s.rdBit F.GLB_TEMP_STAT_WARN i
  | 0x1D => s.rdBit F.GLB_TEMP_STAT_TRIP i
  | 0x1E => s.rdBit F.GLB_SUP_STAT_OUT i
  | 0x1F => s.flag F.GLB_CLK_STAT_XTAL_FAIL
  | 0x20 => s.flag F.BAY_SHTL_STAT_ACTIVE i
  | 0x21 => s.flag F.BUS_LOOP_STAT_CAP_LIM i
  | 0x22 => s.glidingSeg i
  | 0x23 => s.laneState i == .faulted
  | 0x24 => s.laneState i == .lost
  | 0x25 => s.breachPending i
  | 0x28 => s.rdBit F.TMR_CHF_FLAG i
  | 0x29 => s.rdBit F.TMR_OVF_OVF i
  | 0x2C => s.flag F.SMB_M_STAT_STUCK
  | 0x2D => s.quarT i
  | 0x2E => s.rdBit F.SEC_TFLAGS_LAPSED i
  | _ => false

/-- The source index of an instance (Table 1-5). -/
def srcIndex (src i : Nat) : Nat :=
  if srcCount src = 192 then i
  else if srcCount src = 48 then srcLane i
  else if src = 0x08 then 0x150 + i
  else if srcCount src = 4 then srcSeg i
  else if srcCount src = 12 then srcBay i
  else if src = 0x28 then srcTimer (i / 4)
  else if src = 0x29 then srcTimer i
  else if src = 0x2C then 0x142
  else if src = 0x2D ∨ src = 0x2E then srcTenant i
  else srcDevice

/-- The own lanes of an instance (R355); only configured slots count. -/
def State.ownLanes (s : State) (src i : Nat) : List Nat :=
  (if srcCount src = 192 then (s.laneOf i).toList
   else if srcCount src = 48 then [i]
   else if src ∈ [0x05, 0x06, 0x12, 0x21, 0x22] then (List.range 48).filter (fun l => s.segOf l == i)
   else if srcCount src = 12 then bayLanes i
   else []).filter s.configured

/-! ### Route entries (R354 to R358) -/

/-- The instances an entry watches. -/
def entryInst (src sidx : Nat) : List Nat :=
  if sidx = 0xFF then List.range (srcCount src) else if sidx < srcCount src then [sidx] else []

/-- The asserted instances of an enabled entry. -/
def State.entryLive (s : State) (n : Nat) : List Nat :=
  if s.flag F.RTR_ROUTE_EN n then
    let src := s.rd F.RTR_ROUTE_SRC n
    (entryInst src (s.rd F.RTR_ROUTE_SIDX n)).filter (fun i => s.srcLevel src i)
  else []

/-- Every asserted pair (entry, instance), as 256 · entry + instance. -/
def State.routeLive (s : State) : List Nat :=
  ((List.range 128).map (fun n => (s.entryLive n).map (fun i => 256 * n + i))).flatten

/-- An entry aims at a latch: TGT 1 a phase, 2 a lane, 3 the global latch (R355). -/
def State.aims (s : State) (n i tgt x : Nat) : Bool :=
  let src := s.rd F.RTR_ROUTE_SRC n
  s.rd F.RTR_ROUTE_TGT n == tgt &&
    (if tgt = 1 then i == x else if tgt = 2 then (s.ownLanes src i).contains x else true)

/-- A route source aimed at a latch is active (condition 3 of R144). -/
def State.routed (s : State) (tgt x : Nat) : Bool := s.routeLive.any (fun k => s.aims (k / 256) (k % 256) tgt x)

/-- The LOG and IRQ actions of one assertion (R358). -/
def State.routeNote (s : State) (n i : Nat) : State :=
  let src := s.rd F.RTR_ROUTE_SRC n
  let s := s.putBit F.RTR_HIT_HIT (n % 32) true (n / 32)
  let s := if s.flag F.RTR_ROUTE_LOG n then
      (if 1 ≤ src ∧ src ≤ 6 then s.record 0x0208 (srcIndex src i) (src - 1) else s.record 0x0C20 (srcIndex src i) n)
    else s
  if s.flag F.RTR_ROUTE_IRQ n then
    let own := if s.flag F.RTR_IRQ_OWNER ∧ (srcCount src = 192 ∨ srcCount src = 48) then
        (s.ownLanes src i).filterMap (fun l => (s.lane l).owner) else []
    s.notice ((List.range 8).filter (fun t => s.rdBit F.RTR_IRQ_TEN t) ++ own) 1
      (leBytes 1 n ++ leBytes 1 src ++ leBytes 1 i)
  else s

/-- The latch an asserted entry sets (R354, R356). -/
def State.routeTrip (s : State) (n i : Nat) : State :=
  match s.rd F.RTR_ROUTE_TGT n with
  | 1 => s.setPhaseLatch i 2
  | 2 => s.forEach (s.ownLanes (s.rd F.RTR_ROUTE_SRC n) i) (fun s l => s.setLaneLatch l 1)
  | 3 => s.setGlobal F.GLB_TRIP_RTR_SRC 0 0x80 2
  | _ => s

/-- One evaluation of every entry, from the levels as they stand (R354, R543). -/
def State.routeOnce (s : State) : State :=
  let live := s.routeLive
  let new := live.filter (fun k => !s.rtrLive.contains k)
  let s := live.foldl (fun s k => s.routeTrip (k / 256) (k % 256)) s
  let s := new.foldl (fun s k => s.routeNote (k / 256) (k % 256)) s
  { s with rtrLive := live }

/-- Evaluate until no level changes: what an assertion leads to may be a source itself. -/
def State.route : Nat → State → State
  | 0, s => s
  | n + 1, s => let t := s.routeOnce; if t.routeLive = t.rtrLive then t else t.route n

/-! ### Port S status latches and Treadle alerts (R239, R495, R497) -/

/-- The status bits of Table 21-3 a cause sets: cause to latched bit (0 VOUT_OV_FAULT, 1 IOUT_OC_FAULT, 2 VIN_UV_FAULT, 3 CML,
4 MFR_SPECIFIC, 5 VOUT_OV_WARNING, 6 IOUT_OC_WARNING, 7 OT_FAULT, 8 OT_WARNING). -/
def psBit (cause : Nat) : Nat :=
  match cause with
  | 0 => 0 | 1 => 1 | 2 => 1 | 3 => 2 | 4 => 4 | 5 => 5 | 6 => 6 | 7 => 7 | 8 => 7 | 9 => 8 | _ => 8

/-- The ALERT_MASK category of a latched bit (Table 21-3). -/
def psCategory (bit : Nat) : Nat :=
  match bit with
  | 0 => 0 | 1 => 1 | 2 => 3 | 3 => 4 | 4 => 5 | 5 => 0 | 6 => 1 | _ => 2

/-- The causes of Table 21-3 that hold for a lane now, as a mask over the numbers `psBit` takes. -/
def State.psCauses (s : State) (l : Nat) : Nat :=
  let x := s.lane l
  let b := bayOfLane l
  let st := s.laneState l
  maskOf ((List.range 11).filter (fun c => match c with
    | 0 => s.flag F.LN_CMPTHR_BOV_LIVE l
    | 1 => s.flag F.LN_CMPTHR_SHC_LIVE l
    | 2 => s.rd F.BAY_PH_TRIP_TRIP b != 0 && (s.phasesOf l).any s.phLatch
    | 3 => s.flag F.BUS_CMPTHR_BUSUV_LIVE (s.segOf l)
    | 4 => st == .faulted || st == .lost
    | 5 => x.brV
    | 6 => x.brI
    | 7 => s.rdBit F.GLB_TEMP_STAT_TRIP b
    | 8 => x.thOver
    | 9 => s.rdBit F.GLB_TEMP_STAT_WARN b
    | _ => x.derated))

/-- Set a latched status bit of a lane; a first setting of an unmasked category drives ALERT_S_N low (R495). -/
def State.psLatch (s : State) (l bit : Nat) : State :=
  if bitN (s.lane l).psLat bit then s
  else
    let s := s.onLane l (fun x => { x with psLat := x.psLat ||| 2 ^ bit })
    if s.rdBit F.SMB_S_CFG_ALERT_MASK (psCategory bit) then s else s.put F.SMB_S_STAT_ALERT true

/-- Set bit `n` of a segment's pending-alert byte while its source is enabled (R239). -/
def State.alert (s : State) (g n : Nat) : State :=
  if s.rdBit F.TRD_CFG_ALT_EN n then s.onSeg g (fun x => { x with alerts := x.alerts ||| 2 ^ n }) else s

/-- Latch the rising causes of a lane. -/
def State.senseLane (s : State) (l : Nat) : State :=
  let now := s.psCauses l
  let was := (s.lane l).psWas
  if now = was then s
  else
    let new := (List.range 11).filter (fun c => bitN now c && !bitN was c)
    let s := new.foldl (fun s c => s.psLatch l (psBit c)) s
    let s := if new.contains 4 ∧ s.configured l then s.alert (s.segOf l) 4 else s
    s.onLane l (fun x => { x with psWas := now })

/-- The rising bus comparators of a segment. -/
def State.senseSeg (s : State) (g : Nat) : State :=
  let ov := s.flag F.BUS_CMPTHR_BUSOV_LIVE g
  let uv := s.flag F.BUS_CMPTHR_BUSUV_LIVE g
  let was := (s.seg g).was
  let s := if ov ∧ !bitN was 0 then s.alert g 1 else s
  let s := if uv ∧ !bitN was 1 then s.alert g 2 else s
  s.onSeg g (fun x => { x with was := ov.toNat + 2 * uv.toNat })

/-- A park waits for the lane's update. -/
def Move.isPark : Move → Bool
  | .park _ => true
  | _ => false

/-- MFR_SAFE_ALL completes when PARKING has cleared on every lane (R494). -/
def State.safeDone (s : State) : State :=
  if s.waitsOn (· == .safeAll) ∧ !(List.range 48).any (fun l => s.flag F.LN_STATE_PARKING l || (s.lane l).moves.any Move.isPark) then
    s.finish (· == .safeAll) stOk
  else s

/-! ### Pins the router drives (R361, R362) -/

/-- Why FAULT_OUT_N is low, as WHY of RTR_FOUT_STAT, its bit 5 a route entry. -/
def State.foutWhy (s : State) : Nat :=
  let sel := s.rd F.RTR_FOUT_SEL
  let any := fun (f : Field) (n : Nat) => (List.range n).any (fun i => s.rd f i != 0)
  maskOf ((List.range 6).filter (fun k => match k with
    | 0 => bitN sel 0 && s.glbLatch
    | 1 => bitN sel 1 && any F.LN_TRIP_TRIP 48
    | 2 => bitN sel 2 && any F.BAY_PH_TRIP_TRIP 12
    | 3 => bitN sel 3 && s.safeLow
    | 4 => bitN sel 4 && s.flag F.GLB_PF_PF_STATE
    | _ => s.routeLive.any (fun k => s.flag F.RTR_ROUTE_FOUT (k / 256))))

/-- FAULT_OUT_N is driven low: also from the start of a reset until PLOADED sets (R361). -/
def State.foutLow (s : State) : Bool := !s.flag F.NVM_STAT_PLOADED || s.foutWhy != 0

/-- The word of RTR_FOUT_STAT. -/
def State.foutStat (s : State) : Nat :=
  if !s.flag F.NVM_STAT_PLOADED then 1
  else if s.power.stage = .dormant then (if s.glbLatch then 3 else 0)
  else
    let why := s.foutWhy
    let e := if bitN why 5 then ((s.routeLive.map (· / 256)).find? (fun n => s.flag F.RTR_ROUTE_FOUT n)).getD 0 else 0
    (decide (why ≠ 0)).toNat + 2 * why + 256 * e

/-- RTR_FOUT_STAT and RTR_PROBE show the pin and the selected source (R361, R377). -/
def State.showPins (s : State) : State :=
  (s.setReg .RTR_FOUT_STAT 0 (BitVec.ofNat 32 s.foutStat)).setReg .RTR_PROBE 0
    (BitVec.ofNat 32 (s.srcLevel (s.rd F.RTR_PROBE_SEL_SRC) (s.rd F.RTR_PROBE_SEL_SIDX)).toNat)

/-- What every command that may change a source ends with: the router, the status latches, the alerts, MFR_SAFE_ALL. -/
def State.settle (s : State) : State :=
  (((s.route 4).forEach (List.range 48) State.senseLane).forEach (List.range 4) State.senseSeg).safeDone.softAdvance.showPins

/-- What the router drives on a TIO pin; none while it does not hold it (R362). -/
def State.tioRouter (s : State) (n : Nat) : Option Bool :=
  if !s.rdBit F.RTR_TIO_CLAIMED n then none
  else if bitsN (s.rd F.RTR_TIO_MODE) (2 * n) 2 = 1 then some (!s.foutLow)
  else some (s.routeLive.any (fun k =>
    s.flag F.RTR_ROUTE_TIO_EN (k / 256) && s.rd F.RTR_ROUTE_TIO (k / 256) == n))

/-! ### Clearing a latch (R144, R145) -/

/-- The outcome of the three conditions for a latch: none when all hold, else the flags of 0x0103. -/
def clearTest (safeLow covered active : Bool) : Option Nat :=
  if safeLow then some 3 else if covered then some 2 else if active then some 1 else none

/-- Why a clear of the latch of a phase is refused, if it is (R144). -/
def State.phaseRefusal (s : State) (p : Nat) : Option Nat :=
  let lane := match s.laneOf p with | some l => s.lnLatch l | none => false
  clearTest s.safeLow (lane || s.glbLatch)
    ((s.laneOf p).isSome && (s.flag F.PH_OCTHR_OCH_LIVE p || s.flag F.PH_OCTHR_OCL_LIVE p) || s.routed 1 p)

/-- A clear of the latch of a phase at its commit cycle (R144). -/
def State.clearPhase (s : State) (p : Nat) : State :=
  if !s.phLatch p then s
  else
    match s.phaseRefusal p with
    | some k => (s.put F.BAY_PH_TRIP_CLEAR_REFUSED true (bayOfPhase p)).record 0x0103 p k
    | none => ((s.putBit F.BAY_PH_TRIP_TRIP (p % 16) false (bayOfPhase p)).noteHit p).record 0x0105 p 0

/-- Why a clear of a lane latch is refused, if it is (R144); LFLT_N of an unconfigured lane is masked (R140). -/
def State.laneRefusal (s : State) (l : Nat) : Option Nat :=
  let b := bayOfLane l
  let act := s.configured l && (s.flag F.LN_TRIP_LFLT_LIVE l || s.flag F.BAY_ISREF_STAT_ISREF_BAD b) ||
    s.flag F.LN_SNS_STAT_XMIS l || s.flag F.LN_LOOP_STAT_HEADROOM l || !s.flag F.BAY_PWM_CTL_PWM_EN b || s.routed 2 l
  clearTest s.safeLow s.glbLatch act

/-- A clear of a lane latch (R144). -/
def State.clearLane (s : State) (l : Nat) : State :=
  if !s.lnLatch l then s
  else
    match s.laneRefusal l with
    | some k => (s.put F.LN_TRIP_CLEAR_REFUSED true l).record 0x0103 (srcLane l) k
    | none =>
      let s := ((s.put F.LN_TRIP_TRIP false l).put F.LN_TRIP_LFLT_SRC false l).put F.LN_TRIP_RTR_SRC false l
      (s.put F.LN_TRIP_BAY_SRC false l).record 0x0105 (srcLane l) 0

/-- A clear of the global latch (R144). -/
def State.clearGlobal (s : State) : State :=
  if !s.glbLatch then s
  else
    let act := (s.rd F.GLB_TRIP_FIN_LIVE &&& s.rd F.GLB_TRIP_CFG_FIN_EN) != 0 || s.flag F.GLB_PF_PFI_LIVE || s.clockLost || s.routed 3 0
    match clearTest s.safeLow false act with
    | some k => (s.put F.GLB_TRIP_CLEAR_REFUSED true).record 0x0103 srcDevice k
    | none =>
      let s := ((s.put F.GLB_TRIP_TRIP false).wr F.GLB_TRIP_FIN_SRC 0).put F.GLB_TRIP_SAFE_SRC false
      (((s.put F.GLB_TRIP_PFI_SRC false).put F.GLB_TRIP_CLK_SRC false).put F.GLB_TRIP_RTR_SRC false).record 0x0105 srcDevice 0

/-! ### The writes that clear latches -/

/-- A write to BAY_PH_TRIP: a refusal raised by this write prevails over its clear of CLEAR_REFUSED (R514). -/
def State.writePhTrip (s : State) (b w : Nat) : State :=
  let s := s.w1cBut .BAY_PH_TRIP b w F.BAY_PH_TRIP_TRIP.mask
  s.forEach ((List.range 16).filter (fun k => bitN w k)) (fun s k => s.clearPhase (16 * b + k))

/-- A write to LN_TRIP. -/
def State.writeLnTrip (s : State) (l w : Nat) : State :=
  let s := s.w1cBut .LN_TRIP l w F.LN_TRIP_TRIP.mask
  if bitN w 0 then s.clearLane l else s

/-- A write to GLB_TRIP. -/
def State.writeGlbTrip (s : State) (w : Nat) : State :=
  let s := s.w1cBut .GLB_TRIP 0 w F.GLB_TRIP_TRIP.mask
  if bitN w 0 then s.clearGlobal else s

/-- BAY_PH_TRIP (R144): the Manager clears phase latches. -/
def execBayPhTrip (b : Bay) (w : BusWrite) (s : State) : Host.Outcome State Fault Refusal :=
  .next (s.gate w (fun s v => s.writePhTrip b.val v)).settle

/-- LN_TRIP (R144): the Manager clears a lane latch. -/
def execLnTrip (l : Lane) (w : BusWrite) (s : State) : Host.Outcome State Fault Refusal :=
  .next (s.gate w (fun s v => s.writeLnTrip l.val v)).settle

/-- GLB_TRIP (R144): the Manager clears the global latch. -/
def execGlbTrip (w : BusWrite) (s : State) : Host.Outcome State Fault Refusal :=
  .next (s.gate w (fun s v => s.writeGlbTrip v)).settle

/-! ### Direct sources -/

/-- A phase comparator output changes level; rising, it sets the latch of an assigned phase with no clock (R38, R62, R140). -/
def State.phaseEdge (s : State) (p : Nat) (low high : Bool) : State :=
  let s := (s.put (if low then F.PH_OCTHR_OCL_LIVE else F.PH_OCTHR_OCH_LIVE) high p).noteHit p
  if high ∧ (s.laneOf p).isSome then s.setPhaseLatch p low.toNat else s

/-- PHASE_TRIP (R140, R205): OCH (`low` false) or OCL of a phase asserts. -/
def execPhaseTrip (p : Phase) (low : Bool) (s : State) : Host.Outcome State Fault Refusal :=
  .next (s.begin.phaseEdge p.val low true).settle

/-- COMPARATOR (R62): a comparator output changes level; the numbers are the flags of R67: 0 OCH, 1 OCL, 2 BOV, 3 SHC, 4 BUSOV,
5 BUSUV. An index the comparator does not have changes nothing. -/
def execComparator (src : Fin 6) (idx : Fin 192) (high : Bool) (s : State) : Host.Outcome State Fault Refusal :=
  let s := s.begin
  .next (State.settle (match src with
    | 0 => s.phaseEdge idx.val false high
    | 1 => s.phaseEdge idx.val true high
    | 2 => s.put F.LN_CMPTHR_BOV_LIVE high idx.val
    | 3 => s.put F.LN_CMPTHR_SHC_LIVE high idx.val
    | 4 => s.put F.BUS_CMPTHR_BUSOV_LIVE high idx.val
    | 5 => s.put F.BUS_CMPTHR_BUSUV_LIVE high idx.val))

/-- What the attribution holds at c0 (R372). -/
def State.startAttr (s : State) (l : Nat) : State :=
  let ps := (s.phasesOf l).map (fun p => (⟨p, (s.ph p).i, (s.ph p).iref, s.driven p⟩ : AttrPh))
  s.onLane l (fun x => { x with attrRun := some ⟨s.tb, ps⟩ })

/-- LANE_TRIP (R140, R197): LFLTnn_N of a lane changes level; low, it sets the latch of a configured lane, and attribution starts. -/
def execLaneTrip (l : Lane) (low : Bool) (s : State) : Host.Outcome State Fault Refusal :=
  let l := l.val
  let s := s.begin.put F.LN_TRIP_LFLT_LIVE low l
  let s := if low ∧ s.configured l ∧ !s.lnLatch l then (s.startAttr l).setLaneLatch l 0 else s
  .next s.settle

/-- The first cycle of a phase's comparator evidence between c0 - 400 and c0 + 200 (R372). -/
def firstHit (c0 : Nat) (hits : List (Nat × Option Nat)) : Option Nat :=
  (hits.filterMap (fun h =>
    let a := max h.1 (c0 - 400)
    let ended := match h.2 with | some e => decide (e ≤ a) | none => false
    if a ≤ c0 + 200 ∧ !ended then some a else none)).head?

/-- attribute() of R373: the phase and the basis. -/
def attributeLane (thr : Int) (ps : List (AttrPh × Option Nat)) : Option Nat × Nat :=
  let best := ps.foldl (fun (b : Option (Nat × Nat)) x => match x.2, b with
    | some t, none => some (x.1.p, t)
    | some t, some (q, u) => if t < u then some (x.1.p, t) else some (q, u)
    | none, b => b) none
  match best with
  | some (p, _) => (some p, 1)
  | none =>
    let r := ps.foldl (fun (a : Option Nat × Int × Int) x =>
      if !x.1.drv then a
      else
        let dv : Int := (x.1.iLast - x.1.iref).natAbs
        if a.2.1 < dv then (some x.1.p, dv, a.2.1) else if a.2.2 < dv then (a.1, a.2.1, dv) else a) (none, -1, -1)
    match r with
    | (some k, d1, d2) => if thr < d1 ∧ 2 * d2 ≤ d1 then (some k, 2) else (none, 0)
    | (none, _, _) => (none, 0)

/-- LFLT_ATTRIBUTED (R372 to R374): attribution of a lane completes, 240 cycles after the assertion. -/
def execLfltAttributed (l : Lane) (s : State) : Host.Outcome State Fault Refusal :=
  let l := l.val
  let s := s.begin
  match (s.lane l).attrRun with
  | none => .next s
  | some r =>
    let ps := r.phases.map (fun a => (a, firstHit r.c0 (s.ph a.p).hits))
    let s := (s.onLane l (fun x => { x with attrRun := none })).put F.GLB_FLT_EVT_ATTR_EVT true
    match attributeLane (s.rd F.GLB_ATTR_ATTR_THR) ps with
    | (some p, basis) =>
      let s := (s.onLane l (fun x => { x with attr := ⟨p % 16, basis⟩ })).record 0x0C0A p basis
      let s := if s.flag F.GLB_ATTR_ATTR_QUAR ∧ !s.quarPh p then (s.quarantinePh p).record 0x0604 p 0 else s
      .next s.settle
    | (none, _) =>
      .next (((s.onLane l (fun x => { x with attr := ⟨15, 0⟩ })).record 0x0C0A (srcLane l) 0).settle)

/-- The event of an edge of FAULT_INn_N (R360). -/
def State.noteFin (n : Nat) (high : Bool) (s : State) : State :=
  (s.record 0x0C02 (0x150 + n) (!high).toNat).put F.GLB_FLT_EVT_FIN_EVT true

/-- FAULT_IN_EDGE (R360): an edge of FAULT_INn_N; `high` is the level after it. -/
def execFaultInEdge (n : Fin 4) (high : Bool) (s : State) : Host.Outcome State Fault Refusal :=
  let n := n.val
  let s := s.begin.putBit F.GLB_TRIP_FIN_LIVE n (!high)
  .next (if !high ∧ s.rdBit F.GLB_TRIP_CFG_FIN_EN n then s.setGlobal F.GLB_TRIP_FIN_SRC n (2 ^ n) 2 (State.noteFin n high)
    else State.noteFin n high s).settle

/-- The event of an edge of SAFE_N (R359). -/
def State.noteSafe (high : Bool) (s : State) : State :=
  (s.record 0x0C01 srcDevice (!high).toNat).put F.GLB_FLT_EVT_SAFE_EVT true

/-- SAFE_N_EDGE (R359): an edge of SAFE_N; `high` is the level after it. -/
def execSafeNEdge (high : Bool) (s : State) : Host.Outcome State Fault Refusal :=
  let s := s.begin.put F.GLB_TRIP_SAFE_LIVE (!high)
  let s := if high ∧ s.flag F.SEC_STAT_SEALED then { s with sec := { s.sec with extest := false } } else s
  .next (if !high then s.setGlobal F.GLB_TRIP_SAFE_SRC 0 0x10 3 (State.noteSafe high) else State.noteSafe high s).settle

/-- The trip sources that act by their level (Table 6-3), looked at where a level may meet a condition that was not there before: at
PLL_LOCK (Table 17-5), after a bank load, a Heddle commit, a write of FIN_EN. -/
def State.pinTrips (s : State) : State :=
  let s := if s.safeLow ∧ !s.glbLatch then s.setGlobal F.GLB_TRIP_SAFE_SRC 0 0x10 3 else s
  let fin := s.rd F.GLB_TRIP_FIN_LIVE &&& s.rd F.GLB_TRIP_CFG_FIN_EN
  let s := match lowBit? fin 4 with
    | some n => if s.glbLatch then s else s.setGlobal F.GLB_TRIP_FIN_SRC n fin 2
    | none => s
  let s := s.forEach ((List.range 48).filter (fun l => s.flag F.LN_TRIP_LFLT_LIVE l && s.configured l && !s.lnLatch l))
    (fun s l => (s.startAttr l).setLaneLatch l 0)
  s.forEach ((List.range 192).filter (fun p =>
      (s.flag F.PH_OCTHR_OCH_LIVE p || s.flag F.PH_OCTHR_OCL_LIVE p) && (s.laneOf p).isSome && !s.phLatch p))
    (fun s p => s.setPhaseLatch p (if s.flag F.PH_OCTHR_OCH_LIVE p then 0 else 1))

/-! ### Writes to the router's registers (R355, R357, R362) -/

/-- The reason a written route entry is refused: 1 SRC, 2 SIDX, 3 TGT, 4 TIO; none when it is accepted (R355). TIO holds three
bits, so it is never above 7. -/
def routeRefusal (w : Nat) : Option Nat :=
  let src := F.RTR_ROUTE_SRC.of w
  let sidx := F.RTR_ROUTE_SIDX.of w
  if src = 0 then none
  else if srcCount src = 0 then some 1
  else if sidx ≠ 0xFF ∧ srcCount src ≤ sidx then some 2
  else if !tgtAllowed src (F.RTR_ROUTE_TGT.of w) then some 3
  else none

/-- A write to RTR_ROUTEn; an accepted entry over an asserted source asserts at its commit cycle (R357). -/
def State.writeRoute (s : State) (n w : Nat) : State :=
  match routeRefusal w with
  | some k => ((s.wr F.RTR_ERR_ENTRY n).wr F.RTR_ERR_REASON k).put F.RTR_ERR_ERR true
  | none =>
    let was := s.flag F.RTR_ROUTE_EN n
    let s := s.plainWrite .RTR_ROUTE n w
    if was then s else { s with rtrLive := s.rtrLive.filter (fun k => k / 256 != n) }

/-- RTR_ROUTE (R355, R357). -/
def execRtrRoute (n : Fin 128) (w : BusWrite) (s : State) : Host.Outcome State Fault Refusal :=
  .next (s.gate w (fun s v => s.writeRoute n.val v)).settle

/-- One mode of RTR_TIO: refused over a pin a timer output holds (R25, R362). -/
def State.writeTioPin (s : State) (n mode : Nat) : State :=
  let f : Field := ⟨.RTR_TIO, 2 * n, 2⟩
  if mode = 3 then s
  else if mode ≠ 0 ∧ s.timerHolds n then ((s.wr f 0).putBit F.RTR_TIO_CLAIMED n false).record 0x0114 (srcTio n) 0
  else (s.wr f mode).putBit F.RTR_TIO_CLAIMED n (mode != 0)

/-- A write to RTR_TIO, pin by pin. -/
def State.writeTio (s : State) (w : Nat) : State :=
  s.forEach (List.range 8) (fun s n => s.writeTioPin n (bitsN w (2 * n) 2))

/-- A write to GLB_TRIP_CFG: an input enabled while it is low sets the global latch (R360, Table 6-3). -/
def State.writeTripCfg (s : State) (w : Nat) : State := (s.plainWrite .GLB_TRIP_CFG 0 w).pinTrips

/-- RTR_TIO (R362). -/
def execRtrTio (w : BusWrite) (s : State) : Host.Outcome State Fault Refusal :=
  .next (s.gate w (fun s v => s.writeTio v)).settle

/-- A write to RTR_CTL: HIT_CLR clears every RTR_HITn. -/
def State.writeRtrCtl (s : State) (w : Nat) : State :=
  if bitN w 0 then s.forEach (List.range 4) (fun s i => s.wr F.RTR_HIT_HIT 0 i) else s

/-- HIT_CLR (R377). -/
def execHitClr (w : BusWrite) (s : State) : Host.Outcome State Fault Refusal :=
  .next (s.gate w (fun s v => s.writeRtrCtl v))

end Sys2Proof.Machine
end

