-- ==== Sys2Proof/Machine/Sensing.lean ====
section
/-!
DEFINITION. Sys2Proof/Machine/Sensing.lean: phase current scaling (R51), the converters and their saturation events (R50, R59, R60),
the watch on undriven phases (R57, R58), the threshold read-backs (R65 to R68), the ISREF, supply and die-temperature monitors (R70,
R364, R365), the sense-path cross-check (R71, R72), and AUX: the thermistor and the interlock (R246, R366, R367).
-/
namespace Sys2Proof.Machine

/-- phase_current of R51: a SAR code to mA. -/
def State.phaseCurrent (s : State) (code : Int) (p : Nat) : Int :=
  let b := bayOfPhase p
  let x := code - s.rdS F.BAY_ISN_OFS_OFS b - s.rdS F.PH_ISNCAL_OFS p
  let y := (x * s.rdS F.BAY_ISN_SCALE_SCALE b) / 65536
  sat ((y * (65536 + s.rdS F.PH_ISNCAL_GAIN p)) / 65536) 24

/-- An item of MTR_DATA, unsigned and signed (Table 12-11). -/
def State.mtrItem (s : State) (l k : Nat) : Nat := ((s.meter l).items.toList.getD k 0).toNat
def State.mtrItemS (s : State) (l k : Nat) : Int := toS (s.mtrItem l k) 24

/-- corr of R287. -/
def corr (c ofs gain : Int) : Int := sat (((c - ofs) * (1048576 + gain)) / 1048576) 24

/-- Module voltage in mV and shunt current in mA of control-tap codes (R288). -/
def State.tapVolt (s : State) (l : Nat) (c : Int) : Int :=
  (corr (c * 128) (s.mtrItemS l 2) (s.mtrItemS l 3) * s.mtrItem l 0) / 4194304
def State.tapAmp (s : State) (l : Nat) (c : Int) : Int :=
  (corr (c * 128) (s.mtrItemS l 4) (s.mtrItemS l 5) * s.mtrItem l 1) / 4194304

/-- The lane engine's sum of the latest phase currents of the driven phases (R54). -/
def State.sumI (s : State) (l : Nat) : Int := (s.drivenOf l).foldl (fun a p => a + (s.ph p).i) 0

/-! ### Undriven phases (R57, R58) -/

/-- A lane state in which its undriven phases are watched (R57). -/
def LaneState.watched : LaneState → Bool
  | .off | .detect | .negotiate | .lost => false
  | _ => true

/-- A phase is on watch: assigned, and not in its lane's driven set or its lane in HOLD or PARK (R57). -/
def State.watchedPh (s : State) (p : Nat) : Bool :=
  match s.laneOf p with
  | none => false
  | some l =>
    let st := s.laneState l
    st.watched && (!s.driven p || st == .hold || st == .park && !s.flag F.LN_STATE_PARKING l)

/-- WATCH_SAMPLE (R57, R58): a watch sample of a phase; above WATCH_THR it quarantines the phase and parks the lane. -/
def execWatchSample (p : Phase) (code : BitVec 12) (s : State) : Host.Outcome State Fault Refusal :=
  let s := s.begin
  let p := p.val
  match s.laneOf p with
  | none => .next s
  | some l =>
    if !s.watchedPh p ∨ (s.phaseCurrent code.toInt p).natAbs ≤ s.rd F.BAY_WATCH_WATCH_THR (bayOfPhase p) then .next s
    else
      let s := if s.quarPh p then s.record 0x0206 p 0 else (s.record 0x0207 p 0).quarantinePh p
      .next (s.parkLane l 5).settle

/-! ### Control taps and segment converters (R59, R60) -/

/-- Samples of the latest 2 ms. -/
def recent {α : Type} (now : Nat) (h : List (Nat × α)) : List (Nat × α) := h.filter (fun e => decide (now < e.1 + 400000))

/-- Change the sums of every open stream of every tenant for a lane (R435). -/
def State.onTele (s : State) (l : Nat) (f : TeleAcc → TeleAcc) : State :=
  { s with tenants := s.tenants.map (fun x =>
      { x with streams := x.streams.map (fun o => o.map (fun q => { q with acc := vupd q.acc l f })) }) }

/-- Some stream is open. -/
def State.teleOpen (s : State) : Bool := s.tenants.toList.any (fun x => x.streams.toList.any Option.isSome)

/-- A control-tap sample in the means that use it: the pre-start check (R200), the 1 ms means (R261, R491), telemetry (R435). -/
def State.noteTap (s : State) (l : Nat) (v i : Int) : State :=
  let s := s.onLane l (fun x => { x with
    taps := recent s.tb x.taps ++ [(s.tb, v, i)],
    prestart := x.prestart.map (fun q => { q with sumI := q.sumI + i, sumV := q.sumV + v, n := q.n + 1 }) })
  if s.teleOpen then s.onTele l (fun a => { a with sumV := a.sumV + v, sumI := a.sumI + i, n := a.n + 1 }) else s

/-- A bus-voltage sample in the means that use it. -/
def State.noteBus (s : State) (g : Nat) (v : Int) : State :=
  let s := s.onSeg g (fun x => { x with hist := recent s.tb x.hist ++ [(s.tb, v)] })
  let tele := s.teleOpen
  s.forEach ((List.range 48).filter (fun l => s.segOf l == g)) (fun s l =>
    let s := if (s.lane l).prestart.isSome then s.onLane l (fun x => { x with
        prestart := x.prestart.map (fun q => { q with sumB := q.sumB + v, nB := q.nB + 1 }) }) else s
    if tele then s.onTele l (fun a => { a with sumB := a.sumB + v, nB := a.nB + 1 }) else s)

/-- CONTROL_TAP_SAMPLE (R59, R71): the two control-tap codes of a lane. -/
def execControlTapSample (l : Lane) (v i : BitVec 16) (s : State) : Host.Outcome State Fault Refusal :=
  let l := l.val
  let s := s.begin
  let cv := v.toInt
  let ci := i.toInt
  let sv := decide (32767 ≤ cv.natAbs)
  let si := decide (32767 ≤ ci.natAbs)
  let x := s.lane l
  let s := if sv then s.put F.LN_SNS_STAT_TAP_V_SAT true l else s
  let s := if si then s.put F.LN_SNS_STAT_TAP_I_SAT true l else s
  let s := if sv ∧ !x.vSat ∨ si ∧ !x.iSat then s.record 0x020A (srcLane l) 0 else s
  let amp := s.tapAmp l ci
  let vm := s.tapVolt l cv
  let s := (s.onLane l (fun x => { x with vMod := vm, iShunt := amp, vSat := sv, iSat := si })).noteTap l vm amp
  if (s.laneState l).running ∧ s.flag F.BAY_XCHK_EN (bayOfLane l) then
    let sum := s.sumI l
    .next (s.onLane l (fun x => { x with xSum := x.xSum + sum, xShunt := x.xShunt + amp, xN := x.xN + 1 }))
  else .next (s.onLane l (fun x => { x with xSum := 0, xShunt := 0, xN := 0, xBad := false }))

/-- SEGMENT_SAR_CONVERSION (R60): the code of a segment SAR; end codes saturate. -/
def execSegmentSarConversion (sg : Seg) (code : BitVec 12) (s : State) : Host.Outcome State Fault Refusal :=
  let g := sg.val
  let s := s.begin
  let c := code.toNat
  let e := c == 0 || c == 4095
  let s := if e then s.put F.BUS_VSCALE_SAR_SAT true g else s
  let s := if e ∧ !(s.seg g).sat then s.record 0x0209 (srcSeg g) 0 else s
  let mv := c * s.rd F.BUS_VSCALE_SCALE g / 65536
  .next ((s.onSeg g (fun x => { x with code := c, sat := e, vBus := mv })).noteBus g mv)

/-- A cross-check window starts with empty sums (R71). -/
def State.cleanXchk (s : State) (l : Nat) : State :=
  s.onLane l (fun x => { x with xSum := 0, xShunt := 0, xN := 0, xBad := false })

/-- XCHK_WINDOW (R71, R72, R192): 1,024 control-tap periods have been summed for a lane. -/
def execXchkWindow (l : Lane) (s : State) : Host.Outcome State Fault Refusal :=
  let l := l.val
  let b := bayOfLane l
  let s := s.begin
  let x := s.lane l
  if !(s.laneState l).running ∨ !s.flag F.BAY_XCHK_EN b ∨ x.xN < 1024 then .next s
  else if x.xBad ∨ s.held l then .next (s.cleanXchk l)
  else
    let is := x.xSum / x.xN
    let ih := x.xShunt / x.xN
    let d := is - ih
    let lim := max (s.rd F.BAY_XCHK_ABS b) (s.rd F.BAY_XCHK_REL b * ih.natAbs / 256)
    let cnt := s.rd F.BAY_XCHK_COUNT b
    let s := (s.cleanXchk l).wrS F.LN_SNS_STAT_XDIFF (sat (d / 10) 16) l
    if lim < d.natAbs then
      let k := min (x.xFail + 1) 255
      let s := s.onLane l (fun x => { x with xFail := k, xPass := 0 })
      if cnt ≤ k ∧ !s.flag F.LN_SNS_STAT_XMIS l then
        let s := (s.put F.LN_SNS_STAT_XMIS true l).put F.LN_SNS_STAT_XMIS_EVT true l
        let s := (s.record 0x0203 (srcLane l) 0).put F.LN_WARP_STAT_SUSP true l
        let s := s.record 0x0505 (srcLane l) 0
        .next (if s.flag F.BAY_XCHK_TRIP b then s.setLaneLatch l 1 else s).settle
      else .next s
    else
      let k := min (x.xPass + 1) 255
      let s := s.onLane l (fun x => { x with xFail := 0, xPass := k })
      if cnt ≤ k ∧ s.flag F.LN_SNS_STAT_XMIS l then
        .next ((s.put F.LN_SNS_STAT_XMIS false l).put F.LN_WARP_STAT_SUSP false l).settle
      else .next s

/-! ### Threshold read-backs (R65 to R68) -/

/-- The converter of a SEL: the phase SAR of bay phase 0 to 15, or 16 for the utility ADC (R65). -/
def rbConverter (sel : Nat) : Nat := if sel < 32 then sel / 2 else 16

/-- Every SEL of a bay (R68). -/
def rbAll (b : Nat) : List Nat := List.range (if b < 4 then 42 else 40)

/-- The expected code, the tolerance, the flags of 0x0204 and the source index of a SEL (R66, R67). -/
def State.rbExpect (s : State) (b sel : Nat) : Int × Int × Nat × Nat :=
  if sel < 32 then
    let p := 16 * b + sel / 2
    if sel % 2 = 0 then (((s.rd F.PH_OCTHR_OCH_THR p : Int) - 512) * 4, 8, 0, p)
    else (((s.rd F.PH_OCTHR_OCL_THR p : Int) - 512) * 4, 8, 1, p)
  else if sel < 40 then
    let l := 4 * b + (sel - 32) / 2
    if sel % 2 = 0 then (2 * s.rd F.LN_CMPTHR_BOV_THR l, 6, 2, srcLane l)
    else (2 * s.rd F.LN_CMPTHR_SHC_THR l, 6, 3, srcLane l)
  else if sel = 40 then (2 * s.rd F.BUS_CMPTHR_BUSOV_THR b, 6, 4, srcSeg b)
  else (2 * s.rd F.BUS_CMPTHR_BUSUV_THR b, 6, 5, srcSeg b)

/-- Note whether the latest read-back of a DAC failed. -/
def State.rbMark (s : State) (b sel : Nat) (bad : Bool) : State :=
  if sel < 32 then s.onPh (16 * b + sel / 2) (fun x => if sel % 2 = 0 then { x with rbH := bad } else { x with rbL := bad })
  else if sel < 40 then
    s.onLane (4 * b + (sel - 32) / 2) (fun x => if sel % 2 = 0 then { x with rbB := bad } else { x with rbS := bad })
  else s.onSeg b (fun x => if sel = 40 then { x with rbO := bad } else { x with rbU := bad })

/-- AUTO_READBACK (R68): the background read-back of a bay reaches its DACs again: each that is not waiting joins the queue. -/
def execAutoReadback (b : Bay) (s : State) : Host.Outcome State Fault Refusal :=
  let b := b.val
  let s := s.begin
  if s.flag F.BAY_RB_CTL_AUTO b then
    .next (s.onBay b (fun x => { x with
      rbQ := x.rbQ ++ ((rbAll b).filter (fun k => !x.rbQ.contains (k, false))).map (fun k => (k, false)) }))
  else .next s

/-- A write to BAY_RB_CTL: GO queues a read-back of SEL, and is ignored while PENDING (R68). -/
def State.writeRbCtl (s : State) (b w : Nat) : State :=
  let s := s.plainWrite .BAY_RB_CTL b w
  if !bitN w 8 ∨ s.flag F.BAY_RB_STAT_PENDING b then s
  else
    let sel := s.rd F.BAY_RB_CTL_SEL b
    let s := (s.put F.BAY_RB_STAT_PENDING true b).put F.BAY_RB_STAT_DONE false b
    s.onBay b (fun x => { x with rbQ := x.rbQ ++ [(sel, true)] })

/-- GO (R68). -/
def execGo (b : Bay) (w : BusWrite) (s : State) : Host.Outcome State Fault Refusal :=
  .next (s.gate w (fun s v => s.writeRbCtl b.val v))

/-- READBACK_DONE (R66, R67): the read-back that is first in the queue of its converter completes with a code. -/
def execReadbackDone (b : Bay) (sel : Fin 42) (code : BitVec 12) (s : State) : Host.Outcome State Fault Refusal :=
  let b := b.val
  let s := s.begin
  let sel := sel.val
  match (s.bay b).rbQ.find? (fun e => rbConverter e.1 == rbConverter sel) with
  | none => .next s
  | some (k, asked) =>
    if k ≠ sel then .next s
    else
      let c : Int := if sel < 32 then code.toInt else code.toNat
      let (want, tol, flags, src) := s.rbExpect b sel
      let bad := decide (tol < (c - want).natAbs)
      let s := s.onBay b (fun x => { x with rbQ := x.rbQ.erase (k, asked) })
      let s := if asked then
          (((s.wr F.BAY_RB_STAT_CODE code.toNat b).wr F.BAY_RB_STAT_SEL sel b).put F.BAY_RB_STAT_PENDING false b).put
            F.BAY_RB_STAT_DONE true b
        else s
      let s := if bad then (s.put F.BAY_RB_STAT_MISMATCH true b).record 0x0204 src flags else s
      .next (s.rbMark b sel bad).settle

/-! ### Monitors of a bay (R70, R364, R365) -/

/-- ISREF_WINDOW (R70): an ISREF conversion, 0.5 mV per LSB, against 1.40 V to 1.60 V. -/
def execIsrefWindow (b : Bay) (code : BitVec 12) (s : State) : Host.Outcome State Fault Refusal :=
  let b := b.val
  let s := s.begin.wr F.BAY_ISREF_STAT_CODE code.toNat b
  if outside code.toNat 2800 3200 then
    let s := s.onBay b (fun x => { x with isOut := min (x.isOut + 1) 4, isIn := 0 })
    if (s.bay b).isOut = 4 ∧ !s.flag F.BAY_ISREF_STAT_ISREF_BAD b then
      let s := (s.put F.BAY_ISREF_STAT_ISREF_BAD true b).put F.BAY_ISREF_STAT_ISREF_EVT true b
      let s := s.record 0x0205 (srcBay b) 0
      .next (s.forEach ((bayLanes b).filter s.configured) (fun s l => s.setLaneLatch l 1)).settle
    else .next s
  else
    let s := s.onBay b (fun x => { x with isIn := min (x.isIn + 1) 4, isOut := 0 })
    if (s.bay b).isIn = 4 then .next (s.put F.BAY_ISREF_STAT_ISREF_BAD false b).settle else .next s

/-- The window of a supply tap in mV (Table 15-3): 0 VDD, 1 VDDA, 2 VDDIO, 3 ground. -/
def supplyInside (tap : Nat) (mv : Int) : Bool :=
  match tap with
  | 0 => decide (776 ≤ mv ∧ mv ≤ 824)
  | 1 => decide (1710 ≤ mv ∧ mv ≤ 1890)
  | 2 => decide (3135 ≤ mv ∧ mv ≤ 3465)
  | _ => decide (-5 ≤ mv ∧ mv ≤ 5)

/-- OUT and KIND of GLB_SUP_STAT follow the taps. -/
def State.showSupply (s : State) (b : Nat) : State :=
  let s := s.putBit F.GLB_SUP_STAT_OUT b ((s.bay b).supBad.toList.any id)
  s.wr F.GLB_SUP_STAT_KIND (maskOf ((List.range 4).filter (fun t => s.bays.toList.any (fun x => vget x.supBad t false))))

/-- SUPPLY_WINDOW (R364): one conversion of a supply tap of a bay, in mV at the supply, signed for ground. -/
def execSupplyWindow (b : Bay) (tap : Fin 4) (mv : BitVec 12) (s : State) : Host.Outcome State Fault Refusal :=
  let b := b.val
  let t := tap.val
  let s := s.begin
  let v : Int := if t = 3 then mv.toInt else mv.toNat
  let s := s.onBay b (fun x => { x with supMv := vupd x.supMv t (fun _ => v) })
  let x := s.bay b
  if supplyInside t v then
    let n := min (vget x.supIn t 0 + 1) 4
    let s := s.onBay b (fun x => { x with
      supIn := vupd x.supIn t (fun _ => n), supOut := vupd x.supOut t (fun _ => 0),
      supBad := vupd x.supBad t (fun bad => bad && n < 4) })
    .next (s.showSupply b).settle
  else
    let n := min (vget x.supOut t 0 + 1) 4
    let new := decide (n = 4) && !vget x.supBad t false
    let s := s.onBay b (fun x => { x with
      supOut := vupd x.supOut t (fun _ => n), supIn := vupd x.supIn t (fun _ => 0),
      supBad := vupd x.supBad t (fun bad => bad || decide (n = 4)) })
    let s := if new then (s.record 0x0C05 (srcBay b) (t + 1)).put F.GLB_SUP_STAT_SUP_EVT true else s
    .next (s.showSupply b).settle

/-- DIE_TEMP_WARN (R365): a die-temperature conversion of a bay, in 0.25 degrees C, against TWARN. -/
def execDieTempWarn (b : Bay) (quarterC : BitVec 12) (s : State) : Host.Outcome State Fault Refusal :=
  let b := b.val
  let s := s.begin
  let q := quarterC.toInt
  let thr := 4 * s.rdS F.GLB_TEMP_CFG_TWARN
  let s := s.onBay b (fun x => { x with
    die := q, warnHi := if thr ≤ q then min (x.warnHi + 1) 4 else 0, warnLo := if q < thr - 20 then min (x.warnLo + 1) 4 else 0 })
  let x := s.bay b
  if x.warnHi = 4 ∧ !s.rdBit F.GLB_TEMP_STAT_WARN b then
    .next ((((s.putBit F.GLB_TEMP_STAT_WARN b true).record 0x0C06 (srcBay b) 0).put F.GLB_TEMP_STAT_WARN_EVT true).settle)
  else if x.warnLo = 4 then .next (s.putBit F.GLB_TEMP_STAT_WARN b false).settle
  else .next s

/-- DIE_TEMP_TRIP (R365): the same conversion against TTRIP. -/
def execDieTempTrip (b : Bay) (quarterC : BitVec 12) (s : State) : Host.Outcome State Fault Refusal :=
  let b := b.val
  let s := s.begin
  let q := quarterC.toInt
  let thr := 4 * s.rdS F.GLB_TEMP_CFG_TTRIP
  let s := s.onBay b (fun x => { x with
    die := q, tripHi := if thr ≤ q then min (x.tripHi + 1) 4 else 0, tripLo := if q < thr - 20 then min (x.tripLo + 1) 4 else 0 })
  let x := s.bay b
  if x.tripHi = 4 ∧ !s.rdBit F.GLB_TEMP_STAT_TRIP b then
    .next ((((s.putBit F.GLB_TEMP_STAT_TRIP b true).record 0x0C07 (srcBay b) 0).put F.GLB_TEMP_STAT_TRIP_EVT true).settle)
  else if x.tripLo = 4 then .next (s.putBit F.GLB_TEMP_STAT_TRIP b false).settle
  else .next s

/-! ### AUX (R246, R366, R367) -/

/-- AUX_TEMP_AVERAGE (R366, R367): the average of a lane's last 16 AUX conversions, in mV. -/
def execAuxTempAverage (l : Lane) (mv : Fin 2049) (s : State) : Host.Outcome State Fault Refusal :=
  let l := l.val
  let s := s.begin
  if !s.thermHeld l then .next s
  else
    let x := s.lane l
    let v := mv.val
    let op := decide (1980 < v)
    let sh := decide (v < 20)
    let t := Config.auxTemperature v (100 * s.rd F.GLB_THM_CFG_R25) (s.rd F.GLB_THM_CFG_BETA)
    let isOver := !op && !sh && decide (s.rdS F.GLB_THM_CFG_TOVER ≤ t)
    let s := s.onLane l (fun x => { x with
      auxT := if op ∨ sh then 125 else t, auxSeen := true, thOpen := op, thShort := sh, thOver := isOver })
    let s := if (op || sh) && !(x.thOpen || x.thShort) then
        (s.record 0x0C09 (srcLane l) (if op then 1 else 2)).put F.GLB_FLT_EVT_THM_EVT true else s
    let s := if isOver && !x.thOver then (s.record 0x0C08 (srcLane l) 0).put F.GLB_FLT_EVT_THM_EVT true else s
    .next s.settle

/-- INTERLOCK_OPEN (R246): an AUX conversion of a lane whose contract uses AUX as an interlock, in mV. -/
def execInterlockOpen (l : Lane) (mv : Fin 2049) (s : State) : Host.Outcome State Fault Refusal :=
  let l := l.val
  let s := s.begin
  if (s.lane l).aux ≠ .jml ∨ s.rd F.LN_JML_AUX_USE l ≠ 3 then .next s
  else
    let s := s.onLane l (fun x => { x with
      ilkHi := if 1980 < mv.val then min (x.ilkHi + 1) 4 else 0, ilkLo := if mv.val < 20 then min (x.ilkLo + 1) 4 else 0 })
    let x := s.lane l
    if x.ilkHi = 4 ∧ !x.ilkOpen then
      let s := (s.onLane l (fun x => { x with ilkOpen := true })).record 0x0C0B (srcLane l) 0
      .next (s.put F.GLB_FLT_EVT_ILK_EVT true).settle
    else if x.ilkLo = 4 then .next (s.onLane l (fun x => { x with ilkOpen := false })).settle
    else .next s

/-- One lane's bit of a write to GLB_THM_EN: a claim on AUX, its refusal, or a release (R25, R366). -/
def State.writeTherm (s : State) (l : Nat) (on : Bool) : State :=
  if on then
    match (s.lane l).aux with
    | .thermistor => s
    | .none => (s.putTherm l true).setAux l .thermistor
    | _ => (s.putTherm l false).record 0x0114 (srcLane l) 0
  else if (s.lane l).aux = .thermistor then (s.putTherm l false).setAux l .none
  else s.putTherm l false

/-- A write to GLB_THM_EN_LO (`hi` false) or GLB_THM_EN_HI. -/
def State.writeThermReg (s : State) (hi : Bool) (w : Nat) : State :=
  if hi then s.forEach (List.range 16) (fun s k => s.writeTherm (32 + k) (bitN w k))
  else s.forEach (List.range 32) (fun s k => s.writeTherm k (bitN w k))

/-- GLB_THM_EN (R366). -/
def execGlbThmEn (hi : Bool) (w : BusWrite) (s : State) : Host.Outcome State Fault Refusal :=
  .next (s.gate w (fun s v => s.writeThermReg hi v)).settle

end Sys2Proof.Machine
end

