-- ==== Sys2Proof/Machine/Metering.lean ====
section
/-!
DEFINITION. Sys2Proof/Machine/Metering.lean: the metering tap (R278 to R301): starts and halts of accounting (R290, R294), samples and
their accounting (R284 to R292, R295), trackers and windows (R296, R297), calibration (R298, R299), METER_READ (R451), the reference
and its monitor (R279 to R282), and the writes of the metering registers (R291, R303).
-/
namespace Sys2Proof.Machine

/-! ### Accounting runs, starts and halts -/

/-- OSR_N of the normal filter (R283). -/
def State.osrN (s : State) : Nat :=
  let p := max 1 s.period
  let k := max 1 ((25000 + p / 2) / p)
  max 64 (min 4096 ((k * p + 20) / 40))

/-- OSR of the alternate filter (R289). -/
def State.osrAlt (s : State) (l : Nat) : Nat :=
  if s.flag F.MTR_FILT_NOTCH l then notchOsr (s.rd F.MTR_FILT_K l) s.period else s.rd F.MTR_FILT_OSR l

/-- The tap takes up a mode: MODE_NOW, and the filter that supplies its output (R289, Table 12-8). -/
def State.setTap (s : State) (l mode : Nat) : State :=
  let s := s.wr F.MTR_STAT_MODE_NOW mode l
  if mode = 0 then (s.wr F.MTR_TAP_OSR_OUT (s.rd F.MTR_TAP_OSR_N l) l).wr F.MTR_TAP_ORDER_OUT 2 l
  else (s.wr F.MTR_TAP_OSR_OUT (s.osrAlt l) l).wr F.MTR_TAP_ORDER_OUT (s.rd F.MTR_FILT_ORDER l) l

/-- A start of accounting of a lane (R290): the filters start anew, and START bridges to the first NORMAL sample where AUTO_START asks
for it. Nothing starts while MODE reads TEST. -/
def State.startAcct (s : State) (l : Nat) : State :=
  let s := (s.wr F.MTR_TAP_OSR_N s.osrN l).onMeter l (fun m => { m with counted := false })
  if s.rd F.MTR_CFG_MODE l = 2 then s
  else s.setTap l (if s.flag F.MTR_CFG_AUTO_START l then 1 else 0)

/-- A start of accounting of every lane. -/
def State.startAll (s : State) : State := s.forEach (List.range 48) State.startAcct

/-- Accounting of a lane halts for a cause that sets UNMET (R294). -/
def State.haltAcct (s : State) (l : Nat) : State :=
  (s.put F.MTR_STAT_UNMET true l).onMeter l (fun m => { m with counted := false })

/-- Accounting of every configured lane halts (R301). -/
def State.haltAll (s : State) : State := s.forEach ((List.range 48).filter s.configured) State.haltAcct

/-! ### Accounting (R287, R292, R295) -/

/-- scale of R287: v, i and p of a pair of codes. -/
def State.scale (s : State) (l : Nat) (cv ci : Int) : Int × Int × Int :=
  let v := corr cv (s.mtrItemS l 2) (s.mtrItemS l 3) * s.mtrItem l 0 / 16384
  let i := corr ci (s.mtrItemS l 4) (s.mtrItemS l 5) * s.mtrItem l 1 / 16384
  (v, i, v * i)

/-- Add to an accumulator; it saturates at 2^96 - 1 (R292). -/
def State.addAcc (s : State) (c n : Nat) : State := s.onCtr c (fun k => { k with acc := min (k.acc + n) (2 ^ 96 - 1) })

/-- account of R292, with the segment's share of R295. -/
def State.account (s : State) (l : Nat) (i p : Int) (isOver : Bool) (d : Nat) : State :=
  let g := s.segOf l
  let e := p.natAbs * d
  let s := if isOver then s.addAcc (6 * l + 4) e
    else if 0 < p then (s.addAcc (6 * l) e).addAcc (290 + 2 * g) e
    else if p < 0 then (s.addAcc (6 * l + 1) e).addAcc (291 + 2 * g) e
    else s
  let s := if 0 < i then s.addAcc (6 * l + 2) (i.natAbs * d) else if i < 0 then s.addAcc (6 * l + 3) (i.natAbs * d) else s
  let s := if (s.laneState l).inService then s.addAcc (6 * l + 5) d else s
  s.onMeter l (fun m => { m with counted := true })

/-! ### Trackers and windows (R296, R297) -/

/-- The trackers take a sample in mV, mA and W. -/
def Meter.track (m : Meter) (v i p : Int) : Meter :=
  if m.trkEmpty then { m with vMin := v, vMax := v, iMin := i, iMax := i, pMin := p, pMax := p, trkEmpty := false }
  else { m with vMin := min m.vMin v, vMax := max m.vMax v, iMin := min m.iMin i, iMax := max m.iMax i, pMin := min m.pMin p,
                pMax := max m.pMax p }

/-- A tracker interval starts. -/
def Meter.trackFrom (m : Meter) (tb : Nat) : Meter :=
  { m with vMin := 0, vMax := 0, iMin := 0, iMax := 0, pMin := 0, pMax := 0, trkStart := tb, trkEmpty := true, trkOver := false }

/-- A window alert: an event entry of type 4 for the owner, the Meter tenants and those with LANE_ALL (R297, Table 18-6). -/
def State.windowAlert (s : State) (l band side : Nat) (x : Int) : State :=
  s.notify ((s.lane l).owner.toList ++
      (List.range 8).filter (fun t => s.roleOf t == 2 || s.flag F.HST_EVT_CFG_LANE_ALL t))
    (leBytes 1 l ++ leBytes 1 band ++ leBytes 1 side ++ zeros 1 ++ leInt32 x ++ leBytes 8 s.tb) 4

/-- One band of a lane against a value (R297). -/
def State.window (s : State) (l band : Nat) (x : Int) : State :=
  let lo := s.mtrItemS l (6 + 2 * band)
  let hi := s.mtrItemS l (7 + 2 * band)
  let f := F.MTR_STAT_WIN_OUT
  let out := s.rdBit f (2 * band) l || s.rdBit f (2 * band + 1) l
  if !s.rdBit F.MTR_CFG_WIN_EN band l ∨ hi ≤ lo then s
  else if lo ≤ x ∧ x ≤ hi then
    if !out then s
    else
      let n := vget (s.meter l).inside band 0 + 1
      if s.rd F.MTR_CFG_REARM l ≤ n then
        ((s.putBit f (2 * band) false l).putBit f (2 * band + 1) false l).onMeter l (fun m =>
          { m with inside := vupd m.inside band (fun _ => 0) })
      else s.onMeter l (fun m => { m with inside := vupd m.inside band (fun _ => n) })
  else
    let s := s.onMeter l (fun m => { m with inside := vupd m.inside band (fun _ => 0) })
    if out then s
    else
      let side := if x < lo then 0 else 1
      let s := ((s.putBit f (2 * band + side) true l).put F.MTR_STAT_WIN_EVT true l).windowAlert l band side x
      if s.flag F.MTR_CFG_LOG_WIN l then s.record 0x0906 (srcLane l) (2 * band + side) else s

/-! ### Samples (R284 to R290) -/

/-- The clipping code (R284). -/
def clipped (c : Int) : Bool := decide (8388607 ≤ c.natAbs)

/-- A clipped channel: 1 voltage, 2 current (R284). -/
def State.clipEvent (s : State) (l k : Nat) : State := (s.put F.MTR_STAT_CLIP_EVT true l).record 0x0904 (srcLane l) k

/-- What a sample's codes show: 0x0904 for a clipped channel, 0x0903 at the first over-range sample (R284, R285). -/
def State.overEvents (s : State) (l : Nat) (cv ci : Bool) (ov oi : Bool) : State :=
  let s := if cv then s.clipEvent l 1 else s
  let s := if ci then s.clipEvent l 2 else s
  if (ov || oi) && !(s.meter l).isOver then
    (s.put F.MTR_STAT_OVR_EVT true l).record 0x0903 (srcLane l) (ov.toNat + 2 * oi.toNat)
  else s

/-- A sample of a calibration window: a NORMAL sample whose support lies after its start; an over-range one fails it (R299). -/
def State.calSample (s : State) (l : Nat) (cv ci : Int) (isOver : Bool) : State :=
  match (s.meter l).calib with
  | none => s
  | some c =>
    if c.skip ≠ 0 then s.onMeter l (fun m => { m with calib := some { c with skip := c.skip - 1 } })
    else if c.n ≤ c.count then s
    else if isOver then s.calFail l 2 stLaneState
    else s.onMeter l (fun m => { m with
      calib := some { c with sum := c.sum + (if c.chan = 0 then cv else ci), count := c.count + 1 } })

/-- A sample that the tap supplies (R292, R296, R297). -/
def State.supply (s : State) (l : Nat) (alt : Bool) (cv ci : Int) (ov oi : Bool) (elapsed : Nat) : State :=
  let kv := clipped cv
  let ki := clipped ci
  let isOver := ov || oi || kv || ki
  let s := s.overEvents l kv ki (ov || kv) (oi || ki)
  let s := s.onMeter l (fun m => { m with isOver := isOver })
  let (v, i, p) := s.scale l cv ci
  let own := if alt then s.rd F.MTR_TAP_OSR_OUT l else s.rd F.MTR_TAP_OSR_N l
  let d := if (s.meter l).counted then min elapsed own else own
  let s := if s.acct l then s.account l i p isOver d else s
  let s := s.onMeter l (fun m => if isOver then { m with trkOver := true } else m.track (v / 256) (i / 256) (p / 65536000000))
  let s := if isOver ∧ s.teleOpen then s.onTele l (fun a => { a with isOver := true }) else s
  ((s.window l 0 (v / 256)).window l 1 (i / 256)).window l 2 (p / 65536000000)

/-- METER_SAMPLE (R284 to R297): a settled sample of the normal or the alternate filter (`alt`), whether a detection on each modulator
lies within its support, and the CLK_MOD cycles since the previously accounted sample. The mode decides which filter supplies. -/
def execMeterSample (l : Lane) (alt : Bool) (v i : BitVec 24) (ovrV ovrI : Bool) (elapsed : Nat) (s : State) :
    Host.Outcome State Fault Refusal :=
  let l := l.val
  let s := s.begin
  let cv := v.toInt
  let ci := i.toInt
  let isOver := ovrV || ovrI || clipped cv || clipped ci
  let mode := s.rd F.MTR_STAT_MODE_NOW l
  if !s.configured l then .next s
  else if alt then
    .next (if mode = 0 then s else (s.supply l true cv ci ovrV ovrI elapsed).settle)
  else
    let s := ((s.put F.MTR_STAT_OVR_V ovrV l).put F.MTR_STAT_OVR_I ovrI l).calSample l cv ci isOver
    if mode = 2 ∨ mode = 3 ∧ isOver then .next s.settle
    else
      let s := if mode = 0 then s else s.setTap l 0
      let s := s.supply l false cv ci ovrV ovrI elapsed
      .next (if isOver ∧ s.flag F.MTR_CFG_REC_EN l then s.setTap l 3 else s).settle

/-! ### Calibration (R298, R299, R454) -/

/-- Full scale of a channel: VFS or IFS. -/
def State.fullScale (s : State) (l chan : Nat) : Nat := s.mtrItem l chan

/-- Store an item of MTR_DATA. -/
def State.putItem (s : State) (l k : Nat) (v : Int) : State :=
  s.onMeter l (fun m => { m with items := vupd m.items k (fun _ => BitVec.ofInt 24 v) })

/-- METER_CALIBRATE (R298, R454). -/
def execMeterCalibrate (h : CmdHdr) (chan kind src nexp : Byte) (eRef : Word) (s : State) : Host.Outcome State Fault Refusal :=
  .next (s.dispatch { opcode := 0x3B, issuers := .t, tgt := .lane } h fun s c =>
    let l := h.tgt.toNat
    let ch := chan.toNat
    let st := s.laneState l
    let e := rndDiv (eRef.toInt * 4194304) (s.fullScale l (ch % 2))
    if s.flag F.SEC_STAT_SEALED then s.complete c stSealed
    else if 1 < ch ∨ 1 < kind.toNat ∨ 1 < src.toNat ∨ outside nexp.toNat 10 20 ∨ (src.toNat = 1 ∧ kind.toNat = 1) ∨
        (kind.toNat = 1 ∧ e.natAbs < 419430) then s.complete c stFieldRange
    else if (src.toNat = 1 ∧ (st = .warping ∨ st.inService)) ∨ s.rd F.MTR_STAT_MODE_NOW l ≠ 0 then s.complete c stLaneState
    else if (s.meter l).calib.isSome then s.complete c stResourceBusy
    else
      let s := s.onMeter l (fun m => { m with calib := some {
        chan := ch, kind := kind.toNat, internal := decide (src.toNat = 1), n := 2 ^ nexp.toNat, eRef := eRef.toInt, sum := 0,
        count := 0, skip := 3 } })
      (s.put F.MTR_STAT_CAL_BUSY true l).hold c (.calibrate l))

/-- The trim a calibration window gives (R299): an offset, or a gain, whose quotient is open where m equals OFS. -/
def State.calResult (s : State) (l : Nat) (c : Calib) : Int × Int × State :=
  let e := rndDiv (c.eRef * 4194304) (s.fullScale l c.chan)
  let m := rndDiv c.sum c.n
  if c.kind = 0 then (m - e, m, s)
  else
    let d := m - s.mtrItemS l (2 + 2 * c.chan)
    if d = 0 then
      let (k, s) := s.draw
      ((Config.freeValue k).toInt, m, s)
    else (rndQuot (e * 1048576) d - 1048576, m, s)

/-- CALIBRATED (R299): the calibration window of a lane has its n samples. -/
def execCalibrated (l : Lane) (s : State) : Host.Outcome State Fault Refusal :=
  let l := l.val
  let s := s.begin
  match (s.meter l).calib with
  | none => .next s
  | some c =>
    if c.count < c.n then .next s
    else
      let (x, m, s) := s.calResult l c
      if 32767 < x.natAbs then .next (s.calFail l 1 stFieldRange).softAdvance
      else
        let s := (s.onMeter l (fun m => { m with calib := none })).put F.MTR_STAT_CAL_BUSY false l
        let s := s.putItem l (2 + 2 * c.chan + c.kind) x
        let s := if c.kind = 1 then s.putItem l 12 ((s.bay (bayOfLane l)).die / 4) else s
        let s := (s.put F.MTR_STAT_CAL_EVT true l).record 0x0907 (srcLane l) (2 * c.chan + c.kind)
        .next (s.finish (fun w => match w with | .calibrate k => k == l | _ => false) stOk (leInt32 x ++ leInt32 m)).softAdvance

/-! ### METER_READ (R451) -/

/-- The tracker bytes 64 to 96 of a lane record: an interval without a sample has no values, so they are open (R296). -/
def State.trackerBytes (s : State) (l : Nat) : List Byte × State :=
  let m := s.meter l
  let tail := leBytes 8 m.trkStart ++ leBytes 1 (m.trkEmpty.toNat + 2 * m.trkOver.toNat)
  if m.trkEmpty then
    let (a, s) := s.draw
    let (b, s) := s.draw
    let (c, s) := s.draw
    (leBytes 8 (Config.freeValue a).toNat ++ leBytes 8 (Config.freeValue b).toNat ++ leBytes 8 (Config.freeValue c).toNat ++ tail, s)
  else
    (leInt32 m.vMin ++ leInt32 m.vMax ++ leInt32 m.iMin ++ leInt32 m.iMax ++ leInt32 m.pMin ++ leInt32 m.pMax ++ tail, s)

/-- The readings of a run of counters, 64 bits each. -/
def State.readings (s : State) (c n : Nat) : List Byte :=
  (List.range n).foldl (fun a k => a ++ leBytes 8 (s.reading (c + k))) []

/-- The states of a run of counters, one byte each. -/
def State.ctrStates (s : State) (c n : Nat) : List Byte :=
  (List.range n).foldl (fun a k => a ++ leBytes 1 (s.ctr (c + k)).code) []

/-- METER_READ (R451, R296). -/
def execMeterRead (h : CmdHdr) (opts : Byte) (s : State) : Host.Outcome State Fault Refusal :=
  let trk := opts.getLsbD 0
  let l := h.tgt.toNat
  .next (s.dispatch { opcode := 0x38, issuers := .any, tgt := .laneOrDevice, needBuf := true,
                      minLen := if l = 0x100 then 192 else if trk then 104 else 64 } h fun s c =>
    if !s.flag F.NVM_STAT_RECOVERED then s.complete c stNvmBusy
    else if 4 ≤ opts.toNat ∨ (l = 0x100 ∧ trk) then s.complete c stFieldRange
    else if l = 0x100 then
      (s.writeBuf c (s.readings 288 16 ++ s.ctrStates 288 16 ++ leBytes 8 s.tb)).complete c stOk
    else
      let body := s.readings (6 * l) 6 ++ s.ctrStates (6 * l) 6 ++
        leBytes 1 (s.rd F.MTR_STAT_UNMET l + 2 * (s.acct l).toNat) ++ zeros 1 ++ leBytes 8 s.tb
      if !trk then (s.writeBuf c body).complete c stOk
      else
        let (t, s) := s.trackerBytes l
        let s := s.writeBuf c (body ++ fitBytes 40 t)
        let mine := (s.lane l).owner == some c.tenant || s.roleOf c.tenant == 2
        (if opts.getLsbD 1 && mine then s.onMeter l (fun m => m.trackFrom s.tb) else s).complete c stOk)

/-! ### The reference (R279 to R282) -/

/-- REF_SETTLED falls: 0x0901, and the accumulators of every lane halt (R281). -/
def State.refFalls (s : State) (sel : Nat) : State :=
  if !s.flag F.GLB_REF_REF_SETTLED then s
  else
    let s := (s.put F.GLB_REF_REF_SETTLED false).put F.GLB_REF_REF_LOST_EVT true
    (s.record 0x0901 srcDevice (if sel = 1 then 2 else 1)).haltAll

/-- The window of a reference source in mV (Table 12-2). -/
def refInside (sel mv : Nat) : Bool :=
  match sel with
  | 0 => !outside mv 1225 1275
  | 1 => !outside mv 1200 1300
  | _ => false

/-- REF_CHECK (R280): a check of the selected reference, in mV. -/
def execRefCheck (mv : BitVec 12) (s : State) : Host.Outcome State Fault Refusal :=
  let s := s.begin
  let sel := s.rd F.GLB_REF_REF_SEL
  if !s.refOn then .next s
  else
    let inside := refInside sel mv.toNat
    let s := s.put F.GLB_REF_REF_IN_WIN inside
    if inside then
      let run := match s.refRun with | some k => min (k + 1) 200 | none => 0
      let s := { s with refRun := some run, refOut := 0 }
      if run = 200 ∧ !s.flag F.GLB_REF_REF_SETTLED then
        let s := { s.put F.GLB_REF_REF_SETTLED true with refSeen := true }
        .next (s.record 0x0902 srcDevice 0).startAll.settle
      else .next s
    else
      let out := min (s.refOut + 1) 4
      let s := { s with refOut := out }
      if !s.flag F.GLB_REF_REF_SETTLED then .next { s with refRun := none }
      else if out = 4 then .next ({ s.refFalls sel with refRun := none }).settle
      else .next s

/-- A write to GLB_REF (R282): a change of REF_SEL is accepted only with every lane in OFF, DETECT, NEGOTIATE or LOST; a new selection
has its 2 ms before it. -/
def State.writeRef (s : State) (w : Nat) : State :=
  let sel := F.GLB_REF_REF_SEL.of w
  let old := s.rd F.GLB_REF_REF_SEL
  let idle := (List.range 48).all (fun l => match s.laneState l with
    | .off | .detect | .negotiate | .lost => true
    | _ => false)
  let s := s.w1cBut .GLB_REF 0 w 0
  if s.flag F.SEC_STAT_SEALED ∨ sel = old ∨ sel = 3 then s
  else if !idle then (s.put F.GLB_REF_REF_REFUSED true).record 0x0909 srcDevice 1
  else
    let s := (s.refFalls old).wr F.GLB_REF_REF_SEL sel
    { s with refRun := if s.refOn then some 0 else none, refOut := 0 }

/-- GLB_REF (R282). -/
def execGlbRef (w : BusWrite) (s : State) : Host.Outcome State Fault Refusal := .next (s.gate w State.writeRef).settle

/-! ### Register writes (R291, R303) -/

/-- A lane state in which MODE may be written TEST (R291). -/
def LaneState.testable : LaneState → Bool
  | .off | .detect | .negotiate | .ready | .park | .faulted | .lost => true
  | _ => false

/-- A write to MTR_CFG (R291). -/
def State.writeMtrCfg (s : State) (l w : Nat) : State :=
  let mode := F.MTR_CFG_MODE.of w
  let old := s.rd F.MTR_CFG_MODE l
  let live := !s.flag F.SEC_STAT_SEALED && mode % 2 == 0 && mode != old
  let bad := live && mode == 2 && !(s.laneState l).testable
  let s := s.storeBut .MTR_CFG l w F.MTR_CFG_MODE.mask
  if !live then s
  else if bad then s.record 0x0909 (srcLane l) 2
  else
    let s := s.wr F.MTR_CFG_MODE mode l
    if mode = 2 then ((s.record 0x0905 (srcLane l) 1).haltAcct l).setTap l 2
    else (s.record 0x0905 (srcLane l) 0).startAcct l

/-- MTR_CFG (R291). -/
def execMtrCfg (l : Lane) (w : BusWrite) (s : State) : Host.Outcome State Fault Refusal :=
  .next (s.gate w (fun s v => s.writeMtrCfg l.val v)).settle

/-- A write to MTR_STAT: UNMET stays set while MODE reads TEST (R291). -/
def State.writeMtrStat (s : State) (l w : Nat) : State :=
  s.w1cBut .MTR_STAT l w (if s.rd F.MTR_CFG_MODE l = 2 then F.MTR_STAT_UNMET.mask else 0)

/-- Item `k` of MTR_DATA may take a word: RWL items only unsealed, an RO item never, each in its range (Table 12-11). -/
def State.itemTakes (s : State) (k w : Nat) : Bool :=
  let x := toS (w % 2 ^ 24) 24
  if k < 2 then !s.flag F.SEC_STAT_SEALED && decide (1000 ≤ w % 2 ^ 24)
  else if k < 6 then !s.flag F.SEC_STAT_SEALED && decide (x.natAbs ≤ 32767)
  else decide (k < 12)

/-- A write of an item of MTR_DATA. -/
def State.writeItem (s : State) (l k w : Nat) : State :=
  if s.itemTakes k w then s.putItem l k (toS (w % 2 ^ 24) 24) else s

/-- A write to MTR_DATA: the item MTR_SEL selects. -/
def State.writeMtrData (s : State) (l w : Nat) : State := s.writeItem l (s.rd F.MTR_SEL_IDX l) w

end Sys2Proof.Machine
end

