-- ==== Sys2Proof/Machine/Loops.lean ====
section
/-!
DEFINITION. Sys2Proof/Machine/Loops.lean: the arithmetic of the control loops: the compensators (R90, R91), the bounds and the selector
(R93, R94), the split (R86), the effective gains (R76), the phase update (R77), sample positions (R52, R53), and the coefficient sets
(R96, R97).
-/
namespace Sys2Proof.Machine

/-! ### Compensators (R90, R91) -/

/-- One addition of R90: the accumulator limited to 40 bits, and whether the limit changed it. -/
def accAdd (a : Int × Bool) (x : Int) : Int × Bool :=
  let t := a.1 + x
  (sat t 40, a.2 || sat t 40 != t)

/-- comp of R90 on words b0 to b3, a1 to a3, ESH at index 0 to 7: the output, the new state, and whether a sat changed acc. -/
def Comp.run (w : List Int) (c : Comp) (e : Int) : Int × Comp × Bool :=
  let k := fun n => w.getD n 0
  let x := sat (e * 2 ^ (k 7).toNat) 24
  let a := accAdd (0, false) (k 0 * x / 256)
  let a := accAdd a (k 1 * c.x1 / 256)
  let a := accAdd a (k 2 * c.x2 / 256)
  let a := accAdd a (k 3 * c.x3 / 256)
  let a := accAdd a (k 4 * c.y1 / 1048576)
  let a := accAdd a (k 5 * c.y2 / 1048576)
  let a := accAdd a (k 6 * c.y3 / 1048576)
  (sat (a.1 / 4096) 24, { c with x1 := x, x2 := c.x1, x3 := c.x2, acc := a.1 }, a.2)

/-- track of R91. -/
def Comp.track (c : Comp) (iApp : Int) : Comp :=
  let y := if sat (c.acc / 4096) 24 = iApp then c.acc else iApp * 4096
  { c with y1 := y, y2 := c.y1, y3 := c.y2 }

/-- An instance not in use tracks the applied reference (R91). -/
def Comp.idle (iApp : Int) : Comp := ⟨0, 0, 0, iApp * 4096, iApp * 4096, iApp * 4096, 0⟩

/-- The eight words of lane set 0 or 1. -/
def LaneSt.set (x : LaneSt) (k : Nat) : List Int := (x.coefW.toList.drop (8 * k)).take 8

/-- KP and KI of a lane (set 2). -/
def LaneSt.kp (x : LaneSt) : Int := vget x.coefW 16 0
def LaneSt.ki (x : LaneSt) : Int := vget x.coefW 17 0

/-! ### The selector (R94) -/

/-- The bounds of one rank. -/
structure Bounds where
  up : Option Int
  dn : Option Int
  deriving DecidableEq, Repr

/-- The interval being framed, its sources and the latest conflict. -/
structure Frame where
  lo : Int
  hi : Int
  loSrc : Nat
  hiSrc : Nat
  conflict : Nat
  deriving DecidableEq, Repr

/-- Apply the bounds of rank r, the upper before the lower. -/
def Frame.rank (f : Frame) (r : Nat) (b : Bounds) : Frame :=
  let f := match b.up with
    | some u =>
      if u < f.lo then { f with conflict := r, hi := f.lo, hiSrc := f.loSrc }
      else if u < f.hi then { f with hi := u, hiSrc := r } else f
    | none => f
  match b.dn with
  | some v =>
    if f.hi < v then { f with conflict := r, lo := f.hi, loSrc := f.hiSrc }
    else if f.lo < v then { f with lo := v, loSrc := r } else f
  | none => f

/-- Apply ranks from r on. -/
def Frame.ranks (f : Frame) : Nat → List Bounds → Frame
  | _, [] => f
  | r, b :: bs => (f.rank r b).ranks (r + 1) bs

/-- The interval that the seven ranks frame. -/
def frameOf (bs : List Bounds) : Frame := (Frame.mk (-8388607) 8388607 0 0 0).ranks 1 bs

/-- The applied reference and the governing rank for a target. -/
def Frame.select (f : Frame) (target : Int) : Int × Nat :=
  if f.hi < target then (f.hi, f.hiSrc) else if target < f.lo then (f.lo, f.loSrc) else (target, 0)

/-! ### Bounds (R93) -/

/-- Temperature of a lane in degrees C, where it has one: the higher of the module's and the AUX reading. -/
def State.laneTemp (s : State) (l : Nat) : Option Int :=
  let x := s.lane l
  let m := x.ka.bind (·.tmax)
  let a := if s.thermHeld l ∧ x.auxSeen then some x.auxT else none
  match m, a with
  | some p, some q => some (max p q)
  | some p, none => some p
  | none, q => q

/-- f of rank 2 (R93); none for a lane with neither reading. -/
def State.derate (s : State) (l : Nat) : Option Int :=
  (s.laneTemp l).map (fun t =>
    let a := s.rdS F.LN_IPH_T_START l
    let b := s.rdS F.LN_IPH_T_STOP l
    max 0 (min 256 ((b - t) * 256 / max 1 (b - a))))

/-- A host limit (Table 19-2) as an integer. -/
def LaneSt.limit (x : LaneSt) (k : Nat) : Option Int := (vget x.limits k none).map (fun n => (n : Int))

/-- V_hi and V_lo of rank 4. -/
def State.vHi (s : State) (l : Nat) : Option Int :=
  let x := s.lane l
  match x.ka.map (fun k => (k.vhi : Int) * 10), x.limit 5 with
  | some a, some b => some (min a b)
  | some a, none => some a
  | none, b => b
def State.vLo (s : State) (l : Nat) : Option Int :=
  let x := s.lane l
  match x.ka.map (fun k => (k.vlo : Int) * 10), x.limit 4 with
  | some a, some b => some (max a b)
  | some a, none => some a
  | none, b => b

/-- Ranks 1, 2, 3 of Table 4-5 for n driving phases. -/
def State.ranks13 (s : State) (l n : Nat) : List Bounds :=
  let r1 : Int := (s.rd F.LN_IPH_IPH_MAX l * n : Nat)
  [⟨some r1, some (-r1)⟩,
   match s.derate l with | some f => let u := r1 * f / 256; ⟨some u, some (-u)⟩ | none => ⟨none, none⟩,
   match (s.lane l).ka with | some k => ⟨some (k.ichg * 10), some (-(k.idis * 10 : Int))⟩ | none => ⟨none, none⟩]

/-- Ranks 5 and 6. -/
def State.ranks56 (s : State) (l : Nat) : List Bounds :=
  let x := s.lane l
  let pw := fun (k : Nat) (sg : Int) => if 1000 ≤ x.vMod then (x.limit k).map (fun p => sg * p * 1000000 / x.vMod) else none
  [⟨x.limit 0, (x.limit 1).map (fun v => -v)⟩, ⟨pw 2 1, pw 3 (-1)⟩]

/-- The seven ranks from the outputs of VHI, VLO, BHI, BLO where they are in use. -/
def State.bounds (s : State) (l n : Nat) (vhi vlo bhi blo : Option Int) : List Bounds :=
  s.ranks13 l n ++ [⟨vhi, vlo⟩] ++ s.ranks56 l ++ [⟨blo, bhi⟩]

/-- The segment of a lane is in bus-form. -/
def State.busForm (s : State) (g : Nat) : Bool := s.rd (F.BUS_STAT_MODE0.up (8 * g)) == 1

/-! ### Division among phases (R86) -/

/-- split of R86 over (phase, trim): the references in the list's order, the remainder on the first. -/
def splitRef (iRef : Int) (ps : List (Nat × Int)) : List (Nat × Int) :=
  let t := ps.foldl (fun a p => a + (1024 + p.2)) (0 : Int)
  let q := ps.map (fun p => (p.1, iRef * (1024 + p.2) / t))
  let sum := q.foldl (fun a p => a + p.2) (0 : Int)
  match q with
  | [] => []
  | p :: rest => (p.1, p.2 + (iRef - sum)) :: rest

/-- The driven phases of a lane in position order, with their trims. -/
def State.trims (s : State) (ps : List Nat) : List (Nat × Int) := ps.map (fun p => (p, s.rdS F.PH_LOOP_SHARE_TRIM p))

/-- Write phase references. -/
def State.putRefs (s : State) : List (Nat × Int) → State
  | [] => s
  | (p, r) :: t => (s.onPh p (fun x => { x with iref := r })).putRefs t

/-- The effective gains of a lane's phases (R76). -/
def State.formGains (s : State) (l : Nat) : State :=
  let x := s.lane l
  s.forEach (s.phasesOf l) (fun s p =>
    let r : Int := s.rd F.PH_LOOP_LRATIO p
    s.onPh p (fun y => { y with kp := x.kp * r / 16384, ki := x.ki * r / 16384 }))

/-- FF of R75. -/
def State.feedforward (s : State) (l : Nat) (vMod vBus : Int) : Nat :=
  if s.flag F.LN_LOOP_CFG_FF_EN l ∧ 1000 ≤ vBus then (max 0 (min 65535 (vMod * 65536 / vBus))).toNat else 0

/-! ### Sample positions (R52, R53) -/

/-- H: the high interval in counts of the duty in a phase's shadow (R125). -/
def PhaseSt.high (x : PhaseSt) : Nat := x.duty * x.per * 64 / 65536 / 64

/-- The sample instant of a position byte, where it is enabled (Table 3-1). -/
def instant (pos t h : Nat) : Option Nat :=
  let ofs := pos % 64
  let so := toS ofs 6
  let md := fun (x : Int) => (x % (max 1 t : Nat)).toNat
  match pos / 64 with
  | 0 => none
  | 1 => some (md (ofs * t / 64 : Nat))
  | 2 => some (md ((h / 2 : Nat) + 8 * so))
  | _ => some (md ((h : Int) + ((t - h) / 2 : Nat) + 8 * so))

/-- The sample instants of a phase in its present period. -/
def State.instants (s : State) (p : Nat) : List Nat :=
  let x := s.ph p
  [F.PH_SAMP_POS0, F.PH_SAMP_POS1, F.PH_SAMP_POS2, F.PH_SAMP_POS3].filterMap (fun f => instant (s.rd f p) x.per x.high)

/-- Two instants of a list lie less than 20 counts apart. -/
def tooClose : List Nat → Bool
  | [] => false
  | a :: t => t.any (fun b => max a b - min a b < 20) || tooClose t

/-! ### The phase update (R50, R54, R77 to R79, R84) -/

/-- The saturation events of one SAR sample. -/
def State.isnSample (s : State) (p : Nat) (c i : Int) : State :=
  let e := decide (c = -2048 ∨ c = 2047)
  let s := if e && !(s.ph p).atEnd then s.record 0x0201 p 0 else s
  s.onPh p (fun x => { x with i := i, atEnd := e })

/-- phase_update of R77. -/
def State.phaseLoop (s : State) (l p : Nat) (i : Int) : State :=
  let x := s.ph p
  let ff : Int := (s.lane l).ff
  let (dlo, dhi) := s.clamps l
  let e := sat (x.iref - i) 24
  let pt := x.kp * e
  let raw := x.acc + x.ki * e
  let acc := sat raw 40
  let d := (ff * 65536 + pt + acc) / 65536
  let back := fun (lim : Int) => lim * 65536 - ff * 65536 - pt
  let (d, acc, cl) := if dhi < d then (dhi, back dhi, true) else if d < dlo then (dlo, back dlo, true) else (d, acc, false)
  let s := if sat raw 40 ≠ raw then (s.put F.LN_LOOP_STAT_SAT_EVT true l).record 0x0305 p 0 else s
  (s.put F.PH_LOOP_DSAT cl p).onPh p (fun x => { x with
    acc := acc, duty := d.toNat, clamped := if cl then (if x.clamped < 256 then x.clamped + 1 else x.clamped) else 0 })

/-- The Shuttle holds a phase: it belongs to the sequence that has started (R79). -/
def State.shuttled (s : State) (p : Nat) : Bool :=
  match (s.bay (bayOfPhase p)).shuttle with
  | some r => r.phases.any (fun x => x.p == p)
  | none => false

/-- PHASE_UPDATE (R77): a current sample of a driving phase. -/
def execPhaseUpdate (p : Phase) (code : BitVec 12) (s : State) : Host.Outcome State Fault Refusal :=
  let p := p.val
  let s := s.begin
  match s.laneOf p with
  | none => .next s
  | some l =>
    if !(s.ph p).on ∨ s.flag F.GLB_PWM_STAT_FREEZE then .next s
    else
      let i := s.phaseCurrent code.toInt p
      let s := s.isnSample p code.toInt i
      let s := if tooClose (s.instants p) && !(s.ph p).deferred then
          (s.record 0x0202 p 0).onPh p (fun x => { x with deferred := true })
        else s
      .next (if s.shuttled p then s else s.phaseLoop l p i)

/-- DUTY_SATURATED (R84): a phase has been clamped for 256 consecutive updates. -/
def execDutySaturated (p : Phase) (s : State) : Host.Outcome State Fault Refusal :=
  let p := p.val
  let s := s.begin
  if (s.ph p).clamped = 256 then .next ((s.record 0x0303 p 0).onPh p (fun x => { x with clamped := 257 })) else .next s

/-- HEADROOM_LOST (R83): the headroom test has held for 16 consecutive lane updates. -/
def execHeadroomLost (l : Lane) (s : State) : Host.Outcome State Fault Refusal :=
  let l := l.val
  let s := s.begin
  if 16 ≤ (s.lane l).head ∧ !s.flag F.LN_LOOP_STAT_HEADROOM l then
    .next (((s.put F.LN_LOOP_STAT_HEADROOM true l).record 0x0304 (srcLane l) 0).setLaneLatch l 1).settle
  else .next s

/-! ### Coefficient sets (R96, R97) -/

/-- A coefficient word as written: 24-bit signed, but ESH which has four bits (Table 4-8). -/
def coefWord (ix w : Nat) : Int := if ix = 7 then ((w % 16 : Nat) : Int) else toS (w % 2 ^ 24) 24

/-- The place of word `ix` of set `set` among a lane's 18 words. -/
def coefAt (set ix : Nat) : Nat := 8 * set + ix

/-- A write to LN_COEF_DATA: the staging word at SET and INDEX. -/
def State.writeCoefData (s : State) (l w : Nat) : State :=
  let set := s.rd F.LN_COEF_SEL_SET l
  let ix := s.rd F.LN_COEF_SEL_INDEX l
  s.onLane l (fun x => { x with coefS := vupd x.coefS (coefAt set ix) (fun _ => coefWord ix w) })

/-- A write to LN_COEF_SEL; COMMIT marks the set pending, or is refused in WARPING (R97). -/
def State.writeCoefSel (s : State) (l w : Nat) : State :=
  let s := s.plainWrite .LN_COEF_SEL l w
  if !bitN w 8 then s
  else
    let set := s.rd F.LN_COEF_SEL_SET l
    if s.laneState l = .warping then (s.put F.LN_COEF_SEL_REFUSED true l).record 0x0307 (srcLane l) set
    else (s.put F.LN_COEF_SEL_PENDING true l).onLane l (fun x =>
      { x with coefPend := if x.coefPend.contains set then x.coefPend else x.coefPend ++ [set] })

/-- Copy a staging set into the working copy. -/
def copySet (st wk : Vector Int 18) (set : Nat) : Vector Int 18 :=
  (List.range (if set = 2 then 2 else 8)).foldl (fun v k => vupd v (coefAt set k) (fun _ => vget st (coefAt set k) 0)) wk

/-- The pending commits at the start of a lane update: applied, or refused in WARPING; they wait while the Shuttle holds the
lane (R97). -/
def State.applyCoefs (s : State) (l : Nat) : State :=
  let q := (s.lane l).coefPend
  if q.isEmpty ∨ s.held l then s
  else
    let s := (s.onLane l (fun x => { x with coefPend := [] })).put F.LN_COEF_SEL_PENDING false l
    q.foldl (fun s set =>
      if s.laneState l = .warping then (s.put F.LN_COEF_SEL_REFUSED true l).record 0x0307 (srcLane l) set
      else (s.onLane l (fun x => { x with coefW := copySet x.coefS x.coefW set })).record 0x0306 (srcLane l) set) s

/-- LN_COEF_COMMIT (R97): a write to a lane's LN_COEF_SEL. -/
def execLnCoefCommit (l : Lane) (w : BusWrite) (s : State) : Host.Outcome State Fault Refusal :=
  .next (s.gate w (fun s v => s.writeCoefSel l.val v))

/-- A write to BUS_COEF_DATA. -/
def State.writeBusCoefData (s : State) (w : Nat) : State :=
  let ix := s.rd F.BUS_COEF_SEL_INDEX
  s.onSeg (s.rd F.BUS_COEF_SEL_SEG) (fun x => { x with coefS := vupd x.coefS ix (fun _ => coefWord ix w) })

/-- A write to BUS_COEF_SEL. -/
def State.writeBusCoefSel (s : State) (w : Nat) : State :=
  let s := s.plainWrite .BUS_COEF_SEL 0 w
  if bitN w 8 then
    (s.put F.BUS_COEF_SEL_PENDING true).onSeg (s.rd F.BUS_COEF_SEL_SEG) (fun x => { x with coefPend := true })
  else s

/-- BUS_COEF_COMMIT (R99, BUS_COEF_SEL): a write to BUS_COEF_SEL. -/
def execBusCoefCommit (w : BusWrite) (s : State) : Host.Outcome State Fault Refusal :=
  .next (s.gate w (fun s v => s.writeBusCoefSel v))

end Sys2Proof.Machine
end

