-- ==== Sys2Proof/Machine/Segments.lean ====
section
/-!
DEFINITION. Sys2Proof/Machine/Segments.lean: bus segments and the Treadle port (chapter 10) and the segment voltage loop (R98 to R101):
modes, targets and their holders, sharing, Treadle frames, alerts, and the segment commands of chapter 19.
-/
namespace Sys2Proof.Machine

/-! ### Fields of a segment in BUS_STAT -/

/-- POLICY and HOLDER of a segment. -/
def State.policyOf (s : State) (g : Nat) : Nat := s.rd (F.BUS_STAT_POLICY0.up (8 * g))
def State.holder (s : State) (g : Nat) : Nat := s.rd (F.BUS_STAT_HOLDER0.up (8 * g))

/-- Write HOLDER, and the Treadle's HOLD bit with it. -/
def State.setHolder (s : State) (g n : Nat) : State :=
  (s.wr (F.BUS_STAT_HOLDER0.up (8 * g)) n).putBit F.TRD_STAT_HOLD g (n == 1)

/-- The configured lanes of a segment. -/
def State.lanesOfSeg (s : State) (g : Nat) : List Nat := (List.range 48).filter (fun l => s.configured l && s.segOf l == g)

/-- A claim of a segment's target (R222). -/
def State.claimSeg (s : State) (g who : Nat) : State :=
  if s.holder g = 0 then (s.setHolder g who).record 0x0705 (srcSeg g) who else s

/-- The holder of a segment's target is released (R221, R239, R240). -/
def State.releaseSeg (s : State) (g : Nat) : State :=
  let k := s.holder g
  if k = 0 then s
  else
    let s := (s.setHolder g 0).record 0x0706 (srcSeg g) k
    if k = 1 then s.alert g 3 else s

/-! ### The segment voltage loop (R99, R220, R221) -/

/-- Sum of (x · v_mod) div v_bus over lanes. -/
def State.busSum (s : State) (ls : List Nat) (vBus : Int) (f : Nat → Int) : Int :=
  ls.foldl (fun a l => a + f l * (s.lane l).vMod / vBus) 0

/-- I_bus of R234. -/
def State.busCurrent (s : State) (g : Nat) : Int :=
  let v := (s.seg g).vBus
  if v < 1000 then 0 else sat (-(s.busSum (s.lanesOfSeg g) v (fun l => (s.lane l).iSum))) 24

/-- The lanes of a segment in a RUN state. -/
def State.runLanes (s : State) (g : Nat) : List Nat := (s.lanesOfSeg g).filter (fun l => (s.laneState l).running)

/-- ISEG and CAP_LIM of a segment. -/
def State.showSeg (s : State) (g : Nat) (i : Int) (lim : Bool) : State :=
  (s.wrS F.BUS_LOOP_STAT_ISEG i g).put F.BUS_LOOP_STAT_CAP_LIM lim g

/-- Bus-form takes effect (R220). -/
def State.enterForm (s : State) (g : Nat) : State :=
  let v := (s.seg g).vBus
  let i0 := if v < 1000 then 0 else -(s.busSum (s.runLanes g) v (fun l => s.rdS F.LN_LOOP_STAT_IREF l))
  let i0 := sat i0 24
  let s := s.onSeg g (fun x => { x with
    vTgt := v, cmdV := v.toNat, slew := 10, droop := 0, plim := 0, iApp := i0, comp := Comp.idle i0, cap := 0 })
  (s.wr (F.BUS_STAT_MODE0.up (8 * g)) 1).showSeg g i0 false

/-- Bus-follow takes effect (R221). -/
def State.enterFollow (s : State) (g : Nat) : State :=
  let s := s.forEach (s.lanesOfSeg g) (fun s l => s.onLane l (fun x => { x with target := some ⟨0, x.segTgt⟩ }))
  let s := ((s.clearSeg g).wr (F.BUS_STAT_MODE0.up (8 * g)) 0).showSeg g 0 false
  (s.onSeg g (fun x => { x with cap := 0, vTgt := 0 })).releaseSeg g

/-- segment_update of R99. -/
def State.segLoop (s : State) (g : Nat) : State :=
  let x := s.seg g
  let cmd : Int := x.cmdV
  let vt := if x.slew = 0 then cmd else if x.vTgt < cmd then min cmd (x.vTgt + x.slew) else max cmd (x.vTgt - x.slew)
  let vref := vt - (x.droop * x.iApp) / 100000
  let (raw, c, hit) := x.comp.run x.coefW.toList (sat (vref - x.vBus) 24)
  let run := s.runLanes g
  let on := decide (1000 ≤ x.vBus)
  let dis := if on then s.busSum (run.filter (fun l => (s.lane l).lo < 0)) x.vBus (fun l => -(s.lane l).lo) else 0
  let ab := if on then s.busSum (run.filter (fun l => 0 < (s.lane l).hi)) x.vBus (fun l => (s.lane l).hi) else 0
  let ip : Int := if on then (x.plim * 1000000 : Nat) / x.vBus else 0
  let hi := if x.plim = 0 then dis else min dis ip
  let lo := if x.plim = 0 then -ab else max (-ab) (-ip)
  let i := sat (max lo (min hi raw)) 24
  let lim := decide (i ≠ raw)
  let s := if hit then s.record 0x0305 (srcSeg g) 0 else s
  let s := s.onSeg g (fun y => { y with
    vTgt := vt, comp := c.track i, iApp := i, cap := if lim then (if y.cap < 1000 then y.cap + 1 else y.cap) else 0 })
  s.showSeg g i lim

/-- SEGMENT_UPDATE (R98, R99, R219): a scheduled update of a segment; a waiting mode change takes effect in it. -/
def execSegmentUpdate (sg : Seg) (s : State) : Host.Outcome State Fault Refusal :=
  let g := sg.val
  let s := s.begin
  if s.flag F.GLB_PWM_STAT_FREEZE then .next s
  else
    let s := if (s.seg g).coefPend then
        let s := s.onSeg g (fun x => { x with coefW := x.coefS, coefPend := false })
        let s := s.put F.BUS_COEF_SEL_PENDING (s.segs.toList.any (·.coefPend))
        s.record 0x0306 (srcSeg g) 1
      else s
    let s := s.onSeg g (fun x => { x with iBus := s.busCurrent g })
    match (s.seg g).pend with
    | some form =>
      let s := s.onSeg g (fun x => { x with pend := none })
      let s := (if form then s.enterForm g else s.enterFollow g).record 0x0701 (srcSeg g) form.toNat
      .next ((s.finish (fun w => match w with | .segMode k => k == g | _ => false) stOk).settle)
    | none => if s.busForm g then .next (s.segLoop g).settle else .next s

/-- SEG_CAPACITY (R100): CAP_LIM has read 1 for 1,000 consecutive updates. -/
def execSegCapacity (sg : Seg) (s : State) : Host.Outcome State Fault Refusal :=
  let g := sg.val
  let s := s.begin
  if (s.seg g).cap = 1000 then
    .next ((((s.onSeg g (fun x => { x with cap := 1001 })).put F.BUS_LOOP_STAT_CAP_EVT true g).record 0x0308 (srcSeg g) 0).alert g 0)
  else .next s

/-- The target R101 gives a lane of a segment in bus-form. -/
def State.segTarget (s : State) (l g : Nat) : Int :=
  let x := s.lane l
  let y := s.seg g
  if x.vMod < 1000 then 0 else -((x.w * y.iApp * y.vBus) / (x.vMod * 65536))

/-! ### Sharing (R225 to R228) -/

/-- A lane of a segment in its sharing set (R225). -/
def State.inShare (s : State) (l : Nat) : Bool :=
  let st := s.laneState l
  (st.inService || st == .park && s.flag F.LN_STATE_PARK_SRC l) && !s.flag F.LN_STATE_FB_ACTIVE l && !s.flag F.LN_STATE_SUP_HOLD l

/-- The bus-side capacity of a lane (R225). -/
def State.capacity (s : State) (l : Nat) (iSeg vBus : Int) : Int :=
  let x := s.lane l
  if 0 ≤ iSeg then max 0 (-x.lo) * x.vMod / vBus else max 0 x.hi * x.vMod / vBus

/-- The SOC of a lane is not trusted (R229). -/
def State.suspect (s : State) (l : Nat) : Bool :=
  if l < 32 then s.rdBit F.BUS_SOC_LO_SUSPECT l else s.rdBit F.BUS_SOC_HI_SUSPECT (l - 32)

/-- The trusted SOC of a lane. -/
def State.trusted (s : State) (l : Nat) : Option Nat := if s.suspect l then none else (s.lane l).ka.bind (·.soc)

/-- The raw weight of a lane with capacity a (R226). -/
def State.rawWeight (s : State) (g l : Nat) (a iSeg : Int) (avg : Option Int) : Int :=
  match s.policyOf g with
  | 0 => a
  | 1 =>
    let m : Int := match s.trusted l, avg with
      | some c, some v =>
        let dir : Int := if 0 ≤ iSeg then 1 else -1
        max 0 (1024 + (dir * s.rd F.BUS_SOC_SOC_GAIN * (c - v)) / 64)
      | _, _ => 1024
    a * m / 1024
  | _ => (s.lane l).h

/-- A lane in the procedure of R227. -/
structure ShareLane where
  l : Nat
  a : Int
  r : Int
  w : Int
  fixed : Bool
  deriving DecidableEq, Repr

/-- The passes of share (R227): caps until a pass caps nothing, then the rest. -/
def sharePass (d : Int) : Nat → Int → List ShareLane → List ShareLane
  | 0, _, ls => ls
  | n + 1, rem, ls =>
    let sr := ls.foldl (fun a x => if x.fixed then a else a + x.r) (0 : Int)
    let caps := fun (x : ShareLane) => !x.fixed && decide (0 < sr) && decide (0 < d) && decide (x.a * sr < rem * x.r)
    if ls.any caps then
      sharePass d n (ls.foldl (fun q x => if caps x then q - x.a else q) rem)
        (ls.map (fun x => if caps x then { x with fixed := true, w := x.a * 65536 / d } else x))
    else
      ls.map (fun x =>
        if x.fixed ∨ sr ≤ 0 then x
        else { x with w := if 0 < d then x.r * 65536 * rem / (sr * d) else x.r * 65536 / sr })

/-- The largest positive weight takes the rounding remainder, ties to the lowest index. -/
def shareRest (ls : List ShareLane) : List ShareLane :=
  let tot := ls.foldl (fun a x => a + x.w) (0 : Int)
  let k := ls.foldl (fun (b : Option ShareLane) x =>
    if 0 < x.w then (match b with | none => some x | some y => if y.w < x.w then some x else b) else b) none
  match k with
  | none => ls
  | some y => ls.map (fun x => if x.l = y.l then { x with w := x.w + (65536 - tot) } else x)

/-- The weights of a segment's lanes (R227). -/
def State.shares (s : State) (g : Nat) : List ShareLane :=
  let y := s.seg g
  let lanes := s.lanesOfSeg g
  let set := lanes.filter (fun l => s.inShare l && decide (1000 ≤ y.vBus))
  let socs := (set.filterMap s.trusted)
  let avg : Option Int := if socs.isEmpty then none else some ((socs.foldl (· + ·) 0 / socs.length : Nat) : Int)
  let ls := lanes.map (fun l =>
    if set.contains l then
      let a := s.capacity l y.iApp y.vBus
      (⟨l, a, s.rawWeight g l a y.iApp avg, 0, false⟩ : ShareLane)
    else ⟨l, 0, 0, 0, false⟩)
  let sa := ls.foldl (fun a x => a + x.a) (0 : Int)
  let d := min (y.iApp.natAbs : Int) sa
  shareRest (sharePass d 49 d ls)

/-- SHARING_COMPUTE (R228): the sharing engine computes a segment's weights. -/
def execSharingCompute (sg : Seg) (s : State) : Host.Outcome State Fault Refusal :=
  let s := s.begin
  .next ((s.shares sg.val).foldl (fun s x => s.onLane x.l (fun y => { y with w := x.w.toNat })) s)

/-! ### The Treadle port (R231 to R240) -/

/-- The port operates: PORT_EN, not in Dormant nor on the way there (R406), and PFI has not fallen (R240). -/
def State.trdLive (s : State) : Bool :=
  s.flag F.TRD_CFG_PORT_EN && s.power.stage != .entering && s.power.stage != .dormant && !s.flag F.GLB_PF_PFI_LIVE && !s.flag F.GLB_PF_PF_STATE

/-- A command frame without its parity bit, and with the bit that makes bits 30 to 0 odd (Table 10-2). -/
def trdFrame (g cmd payload : Nat) (ok : Bool) : Nat :=
  let body := g * 2 ^ 29 + cmd * 2 ^ 25 + payload * 2
  let par := (popN body 32 + 1) % 2
  body + (if ok then par else 1 - par)

/-- Answer a frame. -/
def State.trdAnswer (s : State) (status data : Nat) : State :=
  let s := s.emit (.treadle status data)
  if status = 0 then s.bump F.TRD_CNT_OK_CNT else s.put F.TRD_STAT_REFUSE_EVT true

/-- A command frame arrives (R236): the status in the order of Table 10-4 for a SET command (`set`), whether it claims (SET_VBUS),
whether its value is in range, what it does; a GET answers `data`. -/
def State.trdFrameIn (s : State) (g cmd payload : Nat) (ok : Bool) (f : State → State) : State :=
  let s := s.begin
  if !s.trdLive then s
  else
    let s := s.wr F.TRD_LAST_FRAME (trdFrame g cmd payload ok)
    if !ok then ((s.put F.TRD_STAT_PARITY_EVT true).bump F.TRD_CNT_PAR_CNT |>.record 0x0703 0x140 0).trdAnswer 1 0
    else f s

/-- A refused frame that is recorded as 0x0704 (Table 10-4). -/
def State.trdRefuse (s : State) (g status : Nat) : State := (s.record 0x0704 (srcSeg g) status).trdAnswer status 0

/-- A SET frame (R224, R236, R237). -/
def State.trdSet (s : State) (g cmd payload : Nat) (ok inRange : Bool) (f : SegSt → SegSt) : State :=
  s.trdFrameIn g cmd payload ok fun s =>
    if !s.rdBit F.TRD_CFG_SEG_EN g then s.trdRefuse g 6
    else if !s.busForm g then s.trdRefuse g 5
    else if s.holder g = 2 then (s.record 0x0114 (srcSeg g) 0).trdAnswer 4 0
    else if cmd ≠ 1 ∧ s.holder g = 0 then s.trdRefuse g 7
    else if !inRange then s.trdRefuse g 3
    else ((s.claimSeg g 1).onSeg g f).trdAnswer 0 payload

/-- A bus voltage lies in the segment's window (Table 10-1). -/
def State.inWindow (s : State) (g mv : Nat) : Bool :=
  decide (s.rd F.BUS_WIN_LO_VMIN g ≤ mv) && decide (mv ≤ s.rd F.BUS_WIN_HI_VMAX g)

/-- SET_VBUS (R237). -/
def execSetVbus (sg : Seg) (value : BitVec 24) (parityOk : Bool) (s : State) : Host.Outcome State Fault Refusal :=
  let mv := 5 * value.toNat
  .next (s.trdSet sg.val 1 value.toNat parityOk (s.inWindow sg.val mv) (fun x => { x with cmdV := mv }))

/-- SET_SLEW (R237). -/
def execSetSlew (sg : Seg) (value : BitVec 24) (parityOk : Bool) (s : State) : Host.Outcome State Fault Refusal :=
  let n := value.toNat
  .next (s.trdSet sg.val 2 n parityOk (decide (n ≤ 10000)) (fun x => { x with slew := n }))

/-- SET_DROOP (R237). -/
def execSetDroop (sg : Seg) (value : BitVec 24) (parityOk : Bool) (s : State) : Host.Outcome State Fault Refusal :=
  let n := value.toNat
  .next (s.trdSet sg.val 3 n parityOk (decide (n ≤ 65535)) (fun x => { x with droop := n }))

/-- SET_PLIMIT (R237). -/
def execSetPlimit (sg : Seg) (value : BitVec 24) (parityOk : Bool) (s : State) : Host.Outcome State Fault Refusal :=
  let n := value.toNat
  .next (s.trdSet sg.val 4 n parityOk (decide (n ≤ 1000000)) (fun x => { x with plim := n }))

/-- The status word of Table 10-5. -/
def State.trdStatus (s : State) (g : Nat) : Nat :=
  (s.busForm g).toNat + 2 * s.holder g + 8 * s.policyOf g + 32 * (s.flag F.BUS_LOOP_STAT_CAP_LIM g).toNat +
    64 * (s.flag F.BUS_CMPTHR_BUSOV_LIVE g).toNat + 128 * (s.flag F.BUS_CMPTHR_BUSUV_LIVE g).toNat +
    256 * ((s.seg g).alerts % 32) + 8192 * (s.runLanes g).length

/-- GET_STATUS (R239): the status word; the pending-alert byte clears. -/
def execGetStatus (sg : Seg) (value : BitVec 24) (parityOk : Bool) (s : State) : Host.Outcome State Fault Refusal :=
  .next (s.trdFrameIn sg.val 8 value.toNat parityOk fun s =>
    (s.trdAnswer 0 (s.trdStatus sg.val)).onSeg sg.val (fun x => { x with alerts := 0 }))

/-- GET_IBUS (R234). -/
def execGetIbus (sg : Seg) (value : BitVec 24) (parityOk : Bool) (s : State) : Host.Outcome State Fault Refusal :=
  .next (s.trdFrameIn sg.val 9 value.toNat parityOk fun s => s.trdAnswer 0 (ofS (s.seg sg.val).iBus 24))

/-- TRD_UNKNOWN (R234): a frame with a code not in Table 10-3. -/
def execTrdUnknown (sg : Seg) (code : BitVec 4) (value : BitVec 24) (parityOk : Bool) (s : State) :
    Host.Outcome State Fault Refusal :=
  if code.toNat ∈ [1, 2, 3, 4, 8, 9] then .next s.begin
  else .next (s.trdFrameIn sg.val code.toNat value.toNat parityOk fun s => s.trdRefuse sg.val 2)

/-- TRD_ABORT (R238): a gap of more than 10 us in a command frame, or in a response. -/
def execTrdAbort (response : Bool) (s : State) : Host.Outcome State Fault Refusal :=
  let s := s.begin
  if !s.trdLive then .next s
  else .next (((s.bump F.TRD_CNT_ABORTS).put F.TRD_STAT_ABORT_EVT true).record 0x0702 0x140 response.toNat)

/-- A write to TRD_CFG: clearing SEG_EN releases a Treadle hold (R240); CNT_CLR clears TRD_CNT. -/
def State.writeTrdCfg (s : State) (w : Nat) : State :=
  let s := s.plainWrite .TRD_CFG 0 w
  let s := s.forEach (List.range 4) (fun s g =>
    if s.holder g = 1 ∧ !s.rdBit F.TRD_CFG_SEG_EN g then s.releaseSeg g else s)
  if bitN w 31 then s.setReg .TRD_CNT 0 0 else s

/-- TRD_CFG (R239, R240). -/
def execTrdCfg (w : BusWrite) (s : State) : Host.Outcome State Fault Refusal :=
  .next (s.gate w (fun s v => s.writeTrdCfg v))

/-- TRD_CNT_CLR (R243): a write of TRD_CFG with CNT_CLR. -/
def execTrdCntClr (w : BusWrite) (s : State) : Host.Outcome State Fault Refusal :=
  .next (s.gate w (fun s v => s.writeTrdCfg (v ||| 2 ^ 31)))

/-! ### Segment commands (R449) -/

/-- SEGMENT_SET_MODE (R219). -/
def execSegmentSetMode (h : CmdHdr) (mode : Byte) (s : State) : Host.Outcome State Fault Refusal :=
  .next (s.dispatch { opcode := 0x28, issuers := .m, tgt := .segment } h fun s c =>
    let g := h.tgt.toNat
    let form := mode.toNat == 1
    if 1 < mode.toNat then s.complete c stFieldRange
    else if form && ((s.seg g).coefW.toList.take 4).all (· == 0) then s.complete c stNotPermitted
    else if form = s.busForm g ∧ (s.seg g).pend.isNone then s.complete c stOk
    else (s.onSeg g (fun x => { x with pend := some form })).hold c (.segMode g))

/-- SEGMENT_SET_TARGET (R222 to R224). -/
def execSegmentSetTarget (h : CmdHdr) (mask : Byte) (cmdV slew droop plim : Word) (s : State) : Host.Outcome State Fault Refusal :=
  .next (s.dispatch { opcode := 0x29, issuers := .m, tgt := .segment } h fun s c =>
    let g := h.tgt.toNat
    let m := mask.toNat
    let on := fun k => bitN m k
    let bad := m == 0 || decide (15 < m) || on 0 && !s.inWindow g cmdV.toNat || on 1 && decide (10000 < slew.toNat) ||
      on 2 && decide (65535 < droop.toNat) || on 3 && decide (1000000 < plim.toNat)
    if bad then s.complete c stFieldRange
    else if !s.busForm g then s.complete c stNotPermitted
    else if s.holder g = 1 then (s.record 0x0114 (srcSeg g) 0).complete c stResourceBusy
    else
      let s := (s.claimSeg g 2).onSeg g (fun x => { x with
        cmdV := if on 0 then cmdV.toNat else x.cmdV, slew := if on 1 then slew.toNat else x.slew,
        droop := if on 2 then droop.toNat else x.droop, plim := if on 3 then plim.toNat else x.plim })
      s.complete c stOk (leBytes 1 (s.holder g)))

/-- SEGMENT_SET_SHARING (R230). -/
def execSegmentSetSharing (h : CmdHdr) (policy : Byte) (buf : Dma) (s : State) : Host.Outcome State Fault Refusal :=
  .next (s.dispatch { opcode := 0x2A, issuers := .m, tgt := .segment } h fun s c =>
    let g := h.tgt.toNat
    let p := policy.toNat
    if 2 < p ∨ p = 2 ∧ (c.dptr = 0 ∨ c.dlen < 48) then s.complete c stFieldRange
    else if p ≠ 2 then (s.wr (F.BUS_STAT_POLICY0.up (8 * g)) p).complete c stOk
    else s.withBuf c buf fun s b =>
      let s := s.forEach (s.lanesOfSeg g) (fun s l => s.onLane l (fun x => { x with h := leAt b l 1 }))
      (s.wr (F.BUS_STAT_POLICY0.up (8 * g)) p).complete c stOk)

end Sys2Proof.Machine
end

