-- ==== Sys2Proof/Machine/Shuttle.lean ====
section
/-!
DEFINITION. Sys2Proof/Machine/Shuttle.lean: the Shuttle (chapter 5): the quantities of R108, the plan of R109, the offer of R105, the
hand-back of R112, aborts of R113, and the completion bound of R116.
-/
namespace Sys2Proof.Machine

/-! ### The plan (R108, R109) -/

/-- in_window(k, pos, t) of R109 at count `t`; `tonff` holds TOFF_MIN. -/
def ShRun.inWindow (r : ShRun) (x : ShPhase) (t : Nat) : Bool :=
  let pos := (x.c + t) % max 1 r.t
  if r.up then
    let lo := if t < r.t - x.c ∧ x.b ≤ x.c ∧ x.c < x.b + r.tonff then x.b + r.tonff else x.b
    decide (lo ≤ pos) && decide (pos < r.hMax)
  else decide (r.hMin ≤ pos) && decide (pos < x.b)

/-- One count of the plan: each phase inside its window and below its cap accrues; the charge added and the new counts. -/
def ShRun.count (r : ShRun) (t : Nat) : List (ShPhase × Int) → Int × List (ShPhase × Int)
  | [] => (0, [])
  | (x, got) :: rest =>
    let (d, l) := r.count t rest
    if r.inWindow x t ∧ got < x.lim then (d + x.g, (x, got + x.g) :: l) else (d, (x, got) :: l)

/-- shuttle_plan of R109 from count `t`: the landing count, or none when it reaches the limit. -/
def ShRun.plan (r : ShRun) (q : Int) (limit : Nat) : Nat → Nat → Int → List (ShPhase × Int) → Option Nat
  | 0, _, _, _ => none
  | n + 1, t, tot, ps =>
    if q ≤ tot then some t
    else if limit ≤ t then none
    else
      let (d, ps) := r.count t ps
      r.plan q limit n (t + 1) (tot + d) ps

/-- The plan's sum over the first `n` counts from `t` on (R113). -/
def ShRun.sumTo (r : ShRun) : Nat → Nat → Int → List (ShPhase × Int) → Int
  | 0, _, tot, _ => tot
  | n + 1, t, tot, ps =>
    let (d, ps) := r.count t ps
    r.sumTo n (t + 1) (tot + d) ps

/-- The phases of a run with nothing accrued. -/
def ShRun.start (r : ShRun) : List (ShPhase × Int) := r.phases.map (fun x => (x, 0))

/-- I_now at count `ta` (R113). -/
def ShRun.iNow (r : ShRun) (ta : Nat) : Int :=
  let q := r.sumTo ta 0 0 r.start / 65536
  if r.up then r.iStart + q else r.iStart - q

/-! ### The offer (R105 to R110) -/

/-- The carrier counter of a phase at a timebase instant, reduced modulo the present period (R107, R123). -/
def State.carrierAt (s : State) (p at' t : Nat) : Nat :=
  (((2 * ((at' : Int) - s.pwm.refTb) - (s.ph p).ofs) % (max 1 t : Nat))).toNat

/-- V_L of R108. -/
def shVl (up : Bool) (dlo dhi vBus vMod : Int) : Int :=
  if up then dhi * vBus / 65536 - vMod else vMod - (dlo * vBus + 65535) / 65536

/-- The quantities of one phase (R108). -/
def State.shPhase (s : State) (l : Nat) (t at' : Nat) (ovs : Int) (k : Nat × Int) : ShPhase :=
  let x := s.ph k.1
  let ind : Int := s.rd F.LN_SHTL_CFG_LNOM l * s.rd F.PH_LOOP_LRATIO k.1 / 16384
  { p := k.1, c := s.carrierAt k.1 at' t, b := x.duty * t / 65536, g := 5 * (s.lane l).vBus * 65536 / max 1 (2 * ind),
    lim := (k.2.natAbs + ovs) * 65536, accEntry := x.acc, irefOld := x.iref }

/-- Condition 3 of R115 fails: an LRATIO outside 0x3800 to 0x4800, or one or LNOM not last written by Warping or adaptation. -/
def State.shUnsure (s : State) (l : Nat) (ps : List Nat) : Bool :=
  !(s.lane l).surveyed || ps.any (fun p => outside (s.rd F.PH_LOOP_LRATIO p) 0x3800 0x4800 || !(s.ph p).surveyed)

/-- The starting current of R105. -/
def State.shStart (s : State) (l : Nat) : Int := (s.lane l).iNow.getD (s.rdS F.LN_LOOP_STAT_IREF l)

/-- A step the lane engine offers (R105): the answer is the state, and whether the step was granted. -/
def State.offer (s : State) (l : Nat) (iSel : Int) : State × Bool :=
  let b := bayOfLane l
  let i0 := s.shStart l
  let dI := iSel - i0
  let up := decide (0 < dI)
  let c := s.clamps l
  let x := s.lane l
  let vl := shVl up c.1 c.2 x.vBus x.vMod
  let s := s.onLane l (fun x => { x with iNow := none })
  if !s.flag F.BAY_SHTL_CFG_EN b ∨ dI.natAbs < s.rd F.BAY_SHTL_CFG_THR b ∨ vl ≤ 0 then (s, false)
  else if (s.bay b).shuttle.isSome then (s.bump F.BAY_SHTL_STAT_BUSY_CNT 1 b, false)
  else
    let t := s.rd F.GLB_PWM_STAT_TCUR
    let at' := s.tb + 64
    let ps := s.drivenOf l
    let shares := splitRef dI (s.trims ps)
    let r : ShRun := {
      lane := l, iStart := i0, iLand := iSel, up := up, t := t, hMax := (c.2 * t / 65536).toNat,
      hMin := ((c.1 * t + 65535) / 65536).toNat, tonff := s.rd F.BAY_DLIM_TOFF_MIN b, tL := 0, tc := 0, tb := 0, overWhy := none,
      t0 := at', started := false,
      phases := shares.map (s.shPhase l t at' (100 * s.rd F.BAY_SHTL_CFG_OVS b)), abort := none }
    let limit := 512 * s.rd F.BAY_SHTL_CFG_TMAX b
    match r.plan (dI.natAbs * 65536) limit (limit + 1) 0 0 r.start with
    | none => ((s.record 0x0311 (srcLane l) 0).put F.BAY_SHTL_STAT_LIMIT_EVT true b, false)
    | some tL =>
      let n := max 1 ps.length
      let tmin := (2 * s.rd F.LN_SHTL_CFG_LNOM l * dI.natAbs) / (5 * n * vl.toNat)
      let bound := max (13 * tmin / 10) (tmin + 800)
      let tc := 128 + tL
      let why := (decide (600 < t / n)).toNat + 2 * (s.flag F.GLB_PWM_SS_ACTIVE).toNat + 4 * (s.shUnsure l ps).toNat
      let r := { r with tL := tL, tc := tc, tb := bound, overWhy := if bound < tc then some why else none }
      let s := s.onBay b (fun y => { y with shuttle := some r })
      let s := (s.put F.BAY_SHTL_STAT_ACTIVE true b).wr F.BAY_SHTL_STAT_SLOT (slotOf l) b
      (s.onLane l (fun x => { x with xBad := true }), true)

/-! ### During a sequence (R113) -/

/-- The tests of R113 on the selection of a lane update while the lane is held. -/
def State.shCheck (s : State) (l : Nat) (iSel lo hi : Int) : State :=
  match (s.bay (bayOfLane l)).shuttle with
  | none => s
  | some r =>
    if r.lane ≠ l ∨ r.abort.isSome ∨ iSel = r.iLand then s
    else if r.iLand < lo ∨ hi < r.iLand then s.abortShuttle l 1 19
    else
      let s' := s.abortShuttle l 2 19
      let ta := match (s'.bay (bayOfLane l)).shuttle with | some q => (match q.abort with | some a => a.1 | none => 0) | none => 0
      let d := iSel - r.iNow ta
      if (if r.up then d < 0 else 0 < d) ∧ s.rd F.BAY_SHTL_CFG_THR (bayOfLane l) ≤ d.natAbs then s' else s

/-! ### Hand-back (R112) -/

/-- The preload of R112 of one phase, and whether a sat changed it. -/
def shPreload (x : ShPhase) (di rpath vBus : Int) : Int × Bool :=
  if vBus < 1000 then (x.accEntry, false)
  else
    let raw := x.accEntry + di * rpath * 4294967296 / (1000000 * vBus)
    (sat raw 40, sat raw 40 != raw)

/-- Hand back one phase: its reference, its integrator, its duty. -/
def State.handPhase (s : State) (l : Nat) (r : ShRun) (k : Nat × Int) : State :=
  match r.phases.find? (fun x => x.p == k.1) with
  | none => s.onPh k.1 (fun y => { y with iref := k.2 })
  | some x =>
    let (acc, hit) := shPreload x (k.2 - x.irefOld) (s.rd F.LN_SHTL_CFG_RPATH l) (s.lane l).vBus
    let s := if hit then (s.put F.LN_LOOP_STAT_SAT_EVT true l).record 0x0305 k.1 0 else s
    let d := s.dutyOf l acc
    s.onPh k.1 (fun y => { y with iref := k.2, acc := acc, duty := d })

/-- The Shuttle hands a lane back at a current (R112). -/
def State.handBack (s : State) (b : Nat) (r : ShRun) (i : Int) : State :=
  let s := (s.onBay b (fun y => { y with shuttle := none })).put F.BAY_SHTL_STAT_ACTIVE false b
  (splitRef i (s.trims (s.drivenOf r.lane))).foldl (fun s k => s.handPhase r.lane r k) s

/-- The pending abort comes before the landing. -/
def ShRun.aborts (r : ShRun) : Option (Nat × Nat) :=
  match r.abort with
  | some a => if a.1 < r.tL then some a else none
  | none => none

/-- SHUTTLE_SEQUENCE_START (R107, R111): t0; the phases take the edges of the plan. -/
def execShuttleSequenceStart (b : Bay) (s : State) : Host.Outcome State Fault Refusal :=
  .next (s.begin.onBay b.val (fun x => { x with shuttle := x.shuttle.map (fun r => { r with started := true }) }))

/-- SHUTTLE_HANDBACK (R112, R116): the landing count of a sequence that has started and is not aborted before. -/
def execShuttleHandback (b : Bay) (s : State) : Host.Outcome State Fault Refusal :=
  let b := b.val
  let s := s.begin
  match (s.bay b).shuttle with
  | none => .next s
  | some r =>
    if !r.started ∨ r.aborts.isSome then .next s
    else
      let s := s.handBack b r r.iLand
      let s := (s.wr F.LN_SHTL_STAT_TC (min r.tc 65535) r.lane).wr F.LN_SHTL_STAT_TB (min r.tb 65535) r.lane
      .next (State.settle (match r.overWhy with
        | some why => (s.record 0x0310 (srcLane r.lane) why).put F.BAY_SHTL_STAT_OVER_EVT true b
        | none => s))

/-- SHUTTLE_ABORT (R113): t_a of a pending abort; the lane is handed back at I_now. -/
def execShuttleAbort (b : Bay) (s : State) : Host.Outcome State Fault Refusal :=
  let b := b.val
  let s := s.begin
  match (s.bay b).shuttle with
  | none => .next s
  | some r =>
    match r.aborts with
    | none => .next s
    | some (ta, cause) =>
      let i := r.iNow ta
      let s := (s.handBack b r i).onLane r.lane (fun x => { x with iNow := some i })
      .next (((s.record 0x0312 (srcLane r.lane) cause).put F.BAY_SHTL_STAT_ABORT_EVT true b).settle)

/-- A write to BAY_SHTL_STAT: CNT_CLR clears BUSY_CNT; the events clear as W1C. -/
def State.writeShtlStat (s : State) (b w : Nat) : State :=
  let s := s.plainWrite .BAY_SHTL_STAT b w
  if bitN w 16 then s.wr F.BAY_SHTL_STAT_BUSY_CNT 0 b else s

/-- SHTL_CNT_CLR (R118). -/
def execShtlCntClr (b : Bay) (w : BusWrite) (s : State) : Host.Outcome State Fault Refusal :=
  .next (s.gate w (fun s v => s.writeShtlStat b.val v))

end Sys2Proof.Machine
end

