-- ==== Sys2Proof/Machine/Link.lean ====
section
/-!
DEFINITION. Sys2Proof/Machine/Link.lean: the Juhopol Module Link (chapter 11): identification, frames, roles, entry, keep-alives and
the values in force, supervision and hard resets, role swaps, violations, and the link commands of chapter 19.
-/
namespace Sys2Proof.Machine

/-! ### Access -/

/-- The link engine of a lane. -/
def State.jml (s : State) (l : Nat) : Jml := (s.lane l).jml

/-- Change the link engine of a lane. -/
def State.onJml (s : State) (l : Nat) (f : Jml → Jml) : State := s.onLane l (fun x => { x with jml := f x.jml })

/-- The module is Initiator. -/
def State.swapped (s : State) (l : Nat) : Bool := s.flag F.LN_JML_ROLE l

/-- A violation of Table 11-9 (R270). -/
def State.breaks (s : State) (l code flags : Nat) : State := (s.record code (srcLane l) flags).put F.LN_JML_VIOL_EVT true l

/-- Queue a state change of a lane for its next update (R198). -/
def State.queue (s : State) (l : Nat) (m : Move) : State := s.onLane l (fun x => { x with moves := x.moves ++ [m] })

/-! ### Frames (R251 to R254, R259) -/

/-- The bytes of a frame from SOF to CRC (R251, R252). -/
def jmlBytes (type seq : Nat) (retry : Bool) (payload : List Byte) : List Byte :=
  let body := leBytes 1 type ++ leBytes 1 (seq % 16 + 32 * retry.toNat) ++ leBytes 1 payload.length ++ payload
  [0xCB] ++ body ++ leBytes 2 (crc16 body).toNat

/-- A request due. -/
def State.ask (s : State) (l type : Nat) (payload : List Byte) : State :=
  s.onJml l (fun j => { j with due := j.due ++ [⟨type, payload, none, false, false⟩] })

/-- A request of a type is due, on the wire or outstanding. -/
def Jml.has (j : Jml) (type : Nat) : Bool :=
  j.due.any (fun f => f.type == type && !f.response) || j.wire.any (fun f => f.type == type && !f.response) ||
    j.out.any (fun f => f.type == type)

/-- A response due, to the request with a SEQ. -/
def State.reply (s : State) (l type : Nat) (payload : List Byte) (seq : Nat) : State :=
  s.onJml l (fun j => { j with due := j.due ++ [⟨type, payload, some seq, false, true⟩] })

/-- The order in which frames due at once are sent (R259): the lower first. -/
def JFrame.rank (f : JFrame) : Nat :=
  if f.type = 0x0C then 2 else if f.seq.isSome then 3 else if f.type = 0x06 then 4 else if f.type = 0x08 then 5
  else if f.type = 0x0A then 7 else if f.type = 0x0E then 8 else 6

/-- The frame to send next: the first of the least rank. -/
def firstDue : List JFrame → Option JFrame
  | [] => none
  | f :: t => match firstDue t with
    | none => some f
    | some g => if g.rank < f.rank then some g else some f

/-- The mean of a list; `d` where it is empty. -/
def meanOr (d : Int) (l : List Int) : Int := if l.isEmpty then d else l.foldl (· + ·) 0 / l.length

/-- The KA_DEV payload (Table 11-5). -/
def State.kaDevBytes (s : State) (l : Nat) : List Byte :=
  let x := s.lane l
  let t := x.taps.filter (fun e => decide (s.tb < e.1 + 200000))
  let v := meanOr x.vMod (t.map (fun e => e.2.1)) / 10
  let i := clampI (meanOr x.iShunt (t.map (fun e => e.2.2)) / 10) (-32767) 32767
  let sw := (s.phasesOf l).any (fun p => (s.ph p).on)
  leBytes 2 (match x.jml.con with | some c => c.cnum | none => 0) ++ leBytes 2 (ofS v 16) ++ leBytes 2 (ofS i 16) ++
    leBytes 1 (s.laneState l).code ++
    leBytes 1 (x.jml.ready.toNat + 2 * sw.toNat + 4 * (x.brV || x.brI).toNat)

/-- IDLE_GUARD (R254, R259): PLT has been high for 40 us, and the frame of the highest priority that is due is begun; while an
exchange is open only its own repetition is (R259). -/
def execIdleGuard (l : Lane) (s : State) : Host.Outcome State Fault Refusal :=
  let l := l.val
  let s := s.begin
  let j := s.jml l
  let free := match j.link with | .hard _ => false | _ => j.wire.isNone && j.out.isNone
  if !free then .next s
  else
    match firstDue j.due with
    | none => .next s
    | some f =>
      let seq := match f.seq with | some q => q | none => j.seqOut
      let pay := if f.type = 0x06 ∧ f.payload = [] then s.kaDevBytes l else f.payload
      let g := { f with seq := some seq, payload := pay }
      let s := s.onJml l (fun j => { j with
        due := j.due.erase f, wire := some g, seqOut := if f.seq.isSome then j.seqOut else (j.seqOut + 1) % 16,
        tries := if f.seq.isSome then j.tries else 0, answered := if f.response then some g else j.answered })
      .next (s.emit (.jml l (jmlBytes f.type seq f.retry pay)))

/-! ### Ending a contract, an entry, the link -/

/-- The JML hold of AUX is released (Table 1-6). -/
def State.freeAux (s : State) (l : Nat) : State := if (s.lane l).aux = .jml then s.setAux l .none else s

/-- The contract is dropped: CONTRACT reads 0, no values are in force, AUX is released (R267). -/
def State.dropContract (s : State) (l : Nat) : State :=
  let s := ((s.put F.LN_STATE_CONTRACT false l).wr F.LN_JML_AUX_USE 0 l).freeAux l
  s.onLane l (fun x => { x with
    ka := none, brV := false, brI := false, ilkOpen := false,
    jml := { x.jml with con := none, ask := none, grace := false, reneg := false, swap := false, ready := false } })

/-- The exchanges of a lane are abandoned; its waiting link commands end with a status (R458). -/
def State.dropFrames (s : State) (l st : Nat) : State :=
  let s := s.onJml l (fun j => { j with due := [], wire := none, out := none, timing := false, tries := 0, seqOut := 0, seqIn := 0,
                                        answered := none })
  s.finish (fun w => match w with | .linkData k | .contract k | .roles k => k == l | _ => false) st

/-- The link stops: the lane goes to OFF or to LOST. -/
def State.stopLink (s : State) (l : Nat) : State :=
  let s := (s.dropContract l).dropFrames l stLaneState
  let s := (s.put F.LN_JML_ROLE false l).put F.LN_JML_ATTN false l
  s.onJml l (fun j => { j with link := .idle, afterHard := false, leaving := none })

/-- A hard-reset decision (R267, step 1), with the flags of its 0x0805. -/
def State.hardReset (s : State) (l flags : Nat) : State :=
  let s := (s.record 0x0805 (srcLane l) flags).dropContract l
  let s := (s.bump F.LN_JML_HRST 1 l).put F.LN_JML_ROLE false l
  let left := (s.jml l).leaving
  let s := (s.dropFrames l stLaneState).onJml l (fun j => { j with link := .hard 0, leaving := none })
  let s := match left with | some k => s.queue l (.release k) | none => s
  match s.laneState l with
  | .off | .detect | .negotiate | .faulted | .lost => s
  | _ => s.queue l (.park 2)

/-- A hard reset fails (R267): the next one, or the module is declared lost. -/
def State.hardFails (s : State) (l flags : Nat) : State :=
  if s.rd F.LN_JML_HRST l < 3 then s.hardReset l flags
  else
    let s := (s.record 0x0806 (srcLane l) 0).dropContract l
    ((s.dropFrames l stLaneState).onJml l (fun j => { j with link := .idle, afterHard := false })).queue l .lostModule

/-- Entry begins: CAPS_REQ with SEQ 0 (R256, R262). -/
def State.startEntry (s : State) (l : Nat) (afterHard : Bool) : State :=
  let s := s.onJml l (fun j => { j with
    link := .negot, afterHard := afterHard, due := [], wire := none, out := none, timing := false, tries := 0, seqOut := 0, seqIn := 0,
    answered := none, ask := none })
  s.ask l 0x01 []

/-- Entry ends without a contract (R264, R267). -/
def State.endEntry (s : State) (l : Nat) : State :=
  let s := (s.freeAux l).wr F.LN_JML_AUX_USE 0 l
  let hard := (s.jml l).afterHard
  let s := s.onJml l (fun j => { j with ask := none, link := .idle, afterHard := false })
  if hard then s.hardFails l 5
  else if s.laneState l = .negotiate then s.queue l .entryFailed
  else s

/-- A contract is refused (0x0802): entry ends, or a renegotiation leaves the old contract in force (R262 to R264, R269). -/
def State.refused (s : State) (l flags : Nat) : State :=
  let s := s.record 0x0802 (srcLane l) flags
  if (s.jml l).reneg then
    let s := if s.rd F.LN_JML_AUX_USE l = 0 then s.freeAux l else s
    let s := s.onJml l (fun j => { j with ask := none, reneg := false })
    s.finish (fun w => match w with | .contract k => k == l | _ => false) stPartnerRefused
  else s.endEntry l

/-! ### Supervision (R266) -/

/-- A soft-reset decision: 0x0804, the grace window while a contract is held, SOFT_RESET due. -/
def State.softReset (s : State) (l reason : Nat) : State :=
  let s := s.record 0x0804 (srcLane l) reason
  s.onJml l (fun j => { j with
    grace := j.grace || j.con.isSome, swap := false,
    due := j.due.filter (fun f => f.seq.isNone && f.type != 0x0C) ++ [⟨0x0C, leBytes 1 reason, none, false, false⟩] })

/-- LANE_RELEASE goes on once its CONTRACT_DROP has ended (R269). -/
def State.dropEnded (s : State) (l : Nat) : State :=
  match (s.jml l).leaving with
  | some k => (s.onJml l (fun j => { j with leaving := none })).queue l (.release k)
  | none => s

/-- The retries of a request are exhausted (R266, R458). -/
def State.exhausted (s : State) (l type : Nat) : State :=
  match type with
  | 0x0C => s.hardReset l 7
  | 0x0D => s.dropEnded l
  | _ =>
    let s := match type with
      | 0x0E => s.finish (fun w => match w with | .linkData k => k == l | _ => false) stTimeout
      | 0x0A => s.finish (fun w => match w with | .roles k => k == l | _ => false) stTimeout
      | 0x01 | 0x03 =>
        if (s.jml l).reneg then
          ((if s.rd F.LN_JML_AUX_USE l = 0 then s.freeAux l else s).onJml l (fun j => { j with ask := none, reneg := false })).finish
            (fun w => match w with | .contract k => k == l | _ => false) stTimeout
        else s
      | _ => s
    if (s.jml l).grace then (if type = 0x05 then s else s.hardReset l 1) else s.softReset l 1

/-- An awaited response counts as none (R266). -/
def State.failed (s : State) (l : Nat) : State :=
  match (s.jml l).out with
  | none => s
  | some f =>
    let n := (s.jml l).tries + 1
    let s := s.record 0x0803 (srcLane l) n
    let s := s.onJml l (fun j => { j with out := none, timing := false, tries := n })
    if n < 3 then s.onJml l (fun j => { j with due := j.due ++ [{ f with retry := true }] }) else s.exhausted l f.type

/-- The outstanding request has been answered. -/
def State.answered (s : State) (l : Nat) : State := s.onJml l (fun j => { j with out := none, timing := false, tries := 0 })

/-- The roles return to default, recorded where they differed (R272). -/
def State.rolesBack (s : State) (l : Nat) : State :=
  let s := s.onJml l (fun j => { j with swap := false })
  if s.swapped l then
    let s := (s.put F.LN_JML_ROLE false l).record 0x0807 (srcLane l) 0
    s.finish (fun w => match w with | .roles k => k == l | _ => false) stOk
  else s

/-- SOFT_RESET is acknowledged (R266): default roles, SEQ 0, KA_DEV at once; an entry goes on, a renegotiation begins (R269). -/
def State.softDone (s : State) (l : Nat) : State :=
  let s := (s.rolesBack l).onJml l (fun j => { j with seqOut := 0, seqIn := 0, answered := none })
  let j := s.jml l
  let s := if j.con.isSome then s.ask l 0x06 [] else s
  if j.link = .negot ∨ j.reneg then s.ask l 0x01 [] else s

/-! ### Values in force (R265, R229) -/

/-- The metered net charge of a lane in accumulator counts. -/
def State.netCharge (s : State) (l : Nat) : Int := (s.ctr (6 * l + 2)).acc - (s.ctr (6 * l + 3)).acc

/-- The SUSPECT bit of a lane. -/
def State.putSuspect (s : State) (l : Nat) (v : Bool) : State :=
  if l < 32 then s.putBit F.BUS_SOC_LO_SUSPECT l v else s.putBit F.BUS_SOC_HI_SUSPECT (l - 32) v

/-- The check of R229 on a reported SOC. -/
def State.checkSoc (s : State) (l new : Nat) : State :=
  let x := s.lane l
  let q := (s.netCharge l - x.qBase) / 9216000000000
  match x.soc with
  | none => let q0 := s.netCharge l; s.onLane l (fun x => { x with soc := some new, qBase := q0, socPass := 0 })
  | some old =>
    let d : Int := (new : Int) - old
    let tol : Int := 10 * s.rd F.BUS_SOC_QTOL
    let bad := if s.rd F.BUS_SOC_JUMP < d.natAbs then 1
      else if (0 < d ∧ q < -tol) ∨ (d < 0 ∧ tol < q) then 2
      else if d = 0 ∧ 100 * s.rd F.BUS_SOC_QSTALL < q.natAbs then 3 else 0
    let q0 := s.netCharge l
    let s := if d = 0 then s else s.onLane l (fun x => { x with soc := some new, qBase := q0 })
    if bad ≠ 0 then
      ((s.onLane l (fun x => { x with socPass := 0 })).putSuspect l true).record 0x0707 (srcLane l) bad
    else if d = 0 then s
    else
      let n := min 4 (x.socPass + 1)
      let s := s.onLane l (fun x => { x with socPass := n })
      if n = 4 then s.putSuspect l false else s

/-- The values of a KA_MOD payload against a contract, and how many fields were out of range (R265). -/
def kaValues (c : Contract) (p : List Byte) : InForce × Nat :=
  let ichg := leAt p 2 2
  let idis := leAt p 4 2
  let vlo0 := leAt p 6 2
  let vhi0 := leAt p 8 2
  let soc := leAt p 10 2
  let tm := toS (leAt p 12 1) 8
  let mf := leAt p 16 1
  let vlo := max vlo0 c.vlo
  let vhi := min vhi0 c.vhi
  let inv := decide (vhi ≤ vlo)
  let tBad := decide (tm ≠ -128 ∧ (tm < -40 ∨ 125 < tm))
  let bad := (decide (c.ichg < ichg)).toNat + (decide (c.idis < idis)).toNat + (decide (vlo0 < c.vlo)).toNat +
    (decide (c.vhi < vhi0)).toNat + inv.toNat + (decide (1000 < soc ∧ soc ≠ 0xFFFF)).toNat + tBad.toNat
  let off := inv || !bitN mf 0
  ({ ichg := if off then 0 else min ichg c.ichg, idis := if off then 0 else min idis c.idis,
     vlo := if inv then c.vlo else vlo, vhi := if inv then c.vhi else vhi,
     soc := if soc ≤ 1000 then some soc else none,
     tmax := if tm = -128 then none else if tBad then some 125 else some tm,
     tmin := leAt p 13 1, vpack := leAt p 14 2, mflags := mf }, bad)

/-- Record `n` out-of-range fields of a message type. -/
def State.badFields (s : State) (l type : Nat) : Nat → State
  | 0 => s
  | n + 1 => (s.breaks l 0x080D type).badFields l type n

/-- A keep-alive record under the contract in force (R265): the values in force, the SOC check. -/
def State.takeRecord (s : State) (l type : Nat) (c : Contract) (p : List Byte) : State :=
  let (v, bad) := kaValues c p
  let s := (s.badFields l type bad).onLane l (fun x => { x with ka := some v, jml := { x.jml with grace := false } })
  match v.soc with | some n => s.checkSoc l n | none => s

/-- The contract is accepted (R264). -/
def State.accept (s : State) (l type : Nat) (c : Contract) (p : List Byte) : State :=
  let q := s.netCharge l
  let s := (s.onLane l (fun x => { x with
    soc := none, qBase := q, socPass := 0,
    jml := { x.jml with con := some c, ask := none, link := .held, afterHard := false, ready := false } })).putSuspect l false
  let s := ((s.put F.LN_STATE_CONTRACT true l).wr F.LN_JML_HRST 0 l).record 0x0801 (srcLane l) 0
  (s.takeRecord l type c p).queue l .contractOk

/-- A record that arrives in KA_MOD or ATTN_INFO: whether it is taken (R264, R265). -/
def State.recordIn (s : State) (l type : Nat) (p : List Byte) : State × Bool :=
  let j := s.jml l
  let n := leAt p 0 2
  match j.con, j.ask with
  | some c, _ => if n = c.cnum then (s.takeRecord l type c p, true) else (s.breaks l 0x080D type, false)
  | none, some c =>
    if j.link ≠ .contactor then (s, true)
    else if n ≠ c.cnum then (s.breaks l 0x080D type, false)
    else if bitN (leAt p 16 1) 0 then (s.accept l type c p, true)
    else (s, true)
  | none, none => (s.breaks l 0x080D type, false)

/-! ### Received frames (R256, R266, R270) -/

/-- A partner heard while the lane is in LOST (R274). -/
def State.lateHeard (s : State) (l : Nat) : State := (s.record 0x0811 (srcLane l) 0).put F.LN_JML_LATE true l

/-- A valid frame is heard: what precedes its own meaning. In LOST it counts as presence only; in a presence wait it restarts entry;
while a hard reset drives the line, or in OFF, nothing; else `f`. -/
def State.heard (s : State) (l : Nat) (f : State → State) : State :=
  let s := s.begin
  match s.laneState l with
  | .off => s
  | .lost => s.lateHeard l
  | _ =>
    match (s.jml l).link with
    | .hard 2 => s.startEntry l true
    | .hard _ => s
    | _ => f s

/-- A frame while the Kuvin transmits, or one that answers nothing (R270). -/
def State.unsolicited (s : State) (l type : Nat) : State := s.breaks l 0x080E type

/-- A response frame: `asked` are the types it may answer; `f` gets the request. A frame that answers another request counts as no
response. -/
def State.response (s : State) (l type : Nat) (fr : JmlRx) (asked : List Nat) (f : State → JFrame → State) : State :=
  s.heard l fun s =>
    let j := s.jml l
    if j.wire.isSome then s.unsolicited l type
    else match j.out with
      | none => s.unsolicited l type
      | some q =>
        if fr.ver.toNat ≠ 0 then (s.breaks l 0x080C type).failed l
        else if q.seq ≠ some (fr.seq.toNat % 16) then (s.breaks l 0x080B 0).failed l
        else if !asked.contains q.type then (s.unsolicited l type).failed l
        else f s q

/-- A request frame of the module as Initiator: a repetition is answered again, an unexpected SEQ with NAK reason 2 (R256). -/
def State.request (s : State) (l type : Nat) (fr : JmlRx) (f : State → Nat → State) : State :=
  s.heard l fun s =>
    let j := s.jml l
    let q := fr.seq.toNat % 16
    if j.wire.isSome then s.unsolicited l type
    else if fr.ver.toNat ≠ 0 then (s.breaks l 0x080C type).reply l 0x7E (leBytes 1 type ++ leBytes 1 3) q
    else
      match (if fr.retry then j.answered.filter (fun a => a.seq == some q) else none) with
      | some a => s.onJml l (fun j => { j with due := j.due ++ [a] })
      | none =>
        if q ≠ j.seqIn then
          ((s.breaks l 0x080B 0).onJml l (fun j => { j with seqIn := (q + 1) % 16 })).reply l 0x7E (leBytes 1 type ++ leBytes 1 2) q
        else f (s.onJml l (fun j => { j with seqIn := (q + 1) % 16 })) q

/-- The largest module voltage of a class in 10 mV (Table 11-2). -/
def classCeiling (c : Nat) : Nat :=
  match c with
  | 1 => 6000 | 2 => 8000 | 3 => 10000 | 4 => 12000 | 5 => 15000 | 6 => 17500 | _ => 0

/-- CAPS lies in the ranges of Table 11-5 and under the ceiling of its class (R262). -/
def capsOk (cls : Nat) (p : List Byte) : Bool :=
  let g := fun k n => leAt p k n
  let chem := g 0 1
  let soh := g 12 1
  decide (p.length = 24) && (decide (1 ≤ chem ∧ chem ≤ 6) || decide (0xF0 ≤ chem)) && decide (1 ≤ g 1 1) && decide (g 2 2 < g 4 2) &&
    decide (g 4 2 ≤ classCeiling cls) && decide (1 ≤ g 6 2) && decide (1 ≤ g 8 2) && decide (toS (g 10 1) 8 < toS (g 11 1) 8) &&
    (decide (soh ≤ 100) || soh == 0xFF) && g 23 1 == 1

/-- The AUX claim of a contract request (R263, R29): the use granted. -/
def State.claimAux (s : State) (l : Nat) (p : List Byte) : State × Nat :=
  let use := s.rd F.LN_JML_AUX_PREF l
  if use = 0 ∨ !bitN (leAt p 21 1) (use - 1) then (s, 0)
  else match (s.lane l).aux with
    | .jml => (s, use)
    | .none => (s.setAux l .jml, use)
    | _ => (s.record 0x0114 (srcLane l) 0, 0)

/-- The payload of CONTRACT_REQ (Table 11-5). -/
def Contract.bytes (c : Contract) : List Byte :=
  leBytes 2 c.cnum ++ leBytes 2 c.vlo ++ leBytes 2 c.vhi ++ leBytes 2 c.ichg ++ leBytes 2 c.idis ++ leBytes 1 c.aux ++ leBytes 1 c.ka

/-- The contract request formed from an accepted CAPS (R263). -/
def State.formRequest (s : State) (l : Nat) (p : List Byte) : State :=
  let vlo := leAt p 2 2
  let bus := (s.clamps l).2 * s.rd F.BUS_WIN_LO_VMIN (s.segOf l) / 65536 / 10
  let vhi := min (leAt p 4 2) bus.toNat
  let cap := s.rd F.LN_IPH_IPH_MAX l * s.rd F.LN_STATE_NFULL l / 10
  if vhi ≤ vlo then s.refused l 6
  else
    let (s, use) := s.claimAux l p
    let n := if (s.jml l).cnum = 65535 then 1 else (s.jml l).cnum + 1
    let c : Contract :=
      ⟨n, vlo, vhi, min (leAt p 6 2) cap, min (leAt p 8 2) cap, use, s.rd F.LN_JML_KA_INT l⟩
    (s.onJml l (fun j => { j with cnum := n, ask := some c })).ask l 0x03 c.bytes

/-- CAPS (R262, R263, R269). -/
def execCaps (l : Lane) (f : JmlRx) (s : State) : Host.Outcome State Fault Refusal :=
  let l := l.val
  .next (State.settle (s.response l 0x02 f [0x01] fun s q =>
    let p := f.payload
    let j := s.jml l
    let s := s.answered l
    if !capsOk (s.rd F.LN_JML_CLASS l) p then
      ((s.reply l 0x7E (leBytes 1 2 ++ leBytes 1 4) (q.seq.getD 0)).breaks l 0x080D 2).refused l 8
    else if j.reneg ∧ leAt p 13 8 ≠ leAt j.caps 13 8 then s.hardReset l 6
    else (s.onJml l (fun j => { j with caps := p })).formRequest l p))

/-- The values in force limited to a new contract (R269). -/
def InForce.within (v : InForce) (c : Contract) : InForce :=
  let vlo := max v.vlo c.vlo
  let vhi := min v.vhi c.vhi
  let inv := decide (vhi ≤ vlo)
  { v with ichg := if inv then 0 else min v.ichg c.ichg, idis := if inv then 0 else min v.idis c.idis,
           vlo := if inv then c.vlo else vlo, vhi := if inv then c.vhi else vhi }

/-- A renegotiated contract takes force (R269). -/
def State.renegotiated (s : State) (l : Nat) (c : Contract) : State :=
  let s := s.wr F.LN_JML_AUX_USE c.aux l
  let s := if c.aux = 0 then s.freeAux l else s
  let q := s.netCharge l
  let s := (s.onLane l (fun x => { x with
    ka := x.ka.map (fun v => v.within c), soc := none, qBase := q, socPass := 0,
    jml := { x.jml with con := some c, ask := none, reneg := false, ready := false } })).putSuspect l false
  (s.record 0x0801 (srcLane l) 1).finish (fun w => match w with | .contract k => k == l | _ => false) stOk

/-- CONTRACT_ACK (R264, R269). -/
def execContractAck (l : Lane) (f : JmlRx) (s : State) : Host.Outcome State Fault Refusal :=
  let l := l.val
  .next (State.settle (s.response l 0x04 f [0x03] fun s _ =>
    let p := f.payload
    let s := s.answered l
    match (s.jml l).ask with
    | none => s
    | some c =>
      let bad := decide (p.length ≠ 3 ∨ leAt p 0 2 ≠ c.cnum ∨ 5 < leAt p 2 1)
      let r := if bad then 5 else leAt p 2 1
      let s := if bad then s.breaks l 0x080D 4 else s
      if r ≠ 0 then s.refused l r
      else if (s.jml l).reneg then s.renegotiated l c
      else (s.wr F.LN_JML_AUX_USE c.aux l).onJml l (fun j => { j with link := .contactor })))

/-- KA_MOD (R265, R272): a response to KA_DEV, or a request of the module as Initiator, which is answered with KA_DEV. -/
def execKaMod (l : Lane) (f : JmlRx) (s : State) : Host.Outcome State Fault Refusal :=
  let l := l.val
  .next (State.settle (
    if s.swapped l then
      s.request l 0x07 f fun s q =>
        if f.payload.length ≠ 17 then s.breaks l 0x080D 7
        else
          let (s, ok) := s.recordIn l 7 f.payload
          if ok then (s.onJml l (fun j => { j with swap := false })).reply l 0x06 [] q else s
    else
      s.response l 0x07 f [0x06] fun s _ =>
        if f.payload.length ≠ 17 then (s.breaks l 0x080D 7).failed l
        else
          let (s, ok) := s.recordIn l 7 f.payload
          if ok then s.answered l else s.failed l))

/-- A request of the module that ATTN_INFO carries (R272). -/
def State.moduleAsks (s : State) (l reason : Nat) : State :=
  match reason with
  | 2 =>
    if !s.flag F.LN_JML_SWAP_OK l then s.record 0x0810 (srcLane l) 2
    else if (s.jml l).con.isSome ∧ !(s.jml l).has 0x0A then s.ask l 0x0A [] else s
  | 3 => (s.record 0x0810 (srcLane l) 3).notice ((s.lane l).owner.toList) 2 (leBytes 1 l ++ leBytes 1 reason)
  | _ => s

/-- ATTN_INFO (R264, R265, R272): the answer to STATUS_REQ. -/
def execAttnInfo (l : Lane) (f : JmlRx) (s : State) : Host.Outcome State Fault Refusal :=
  let l := l.val
  .next (State.settle (s.response l 0x09 f [0x08] fun s _ =>
    let p := f.payload
    let reason := leAt p 0 1
    let s := s.put F.LN_JML_ATTN false l
    if p.length ≠ 18 then (s.breaks l 0x080D 9).failed l
    else
      let (s, ok) := s.recordIn l 9 (p.drop 1)
      if !ok then s.failed l
      else
        let s := s.answered l
        if outside reason 1 3 then s.breaks l 0x080D 9 else s.moduleAsks l reason))

/-- SWAP_ACK (R272, R273): the answer to the Kuvin's SWAP_REQ. -/
def execSwapAck (l : Lane) (f : JmlRx) (s : State) : Host.Outcome State Fault Refusal :=
  let l := l.val
  .next (s.response l 0x0B f [0x0A] fun s _ =>
    let p := f.payload
    let r := leAt p 0 1
    let m := leAt p 1 1
    let roles := fun w => match w with | WaitFor.roles k => k == l | _ => false
    if p.length ≠ 2 ∨ 1 < r ∨ 1 < m then (s.breaks l 0x080D 0x0B).failed l
    else
      let s := s.answered l
      if r = 1 then s.finish roles stPartnerRefused
      else
        let s := (s.put F.LN_JML_ROLE true l).onJml l (fun j => { j with
          swap := true, due := j.due.filter (fun q => q.type == 0x0C || q.type == 0x0D) })
        let s := s.record 0x0807 (srcLane l) 1
        let s := if m = 1 then (s.record 0x0808 (srcLane l) 0).put F.LN_JML_ATTN false l else s
        (s.finish roles stOk).finish (fun w => match w with | .linkData k => k == l | _ => false) stNotPermitted)

/-- A request the module's role does not allow (R260, R270): NAK reason 5. -/
def State.notAllowed (s : State) (l type : Nat) (f : JmlRx) : State :=
  (s.breaks l 0x080E type).reply l 0x7E (leBytes 1 type ++ leBytes 1 5) (f.seq.toNat % 16)

/-- SWAP_REQ (R272): the module as Initiator returns the roles; the Kuvin accepts, and the roles change at its answer's release. -/
def execSwapReq (l : Lane) (f : JmlRx) (s : State) : Host.Outcome State Fault Refusal :=
  let l := l.val
  .next (
    if s.swapped l then
      s.request l 0x0A f fun s q =>
        if f.payload.length ≠ 0 then (s.breaks l 0x080D 0x0A).reply l 0x7E (leBytes 1 0x0A ++ leBytes 1 4) q
        else s.reply l 0x0B (leBytes 1 0 ++ leBytes 1 0) q
    else s.heard l fun s => s.notAllowed l 0x0A f)

/-- ACK (R264, R266, R269): the answer to READY, SOFT_RESET or CONTRACT_DROP. -/
def execAck (l : Lane) (f : JmlRx) (s : State) : Host.Outcome State Fault Refusal :=
  let l := l.val
  .next (s.response l 0x7F f [0x05, 0x0C, 0x0D] fun s q =>
    if f.payload.length ≠ 2 ∨ leAt f.payload 0 1 ≠ q.type ∨ leAt f.payload 1 1 ≠ 0 then (s.breaks l 0x080D 0x7F).failed l
    else
      let s := s.answered l
      match q.type with
      | 0x0C => s.softDone l
      | 0x0D => s.dropEnded l
      | _ => s)

/-- NAK (R269, R270): a refused LINK_DATA or SWAP_REQ ends its command, a refused CAPS_REQ or CONTRACT_REQ the negotiation; any other
request has had no response. -/
def execNak (l : Lane) (f : JmlRx) (s : State) : Host.Outcome State Fault Refusal :=
  let l := l.val
  .next (State.settle (s.response l 0x7E f [0x01, 0x03, 0x05, 0x06, 0x08, 0x0A, 0x0C, 0x0D, 0x0E] fun s q =>
    match q.type with
    | 0x0E => (s.answered l).finish (fun w => match w with | .linkData k => k == l | _ => false) stPartnerRefused
    | 0x0A => (s.answered l).finish (fun w => match w with | .roles k => k == l | _ => false) stPartnerRefused
    | 0x01 | 0x03 => (s.answered l).refused l 5
    | _ => s.failed l))

/-- LINK_DATA (R269, R458): the module's answer goes to the owner. -/
def execLinkData (l : Lane) (f : JmlRx) (s : State) : Host.Outcome State Fault Refusal :=
  let l := l.val
  .next (s.response l 0x0E f [0x0E] fun s _ =>
    let p := f.payload
    let mine := fun w => match w with | WaitFor.linkData k => k == l | _ => false
    if p.length = 0 ∨ 33 < p.length then (s.breaks l 0x080D 0x0E).failed l
    else
      let s := s.answered l
      let s := (s.waits.filter (fun w => mine w.wait)).foldl (fun s w => if 33 ≤ w.cmd.dlen then s.writeBuf w.cmd p else s) s
      s.finish mine stOk (p.take 1 ++ leBytes 1 (p.length - 1) ++ (p.drop 1).take 14))

/-- BAD_FRAME (R270): 1 CRC, 2 code error, 3 length. -/
def execBadFrame (l : Lane) (kind : Fin 4) (s : State) : Host.Outcome State Fault Refusal :=
  let l := l.val
  let s := s.begin
  if kind.val = 0 ∨ s.laneState l = .off then .next s
  else .next ((s.breaks l 0x080A kind.val).failed l).settle

/-- The types of Table 11-4. -/
def knownType (t : Nat) : Bool := decide (1 ≤ t ∧ t ≤ 0x0E) || t == 0x7E || t == 0x7F

/-- UNKNOWN_TYPE (R270): an unknown TYPE or version; a known type that only the Kuvin sends is one the module's role does not
allow. -/
def execUnknownType (l : Lane) (type : Byte) (f : JmlRx) (s : State) : Host.Outcome State Fault Refusal :=
  let l := l.val
  let t := type.toNat
  .next (State.settle (s.heard l fun s =>
    if f.ver.toNat = 0 ∧ knownType t then
      (if t ∈ [0x01, 0x03, 0x05, 0x06, 0x08, 0x0C, 0x0D] then
        (if s.swapped l then s.notAllowed l t f else s.unsolicited l t)
      else s)
    else
      let s := s.breaks l 0x080C t
      if (s.jml l).out.isSome then s.failed l
      else if s.swapped l then s.reply l 0x7E (leBytes 1 t ++ leBytes 1 3) (f.seq.toNat % 16)
      else s))

/-- PILOT_TRUNC (R250, R270). -/
def execPilotTrunc (l : Lane) (s : State) : Host.Outcome State Fault Refusal :=
  let l := l.val
  let s := s.begin
  if s.laneState l = .off then .next s else .next ((s.breaks l 0x0809 0).failed l).settle

/-- PILOT_NOISE (R270): 8 unsynchronised edges have been counted. -/
def execPilotNoise (l : Lane) (s : State) : Host.Outcome State Fault Refusal :=
  let l := l.val
  let s := s.begin
  if s.laneState l = .off then .next s else .next (s.breaks l 0x0812 0)

/-! ### Pulses and the wire (R253, R257, R258, R266) -/

/-- STATUS_REQ is due for an attention, while the Kuvin is Initiator (R257). -/
def State.pollAttn (s : State) (l : Nat) : State :=
  let j := s.jml l
  if s.swapped l ∨ j.link = .idle ∨ j.link = .ident ∨ j.has 0x08 then s else s.ask l 0x08 []

/-- ATTENTION_PULSE (R257, R267, R274): a low pulse of 14 us to 30 us. -/
def execAttentionPulse (l : Lane) (widthNs : Nat) (s : State) : Host.Outcome State Fault Refusal :=
  let l := l.val
  if outside widthNs 14000 30000 then .next s.begin
  else .next (s.heard l fun s => (s.put F.LN_JML_ATTN true l).pollAttn l)

/-- ATTN_COLLISION (R258): the frame on the wire stops; it is sent again with the same SEQ and RETRY 0; STATUS_REQ follows. -/
def execAttnCollision (l : Lane) (s : State) : Host.Outcome State Fault Refusal :=
  let l := l.val
  let s := s.begin
  match (s.jml l).wire with
  | none => .next s
  | some f =>
    let s := s.onJml l (fun j => { j with wire := none, due := { f with retry := false } :: j.due })
    .next ((s.put F.LN_JML_ATTN true l).pollAttn l)

/-- FRAME_RELEASED (R253, R266, R272): the Kuvin's frame ends; a request starts the response timer; the SWAP_ACK that accepts a return
of the roles changes them. -/
def execFrameReleased (l : Lane) (s : State) : Host.Outcome State Fault Refusal :=
  let l := l.val
  let s := s.begin
  match (s.jml l).wire with
  | none => .next s
  | some f =>
    let s := s.onJml l (fun j => { j with wire := none })
    if !f.response then .next (s.onJml l (fun j => { j with out := some f, timing := true }))
    else if f.type = 0x0B then .next (s.rolesBack l)
    else .next s

/-- PREAMBLE_START (R250, R266): the response timer stops. -/
def execPreambleStart (l : Lane) (s : State) : Host.Outcome State Fault Refusal :=
  .next (s.begin.onJml l.val (fun j => { j with timing := false }))

/-! ### Timers (R264 to R267, R271, R272) -/

/-- KA_DEV (R265): the keep-alive interval elapses while the Kuvin is Initiator. -/
def execKaDev (l : Lane) (s : State) : Host.Outcome State Fault Refusal :=
  let l := l.val
  let s := s.begin
  if (s.jml l).con.isNone ∨ s.swapped l then .next s else .next (s.ask l 0x06 [])

/-- RESPONSE_TIMEOUT (R266). -/
def execResponseTimeout (l : Lane) (s : State) : Host.Outcome State Fault Refusal :=
  let l := l.val
  let s := s.begin
  if (s.jml l).timing then .next (s.failed l).settle else .next s

/-- GRACE_EXPIRY (R266). -/
def execGraceExpiry (l : Lane) (s : State) : Host.Outcome State Fault Refusal :=
  let l := l.val
  let s := s.begin
  if (s.jml l).grace then .next (s.hardReset l 2).settle else .next s

/-- HARD_RESET_DRIVE (R267, step 2). -/
def execHardResetDrive (l : Lane) (s : State) : Host.Outcome State Fault Refusal :=
  let l := l.val
  let s := s.begin
  if (s.jml l).link = .hard 0 then .next ((s.onJml l (fun j => { j with link := .hard 1 })).emit (.pltLow l true)) else .next s

/-- HARD_RESET_RELEASE (R267, step 3). -/
def execHardResetRelease (l : Lane) (s : State) : Host.Outcome State Fault Refusal :=
  let l := l.val
  let s := s.begin
  if (s.jml l).link = .hard 1 then .next ((s.onJml l (fun j => { j with link := .hard 2 })).emit (.pltLow l false)) else .next s

/-- PRESENCE_TIMEOUT (R267). -/
def execPresenceTimeout (l : Lane) (s : State) : Host.Outcome State Fault Refusal :=
  let l := l.val
  let s := s.begin
  if (s.jml l).link = .hard 2 then .next (s.hardFails l 4).settle else .next s

/-- CONTACTOR_TIMEOUT (R264): CONTRACT_DROP, and entry ends. -/
def execContactorTimeout (l : Lane) (s : State) : Host.Outcome State Fault Refusal :=
  let l := l.val
  let s := s.begin
  let j := s.jml l
  if j.link ≠ .contactor then .next s
  else
    let n := match j.ask with | some c => c.cnum | none => 0
    .next ((s.ask l 0x0D (leBytes 2 n)).refused l 7).settle

/-- SWAP_TIMEOUT (R272): no KA_MOD request in time under swapped roles. -/
def execSwapTimeout (l : Lane) (s : State) : Host.Outcome State Fault Refusal :=
  let l := l.val
  let s := s.begin
  if s.swapped l ∧ !(s.jml l).has 0x0C then .next (s.softReset l 2).settle else .next s

/-- CONTRACT_BREACH (R271): a breach condition has held for 10 ms. -/
def execContractBreach (l : Lane) (s : State) : Host.Outcome State Fault Refusal :=
  let l := l.val
  let s := s.begin
  let x := s.lane l
  if x.jml.con.isNone ∨ !(x.brV || x.brI) then .next s
  else .next ((s.breaks l 0x080F (if x.brV then 1 else 2)).hardReset l 3).settle

/-! ### Identification (R247) -/

/-- What an average of AUX in mV reads as (Table 11-2): 0 to 7 a class, 8 a short, 9 outside every window. -/
def idClass (mv : Nat) : Nat :=
  let win := fun lo hi => decide (lo ≤ mv ∧ mv ≤ hi)
  if 1980 < mv then 0 else if win 1800 1834 then 1 else if win 1617 1676 then 2 else if win 1328 1416 then 3
  else if win 947 1048 then 4 else if win 594 682 then 5 else if win 330 390 then 6 else if win 165 199 then 7
  else if mv < 20 then 8 else 9

/-- 0x0813, once per entry to DETECT. -/
def State.idInvalid (s : State) (l flags : Nat) : State :=
  if (s.jml l).idLogged then s else (s.onJml l (fun j => { j with idLogged := true })).record 0x0813 (srcLane l) flags

/-- ID_AVERAGE (R247): an average of 16 AUX conversions in DETECT. -/
def execIdAverage (l : Lane) (mv : BitVec 12) (s : State) : Host.Outcome State Fault Refusal :=
  let l := l.val
  let s := s.begin
  let j := s.jml l
  if j.link ≠ .ident ∨ j.idOff then .next s
  else
    let c := idClass mv.toNat
    if c = 0 then .next (s.onJml l (fun j => { j with idN := 0, idRun := 0, idCls := 0 }))
    else
      let run := if c = j.idCls then j.idRun + 1 else 1
      let s := s.onJml l (fun j => { j with idN := j.idN + 1, idRun := run, idCls := c })
      let s := if c = 8 then s.idInvalid l 1 else if c = 7 then s.idInvalid l 2 else s
      if 4 ≤ run ∧ 1 ≤ c ∧ c ≤ 6 then
        .next (((s.wr F.LN_JML_CLASS c l).onJml l (fun j => { j with idOff := true })).queue l .identified)
      else if 16 ≤ (s.jml l).idN then
        .next ((s.idInvalid l 3).onJml l (fun j => { j with idN := 0, idRun := 0, idCls := 0 }))
      else .next s

/-- ID_RESTART (R264): 1 s after an entry failed to DETECT. -/
def execIdRestart (l : Lane) (s : State) : Host.Outcome State Fault Refusal :=
  let l := l.val
  let s := s.begin
  if (s.jml l).link = .ident then .next (s.onJml l (fun j => { j with idOff := false, idN := 0, idRun := 0, idCls := 0 })) else .next s

/-! ### Link commands (R269, R272, R458) -/

/-- LINK_SEND (R269, R458). -/
def execLinkSend (h : CmdHdr) (chan len : Byte) (data : Vector Byte 32) (s : State) : Host.Outcome State Fault Refusal :=
  .next (s.dispatch { opcode := 0x50, issuers := .owner, tgt := .lane } h fun s c =>
    let l := h.tgt.toNat
    if 32 < len.toNat then s.complete c stFieldRange
    else if (s.jml l).con.isNone then s.complete c stLaneState
    else if s.swapped l then s.complete c stNotPermitted
    else if s.waitsOn (fun w => match w with | .linkData k => k == l | _ => false) then s.complete c stResourceBusy
    else (s.ask l 0x0E (chan :: data.toList.take len.toNat)).hold c (.linkData l))

/-- LINK_RENEGOTIATE (R269, R458). -/
def execLinkRenegotiate (h : CmdHdr) (s : State) : Host.Outcome State Fault Refusal :=
  .next (s.dispatch { opcode := 0x51, issuers := .owner, tgt := .lane } h fun s c =>
    let l := h.tgt.toNat
    let st := s.laneState l
    if st = .lost then (s.queue l .renegotiate).hold c (.contract l)
    else if (s.jml l).con.isNone ∨ !(st == .warping || st == .ready || st == .park || st.inService) ∨ (s.jml l).reneg then
      s.complete c stLaneState
    else
      let s := s.onJml l (fun j => { j with reneg := true })
      let s := if s.swapped l then s.softReset l 3 else s.ask l 0x01 []
      s.hold c (.contract l))

/-- LINK_ROLE_SWAP (R272, R458). -/
def execLinkRoleSwap (h : CmdHdr) (dir : Byte) (s : State) : Host.Outcome State Fault Refusal :=
  .next (s.dispatch { opcode := 0x52, issuers := .owner, tgt := .lane } h fun s c =>
    let l := h.tgt.toNat
    let d := dir.toNat
    let j := s.jml l
    if 1 < d then s.complete c stFieldRange
    else if (d == 1) = s.swapped l then s.complete c stOk
    else if d = 1 then
      if j.con.isNone ∨ !bitN (leAt j.caps 22 1) 1 then s.complete c stNotPermitted
      else (if j.has 0x0A then s else s.ask l 0x0A []).hold c (.roles l)
    else (s.softReset l 3).hold c (.roles l))

end Sys2Proof.Machine
end

