-- ==== Sys2Proof/Machine/Warping.lean ====
section
/-!
DEFINITION. Sys2Proof/Machine/Warping.lean: surveys (chapter 8): the bay queues (R170), the steps of full and loaded surveys (R171 to
R181, R188), synthesis and outcome (R182 to R186), readmit checks (R193), adaptation (R189 to R191), and their commands. What a
survey measures arrives as operands.
-/
namespace Sys2Proof.Machine

/-! ### The queue (R168, R170) -/

/-- The conditions under which a survey of a lane leaves its bay's queue (R170). -/
def State.mayStart (s : State) (l : Nat) : Bool :=
  let b := bayOfLane l
  s.flag F.BAY_DL_STAT_DL_LOCK b && s.flag F.BAY_PWM_CTL_PWM_EN b && s.flag F.GLB_REF_REF_SETTLED &&
    s.rd F.MTR_CFG_MODE l != 2 && !s.glbLatch && !s.lnLatch l && !(s.phasesOf l).any s.phLatch

/-- A survey or check of a lane is requested: it joins the queue, and RUNNING reads 1 from now. -/
def State.requestSurvey (s : State) (l : Nat) (k : Kind) : State :=
  let s := s.onBay (bayOfLane l) (fun x => { x with warpQ := x.warpQ ++ [⟨l, k⟩] })
  ((s.put F.LN_WARP_STAT_RUNNING true l).put F.LN_WARP_STAT_LOADED (k == .loaded) l).wr F.LN_WARP_STAT_STEP 0 l

/-- A surveyed phase with nothing measured. -/
def SvPhase.new (p : Nat) : SvPhase := ⟨p, 0, 0, 0, 0, 1, 0, 0, 0, 0, true⟩

/-- The phases a survey of a kind measures: a readmit check its phase, a loaded survey the driven ones, a full survey every phase of
the lane that is not quarantined. -/
def State.svPhases (s : State) (l : Nat) (k : Kind) : List Nat :=
  match k with
  | .readmit p => [p]
  | .loaded => s.drivenOf l
  | _ => (s.phasesOf l).filter (fun p => !s.quarPh p)

/-- A survey as it leaves the queue. -/
def State.newSurvey (s : State) (l : Nat) (k : Kind) : Survey where
  lane := l
  kind := k
  step := 0
  pulses := s.rd F.BAY_WARP_CFG_PULSES (bayOfLane l)
  lnom0 := s.rd F.LN_SHTL_CFG_LNOM l
  phases := (s.svPhases l k).map SvPhase.new
  fails := []
  vm := 0
  vb := 0
  up := true
  ir := 0
  level := 0
  limited := false
  ramp := false
  ended := false
  term := false
  refused := false
  lnom := 0
  kp := 0
  ki := 0
  cmod := none
  d1 := none
  rcable := none
  rmod := none
  v1 := none
  v2 := none
  tau := none
  shuttled := false

/-- Change the running survey of a bay. -/
def State.onSurvey (s : State) (b : Nat) (f : Survey → Survey) : State := s.onBay b (fun x => { x with survey := x.survey.map f })

/-- STEP of a lane's survey, with N as it follows. -/
def State.setStep (s : State) (l n : Nat) : State := s.show (s.wr F.LN_WARP_STAT_STEP n l) l

/-- The steps of a survey have ended: synthesis is due (STEP 4). -/
def State.endSteps (s : State) (b l : Nat) : State := (s.onSurvey b (fun v => { v with ended := true, ramp := false })).setStep l 4

/-- SURVEY_START (R170, R171): the first waiting survey of a bay whose conditions hold leaves the queue. -/
def execSurveyStart (b : Bay) (s : State) : Host.Outcome State Fault Refusal :=
  let b := b.val
  let s := s.begin
  if (s.bay b).survey.isSome then .next s
  else
    match (s.bay b).warpQ.find? (fun r => s.mayStart r.lane) with
    | none => .next s
    | some r =>
      let l := r.lane
      let v := s.newSurvey l r.kind
      let s := s.onBay b (fun x => { x with warpQ := x.warpQ.erase r, survey := some v })
      match r.kind with
      | .loaded =>
        let s := s.setStep l 5
        if s.flag F.LN_SNS_STAT_XMIS l then
          .next ((s.onSurvey b (fun v => { v with fails := [(8, 0)] })).endSteps b l)
        else .next s
      | _ => .next (s.setStep l 1)

/-! ### Steps Q and P (R174 to R178) -/

/-- The full driving order of a lane within the surveyed phases: the n phases of R182. -/
def State.svOrder (s : State) (v : Survey) : List SvPhase :=
  (s.lane v.lane).order.filterMap (fun p => v.phases.find? (fun x => x.p == p))

/-- Positions enabled in PH_SAMP of the phase at position 0 (R183). -/
def State.positions (s : State) (l : Nat) : Nat :=
  let p := (s.lane l).order.headD (16 * bayOfLane l)
  [F.PH_SAMP_POS0, F.PH_SAMP_POS1, F.PH_SAMP_POS2, F.PH_SAMP_POS3].countP (fun f => 64 ≤ s.rd f p)

/-- The gains of R183 on a survey's LNOM and VB; none where there is no LNOM or VB. -/
def State.svGains (s : State) (l lnom : Nat) (vb : Int) : Option (Int × Int) :=
  if lnom = 0 then none else (kpOf s.period lnom vb).map (fun kp => (kp, kiOf kp (s.positions l)))

/-- The end of step P (R171, step 3): LNOM and the provisional gains; a readmit check has ended. -/
def State.endProbes (s : State) (b : Nat) (v : Survey) : State :=
  match v.kind with
  | .readmit _ => s.endSteps b v.lane
  | _ =>
    let o := s.svOrder v
    let n := o.length
    let lnom := if n = 0 then 0 else ((o.foldl (fun a x => a + x.l) (0 : Int) + (n / 2 : Nat)) / n).toNat
    let g := (s.svGains v.lane lnom v.vb).getD (0, 0)
    s.onSurvey b (fun v => { v with lnom := lnom, kp := sat g.1 24, ki := sat g.2 24 })

/-- The end of step Q (R174): the shunt mean, VM, VB, then the sum of 64 codes of each surveyed phase. -/
def State.stepQ (s : State) (b : Nat) (v : Survey) (vals : List Int) : State :=
  let l := v.lane
  let ish := vals.getD 0 0
  let vm := vals.getD 1 0
  let vb := vals.getD 2 0
  let base := s.rdS F.BAY_ISN_OFS_OFS b
  let ps := v.phases.zipIdx.map (fun e => { e.1 with ofs := rndDiv (vals.getD (3 + e.2) 0 - 64 * base) 64 })
  let lo := s.vLo l
  let hi := s.vHi l
  let outW := (match lo with | some x => decide (vm < x) | none => false) || (match hi with | some x => decide (x < vm) | none => false)
  let near := decide (vm < 1000) || decide (vb - vm < 1000)
  let head := match v.kind with
    | .readmit _ => near
    | _ => near || outW || decide ((s.clamps l).2 * vb < vm * 65536)
  let up := match lo, hi with | some a, some c => decide (2 * vm ≤ a + c) | _, _ => true
  let fails := (if 500 < ish.natAbs then [(1, 0)] else []) ++ (if head then [(2, 0)] else [])
  let v' := { v with step := 1, phases := ps, vm := vm, vb := vb, up := up, fails := fails }
  let s := s.onSurvey b (fun _ => v')
  if !fails.isEmpty then s.endSteps b l
  else if ps.isEmpty then (s.setStep l 2).endProbes b v'
  else s.setStep l 2

/-- The lengths in counts of the first and the last interval of a probe pulse (R175). -/
def pulseSpans (v : Survey) (pulseI : Nat) (pos : Bool) : Int × Int :=
  let q : Int := v.lnom0 * pulseI * 100
  let up := v.vb - v.vm
  if pos then
    let n := max 160 (q / up)
    (n, max 160 (n * up / v.vm))
  else
    let n := max 160 (q / v.vm)
    (n, max 160 (n * v.vm / up))

/-- One estimate of R176 added to a phase: V in mV over a span of counts with a current change in mA; `free` where the change is 0. -/
def SvPhase.estimate (x : SvPhase) (vv span di free : Int) : SvPhase :=
  let dt := 3 * span / 4 - span / 4
  let (n, d) : Int × Int := if di = 0 then (free, 1) else (5 * vv * dt, 2 * di.natAbs)
  { x with num := x.num * d + n * x.den, den := x.den * d, nL := x.nL + 1 }

/-- The results of a phase after its last pulse: L_p (R176) and GAIN (R177); one outside every range where ISN's sum is not
positive. -/
def SvPhase.close (x : SvPhase) : SvPhase :=
  { x with l := rndDiv x.num (x.den * max 1 x.nL),
           gain := if x.sumIsn ≤ 0 then 65536 else rndDiv (65536 * (x.sumSh - x.sumIsn)) x.sumIsn }

/-- One probe pulse (R175 to R178): the current changes of its two pairs, the means of ISN and of the shunt over its second plateau
cycle, and the peaks of ISN and of the shunt (R43). -/
def State.stepPulse (s : State) (b : Nat) (v : Survey) (vals : List Int) : State :=
  let k := (v.step - 1) / max 1 v.pulses
  match v.phases[k]? with
  | none => s
  | some x =>
    let pos := x.pulses % 2 == 0
    let g := fun n => vals.getD n 0
    let (n1, n2) := pulseSpans v (s.rd F.BAY_WARP_CFG_PULSE_I b) pos
    let up := v.vb - v.vm
    let (i, s) := s.draw
    let f1 : Int := ((Config.freeValue i).toNat % 65536 : Nat)
    let (i, s) := s.draw
    let f2 : Int := ((Config.freeValue i).toNat % 65536 : Nat)
    let x := (x.estimate (if pos then up else v.vm) n1 (g 0) f1).estimate (if pos then v.vm else up) n2 (g 1) f2
    let sg : Int := if pos then 1 else -1
    let x := { x with
      sumIsn := x.sumIsn + sg * g 2, sumSh := x.sumSh + sg * g 3, pulses := x.pulses + 1,
      wired := x.wired && decide (0 < g 4 * g 5) && decide ((g 4).natAbs ≤ 2 * (g 5).natAbs) }
    let done := decide (x.pulses = v.pulses)
    let x := if done then x.close else x
    let v' := { v with step := v.step + 1, phases := v.phases.set k x }
    let s := s.onSurvey b (fun _ => v')
    let s := if done ∧ !x.wired then s.record 0x050A x.p 0 else s
    if done ∧ k + 1 = v.phases.length then s.endProbes b v' else s

/-! ### Step S (R172, R173, R179 to R181) -/

/-- B of R172: the magnitude of the bound of ranks 1, 2, 3, 5 and 6 in the direction of I_r, for n phases; none without a bound. -/
def State.svBound (s : State) (l n : Nat) (up : Bool) : Option Int :=
  (s.ranks13 l n ++ s.ranks56 l).foldl (fun a r =>
    match (if up then r.up else r.dn.map (fun x => -x)), a with
    | none, a => a
    | some x, none => some x
    | some x, some y => some (min x y)) none

/-- Warping's claim on AUX at step 4 (R180, R29). -/
def State.claimTerm (s : State) (b l : Nat) : State :=
  if (s.lane l).aux = .jml ∧ s.rd F.LN_JML_AUX_USE l = 1 then s.onSurvey b (fun v => { v with term := true })
  else match (s.lane l).aux with
    | .none => (s.setAux l .warping).onSurvey b (fun v => { v with term := true })
    | _ => (s.record 0x0114 (srcLane l) 0).onSurvey b (fun v => { v with refused := true })

/-- Step 4 of Table 8-3: I_r is formed; level I1 begins, or step S is skipped (R172). -/
def State.beginS (s : State) (b : Nat) (v : Survey) : State :=
  let l := v.lane
  let o := (s.lane l).order
  let n := o.length
  let most : Int := min (s.rd F.LN_WARP_CFG_TEST_I l * 250 : Nat) (s.rd F.LN_IPH_IPH_MAX l * n / 2 : Nat)
  let ir := match s.svBound l n v.up with | some x => min most x | none => most
  if ir < 2000 then s.endSteps b l
  else
    let sg : Int := if v.up then 1 else -1
    let s := s.onSurvey b (fun v => { v with ir := sg * ir, level := sg * (ir / 2), limited := false })
    let s := s.claimTerm b l
    let s := s.setDriven l o
    let s := s.forEach o (fun s p => s.beginPhase l p false)
    s.setStep l 3

/-- The lane reference of step S falls to 0 over 1 ms (R171 step 7, R173). -/
def State.rampDown (s : State) (b l : Nat) : State :=
  (s.onSurvey b (fun v => { v with ramp := true })).onLane l (fun x => { x with
    i0 := (match (s.bay b).survey with | some v => v.level | none => 0), tEnd := s.tb + 200000 })

/-- A quotient in millionths rounded toward minus infinity; a free 24-bit value for a zero divisor, which the spec leaves open. -/
def State.perMillion (s : State) (a c : Int) : Int × State :=
  if c = 0 then
    let (i, s) := s.draw
    (toS ((Config.freeValue i).toNat % 2 ^ 24) 24, s)
  else ((a * 1000000).fdiv c, s)

/-- CMOD of R179 from dv in mV and t63 in ns. -/
def capOf (dv t63 i1 : Int) : Option Int :=
  if dv.natAbs < 20 ∨ t63 < 10000 ∨ 2000000 < t63 then none
  else some ((t63 * i1.natAbs + dv.natAbs * 500) / (dv.natAbs * 1000))

/-- The relaxation of R181 from its three samples. -/
def relaxOf (hold : Nat) (v1 v2 v3 i2 : Int) : Option (Int × Int) :=
  let e1 := v2 - v1
  let e2 := v3 - v2
  if 0 < e1 * i2 ∧ 0 < e2 * i2 ∧ e2.natAbs < e1.natAbs then
    some (Config.tau1 (100 * hold) e1 e2, Config.rrlx e1 e2 i2)
  else none

/-- The terminal voltage can be read: AUX is still held by Warping, or by a contract with use "remote sense" (R180, Table 8-9). -/
def State.termOk (s : State) (v : Survey) : Bool :=
  v.term && (match (s.lane v.lane).aux with
    | .warping => true
    | .jml => s.rd F.LN_JML_AUX_USE v.lane == 1
    | _ => false)

/-- A boundary of step S, the `k`-th after step P: 0 step 4; 1 capacitance; 2 level I2 with the first cable reading; 3 the resistance
windows; 4 the second cable reading; 5 to 7 the relaxation samples, the last of which begins the ramp. -/
def State.stepS (s : State) (b : Nat) (v : Survey) (k : Nat) (vals : List Int) : State :=
  let l := v.lane
  let a := vals.getD 0 0
  let c := vals.getD 1 0
  let s := s.onSurvey b (fun v => { v with step := v.step + 1 })
  let held := s.rd F.LN_WARP_CFG_T_HOLD l
  let term := s.termOk v
  match k with
  | 0 => s.beginS b v
  | 1 => s.onSurvey b (fun v => { v with cmod := capOf a c v.level })
  | 2 => s.onSurvey b (fun v => { v with level := v.ir, limited := false, d1 := if s.termOk v then some (a, c) else none })
  | 3 =>
    let (r, s) := s.perMillion a c
    let last := toS (vget (s.lane l).warp 6 0) 24
    s.onSurvey b (fun v => { v with rmod := some (if term then r else r - last) })
  | 4 =>
    match v.d1 with
    | some (d1, i1) =>
      if term then
        let (r, s) := s.perMillion (a - d1) (c - i1)
        s.onSurvey b (fun v => { v with rcable := some r })
      else s
    | none => s
  | 5 => s.onSurvey b (fun v => { v with v1 := some a })
  | 6 => s.onSurvey b (fun v => { v with v2 := some a })
  | _ =>
    let t := match v.v1, v.v2 with
      | some v1, some v2 => relaxOf held v1 v2 a v.level
      | _, _ => none
    (s.onSurvey b (fun v => { v with tau := t })).rampDown b l

/-! ### The loaded survey (R188) -/

/-- L from slope pairs: V times the sum of spacings over the sum of current changes (R189). -/
def State.slopeL (s : State) (l : Nat) (high : Bool) (dt : Nat) (di : Int) : Int × State :=
  let x := s.lane l
  let vv := if high then x.vBus - x.vLat else x.vLat
  if di = 0 then
    let (i, s) := s.draw
    (((Config.freeValue i).toNat % 65536 : Nat), s)
  else (5 * vv * dt / (2 * di.natAbs), s)

/-- One driven phase at the end of step T: pairs taken, whether their interval was HIGH, the sums of spacings and current changes. -/
def State.stepTPhase (s : State) (b l : Nat) (vals : List Int) (e : SvPhase × Nat) : State :=
  let g := fun n => vals.getD (4 * e.2 + n) 0
  if g 0 < 64 then s
  else
    let (ind, s) := s.slopeL l (g 1 != 0) (g 2).toNat (g 3)
    s.onSurvey b (fun v => { v with phases := v.phases.map (fun x => if x.p = e.1.p then { x with l := ind, nL := 64 } else x) })

/-- The end of step T: step X begins in bus-follow, else synthesis is due. -/
def State.stepT (s : State) (b : Nat) (v : Survey) (vals : List Int) : State :=
  let l := v.lane
  let s := v.phases.zipIdx.foldl (fun s e => s.stepTPhase b l vals e) (s.onSurvey b (fun v => { v with step := 1 }))
  if s.busForm (s.segOf l) then s.endSteps b l
  else
    let sg : Int := if 0 < s.rdS F.LN_LOOP_STAT_IREF l then -1 else 1
    let d := sg * ((s.rd F.LN_WARP_CFG_TEST_I l * 125 / 2 : Nat) : Int)
    ((s.onSurvey b (fun v => { v with level := d, shuttled := s.held l })).claimTerm b l).setStep l 6

/-- The end of step X: the changes of the voltage, of the cable drop and of the current between its windows. -/
def State.stepX (s : State) (b : Nat) (v : Survey) (vals : List Int) : State :=
  let l := v.lane
  let g := fun n => vals.getD n 0
  let di := g 2
  let term := s.termOk v
  let s := s.onSurvey b (fun v => { v with step := 2, level := 0 })
  let s := if di.natAbs < 2000 ∨ v.shuttled ∨ s.busForm (s.segOf l) then s
    else
      let (r, s) := s.perMillion (g 0) di
      let (cab, s) := s.perMillion (g 1) di
      let last := toS (vget (s.lane l).warp 6 0) 24
      s.onSurvey b (fun v => { v with
        rmod := some (if term then r else r - last), rcable := if term then some cab else none })
  s.endSteps b l

/-- SURVEY_STEP (R171, R174 to R181, R188): the next boundary of a bay's survey takes its measurements. -/
def execSurveyStep (b : Bay) (values : List Int) (s : State) : Host.Outcome State Fault Refusal :=
  let b := b.val
  let s := s.begin
  match (s.bay b).survey with
  | none => .next s
  | some v =>
    if v.ended ∨ v.ramp then .next s
    else
      match v.kind with
      | .loaded => .next (if v.step = 0 then s.stepT b v values else s.stepX b v values)
      | _ =>
        let m := v.pulses * v.phases.length
        if v.step = 0 then .next (s.stepQ b v values)
        else if v.step ≤ m then .next (s.stepPulse b v values)
        else .next (s.stepS b v (v.step - m - 1) values)

/-! ### Outcome (R182 to R186) -/

/-- LRATIO of an inductance against LNOM, before and after the clamp to the register range (R182). -/
def ratioOf (l : Int) (lnom : Nat) : Int := (l * 16384 + lnom / 2) / lnom
def ratioClamp (r : Int) : Nat := (max 0x1000 (min 0xFFFF r)).toNat

/-- The failures of the phases of a survey against Table 8-4. -/
def Survey.phaseFails (v : Survey) (order : List Nat) (lnom : Nat) : List (Nat × Nat) :=
  (v.phases.map (fun x =>
    let k := x.p % 16
    let ind := decide (x.l < 1000) || decide (65535 < x.l) ||
      order.contains x.p && (decide (ratioOf x.l lnom < 0x3000) || decide (0x5000 < ratioOf x.l lnom))
    (if x.wired then [] else [(3, k)]) ++ (if 127 < x.ofs.natAbs then [(4, k)] else []) ++
      (if 5243 < x.gain.natAbs then [(5, k)] else []) ++ (if ind then [(6, k)] else []))).flatten

/-- The least failure: the lowest code, and of it the lowest phase (R186). -/
def leastFail : List (Nat × Nat) → Option (Nat × Nat)
  | [] => none
  | f :: t => match leastFail t with
    | none => some f
    | some g => if g.1 < f.1 ∨ g.1 = f.1 ∧ g.2 < f.2 then some g else some f

/-- LNOM of a loaded survey: the new L_p of the n phases, LSURV of those not measured (R188). -/
def State.loadedLnom (s : State) (v : Survey) : Nat :=
  let o := (s.lane v.lane).order
  let n := o.length
  if n = 0 then 0
  else
    let sum := o.foldl (fun a p =>
      a + match v.phases.find? (fun x => x.p == p && x.nL != 0) with
        | some x => x.l
        | none => ((s.rd F.PH_WARP_LSURV p : Nat) : Int)) (0 : Int)
    ((sum + (n / 2 : Nat)) / n).toNat

/-- The inputs of R184 for a survey. -/
def State.synthIn (s : State) (v : Survey) : SynthIn :=
  let l := v.lane
  let x := s.lane l
  let item := fun k => vget x.warp k 0
  { nd := x.order.length, period := s.period, rateDiv := s.rd F.LN_LOOP_CFG_RATE_DIV l,
    xoDiv := s.rd F.BAY_WARP_CFG_XO_DIV (bayOfLane l), pm := s.rd F.BAY_WARP_CFG_PM (bayOfLane l),
    rx := v.rcable.getD 0 + v.rmod.getD (item 3),
    cx := match v.cmod with | some c => c.toNat | none => if v.kind = .loaded ∧ !vget x.nm 5 true then item 5 else item 2,
    cb := item 1,
    vm := if v.kind = .loaded then x.vmQ else v.vm, vb := if v.kind = .loaded then item 11 else v.vb }

/-- What a successful survey of R185 writes as words: sets 0, 1 and 2, and the crossovers. -/
structure SvWords where
  w0 : List Int
  w1 : List Int
  kp : Int
  ki : Int
  x0 : Int
  x1 : Int
  r0 : Bool
  r1 : Bool
  deriving DecidableEq, Repr

/-- Synthesis (R183, R184); none where it fails with SYNTH. -/
def State.synthesise (s : State) (v : Survey) (lnom : Nat) : Option SvWords :=
  let x := s.synthIn v
  match synthLane 0 x, synthLane 1 x, s.svGains v.lane lnom x.vb with
  | some a, some b, some (kp, ki) =>
    match a.words, b.words, a.f.rnd 0, b.f.rnd 0 with
    | some w0, some w1, some f0, some f1 =>
      if 8388607 < kp.natAbs ∨ 8388607 < ki.natAbs then none
      else some ⟨w0, w1, kp, ki, f0, f1, decide (a.reduced ≠ 0), decide (b.reduced ≠ 0)⟩
    | _, _, _, _ => none
  | _, _, _ => none

/-- An item of LN_WARP_DATA as measured: its 24-bit word, NM cleared; or not measured: NM set, the earlier value stands. -/
def LaneSt.setItem (x : LaneSt) (k : Nat) (v : Option Int) : LaneSt :=
  match v with
  | some n => { x with warp := vupd x.warp k (fun _ => ofS n 24), nm := vupd x.nm k (fun _ => false) }
  | none => { x with nm := vupd x.nm k (fun _ => true) }

/-- LEN of R180 in cm. -/
def State.lenOf (s : State) (l : Nat) (r : Int) : Int :=
  (r * vget (s.lane l).warp 0 0) / (20 * max 1 (s.rd F.BAY_WARP_CFG_RHO (bayOfLane l)))

/-- A coefficient list placed in a lane's words from an index. -/
def putWords (v : Vector Int 18) (i : Nat) : List Int → Vector Int 18
  | [] => v
  | x :: t => putWords (vupd v i (fun _ => x)) (i + 1) t

/-- The results of one phase (R185, R193): LRATIO, LSURV, LTRACK, FROZEN; OFS and GAIN but for a loaded survey. -/
def State.putPhase (s : State) (l : Nat) (x : SvPhase) (lnom : Nat) (cal : Bool) : State :=
  let s := if cal then (s.wrS F.PH_ISNCAL_OFS x.ofs x.p).wrS F.PH_ISNCAL_GAIN x.gain x.p else s
  let s := s.wr F.PH_LOOP_LRATIO (ratioClamp (ratioOf x.l lnom)) x.p
  let s := (s.wr F.PH_WARP_LSURV (clampI x.l 0 65535).toNat x.p).wr F.PH_WARP_LTRACK (clampI x.l 0 65535).toNat x.p
  (s.putBit F.LN_WARP_STAT_FROZEN (x.p % 16) false l).onPh x.p (fun y => { y with surveyed := true })

/-- A survey succeeds (R185): the results, its event, VALID, its command; then its lane goes on. -/
def State.applySurvey (s : State) (v : Survey) (lnom : Nat) (w : SvWords) : State :=
  let l := v.lane
  let loaded := v.kind == .loaded
  let s := v.phases.foldl (fun s x => if loaded ∧ x.nL = 0 then s else s.putPhase l x lnom (!loaded)) s
  let s := s.wr F.LN_SHTL_CFG_LNOM lnom l
  let len := v.rcable.map (s.lenOf l)
  let flags := (if loaded then 64 else v.cmod.isNone.toNat + 8 * v.tau.isNone.toNat) + 2 * v.rcable.isNone.toNat +
    4 * v.rmod.isNone.toNat + 16 * w.r0.toNat + 32 * w.r1.toNat
  let s := s.onLane l (fun x =>
    let put := fun (c : Vector Int 18) => putWords (putWords (putWords c 0 w.w0) 8 w.w1) 16 [w.kp, w.ki]
    let x := { x with coefW := put x.coefW, coefS := put x.coefS, surveyed := true }
    let x := ((x.setItem 6 v.rcable).setItem 7 len).setItem 8 v.rmod
    let x := (x.setItem 12 (some w.x0)).setItem 13 (some w.x1)
    if loaded then x
    else
      let x := ((x.setItem 5 v.cmod).setItem 9 (v.tau.map Prod.snd)).setItem 10 (v.tau.map Prod.fst)
      let serial := if x.jml.caps.isEmpty then x.serial else some (leAt x.jml.caps 13 8)
      { x.setItem 11 (some v.vb) with vmQ := v.vm, serial := serial })
  let s := (s.wr F.LN_WARP_STAT_RESULT 0 l).wr F.LN_WARP_STAT_FAIL_PH 0 l
  let s := (if loaded then s else s.put F.LN_WARP_STAT_VALID true l).endSurvey l
  let s := s.record 0x0501 (srcLane l) flags
  let s := s.finish (fun e => match e with | .surveyEnd k => k == l | _ => false)
    (if v.refused then stResourceBusy else stOk) (zeros 2 ++ leBytes 1 flags)
  match v.kind with
  | .entry => s.enter l .ready
  | .re => s.enter l (s.lane l).back
  | _ => s

/-- A survey fails (R186): nothing is written but its result; a full survey's lane enters FAULTED. -/
def State.failSurvey (s : State) (v : Survey) (code k : Nat) : State :=
  let l := v.lane
  let loaded := v.kind == .loaded
  let s := (s.wr F.LN_WARP_STAT_RESULT code l).wr F.LN_WARP_STAT_FAIL_PH k l
  let s := (if loaded then s else s.put F.LN_WARP_STAT_VALID false l).endSurvey l
  let s := s.record 0x0503 (srcLane l) code
  let s := s.finish (fun e => match e with | .surveyEnd j => j == l | _ => false) stLaneState
    (leBytes 1 code ++ leBytes 1 k)
  if loaded then s else s.faultLane l 4

/-- SURVEY_DONE (R182 to R186): synthesis runs at the end of a bay's survey; the results are applied, or the survey fails. -/
def execSurveyDone (b : Bay) (s : State) : Host.Outcome State Fault Refusal :=
  let b := b.val
  let s := s.begin
  match (s.bay b).survey with
  | none => .next s
  | some v =>
    if !v.ended then .next s
    else
      match v.kind with
      | .readmit _ => .next s
      | k =>
        let o := (s.lane v.lane).order
        let lnom := if k = .loaded then s.loadedLnom v else v.lnom
        let measured := if k = .loaded then { v with phases := v.phases.filter (fun x => x.nL != 0) } else v
        let fails := v.fails ++ (if v.fails.any (fun f => f.1 ∈ [1, 2, 8]) then []
          else if lnom = 0 then (6, 0) :: measured.phaseFails [] 1 else measured.phaseFails o lnom)
        match leastFail fails with
        | some (code, ph) => .next (s.failSurvey v code ph).settle
        | none =>
          match s.synthesise v lnom with
          | none => .next (s.failSurvey v 7 0).settle
          | some w => .next (s.applySurvey v lnom w).settle

/-! ### The readmit check (R193) -/

/-- The failure code of a readmit check; 0 for a pass. -/
def State.readmitCode (s : State) (v : Survey) : Nat :=
  match v.phases with
  | x :: _ =>
    let ls := s.rd F.PH_WARP_LSURV x.p
    let ref : Int := if ls = 0 then s.rd F.LN_SHTL_CFG_LNOM v.lane else ls
    let off := decide (ref < 4 * ((x.l - ref).natAbs : Int))
    match v.fails with
    | f :: _ => f.1
    | [] => if !x.wired then 3 else if 127 < x.ofs.natAbs then 4 else if 5243 < x.gain.natAbs then 5 else if off then 6 else 0
  | [] => 6

/-- READMIT_PASSED (R193): a readmit check ends: on a pass the quarantine clears and the phase's results are written; on a failure the
quarantine stays. -/
def execReadmitPassed (b : Bay) (s : State) : Host.Outcome State Fault Refusal :=
  let b := b.val
  let s := s.begin
  match (s.bay b).survey with
  | none => .next s
  | some v =>
    match v.kind, v.phases, v.ended with
    | .readmit p, x :: _, true =>
      let l := v.lane
      let code := s.readmitCode v
      let s := s.endSurvey l
      let mine := fun e => match e with | WaitFor.readmitEnd q => q == p | _ => false
      let res := leBytes 1 code ++ zeros 1 ++ leBytes 2 (clampI x.l 0 65535).toNat
      if code ≠ 0 then .next ((s.record 0x0508 p code).finish mine stQuarantined res)
      else
        let s := s.putPhase l x (max 1 (s.rd F.LN_SHTL_CFG_LNOM l)) true
        let s := s.putBit F.BAY_PHASE_SVC_QUAR (p % 16) false (bayOfPhase p)
        let s := s.onLane l (fun y => { y with reform := y.reform || s.laneState l != .faulted, lose := y.lose.filter (· != p) })
        .next (((s.record 0x0507 p 0).finish mine stOk res).settle)
    | _, _, _ => .next s

/-! ### Adaptation (R189 to R192) -/

/-- ADAPT_ESTIMATE (R189 to R191): sixteen slope pairs of a driven phase form an estimate: the kind of their interval, the sum of their
spacings in counts, the sum of their current changes in mA. -/
def execAdaptEstimate (p : Phase) (high : Bool) (dt : Nat) (di : Int) (s : State) : Host.Outcome State Fault Refusal :=
  let p := p.val
  let s := s.begin
  match s.laneOf p with
  | none => .next s
  | some l =>
    let st := s.laneState l
    if !s.flag F.BAY_WARP_CFG_TRACK_EN (bayOfLane l) ∨ !s.driven p ∨ !(st == .runFull || st == .runShed) ∨ s.held l ∨
        s.flag F.LN_WARP_STAT_SUSP l then .next s
    else
      let (m, s) := s.slopeL l high dt di
      let lf0 : Int := s.rd F.PH_WARP_LTRACK p
      let lf := clampI (lf0 + (m - lf0) / 16) 0 65535
      let s := s.wr F.PH_WARP_LTRACK lf.toNat p
      let ls : Int := s.rd F.PH_WARP_LSURV p
      let frozen := s.rdBit F.LN_WARP_STAT_FROZEN (p % 16) l
      if frozen then .next s
      else if ls < 4 * ((lf - ls).natAbs : Int) then
        .next (((s.putBit F.LN_WARP_STAT_FROZEN (p % 16) true l).record 0x0504 p 0).settle)
      else
        let lnom := s.rd F.LN_SHTL_CFG_LNOM l
        let used : Int := lnom * s.rd F.PH_LOOP_LRATIO p / 16384
        if 2 * used < 25 * ((lf - used).natAbs : Int) then
          let s := s.wr F.PH_LOOP_LRATIO (ratioClamp (ratioOf lf (max 1 lnom))) p
          .next ((s.onPh p (fun x => { x with surveyed := true })).record 0x0502 p (decide (used < lf)).toNat)
        else .next s

/-! ### LN_WARP_DATA (R195) -/

/-- A write to LN_WARP_DATA: the item at IDX, where it is RW. -/
def State.writeWarpData (s : State) (l w : Nat) : State :=
  let k := s.rd F.LN_WARP_CFG_IDX l
  if k ≤ 4 then s.onLane l (fun x => { x with warp := vupd x.warp k (fun _ => w % 2 ^ 24) }) else s

/-! ### Commands -/

/-- LANE_WARP (R168, R446). -/
def execLaneWarp (h : CmdHdr) (s : State) : Host.Outcome State Fault Refusal :=
  .next (s.dispatch { opcode := 0x18, issuers := .owner, tgt := .lane } h fun s c =>
    let l := h.tgt.toNat
    let st := s.laneState l
    let idle := st == .ready || st == .park
    let run := st == .runFull || st == .runShed
    if !idle ∧ !run ∨ idle ∧ !s.flag F.LN_STATE_CONTRACT l ∨ !s.flag F.BAY_PWM_CTL_PWM_EN (bayOfLane l) ∨
        !s.flag F.GLB_REF_REF_SETTLED ∨ s.rd F.MTR_CFG_MODE l = 2 then s.complete c stLaneState
    else if s.flag F.LN_STATE_SUP_HOLD l then s.complete c stNotPermitted
    else if s.flag F.LN_WARP_STAT_RUNNING l then s.complete c stResourceBusy
    else if run then (s.requestSurvey l .loaded).hold c (.surveyEnd l)
    else ((s.put F.LN_WARP_STAT_RUNNING true l).queue l .warp).hold c (.surveyEnd l))

/-- PHASE_READMIT (R193, R449). -/
def execPhaseReadmit (h : CmdHdr) (s : State) : Host.Outcome State Fault Refusal :=
  .next (s.dispatch { opcode := 0x20, issuers := .m, tgt := .phase } h fun s c =>
    let p := h.tgt.toNat
    match s.laneOf p with
    | none => s.complete c stLaneState
    | some l =>
      let st := s.laneState l
      let ok := st == .ready || st == .park || st == .faulted && s.rd F.LN_STATE_FCAUSE l == 5 && !s.glbLatch && !s.lnLatch l &&
        !(s.phasesOf l).any s.phLatch
      if !ok then s.complete c stLaneState
      else if !s.quarPh p ∨ s.flag F.LN_STATE_SUP_HOLD l then s.complete c stNotPermitted
      else if s.flag F.LN_WARP_STAT_RUNNING l then s.complete c stResourceBusy
      else (s.requestSurvey l (.readmit p)).hold c (.readmitEnd p))

end Sys2Proof.Machine
end

