-- ==== Sys2Proof/Machine/Heddle.lean ====
section
/-!
DEFINITION. Sys2Proof/Machine/Heddle.lean: the commit of a bay's Heddle (R45 to R48).
-/
namespace Sys2Proof.Machine

/-- Entry k of a pair of map words (R44). -/
def mapEntry (lo hi k : Nat) : Nat := if k < 8 then bitsN lo (4 * k) 4 else bitsN hi (4 * (k - 8)) 4

/-- An entry places its phase in a slot. -/
def inSlot (e n : Nat) : Bool := decide (4 ≤ e) && e % 4 == n

/-- A slot is map-touched: a phase enters or leaves it, or the role of one of its phases changes (R45). -/
def State.mapTouched (s : State) (b : Nat) (q : Snap) (n : Nat) : Bool :=
  (List.range 16).any (fun k =>
    let o := s.heddle (16 * b + k)
    let e := mapEntry q.lo q.hi k
    inSlot o n != inSlot e n || inSlot o n && o != e)

/-- The segment of a slot changes (R45). -/
def State.segTouched (s : State) (b : Nat) (q : Snap) (n : Nat) : Bool :=
  bitsN (s.rd F.BAY_HEDDLE_STAT_ACT_SEG b) (2 * n) 2 != bitsN q.seg (2 * n) 2

/-- A lane's slot is held by a commit in progress: it stays in OFF or PARK (R47). -/
def State.slotHeld (s : State) (l : Nat) : Bool :=
  let b := bayOfLane l
  match (s.bay b).snap with
  | some q =>
    (s.laneState l == .off || s.laneState l == .park) && (s.mapTouched b q (slotOf l) || s.segTouched b q (slotOf l))
  | none => false

/-- The outcome of the conditions of Table 2-1: the lowest code, the phase and the slot it names. -/
def State.commitCheck (s : State) (b : Nat) (q : Snap) : Option (Nat × Nat × Nat) :=
  let e := mapEntry q.lo q.hi
  let ks := List.range 16
  let role := fun n r => ks.filter (fun k => inSlot (e k) n && e k / 4 == r)
  let slots := List.range 4
  let st := fun n => s.laneState (4 * b + n)
  match ks.find? (fun k => e k / 4 == 3) with
  | some k => some (1, k, 0)
  | none =>
  match slots.find? (fun n => (role n 1).isEmpty && !(role n 2).isEmpty) with
  | some n => some (2, 0, n)
  | none =>
  match slots.find? (fun n => decide (2 < (role n 2).length)) with
  | some n => some (3, 0, n)
  | none =>
  match slots.find? (fun n => !(role n 1).isEmpty && (role n 1 ++ role n 2).all (bitN q.quar)) with
  | some n => some (4, 0, n)
  | none =>
  match slots.find? (fun n =>
      if s.mapTouched b q n then st n != .off else s.segTouched b q n && st n != .off && st n != .park) with
  | some n => some (5, 0, n)
  | none => none

/-- Refuse a commit (R46). -/
def State.refuseCommit (s : State) (b code ph slot : Nat) : State :=
  (((s.put F.BAY_HEDDLE_STAT_REFUSED true b).wr F.BAY_HEDDLE_STAT_ERR code b).wr F.BAY_HEDDLE_STAT_ERR_PHASE ph b).wr
    F.BAY_HEDDLE_STAT_ERR_SLOT slot b

/-- A write to BAY_HEDDLE_CMT: COMMIT takes the snapshot, or is refused while BUSY reads 1 (R46, R47). -/
def State.writeCommit (s : State) (b w : Nat) : State :=
  if !bitN w 0 then s
  else if s.flag F.BAY_HEDDLE_STAT_BUSY b then s.refuseCommit b 6 0 0
  else
    let q : Snap := ⟨s.rd F.BAY_HEDDLE_LO_PH0_7 b, s.rd F.BAY_HEDDLE_HI_PH8_15 b, (s.reg .BAY_LANE_SEG b).toNat % 256,
      s.rd F.BAY_PHASE_SVC_QUAR b⟩
    (s.onBay b (fun x => { x with snap := some q })).put F.BAY_HEDDLE_STAT_BUSY true b

/-- HEDDLE_COMMIT (R47): a write of COMMIT and its commit cycle. -/
def execHeddleCommit (b : Bay) (w : BusWrite) (s : State) : Host.Outcome State Fault Refusal :=
  .next (s.gate w (fun s v => s.writeCommit b.val v))

/-- A phase that leaves a slot loses its coefficients, trims and survey results (R48). -/
def State.shedPhase (s : State) (p : Nat) : State :=
  let s := match s.laneOf p with | some l => s.putBit F.LN_WARP_STAT_FROZEN (p % 16) false l | none => s
  let s := (s.wr F.PH_LOOP_LRATIO 0x4000 p).wr F.PH_LOOP_SHARE_TRIM 0 p
  let s := (s.wr F.PH_ISNCAL_OFS 0 p).wr F.PH_ISNCAL_GAIN 0 p
  let s := (s.wr F.PH_WARP_LSURV 0 p).wr F.PH_WARP_LTRACK 0 p
  s.onPh p (fun x => { x with surveyed := false })

/-- The active copy of a bay is loaded, and with it SLOT_CFG and ACT_SEG. -/
def State.loadActive (s : State) (b lo hi seg : Nat) : State :=
  let s := (s.wr F.BAY_HEDDLE_ACT_LO_PH0_7 lo b).wr F.BAY_HEDDLE_ACT_HI_PH8_15 hi b
  let s := s.wr F.BAY_HEDDLE_STAT_ACT_SEG seg b
  s.wr F.BAY_HEDDLE_STAT_SLOT_CFG (maskOf ((List.range 4).filter (fun n =>
    (List.range 16).any (fun k => mapEntry lo hi k == 4 + n)))) b

/-- The full driving order of a lane is formed anew, and its phases take their targets. -/
def State.reorder (s : State) (l : Nat) : State :=
  let o := s.formOrder l
  let s := s.onLane l (fun x => { x with order := o, lose := [], reform := false })
  (s.setDriven l o).wr F.LN_STATE_NFULL o.length l

/-- What a commit does to one slot of its bay once the active copy is loaded: `m` map-touched, `g` segment-touched from `old`. -/
def State.commitSlot (s : State) (l : Nat) (m g : Bool) (old : Nat) (was : Bool) : State :=
  let new := s.segOf l
  let s := if m then (s.put F.LN_WARP_STAT_VALID false l).reorder l else s
  let s := if was ∧ !s.configured l then s.onMeter l (fun x => { x with counted := false }) else s
  let s := if !was ∧ s.configured l then s.startAcct l else s
  let s := if g ∨ was ≠ s.configured l then
      (if old = new then s.askReed new 1 else (s.askReed old 1).askReed new 1)
    else s
  if (g ∨ !was) ∧ s.flag F.LN_REED_PIN_EN l ∧ !s.rdBit F.REED_CFG_PLAN_EN new then
    (s.wr F.LN_REED_BASE (s.rd F.LN_REED_PIN_BASE l) l).retarget l
  else s

/-- Apply a commit (R48). -/
def State.applyCommit (s : State) (b : Nat) (q : Snap) : State :=
  let s0 := s
  let left := (List.range 16).filter (fun k =>
    (List.range 4).any (fun n => inSlot (s.heddle (16 * b + k)) n && !inSlot (mapEntry q.lo q.hi k) n))
  let s := s.forEach left (fun s k => s.shedPhase (16 * b + k))
  let s := s.loadActive b q.lo q.hi q.seg
  let free := (bayPhases b).filter (fun p => (s.laneOf p).isNone)
  let s := s.forEach free (fun s p =>
    (s.putBit F.BAY_PHASE_SVC_DRIVEN (p % 16) false b).onPh p (fun x => { x with ofs := 0, ofsT := 0 }))
  s.forEach (List.range 4) (fun s n =>
    let l := 4 * b + n
    s.commitSlot l (s0.mapTouched b q n) (s0.segTouched b q n) (s0.segOf l) (s0.configured l))

/-- HEDDLE_COMMIT_DONE (R46 to R48): the commit in progress is refused or applied, and BUSY clears. -/
def execHeddleCommitDone (b : Bay) (s : State) : Host.Outcome State Fault Refusal :=
  let b := b.val
  let s := s.begin
  match (s.bay b).snap with
  | none => .next s
  | some q =>
    let r := s.commitCheck b q
    let s := (s.onBay b (fun x => { x with snap := none })).put F.BAY_HEDDLE_STAT_BUSY false b
    match r with
    | some (code, ph, slot) => .next (s.refuseCommit b code ph slot)
    | none => .next (s.applyCommit b q).pinTrips.settle

end Sys2Proof.Machine
end

