-- ==== Sys2Proof/Machine/Reed.lean ====
section
/-!
DEFINITION. Sys2Proof/Machine/Reed.lean: the Reed (chapter 7): the ripple model and the plan (R156 to R159), its requests, starts and
adoption (R160 to R164).
-/
namespace Sys2Proof.Machine

/-! ### The ripple model and the plan (R157 to R159) -/

/-- Add `i` to `h` bins from `st` on, modulo 64. -/
def addBins (i : Int) (st : Nat) : Nat → List Int → List Int
  | 0, x => x
  | h + 1, x => addBins i st h (x.modify ((st + h) % 64) (· + i))

/-- lane_bins of R157 with base b. -/
def ReedIn.bins (a : ReedIn) (vb : Int) (b : Nat) (x : List Int) : List Int :=
  let n := max 1 a.nl
  let h := if vb < 1000 then 0 else (max 0 (min 64 ((a.vm * 128 + vb) / (2 * vb)))).toNat
  (List.range n).foldl (fun x j => addBins (a.il / n) (b + (2 * j * 64 + n) / (2 * n)) h x) x

/-- The sum of squares of the bins. -/
def sumSq (x : List Int) : Int := x.foldl (fun a v => a + v * v) 0

/-- The first of least cost among candidates c, c + 1, … -/
def bestBase (a : ReedIn) (vb : Int) (x : List Int) : Nat → Nat → Option (Int × Nat) → Option (Int × Nat)
  | 0, _, r => r
  | n + 1, c, r =>
    let cost := sumSq (a.bins vb c x)
    bestBase a vb x n (c + 1) (match r with
      | some (k, d) => if cost < k then some (cost, c) else some (k, d)
      | none => some (cost, c))

/-- Place the unpinned lanes in order: each base chosen, and the bins after it. -/
def placeLanes (vb : Int) : List ReedIn → List Int → List (Nat × Nat) × List Int
  | [], x => ([], x)
  | a :: t, x =>
    let n := max 1 a.nl
    let b := match bestBase a vb x ((64 + n - 1) / n) 0 none with | some (_, c) => c | none => 0
    let (r, y) := placeLanes vb t (a.bins vb b x)
    ((a.l, b) :: r, y)

/-- var64 of R158. -/
def var64 (x : List Int) : Int :=
  let sx := x.foldl (· + ·) 0
  64 * sumSq x - sx * sx

/-- Empty bins. -/
def noBins : List Int := List.replicate 64 0

/-- Insert by magnitude descending, ties in ascending lane index. -/
def insMag (a : ReedIn) : List ReedIn → List ReedIn
  | [] => [a]
  | b :: t => if b.il.natAbs < a.il.natAbs then a :: b :: t else b :: insMag a t

/-- reed_plan of R158: a base for each planned lane, and var64. -/
def State.reedPlan (s : State) (r : ReedRun) : List (Nat × Nat) × Int :=
  let isPin := fun (a : ReedIn) => s.flag F.LN_REED_PIN_EN a.l
  let pins := (r.lanes.filter isPin).map (fun a => (a, s.rd F.LN_REED_PIN_BASE a.l))
  let un := (r.lanes.filter (fun a => !isPin a)).foldl (fun q a => insMag a q) []
  let x := pins.foldl (fun x k => k.1.bins r.vb k.2 x) noBins
  let (ch, y) := placeLanes r.vb un x
  (pins.map (fun k => (k.1.l, k.2)) ++ ch, var64 y)

/-- The present var64 over the same inputs (R161). -/
def State.reedPresent (s : State) (r : ReedRun) : Int :=
  var64 (r.lanes.foldl (fun x a =>
    a.bins r.vb (if s.flag F.LN_REED_PIN_EN a.l then s.rd F.LN_REED_PIN_BASE a.l else s.rd F.LN_REED_BASE a.l) x) noBins)

/-- isqrt of R159: the square root rounded down. -/
def isqrtNat (n : Nat) : Nat := F64.isqrt n 40 0

/-! ### Requests, start, adoption (R160 to R162) -/

/-- The planned set of a segment with its latched inputs (R156). -/
def State.reedInputs (s : State) (g : Nat) : List ReedIn :=
  ((s.lanesOfSeg g).filter (fun l => (s.laneState l).planned && s.rd F.LN_STATE_N l != 0)).map (fun l =>
    ⟨l, s.rdS F.LN_LOOP_STAT_IREF l, s.rd F.LN_STATE_N l, (s.lane l).vMod⟩)

/-- REED_REPLAN (R160): the periodic interval elapses. -/
def execReedReplan (s : State) : Host.Outcome State Fault Refusal :=
  let s := s.begin
  if s.rd F.REED_CFG_REPLAN = 0 then .next s
  else .next (s.forEach (List.range 4) (fun s g => s.askReed g 4))

/-- REED_PLAN_START (R156, R160): the free engine takes the waiting segment of lowest index and latches its inputs; none starts in debug
freeze. -/
def execReedPlanStart (s : State) : Host.Outcome State Fault Refusal :=
  let s := s.begin
  if s.pwm.reed.isSome ∨ s.flag F.GLB_PWM_STAT_FREEZE then .next s
  else
    match (List.range 4).find? (fun g => vget s.pwm.reedPend g 0 != 0) with
    | none => .next s
    | some g =>
      let r : ReedRun := ⟨g, vget s.pwm.reedPend g 0, (s.seg g).vBus, s.reedInputs g⟩
      let s := s.onPwm (fun x => { x with reed := some r, reedPend := vupd x.reedPend g (fun _ => 0) })
      .next (s.wr F.REED_STAT_CUR_SEG g)

/-- Adopt a plan (R162). -/
def State.adopt (s : State) (r : ReedRun) (bases : List (Nat × Nat)) (v : Int) : State :=
  let s := bases.foldl (fun s k => (s.wr F.LN_REED_BASE k.2 k.1).retarget k.1) s
  let plan := min 65535 (isqrtNat (v / 4096).toNat / 100)
  let s := s.wr F.REED_RIP_PLAN plan r.seg
  let lim := s.rd F.REED_RIP_LIM r.seg
  let s := if lim ≠ 0 ∧ lim < plan then (s.putBit F.REED_STAT_RIP_EVT r.seg true).record 0x0402 (srcSeg r.seg) 0 else s
  s.record 0x0401 (srcSeg r.seg) r.causes

/-- PLAN_ADOPTED (R161, R162): the plan that runs completes: adopted, or, for cause 4 alone, left when it gains too little. -/
def execPlanAdopted (s : State) : Host.Outcome State Fault Refusal :=
  let s := s.begin
  match s.pwm.reed with
  | none => .next s
  | some r =>
    let s := s.onPwm (fun x => { x with reed := none })
    let (bases, v) := s.reedPlan r
    if r.causes = 8 ∧ !decide (v * 1024 < s.reedPresent r * (1024 - s.rd F.REED_CFG_HYST)) then .next s
    else .next (s.adopt r bases v).settle

/-! ### Register writes (R160, R164) -/

/-- A lane of a segment that is not planned takes its pinned base (R164). -/
def State.takePin (s : State) (l : Nat) : State :=
  if s.flag F.LN_REED_PIN_EN l ∧ s.configured l ∧ !s.rdBit F.REED_CFG_PLAN_EN (s.segOf l) then
    (s.wr F.LN_REED_BASE (s.rd F.LN_REED_PIN_BASE l) l).retarget l
  else s

/-- A write to REED_CFG: PLAN requests cause 5; a cleared PLAN_EN places the pinned lanes of its segment. -/
def State.writeReedCfg (s : State) (w : Nat) : State :=
  let was := s.rd F.REED_CFG_PLAN_EN
  let s := s.plainWrite .REED_CFG 0 w
  let s := s.forEach ((List.range 4).filter (fun g => bitN w (4 + g))) (fun s g => s.askReed g 5)
  s.forEach ((List.range 48).filter (fun l => bitN was (s.segOf l))) State.takePin

/-- A write to LN_REED: a change of PIN_EN or PIN_BASE requests cause 5, or places the lane where its segment is not planned. -/
def State.writeLnReed (s : State) (l w : Nat) : State :=
  let e := s.rd F.LN_REED_PIN_EN l
  let b := s.rd F.LN_REED_PIN_BASE l
  let s := s.plainWrite .LN_REED l w
  if e = s.rd F.LN_REED_PIN_EN l ∧ b = s.rd F.LN_REED_PIN_BASE l then s else (s.askReed (s.segOf l) 5).takePin l

/-- PLAN (R160): a write to REED_CFG with PLAN bits. -/
def execPlan (w : BusWrite) (s : State) : Host.Outcome State Fault Refusal :=
  .next (s.gate w (fun s v => s.writeReedCfg v)).settle

/-- PLAN_EN (R164): a write to REED_CFG. -/
def execPlanEn (w : BusWrite) (s : State) : Host.Outcome State Fault Refusal :=
  .next (s.gate w (fun s v => s.writeReedCfg v)).settle

/-- LN_REED (R160, R164). -/
def execLnReed (l : Lane) (w : BusWrite) (s : State) : Host.Outcome State Fault Refusal :=
  .next (s.gate w (fun s v => s.writeLnReed l.val v)).settle

end Sys2Proof.Machine
end

