-- ==== Sys2Proof/Machine/Pwm.lean ====
section
/-!
DEFINITION. Sys2Proof/Machine/Pwm.lean: carriers and their reference (R122 to R124, R134), glide steps (R154), the bay's PWM control
(R137, R138, R146), the delay-line replica (R131, R133) and debug freeze (R147, R148).
-/
namespace Sys2Proof.Machine

/-! ### Carriers -/

/-- A phase at its carrier start: a glide step that ends has moved its offset, and the new period lasts T_n (R122, R154). -/
def State.wrapCarrier (s : State) (p : Nat) : State :=
  s.onPh p (fun x => { x with
    ofs := (x.ofs + x.glide) % max 1 s.period, glide := 0, per := s.rd F.GLB_PWM_STAT_TCUR })

/-- A phase has stopped: its lane looks whether its park ramp is over (R203). -/
def State.stopped (s : State) (p : Nat) : State :=
  match s.laneOf p with
  | some l => s.parkDone l
  | none => s

/-- CARRIER_START (R123, R142, R203): a phase due to begin rises, if no latch covers it and its bay is enabled and locked; a phase due
to stop takes its safe level in place of its rise. -/
def execCarrierStart (p : Phase) (s : State) : Host.Outcome State Fault Refusal :=
  let p := p.val
  let b := bayOfPhase p
  let s := s.begin.wrapCarrier p
  let x := s.ph p
  if x.stops then .next ((s.onPh p (fun x => { x with on := false, stops := false })).stopped p).settle
  else if x.begins ∧ !s.covered p ∧ s.flag F.BAY_PWM_CTL_PWM_EN b ∧ s.flag F.BAY_DL_STAT_DL_LOCK b ∧
      !s.flag F.GLB_PWM_STAT_FREEZE then
    .next (s.onPh p (fun x => { x with on := true, begins := false }))
  else .next s

/-- GSTEP of R154. -/
def State.glideMax (s : State) : Nat := max 1 (s.period >>> s.rd F.REED_CFG_GSHIFT)

/-- GLIDE_STEP (R154, Table 7-2): at its carrier start a driving phase away from its target takes one step; none while the Shuttle
holds its lane or in debug freeze. -/
def execGlideStep (p : Phase) (s : State) : Host.Outcome State Fault Refusal :=
  let p := p.val
  let s := s.begin
  let x := s.ph p
  let held : Bool := match s.laneOf p with | some l => s.held l | none => false
  if !x.on ∨ x.ofs = x.ofsT ∨ held ∨ x.glide ≠ 0 ∨ s.flag F.GLB_PWM_STAT_FREEZE then .next s
  else
    let d := min ((x.ofsT + s.period - x.ofs) % max 1 s.period) s.glideMax
    .next (s.onPh p (fun x => { x with glide := d, per := x.per + d }))

/-- next_period of R134: the period of the cycle that begins, and the procedure's new state. -/
def State.nextPeriod (s : State) : Nat × State :=
  let per := s.period
  let a : Int := s.dither
  let ptri := 400000000 / max 1 (s.rd F.GLB_PWM_SS_FREQ)
  let en := s.flag F.GLB_PWM_SS_EN
  let was := s.flag F.GLB_PWM_SS_ACTIVE
  let on := was || en
  let acc := if was then (s.pwm.ssAcc + s.pwm.tPrev) % max 1 ptri else if en then ptri / 4 else s.pwm.ssAcc
  let v : Int :=
    if !on then 0 else if acc < ptri / 2 then -a + 4 * a * acc / max 1 ptri else 3 * a - 4 * a * acc / max 1 ptri
  let stop := on && !en && (v == 0 || decide (v * s.pwm.vPrev < 0))
  let v := if stop then 0 else v
  let t := ((per : Int) + v).toNat
  (t, (s.put F.GLB_PWM_SS_ACTIVE (on && !stop)).onPwm (fun x => { x with ssAcc := acc, vPrev := v, tPrev := t }))

/-- Every offset and target is formed anew from BASE for a new PERIOD (Table 7-2, R151, R152). -/
def State.rebase (s : State) : State :=
  let m := max 1 s.period
  let s := s.forEach (List.range 192) (fun s p =>
    s.onPh p (fun x => { x with ofs := x.ofs % m, ofsT := x.ofsT % m, glide := 0 }))
  s.forEach (List.range 48) State.retarget

/-- REF_BOUNDARY (R122, R124, R134): a reference cycle begins; a waiting PERIOD takes effect, with it OSR_N and a start of accounting (R283, R290), and the
cycle's period is computed. -/
def execRefBoundary (s : State) : Host.Outcome State Fault Refusal :=
  let s := s.begin
  let s := if s.pwm.perPend.isSome then (s.onPwm (fun x => { x with perPend := none })).rebase.startAll else s
  let (t, s) := s.nextPeriod
  .next ((s.wr F.GLB_PWM_STAT_TCUR t).onPwm (fun x => { x with refTb := s.tb }))

/-! ### GLB_PWM_PER and GLB_PWM_SS -/

/-- A lane state in which PERIOD may change (R124). -/
def LaneState.perOk : LaneState → Bool
  | .off | .detect | .negotiate | .lost => true
  | _ => false

/-- A write to GLB_PWM_PER (R124); a refusal prevails over a clear of PER_REFUSED in the same write (R514). -/
def State.writePer (s : State) (w : Nat) : State :=
  let old := s.period
  let new := F.GLB_PWM_PER_PERIOD.of w
  let s := s.w1cBut .GLB_PWM_PER 0 w 0
  if s.outOf .GLB_PWM_PER 0 w ≠ 0 ∨ new = old then s
  else if (List.range 48).all (fun l => (s.laneState l).perOk) then
    (s.wr F.GLB_PWM_PER_PERIOD new).onPwm (fun x => { x with perPend := some new })
  else (s.put F.GLB_PWM_PER_PER_REFUSED true).record 0x0109 srcDevice 0

/-- GLB_PWM_PER (R124): a write of PERIOD. -/
def execGlbPwmPer (w : BusWrite) (s : State) : Host.Outcome State Fault Refusal :=
  .next (s.gate w (fun s v => s.writePer v))

/-- GLB_PWM_SS (R134, R136): a write of the dithering configuration; the procedure acts on it at the next reference boundary. -/
def execGlbPwmSs (w : BusWrite) (s : State) : Host.Outcome State Fault Refusal :=
  .next (s.gate w (fun s v => s.plainWrite .GLB_PWM_SS 0 v))

/-! ### BAY_PWM_CTL and BAY_SAFE (R137, R138, R146) -/

/-- A bay is disabled (R146): its outputs go to their safe levels, the lanes that use it trip, readmit checks end, and the disable is
recorded; records of one cycle stand in ascending rank (R31). -/
def State.disableBay (s : State) (b : Nat) : State :=
  let ls := bayLanes b
  let s := s.forEach (bayPhases b) State.cutPhase
  let s := s.forEach ls (fun s l =>
    let st := s.laneState l
    if st.inService ∨ st = .warping then s.setLaneLatch l 2 else s)
  let s := s.forEach ls (fun s l => (s.parkDone l).abortSurvey l 1)
  s.record 0x0106 (srcBay b) 0

/-- The unlock sequence of R138: 0xA5, then 0x5A as the next write within 64 cycles. -/
def State.unlockKey (s : State) (b key : Nat) : State :=
  let first := (s.bay b).key1
  let s := s.onBay b (fun x => { x with key1 := if key = 0xA5 then some s.tb else none })
  match first with
  | some t => if key = 0x5A ∧ s.tb ≤ t + 64 then s.put F.BAY_PWM_CTL_UNLOCKED true b else s
  | none => s

/-- A write to BAY_PWM_CTL. -/
def State.writePwmCtl (s : State) (b w : Nat) : State :=
  let was := s.flag F.BAY_PWM_CTL_PWM_EN b
  let s := s.plainWrite .BAY_PWM_CTL b w
  let s := s.unlockKey b (F.BAY_PWM_CTL_UNLOCK.of w)
  if was ∧ !s.flag F.BAY_PWM_CTL_PWM_EN b then s.disableBay b else s

/-- PWM_EN (R146): a write to BAY_PWM_CTL. -/
def execPwmEn (b : Bay) (w : BusWrite) (s : State) : Host.Outcome State Fault Refusal :=
  .next (s.gate w (fun s v => s.writePwmCtl b.val v)).settle

/-- UNLOCK (R138): a key write to BAY_PWM_CTL. -/
def execUnlock (b : Bay) (w : BusWrite) (s : State) : Host.Outcome State Fault Refusal :=
  .next (s.gate w (fun s v => s.writePwmCtl b.val v)).settle

/-- UNLOCK_EXPIRY (R138): 1 ms after the second key. -/
def execUnlockExpiry (b : Bay) (s : State) : Host.Outcome State Fault Refusal :=
  .next (s.begin.put F.BAY_PWM_CTL_UNLOCKED false b.val)

/-- What R137 and R138 make of one safe-level entry: the new level, and whether a HIGH was refused. -/
def safeEntry (unlocked : Bool) (old new : Nat) : Nat × Bool :=
  if new = 3 then (old, false) else if new = 2 ∧ old ≠ 2 ∧ !unlocked then (old, true) else (new, false)

/-- The sixteen entries of a safe-level word applied (R137): the word, and whether any HIGH was refused. -/
def safeWord (unlocked : Bool) (old new : Nat) : Nat × Bool :=
  (List.range 16).foldl (fun a k =>
    let e := safeEntry unlocked (bitsN old (2 * k) 2) (bitsN new (2 * k) 2)
    (putBits a.1 (2 * k) 2 e.1, a.2 || e.2)) (old, false)

/-- A word applied to BAY_SAFE, by a write or a parameter-bank entry (R137, R138). -/
def State.writeSafe (s : State) (b w : Nat) : State :=
  let r := safeWord (s.flag F.BAY_PWM_CTL_UNLOCKED b) (s.rd F.BAY_SAFE_LEVELS b) w
  let s := (s.wr F.BAY_SAFE_LEVELS r.1 b).put F.BAY_PWM_CTL_UNLOCKED false b
  if r.2 then (s.put F.BAY_PWM_CTL_SAFE_REFUSED true b).record 0x0107 (srcBay b) 0 else s

/-- BAY_SAFE (R137, R138): a write of safe levels. -/
def execBaySafe (b : Bay) (w : BusWrite) (s : State) : Host.Outcome State Fault Refusal :=
  .next (s.gate w (fun s v => s.writeSafe b.val v))

/-! ### The delay-line replica (R131, R133) -/

/-- DL_LOCK (R131): the lock search of a bay has completed. -/
def execDlLock (b : Bay) (s : State) : Host.Outcome State Fault Refusal :=
  let s := s.begin
  if !s.flag F.GLB_BAY_STAT_AN_ON b.val then .next s else .next (s.put F.BAY_DL_STAT_DL_LOCK true b.val)

/-- The way a comparison moves TRIM (R131): up, down, or not while |ERR| is at most 8. Which sign of ERR asks for which way the spec
does not state: `Config.errTrimsUp`. -/
def trimWay (err : Int) : Int :=
  if err.natAbs ≤ 8 then 0 else if decide (0 < err) == Config.errTrimsUp then 1 else -1

/-- TRIM after a comparison: one step toward zero error (R131). -/
def trimStep (trim : Nat) (err : Int) : Nat := (clampI (trim + trimWay err) 0 255).toNat

/-- The replica asks for a step its trim cannot take (R133). -/
def trimEnd (trim : Nat) (err : Int) : Bool := trimWay err == 1 && trim == 255 || trimWay err == -1 && trim == 0

/-- DL_COMPARE (R131 to R133): a 1 ms comparison of a locked bay. -/
def execDlCompare (b : Bay) (err : Int) (s : State) : Host.Outcome State Fault Refusal :=
  let b := b.val
  let s := s.begin
  if !s.flag F.BAY_DL_STAT_DL_LOCK b then .next s
  else
    let e := clampI err (-128) 127
    let trim := s.rd F.BAY_DL_STAT_TRIM b
    let s := s.wrS F.BAY_DL_STAT_ERR e b
    let s := s.onBay b (fun x => { x with
      dlBad := if 64 < e.natAbs then min 8 (x.dlBad + 1) else 0, dlGood := if e.natAbs ≤ 16 then min 8 (x.dlGood + 1) else 0 })
    let x := s.bay b
    let bad := decide (x.dlBad = 8) || trimEnd trim e
    let s := s.wr F.BAY_DL_STAT_TRIM (trimStep trim e) b
    let was := s.flag F.BAY_DL_STAT_DL_FAULT b
    if bad then
      if was then .next s
      else .next (((s.put F.BAY_DL_STAT_DL_FAULT true b).put F.BAY_DL_STAT_DL_FAULT_EVT true b).record 0x0108 (srcBay b) 0)
    else if was ∧ x.dlGood = 8 then .next (s.put F.BAY_DL_STAT_DL_FAULT false b)
    else .next s

/-! ### Debug freeze (R147, R148) -/

/-- A full survey of a lane ends as debug freeze begins, and the lane parks (Table 8-9, R187); a readmit check leaves its state. -/
def State.freezeLane (s : State) (l : Nat) : State :=
  if s.laneState l = .warping then
    let s := (s.abortSurvey l 3).record 0x0602 (srcLane l) 7
    ((s.forEach (s.phasesOf l) State.cutPhase).clearLoops l).enter l .park
  else if s.readmitting l then s.abortSurvey l 3
  else s

/-- A phase goes to its safe level at the entry of debug freeze; one that was driving, or about to, is to resume (R147, R148). -/
def PhaseSt.freeze (x : PhaseSt) : PhaseSt :=
  { x with frz := x.on && !x.stops || x.begins, on := false, begins := false, stops := false }

/-- Debug freeze is entered (R147). -/
def State.freeze (s : State) : State :=
  let s := (s.put F.GLB_PWM_STAT_FREEZE true).record 0x010A srcDevice 1
  let s := s.forEach (List.range 12) (fun s b => match (s.bay b).shuttle with | some r => s.endShuttle r.lane 5 | none => s)
  let s := s.forEach (List.range 192) (fun s p => s.onPh p PhaseSt.freeze)
  s.forEach (List.range 48) (fun s l => (s.freezeLane l).parkDone l)

/-- Debug freeze is left (R148). -/
def State.unfreeze (s : State) : State :=
  let s := (s.put F.GLB_PWM_STAT_FREEZE false).record 0x010A srcDevice 0
  let s := s.forEach (List.range 192) (fun s p =>
    s.onPh p (fun x => { x with begins := x.begins || x.frz && !s.covered p, frz := false }))
  s.forEach (List.range 48) State.retarget

end Sys2Proof.Machine
end

