-- ==== Sys2Proof/Machine/Lanes.lean ====
section
/-!
DEFINITION. Sys2Proof/Machine/Lanes.lean: the lane update (R88 to R95, R73 to R76, R83, R173), the state policy (R209 to R215), the state
changes it carries out (R197, R198), the start of a lane (R200 to R202), the park ramp (R203) and the heartbeat fallback (R208, R469).
-/
namespace Sys2Proof.Machine

/-! ### What the update latches (Table 4-3, step 1) -/

/-- The survey of step 3 (Table 8-3) that holds a lane's level, if any. -/
def State.levelSurvey (s : State) (l : Nat) : Option Survey :=
  match (s.bay (bayOfLane l)).survey with
  | some v => if v.lane = l ∧ s.laneState l = .warping ∧ s.rd F.LN_WARP_STAT_STEP l = 3 then some v else none
  | none => none

/-- The gains of a survey's phases in step S: its provisional KP and KI with the measured inductance ratios (R171). -/
def State.svGainsIn (s : State) (v : Survey) : State :=
  v.phases.foldl (fun s x =>
    let r : Int := ratioClamp (ratioOf x.l (max 1 v.lnom))
    s.onPh x.p (fun y => { y with kp := v.kp * r / 16384, ki := v.ki * r / 16384 })) s

/-- Losses and re-formings of the full driving order take effect, unless the Shuttle holds the lane (R193, R206, R207). -/
def State.takeLosses (s : State) (l : Nat) : State :=
  let x := s.lane l
  if s.held l ∨ x.lose = [] ∧ !x.reform then s
  else
    let s := s.onLane l (fun x => { x with lose := [] })
    let s := x.lose.foldl (fun s p => s.lostPhase l p) s
    let st := s.laneState l
    if x.reform ∧ !st.inService ∧ !s.flag F.LN_STATE_PARKING l ∧ st ≠ .warping then s.show (s.reorder l) l else s

/-- Coefficients, gains, the driving order and the latched inputs of an update. -/
def State.latchLane (s : State) (l : Nat) : State :=
  let s := (s.applyCoefs l).formGains l
  let s := match s.levelSurvey l with | some v => s.svGainsIn v | none => s
  let s := s.takeLosses l
  let bus := (s.seg (s.segOf l)).vBus
  let d := match s.derate l with | some f => decide (f < 256) | none => false
  s.onLane l (fun x => { x with
    vBus := bus, vLat := x.vMod, iSum := s.sumI l, derated := d, ff := s.feedforward l x.vMod bus })

/-! ### Compensators in use (Table 4-4) -/

/-- The state keeps its loops: a reference is applied, or is to be (Table 4-9). -/
def State.looping (s : State) (l : Nat) : Bool :=
  let st := s.laneState l
  st.inService || st == .park && s.flag F.LN_STATE_PARKING l

/-- The policy's states: those in which a demand is formed (R210). -/
def State.demanded (s : State) (l : Nat) : Bool :=
  let st := s.laneState l
  st.running || st == .hold || st == .park && s.flag F.LN_STATE_PARK_SRC l

/-- Coefficient set and error of VHI, VLO, VTGT, BHI and BLO where each is in use. -/
def State.compUse (s : State) (l : Nat) : List (Option (Nat × Int)) :=
  let x := s.lane l
  let g := s.segOf l
  let run := (s.laneState l).planned
  let win := !s.busForm g && s.flag F.BUS_WIN_HI_WIN_EN g
  let vt := match x.target with
    | some t => if t.kind = 2 ∧ !s.busForm g ∧ !x.fbRamp then some (0, t.value - x.vMod) else none
    | none => none
  [if run then (s.vHi l).map (fun v => (0, v - x.vMod)) else none,
   if run then (s.vLo l).map (fun v => (0, v - x.vMod)) else none,
   vt,
   if win then some (1, x.vBus - (s.rd F.BUS_WIN_HI_VMAX g : Nat)) else none,
   if win then some (1, x.vBus - (s.rd F.BUS_WIN_LO_VMIN g : Nat)) else none]

/-- Run the compensators in use: outputs, new states, and whether an accumulator saturated. -/
def LaneSt.runComps (x : LaneSt) : Nat → List (Option (Nat × Int)) → List (Option Int × Comp) × Bool
  | _, [] => ([], false)
  | i, u :: us =>
    let c := vget x.comps i Comp.zero
    let (rest, h) := x.runComps (i + 1) us
    match u with
    | some (set, e) =>
      let (y, c, hit) := c.run (x.set set) e
      ((some y, c) :: rest, h || hit)
    | none => ((none, c) :: rest, h)

/-- Output k of a run. -/
def outAt (r : List (Option Int × Comp)) (k : Nat) : Option Int := match r[k]? with | some (y, _) => y | none => none

/-- The compensators after tracking (R91): those not in use take I_app. -/
def trackComps (r : List (Option Int × Comp)) (iApp : Int) : Vector Comp 5 :=
  let t := r.map (fun e => match e.1 with | some _ => e.2.track iApp | none => Comp.idle iApp)
  #v[t.getD 0 Comp.zero, t.getD 1 Comp.zero, t.getD 2 Comp.zero, t.getD 3 Comp.zero, t.getD 4 Comp.zero]

/-! ### Targets (R92, R101, R202, R203, R208) -/

/-- s of R202 in mA per update. -/
def State.slope (s : State) (l : Nat) : Int :=
  ((s.rd F.LN_CTL_SS_STEP l * 10 * (s.rd F.LN_LOOP_CFG_RATE_DIV l + 1)) / 2 : Nat)

/-- x moved toward y by at most d. -/
def toward (x y d : Int) : Int := if x < y then min y (x + d) else max y (x - d)

/-- The host's or the segment's target (R92, R101); `vt` is VTGT's output. -/
def State.askedTarget (s : State) (l : Nat) (vt : Option Int) : Int :=
  let x := s.lane l
  let g := s.segOf l
  if s.busForm g then s.segTarget l g
  else match x.target with
    | none => 0
    | some t =>
      match t.kind with
      | 0 => t.value
      | 1 => if 1000 ≤ x.vMod then t.value * 1000000 / x.vMod else 0
      | _ => vt.getD 0

/-- The level a loaded survey adds in step X (R188). -/
def State.loadedLevel (s : State) (l : Nat) : Int :=
  match (s.bay (bayOfLane l)).survey with
  | some v => if v.lane = l ∧ v.kind = .loaded then v.level else 0
  | none => 0

/-- The present target of a lane: the fallback's while it ramps to zero, else the host's or the segment's (R208, R210). -/
def State.presentTarget (s : State) (l : Nat) (vt : Option Int) : Int :=
  let x := s.lane l
  (if x.fbRamp then x.fbTgt else s.askedTarget l vt) + s.loadedLevel l

/-! ### The policy (R209 to R214) -/

/-- W_SHED, W_PULSE, W_HOLD and W_PARK of Table 9-3, in µs. -/
def State.wakeLatency (s : State) : Nat × Nat × Nat × Nat :=
  let p := s.period
  ((3 * p + 399) / 400, max 10 ((5 * p + 799) / 800), max 25 ((5 * p + 399) / 400), 2500 + 47 * s.rd F.GLB_START_START_GAP)

/-- loss(m, f) of R211, in mW. -/
def lossOf (psw rph m f : Nat) : Nat := m * psw + f * f * rph / (m * 1000000000)

/-- The best phase count from m on: a tie goes to the larger count (R212). -/
def bestCount (psw rph f : Nat) : Nat → Nat → Nat × Nat → Nat × Nat
  | 0, _, b => b
  | k + 1, m, (mb, bc) =>
    let c := lossOf psw rph m f
    bestCount psw rph f k (m + 1) (if c ≤ bc then (m, c) else (mb, bc))

/-- The candidate and mneed of R212 on a demand already filtered. -/
def State.candidate (s : State) (l f : Nat) : Cand × Nat :=
  let nf := (s.lane l).order.length
  let st := s.laneState l
  let mp := if st = .runFull ∨ st = .runShed then (s.drivenOf l).length else 0
  let iph := s.rd F.LN_IPH_IPH_MAX l
  let mneed := if iph = 0 then 1 else min nf (max 1 ((f + iph - 1) / iph))
  if !s.flag F.LN_CTL_POLICY_EN l then (.run nf, mneed)
  else
    let (wShed, wPulse, wHold, wPark) := s.wakeLatency
    let lat := s.rd F.LN_POLICY_LAT l
    let psw := s.rd F.LN_LOSS_PSW l * 10
    let rph := s.rd F.LN_LOSS_RPH l * 10
    let hyst := s.rd F.LN_LOSS_HYST l * 100
    let pi := s.rd F.LN_PULSE_PULSE_I l * 250
    let band := fun (x c : Nat) => if c ≤ st.code then x + x / 4 else x
    let lo := if lat < wShed then nf else mneed
    let (mb, bc) := bestCount psw rph f (nf - lo) (lo + 1) (lo, lossOf psw rph lo f)
    let keep := decide (lo ≤ mp) && decide (max (lossOf psw rph mp f) bc - min (lossOf psw rph mp f) bc ≤ hyst)
    let (mb, bc) := if keep then (mp, lossOf psw rph mp f) else (mb, bc)
    let pm := s.rd F.LN_PULSE_PULSE_MAX l * 100
    let ploss := psw * f / max 1 pi + pi * rph * f / 1000000000
    let pulse := decide (wPulse ≤ lat) && decide (0 < pm) && decide (f ≤ band pm 8) && decide (ploss + hyst < bc)
    let hold := decide (wHold ≤ lat) && decide (0 < psw) && decide (f ≤ band (s.rd F.LN_PULSE_HOLD_I l * 10) 9)
    let park := hold && decide (wPark ≤ lat) && decide (0 < s.rd F.LN_LOSS_PK_SAVE l) && (st == .hold || st == .park)
    (if park then .park else if hold then .hold else if pulse then .pulse else .run mb, mneed)

/-- The depth of a candidate among nf phases, shallowest 0 (R213). -/
def Cand.depth (nf : Nat) : Cand → Nat
  | .run m => nf - m
  | .pulse => nf
  | .hold => nf + 1
  | .park => nf + 2

/-- The present state as a candidate (R213). -/
def State.presentCand (s : State) (l : Nat) : Cand :=
  match s.laneState l with
  | .runPulse => .pulse
  | .hold => .hold
  | .park => .park
  | _ => .run (s.drivenOf l).length

/-- A dwell in lane updates (R213). -/
def State.dwellOf (s : State) (l us : Nat) : Nat := us * 2 / (s.rd F.LN_LOOP_CFG_RATE_DIV l + 1)

/-- A loaded survey of a lane runs (R214). -/
def State.loadedRuns (s : State) (l : Nat) : Bool :=
  match (s.bay (bayOfLane l)).survey with | some v => v.lane == l && v.kind == .loaded | none => false

/-- The pre-start check of a lane begins (R200). -/
def State.startCheck (s : State) (l : Nat) : State :=
  (s.onLane l (fun x => { x with prestart := some ⟨0, 0, 0, 0, 0⟩ })).put F.LN_STATE_PRESTART true l

/-- Phases take their places in a new driven set: `keep` of the integrators of those that begin (R213). -/
def State.driveSet (s : State) (l : Nat) (ds : List Nat) (keep : Bool) : State :=
  let old := if (s.laneState l).running then s.drivenOf l else []
  let s := s.forEach ((s.phasesOf l).filter (fun p => !ds.contains p)) (fun s p => s.stopPhase p false)
  let s := s.setDriven l ds
  s.forEach (ds.filter (fun p => !old.contains p)) (fun s p => s.beginPhase l p keep)

/-- A policy move (R213): the driven set and the state of the candidate; from PARK the pre-start check begins. -/
def State.moveTo (s : State) (l : Nat) (c : Cand) : State :=
  let o := (s.lane l).order
  let st := s.laneState l
  let s := s.onLane l (fun x => { x with due := none, dwell := 0 })
  if st = .park then
    if c = .park ∨ s.flag F.LN_STATE_PRESTART l ∨ s.flag F.LN_STATE_TOKEN_WAIT l then s else s.startCheck l
  else
    let s0 := s
    match c with
    | .run m =>
      let m := min m o.length
      let s := if st = .runPulse then s.onPh (o.headD 192) (fun x => { x with on := false, stops := false }) else s
      let s := if st = .hold ∨ st = .runPulse then s.wr F.LN_LOOP_STAT_IREF 0 l else s
      let s := if st = .hold ∨ st = .runPulse then
          (s.setDriven l (o.take m)).forEach (o.take m) (fun s p => s.beginPhase l p true)
        else s.driveSet l (o.take m) false
      if (if m = o.length then LaneState.runFull else .runShed) = st then s0.show s l
      else s.enter l (if m = o.length then .runFull else .runShed)
    | .pulse =>
      let s := s.forEach (s.phasesOf l) (fun s p => s.stopPhase p (o.head? == some p))
      (s.setDriven l (o.take 1)).enter l .runPulse
    | .hold =>
      let s := s.forEach (s.phasesOf l) (fun s p => s.stopPhase p true)
      (s.setDriven l o).enter l .hold
    | .park => ((s.stopLane l).put F.LN_STATE_PARK_SRC true l).enter l .park

/-- The policy makes no move of a lane now (R214); `wake` moves pass a loaded survey. -/
def State.moveBarred (s : State) (l : Nat) (wake : Bool) : Bool :=
  s.flag F.LN_STATE_SUP_HOLD l || s.held l || s.loadedRuns l && !wake || s.flag F.GLB_PWM_STAT_FREEZE || !s.demanded l ||
    s.laneState l == .park && (s.readmitting l || s.slotHeld l || (s.jml l).leaving.isSome)

/-- One policy update on a demand (R210 to R213): f, the candidate, the dwell count; a wake is taken now. -/
def State.policy (s : State) (l : Nat) (d : Nat) : State :=
  let x := s.lane l
  let nf := x.order.length
  let f := if x.f ≤ d then d else x.f - (x.f - d) / 64
  let s := s.onLane l (fun x => { x with f := f })
  if nf = 0 then s
  else
    let (c, mneed) := s.candidate l f
    let p := s.presentCand l
    let dc := c.depth nf
    let dp := p.depth nf
    let st := s.laneState l
    let run := st == .runFull || st == .runShed
    let mp := if run then (s.drivenOf l).length else 0
    let wait := match st with | .runShed => s.wakeLatency.1 | _ => 0
    let wake := decide (dc < dp) && (decide (mp < mneed) || !run || decide (s.rd F.LN_POLICY_LAT l < wait))
    if dc = dp then s.onLane l (fun x => { x with dwell := 0, due := none })
    else if wake ∧ !s.moveBarred l true then s.moveTo l c
    else
      let deeper := decide (dp < dc)
      let n := if x.deeper = deeper then x.dwell + 1 else 1
      let us := if !deeper then 100 * 2 ^ s.rd F.LN_CTL_ADD_DW l
        else if c = .park then 10000 * 2 ^ s.rd F.LN_CTL_PARK_DW l else 100 * 2 ^ s.rd F.LN_CTL_SHED_DW l
      s.onLane l (fun x => { x with dwell := n, deeper := deeper, due := if s.dwellOf l us ≤ n then some c else none })

/-! ### The selection of an update (R92 to R95) -/

/-- What one selection gives: the applied reference, the governing rank, its interval. -/
structure Pick where
  i : Int
  win : Nat
  frame : Frame
  deriving DecidableEq, Repr

/-- Select a target under n phases, with the compensator outputs of `r`. -/
def State.pick (s : State) (l n : Nat) (r : List (Option Int × Comp)) (t : Int) : Pick :=
  let f := frameOf (s.bounds l n (outAt r 0) (outAt r 1) (outAt r 3) (outAt r 4))
  let (i, w) := f.select t
  ⟨i, w, f⟩

/-- The status of a selection and its events (R95). -/
def State.showPick (s : State) (l : Nat) (k : Pick) (iref : Int) : State :=
  let w0 := s.rd F.LN_LOOP_STAT_WIN l
  let c0 := s.flag F.LN_LOOP_STAT_CONFLICT l
  let s := ((s.wrS F.LN_LOOP_STAT_IREF iref l).wr F.LN_LOOP_STAT_WIN k.win l).put F.LN_LOOP_STAT_CONFLICT (k.frame.conflict != 0) l
  let s := if k.win ≠ w0 ∧ 1 ≤ k.win ∧ s.rdBit F.LN_LOOP_CFG_LIM_EVT (k.win - 1) l then
      (s.put F.LN_LOOP_STAT_TAKEOVER_EVT true l).record 0x0301 (srcLane l) k.win
    else s
  let s := if !c0 ∧ k.frame.conflict ≠ 0 then
      (s.put F.LN_LOOP_STAT_CONFLICT_EVT true l).record 0x0302 (srcLane l) (16 * k.frame.hiSrc + k.frame.conflict)
    else s
  s.onLane l (fun x => { x with lo := k.frame.lo, hi := k.frame.hi })

/-- An accumulator of the lane's compensators saturated (R90). -/
def State.compSat (s : State) (l : Nat) (hit : Bool) : State :=
  if hit then (s.put F.LN_LOOP_STAT_SAT_EVT true l).record 0x0305 (srcLane l) 0 else s

/-- The references of the driven phases (R86), unless the Shuttle holds the lane. -/
def State.split (s : State) (l : Nat) (i : Int) : State :=
  if s.held l then s else s.putRefs (splitRef i (s.trims (s.drivenOf l)))

/-- Nothing is applied: the loops are clear (Table 4-9). -/
def State.selectNone (s : State) (l : Nat) : State :=
  let s := ((s.wr F.LN_LOOP_STAT_IREF 0 l).wr F.LN_LOOP_STAT_WIN 0 l).put F.LN_LOOP_STAT_CONFLICT false l
  s.onLane l (fun x => { x with comps := Vector.replicate 5 Comp.zero, lo := 0, hi := 0, iSel := 0 })

/-- The selection of RAMP (R202): r moves toward I_sel of the present target; at I_sel the lane enters RUN-FULL. -/
def State.selectRamp (s : State) (l n : Nat) (r : List (Option Int × Comp)) (t : Int) : State × Pick :=
  let sel := (s.pick l n r t).i
  let v := toward (s.lane l).ramp sel (s.slope l)
  let s := s.onLane l (fun x => { x with ramp := v, iSel := sel })
  let k := s.pick l n r v
  let s := (s.showPick l k k.i).split l k.i
  (if v = sel then s.enter l .runFull else s, k)

/-- The selection of RUN-FULL and RUN-SHED (R105, R106): held, granted to the Shuttle, or applied. -/
def State.selectRun (s : State) (l n : Nat) (r : List (Option Int × Comp)) (t : Int) : State × Pick × Int :=
  let k := s.pick l n r t
  let s := s.onLane l (fun x => { x with iSel := k.i })
  match (s.bay (bayOfLane l)).shuttle with
  | some h =>
    if h.lane = l then ((s.shCheck l k.i k.frame.lo k.frame.hi).showPick l k h.iLand, k, h.iLand)
    else
      let (s, _) := s.offer l k.i
      ((s.showPick l k k.i).split l k.i, k, k.i)
  | none =>
    let (s, yes) := s.offer l k.i
    let s := if yes then s.onBay (bayOfLane l) (fun x => { x with survey := x.survey.map (fun v =>
        if v.lane = l ∧ v.kind = .loaded ∧ v.step = 1 then { v with shuttled := true } else v) }) else s
    let s := s.showPick l k k.i
    (if yes then s else s.split l k.i, k, k.i)

/-- The headroom test of R83. -/
def State.headTest (s : State) (l : Nat) : State :=
  if !(s.laneState l).planned then s
  else
    let x := s.lane l
    if (s.clamps l).2 * x.vBus < x.vMod * 65536 then s.onLane l (fun x => { x with head := min 16 (x.head + 1) })
    else (s.put F.LN_LOOP_STAT_HEADROOM false l).onLane l (fun x => { x with head := 0 })

/-- What an update ends with in a state whose compensators run: their tracking (R91). -/
def State.endSelect (s : State) (l : Nat) (r : List (Option Int × Comp)) (hit : Bool) (i : Int) : State :=
  (s.compSat l hit).onLane l (fun x => { x with comps := trackComps r i })

/-- A lane that drives nothing keeps the interval and the selection of its demand (R210, R225). -/
def State.keepFull (s : State) (l : Nat) (k : Pick) : State :=
  s.onLane l (fun x => { x with iSel := k.i, lo := k.frame.lo, hi := k.frame.hi })

/-- A target applied through the split. -/
def State.applyPick (s : State) (l n : Nat) (r : List (Option Int × Comp)) (hit : Bool) (t : Int) : State :=
  let k := s.pick l n r t
  ((s.showPick l k k.i).split l k.i).endSelect l r hit k.i

/-- The target of the park ramp at an update (R203). -/
def State.parkTarget (s : State) (l : Nat) : Int := (s.lane l).i0 * (((s.lane l).tEnd - s.tb : Nat) : Int) / 180000

/-- The selection of an update by the lane's state; `full` is the selection with N_full (R210). -/
def State.selectFor (s : State) (l : Nat) (r : List (Option Int × Comp)) (hit : Bool) (t : Int) (full : Pick) : State :=
  let n := (s.drivenOf l).length
  match s.laneState l with
  | .ramp => let (s, k) := s.selectRamp l n r t; s.endSelect l r hit k.i
  | .runFull => let (s, _, i) := s.selectRun l n r t; s.endSelect l r hit i
  | .runShed => let (s, _, i) := s.selectRun l n r t; s.endSelect l r hit i
  | .runPulse =>
    let i := (s.pick l 1 r t).i
    (s.onLane l (fun x => { x with iSel := i })).applyPick l 1 r hit (s.lane l).ib
  | .hold => (s.applyPick l 0 r hit 0).keepFull l full
  | _ => if s.flag F.LN_STATE_PARKING l then s.applyPick l n r hit (s.parkTarget l) else (s.selectNone l).keepFull l full

/-- Steps 2 to 5 of an update in a state with loops, or with a demand (R210). -/
def State.selectLane (s : State) (l : Nat) : State :=
  let x := s.lane l
  let q := x.runComps 0 (s.compUse l)
  let g := s.segOf l
  let fb := if x.fbRamp then toward x.fbTgt 0 (s.slope l) else x.fbTgt
  let sg := if s.busForm g then s.segTarget l g else x.segTgt
  let s := s.onLane l (fun x => { x with fbTgt := fb, segTgt := sg })
  let t := s.presentTarget l (outAt q.1 2)
  let full := s.pick l x.order.length q.1 t
  let go := s.demanded l
  let s := s.selectFor l q.1 q.2 t full
  if go then s.policy l full.i.natAbs else s

/-- An update of a lane in step S of a survey (R172, R173): the level is its target; ranks 4 and 7 give no bound. -/
def State.selectSurvey (s : State) (l : Nat) (v : Survey) : State :=
  let b := bayOfLane l
  let n := (s.drivenOf l).length
  let x := s.lane l
  let bound := s.svBound l n v.up
  let low := match bound with | some c => decide (c < 2000) | none => false
  let outW := (match s.vLo l with | some a => decide (x.vMod < a) | none => false) ||
    (match s.vHi l with | some a => decide (a < x.vMod) | none => false)
  let s := if v.ramp then s
    else if low then (s.record 0x0506 (srcLane l) 2).rampDown b l
    else if outW then (s.record 0x0506 (srcLane l) 3).rampDown b l
    else match bound with
      | some c =>
        if c < v.level.natAbs then
          let s := if v.limited then s else s.record 0x0506 (srcLane l) 1
          s.onSurvey b (fun v => { v with level := sgn1 v.level * c, limited := true })
        else s
      | none => s
  match (s.bay b).survey with
  | none => s
  | some v =>
    let x := s.lane l
    let t := if v.ramp then x.i0 * ((x.tEnd - s.tb : Nat) : Int) / 200000 else v.level
    let k := s.pick l n [] t
    let f := frameOf (s.ranks13 l n ++ [⟨none, none⟩] ++ s.ranks56 l ++ [⟨none, none⟩])
    let (i, w) := f.select t
    let s := (s.showPick l { k with i := i, win := w, frame := f } i).split l i
    let s := s.onLane l (fun x => { x with comps := Vector.replicate 5 (Comp.idle i), iSel := i })
    if v.ramp ∧ x.tEnd ≤ s.tb then ((s.stopLane l).dropWarpAux l).endSteps b l else s

/-! ### State changes a lane update carries out (R197, R198) -/

/-- Take a lane's contract on: the survey that is due, or READY (R169, Table 9-2). -/
def State.afterContract (s : State) (l : Nat) : State :=
  let x := s.lane l
  let due := !s.flag F.LN_WARP_STAT_VALID l || x.serial != some (leAt x.jml.caps 13 8)
  if due then (s.enter l .warping).requestSurvey l .entry else (s.put F.LN_STATE_PARK_SRC false l).enter l .ready

/-- A lane in READY or PARK meets the conditions of LANE_ARM (Table 9-2). -/
def State.mayArm (s : State) (l : Nat) : Bool :=
  let st := s.laneState l
  (st == .ready || st == .park) && s.flag F.LN_STATE_CONTRACT l && s.flag F.LN_WARP_STAT_VALID l &&
    s.flag F.BAY_PWM_CTL_PWM_EN (bayOfLane l) && !s.flag F.LN_STATE_SUP_HOLD l && !s.flag F.LN_STATE_PRESTART l && (s.jml l).leaving.isNone

/-- The phases of a park ramp stop at once, as the lane passes to another state. -/
def State.cutRamp (s : State) (l : Nat) : State :=
  if s.flag F.LN_STATE_PARKING l then
    let s := (s.forEach (s.phasesOf l) State.cutPhase).clearLoops l
    (s.put F.LN_STATE_PARKING false l).finish (fun w => match w with | .parkingClear k => k == l | _ => false) stOk
  else s

/-- The ownership of a lane ends (R468): the flags of 0x0E07, the notice of a release by the Manager; the heartbeat timer of a tenant
that owns no lane stops (R469). -/
def State.giveUp (s : State) (l by' : Nat) : State :=
  match (s.lane l).owner with
  | none => s
  | some o =>
    let s := (s.onLane l (fun x => { x with owner := none })).record 0x0E07 (srcLane l) by'
    let s := if by' = 2 then s.notice [o] 0x15 (leBytes 1 o ++ leBytes 1 l) else s
    if (List.range 48).any (fun k => (s.lane k).owner == some o) then s else s.onTenant o (fun x => { x with hbStart := none })

/-- A waiting state change is carried out; in a state for which Table 9-2 has no row it is dropped. -/
def State.takeMove (s : State) (l : Nat) (m : Move) : State :=
  let st := s.laneState l
  let armed := fun (w : WaitFor) => match w with | .rampEntered k => k == l | _ => false
  match m with
  | .claim => s.onLane l (fun x => { x with wants := true })
  | .identified => if st = .detect then (s.enter l .negotiate).startEntry l false else s
  | .contractOk => if st = .negotiate ∨ st = .park then s.afterContract l else s
  | .entryFailed =>
    if st = .negotiate then
      ((s.record 0x0609 (srcLane l) 0).enter l .detect).onJml l (fun j => { j with idOff := true })
    else s
  | .release by' =>
    match st with
    | .detect | .negotiate | .ready | .park | .faulted | .lost =>
      let s := (((s.stopLink l).halt l .off).giveUp l by').onLane l (fun x => { x with wants := false })
      s.wr F.LN_JML_CLASS 0 l
    | _ => s.finish (fun w => match w with | .laneOff k => k == l | _ => false) stLaneState
  | .park c =>
    match st with
    | .off | .detect | .negotiate | .faulted | .lost =>
      s.finish (fun w => match w with | .parkingClear k => k == l | _ => false) stLaneState
    | _ => (if c = 2 ∧ st = .park then s.noStart l else s).parkLane l c
  | .arm => if s.mayArm l then s.startCheck l else s.finish armed stLaneState
  | .warp =>
    if (st = .ready ∨ st = .park) ∧ s.flag F.LN_STATE_CONTRACT l then
      (((s.cutRamp l).onLane l (fun x => { x with back := st })).enter l .warping).requestSurvey l .re
    else
      (s.put F.LN_WARP_STAT_RUNNING false l).finish (fun w => match w with | .surveyEnd k => k == l | _ => false) stLaneState
  | .clearTrip =>
    if st = .faulted ∧ !s.glbLatch ∧ !s.safeLow ∧ !s.lnLatch l ∧ s.formOrder l ≠ [] then
      let s := ((s.reorder l).put F.LN_STATE_PARK_SRC false l).enter l .park
      if (s.jml l).con.isNone ∧ (s.jml l).link = .idle then s.startEntry l false else s
    else s
  | .renegotiate =>
    if st = .lost then
      let s := ((s.wr F.LN_JML_HRST 0 l).put F.LN_JML_LATE false l).enter l .detect
      (s.recheckTrip l).finish (fun w => match w with | .contract k => k == l | _ => false) stOk
    else s
  | .lostModule => (s.stopLink l).loseLane l

/-- A change that waits while a readmit check runs, or while a Heddle commit holds the slot (R47, Table 8-9). -/
def Move.deferred (readmit slot : Bool) : Move → Bool
  | .park _ => false
  | .lostModule => slot
  | _ => readmit || slot

/-- The state changes that wait are carried out, oldest first; deferred ones keep their places. -/
def State.takeMoves (s : State) (l : Nat) : State :=
  let q := (s.lane l).moves
  let s := s.onLane l (fun x => { x with moves := [] })
  q.foldl (fun s m =>
    if m.deferred (s.readmitting l) (s.slotHeld l) then s.onLane l (fun x => { x with moves := x.moves ++ [m] }) else s.takeMove l m) s

/-- A lane leaves OFF (Table 9-2, R398): a claim is held or AUTO_ENTRY reads 1, its slot is configured, and the start-up has passed. -/
def State.leaveOff (s : State) (l : Nat) : State :=
  if s.laneState l = .off ∧ ((s.lane l).wants ∨ s.flag F.LN_CTL_AUTO_ENTRY l) ∧ s.configured l ∧ s.flag F.NVM_STAT_RECOVERED ∧
      s.flag F.NVM_STAT_PLOADED ∧ s.flag F.BAY_DL_STAT_DL_LOCK (bayOfLane l) ∧ !s.slotHeld l then
    let s := (s.onLane l (fun x => { x with wants := false })).reorder l
    (s.enter l .detect).recheckTrip l
  else s

/-- The breach conditions of R271. -/
def State.breachTest (s : State) (l : Nat) : State :=
  let x := s.lane l
  let st := s.laneState l
  let on := st == .warping || st == .ready || st == .park || st.inService
  let (v, i) : Bool × Bool := match x.jml.con, x.ka with
    | some c, some k =>
      if on && bitN k.mflags 0 then
        let tol : Int := (c.vhi * 10 / 50 + 200 : Nat)
        let isOver := fun (lim : Nat) => ((lim * 10 * 17 / 16 + 1000 : Nat) : Int)
        (decide (x.vMod < (c.vlo * 10 : Nat) - tol) || decide (((c.vhi * 10 : Nat) : Int) + tol < x.vMod),
          decide (isOver k.ichg < x.iShunt) || decide (x.iShunt < -isOver k.idis))
      else (false, false)
    | _, _ => (false, false)
  s.onLane l (fun x => { x with brV := v, brI := i })

/-- LANE_UPDATE (R88): one update of a lane; none runs in debug freeze. -/
def execLaneUpdate (l : Lane) (s : State) : Host.Outcome State Fault Refusal :=
  let l := l.val
  let s := s.begin
  if s.flag F.GLB_PWM_STAT_FREEZE then .next s
  else
    let s := s.latchLane l
    let s := (match s.levelSurvey l with
      | some v => s.selectSurvey l v
      | none => if s.looping l ∨ s.demanded l then s.selectLane l else s.selectNone l)
    let s := ((s.headTest l).breachTest l).takeMoves l
    .next (s.leaveOff l).settle

/-- POLICY_MOVE (R213): a dwell count has reached its length, and the lane moves to the candidate it reached. -/
def execPolicyMove (l : Lane) (s : State) : Host.Outcome State Fault Refusal :=
  let l := l.val
  let s := s.begin
  match (s.lane l).due with
  | none => .next s
  | some c => if s.moveBarred l false then .next s else .next (s.moveTo l c).settle

/-! ### Starting a lane (R200 to R202) -/

/-- The first condition a pre-start check fails (R200); none for a pass. The means are compared unrounded. -/
def State.checkFails (s : State) (l : Nat) (q : Prestart) : Option Nat :=
  let x := s.lane l
  let (n, si, sv) : Int × Int × Int := if q.n = 0 then (1, x.iShunt, x.vMod) else (q.n, q.sumI, q.sumV)
  let (nb, sb) : Int × Int := if q.nB = 0 then (1, (s.seg (s.segOf l)).vBus) else (q.nB, q.sumB)
  if 500 * n < si.natAbs then some 1
  else if (match s.vLo l with | some a => decide (sv < a * n) | none => false) ||
      (match s.vHi l with | some a => decide (a * n < sv) | none => false) then some 2
  else if (s.clamps l).2 * sb * n < sv * 65536 * nb then some 3
  else if x.order.any s.phLatch then some 4
  else none

/-- PRESTART_END (R200, R201): the 2 ms of a lane's pre-start check are over. -/
def execPrestartEnd (l : Lane) (s : State) : Host.Outcome State Fault Refusal :=
  let l := l.val
  let s := s.begin
  match (s.lane l).prestart with
  | none => .next s
  | some q =>
    let s := (s.onLane l (fun x => { x with prestart := none })).put F.LN_STATE_PRESTART false l
    match s.checkFails l q with
    | some k =>
      let t := (s.put F.LN_STATE_PARK_SRC false l).record 0x0603 (srcLane l) k
      .next ((s.show t l).finish (fun w => match w with | .rampEntered j => j == l | _ => false) stLaneState (leBytes 1 k))
    | none =>
      let s := { s with tokenQ := if s.tokenQ.contains l then s.tokenQ else s.tokenQ ++ [l] }
      .next ((s.put F.LN_STATE_TOKEN_WAIT true l).wr F.GLB_START_QLEN s.tokenQ.length)

/-- A waiting lane may be granted the token (R201). -/
def State.mayGrant (s : State) (l : Nat) : Bool :=
  s.flag F.BAY_DL_STAT_DL_LOCK (bayOfLane l) && s.flag F.BAY_PWM_CTL_PWM_EN (bayOfLane l) && !s.slotHeld l && !s.readmitting l

/-- START_TOKEN_GRANT (R201, R202): START_GAP after the previous grant the first eligible lane enters RAMP. -/
def execStartTokenGrant (s : State) : Host.Outcome State Fault Refusal :=
  let s := s.begin
  let early : Bool := match s.lastGrant with | some t => decide (s.tb < t + 200 * s.rd F.GLB_START_START_GAP) | none => false
  if early ∨ s.flag F.GLB_PWM_STAT_FREEZE then .next s
  else
    match s.tokenQ.find? s.mayGrant with
    | none => .next s
    | some l =>
      let s := { s with tokenQ := s.tokenQ.filter (· != l), lastGrant := some s.tb }
      let s := ((s.wr F.GLB_START_QLEN s.tokenQ.length).wr F.GLB_START_LAST l).put F.LN_STATE_TOKEN_WAIT false l
      let s := (s.put F.LN_STATE_PARK_SRC false l).setDriven l (s.lane l).order
      let s := (s.clearLoops l).forEach (s.lane l).order (fun s p => s.beginPhase l p false)
      let s := s.enter l .ramp
      .next ((s.finish (fun w => match w with | .rampEntered k => k == l | _ => false) stOk).settle)

/-- PARK_RAMP_END (R203): t_end of a park ramp; each phase takes its safe level in place of its next rise. -/
def execParkRampEnd (l : Lane) (s : State) : Host.Outcome State Fault Refusal :=
  let l := l.val
  let s := s.begin
  if !s.flag F.LN_STATE_PARKING l ∨ s.laneState l ≠ .park then .next s
  else .next ((s.forEach (s.phasesOf l) (fun s p => s.stopPhase p false)).parkDone l).settle

/-! ### RUN-PULSE (R215) -/

/-- PULSE_PERIOD (R215): the burst procedure at a carrier start of entry 0; the phase rises in a burst period and takes its safe
level in place of its rise outside one. -/
def execPulsePeriod (l : Lane) (s : State) : Host.Outcome State Fault Refusal :=
  let l := l.val
  let s := s.begin
  let x := s.lane l
  match x.order.head? with
  | none => .next s
  | some p =>
    if s.laneState l ≠ .runPulse ∨ s.flag F.GLB_PWM_STAT_FREEZE then .next s
    else
      let pi : Int := s.rd F.LN_PULSE_PULSE_I l * 250
      let on := s.rd F.LN_PULSE_BURST_ON l
      let q := x.q + x.iSel
      let start := x.burst == 0 && decide ((on : Int) * pi ≤ q.natAbs)
      let ib := if start then sgn1 q * pi else if x.burst = 0 then 0 else x.ib
      let s := s.onLane l (fun x => { x with
        q := if start then q - on * ib else q, burst := if start then on - 1 else x.burst - 1, ib := ib })
      let free := !s.covered p && s.flag F.BAY_PWM_CTL_PWM_EN (bayOfPhase p)
      if ib = 0 then .next (s.onPh p (fun x => { x with on := false, begins := false, stops := false }))
      else if (s.ph p).on then .next (s.onPh p (fun x => { x with stops := false }))
      else .next ((s.beginPhase l p true).onPh p (fun x => { x with on := free, begins := !free }))

/-! ### The heartbeat (R208, R469) -/

/-- A lane of a lapsed owner applies its fallback (R208). -/
def State.fallBack (s : State) (l : Nat) : State :=
  let st := s.laneState l
  if !(st.inService || st == .park && s.flag F.LN_STATE_PARK_SRC l) then s
  else
    let k := s.rd F.LN_CTL_FALLBACK l
    let s := (s.put F.LN_STATE_FB_ACTIVE true l).record 0x0607 (srcLane l) (k + 1)
    match k with
    | 0 => s
    | 1 => s.onLane l (fun x => { x with fbRamp := true, fbTgt := s.askedTarget l (some (s.rdS F.LN_LOOP_STAT_IREF l)) })
    | _ => s.parkLane l 4

/-- HEARTBEAT_LAPSED (R469): a tenant's heartbeat timer reaches its interval. -/
def execHeartbeatLapsed (t : HostT) (s : State) : Host.Outcome State Fault Refusal :=
  let t := t.val
  let s := s.begin
  let own := (List.range 48).filter (fun l => (s.lane l).owner = some t)
  if (s.tenant t).hbStart.isNone ∨ own = [] ∨ s.rdBit F.SEC_TFLAGS_LAPSED t then .next s
  else
    let s := (s.putBit F.SEC_TFLAGS_LAPSED t true).record 0x0E04 (srcTenant t) (min own.length 255)
    let s := s.notice [t, s.manager] 0x12 (leBytes 1 t)
    .next (s.forEach own State.fallBack).settle

end Sys2Proof.Machine
end

