-- ==== Sys2Proof/Machine/PortM.lean ====
section
/-!
DEFINITION. Sys2Proof/Machine/PortM.lean: Port M, the SMBus controller (R499 to R506): the poll list, the pass-through queue and their
turns, arbitration losses, failures, bus recovery, and PORTM_TRANSFER (R459).
-/
namespace Sys2Proof.Machine

/-- Change Port M. -/
def State.onPm (s : State) (f : PortM → PortM) : State := { s with portM := f s.portM }

/-- A poll entry. -/
def State.pollEnt (s : State) (n : Nat) : PollEnt := vget s.portM.polls n ⟨0, 0, false, 0, none⟩

/-- Change a poll entry. -/
def State.onPoll (s : State) (n : Nat) (f : PollEnt → PollEnt) : State := s.onPm (fun m => { m with polls := vupd m.polls n f })

/-- The fields of a poll entry (SMB_POLL_CFG): address, enable, command code, word. -/
def PollEnt.addr (e : PollEnt) : Nat := F.SMB_POLL_CFG_ADDR.of e.cfg
def PollEnt.en (e : PollEnt) : Bool := F.SMB_POLL_CFG_EN.of e.cfg == 1
def PollEnt.cmd (e : PollEnt) : Nat := F.SMB_POLL_CFG_CMD.of e.cfg
def PollEnt.word (e : PollEnt) : Bool := F.SMB_POLL_CFG_WORD.of e.cfg == 1

/-- Source index of Port M (Table 1-5). -/
def srcPortM : Nat := 0x142

/-- Port M may start a transaction: it is enabled, the bus is free and not stuck, none is in progress, and its port is not stopped
(R499, R504, R506). -/
def State.pmReady (s : State) : Bool :=
  s.flag F.SMB_M_CFG_EN && s.portM.free && s.portM.act.isNone && !s.flag F.SMB_M_STAT_STUCK &&
    !s.flag F.SMB_M_STAT_RECOVERING && !s.flag F.GLB_PF_PF_STATE && s.power.stage != .entering && s.power.stage != .dormant

/-- Put a transaction on the bus: target address, bytes written and bytes to read. -/
def State.pmEmit (s : State) (a : PmAct) : State :=
  let s := (s.onPm (fun m => { m with wait := false, free := false })).put F.SMB_M_STAT_BUSY true
  match a with
  | .poll n =>
    let e := s.pollEnt n
    s.emit (.pmStart e.addr (leBytes 1 e.cmd) (if e.word then 2 else 1))
  | .alert => s.emit (.pmStart 0x0C [] 1)
  | .pass r _ => s.emit (.pmStart r.addr (if r.proto = 1 then [] else r.data.take r.wlen) (if r.proto = 0 then 0 else r.rlen))

/-- Begin a transaction. -/
def State.pmBegin (s : State) (a : PmAct) : State := (s.onPm (fun m => { m with act := some a, losses := 0 })).pmEmit a

/-- The next transaction, if one may start: the poll list and the pass-through queue take strict turns (Table 1-6); an alert read
comes ahead of the due entries, and these in ascending index (R500, R505). -/
def State.pmNext (s : State) : State :=
  if !s.pmReady then s
  else
    let m := s.portM
    let due := lowBit? m.due 32
    match m.q, m.ara || due.isSome, m.polled with
    | r :: rest, false, _ | r :: rest, true, true =>
      (s.onPm (fun m => { m with q := rest, polled := false })).pmBegin (.pass r false)
    | _, true, _ =>
      if m.ara then (s.onPm (fun m => { m with ara := false, polled := true })).pmBegin .alert
      else match due with
        | some n => (s.onPm (fun m => { m with due := Machine.putBit m.due n false, polled := true })).pmBegin (.poll n)
        | none => s
    | [], false, _ => s

/-- The present transaction has ended; the bus is free again after its STOP condition and the bus-free time (R499). -/
def State.pmEnd (s : State) : State :=
  (s.onPm (fun m => { m with act := none, wait := false, free := false })).put F.SMB_M_STAT_BUSY false

/-- A failed poll transaction: LAST, FAILS (R501 to R503). -/
def State.pollFail (s : State) (n last : Nat) : State :=
  s.onPoll n (fun e => { e with last := last, fails := min (e.fails + 1) 255 })

/-- The result of a poll entry (SMB_PRESn). -/
def State.pollOk (s : State) (n : Nat) (data : List Byte) : State :=
  let e := s.pollEnt n
  let v := leAt data 0 (if e.word then 2 else 1)
  let s := s.wr (if n % 2 = 0 then F.SMB_PRES_DATA0 else F.SMB_PRES_DATA1) v (n / 2)
  s.onPoll n (fun e => { e with last := 0, valid := true, fails := 0, okAt := some s.tb })

/-- A pass-through transfer completes OK with the bytes read (R459). -/
def State.passOk (s : State) (r : PmReq) (data : List Byte) : State :=
  let n := if r.proto = 0 then 0 else r.rlen
  let d := fitBytes n data
  let s := if n ≤ 12 then s else s.writeBuf r.cmd d
  s.complete r.cmd stOk (leBytes 1 n ++ zeros 3 ++ (if n ≤ 12 then d else []))

/-- POLL (R500, R505): a poll entry falls due, or the turn of an inserted alert read comes; what may start starts. -/
def execPoll (entry : Option (Fin 32)) (s : State) : Host.Outcome State Fault Refusal :=
  let s := s.begin
  .next (match entry with
    | some n =>
      if (s.pollEnt n.val).en ∧ s.flag F.SMB_M_CFG_EN then (s.onPm (fun m => { m with due := Machine.putBit m.due n.val true })).pmNext else s
    | none => s.pmNext)

/-- PM_BUS_FREE (R499): a STOP condition, or both lines high for 50 us, and the bus-free time; a waiting transaction starts, but for
one that still has its back-off before it (R501). -/
def execPmBusFree (s : State) : Host.Outcome State Fault Refusal :=
  let s := s.begin
  if !s.flag F.SMB_M_CFG_EN ∨ s.portM.act.isSome ∧ !s.portM.wait ∨ s.flag F.SMB_M_STAT_STUCK then .next s
  else .next (s.onPm (fun m => { m with free := true })).pmNext

/-- PM_TRANSACTION_DONE (R502): the transaction on the bus ends: 0 with a result, 1 not acknowledged, 2 with a PEC mismatch. -/
def execPmTransactionDone (result : Fin 3) (data : List Byte) (s : State) : Host.Outcome State Fault Refusal :=
  let s := s.begin
  match s.portM.act with
  | none => .next s
  | some a =>
    if s.portM.wait then .next s
    else
      let s := s.pmEnd
      .next (match a with
        | .poll n =>
          if result = 0 then s.pollOk n data
          else
            let e := s.pollEnt n
            let s := s.pollFail n result.val
            if e.valid ∧ e.fails = 0 then (s.put F.SMB_M_EVT_NACK_EVT true).record 0x0F09 srcPortM n else s
        | .alert =>
          if result = 0 then
            let a := leAt data 0 1 / 2
            ((s.wr F.SMB_M_STAT_ALERT_ADDR a).put F.SMB_M_EVT_ALERT_EVT true).record 0x0F0B srcPortM a
          else s
        | .pass r discard =>
          if discard then s else if result = 0 then s.passOk r data else s.complete r.cmd stPartnerRefused)

/-- The flags of 0x0F06: the entry, or 0xFF for a pass-through transfer; for an alert read the spec names none (R501). -/
def State.skipFlags (s : State) : PmAct → Nat × State
  | .poll n => (n, s)
  | .pass _ _ => (0xFF, s)
  | .alert => let (k, s) := s.draw; ((Config.freeValue k).toNat % 256, s)

/-- PM_ARB_LOSS (R501): arbitration is lost; the eighth loss of one transaction skips it. -/
def execPmArbLoss (s : State) : Host.Outcome State Fault Refusal :=
  let s := s.begin
  match s.portM.act with
  | none => .next s
  | some a =>
    if s.portM.wait then .next s
    else
      let s := s.bump F.SMB_M_STAT_LOSSES
      if s.portM.losses < 7 then
        .next ((s.onPm (fun m => { m with losses := m.losses + 1, wait := true })).put F.SMB_M_STAT_BUSY false)
      else
        let s := s.pmEnd
        let s := match a with
          | .poll n => s.pollFail n 3
          | .alert => s
          | .pass r discard => if discard then s else s.complete r.cmd stTimeout
        let (fl, s) := s.skipFlags a
        .next (((s.bump F.SMB_M_STAT_SKIPS).put F.SMB_M_EVT_SKIP_EVT true).record 0x0F06 srcPortM fl)

/-- PM_BACKOFF_END (R501): the back-off ends on a free bus, and the lost transaction starts again. -/
def execPmBackoffEnd (s : State) : Host.Outcome State Fault Refusal :=
  let s := s.begin
  match s.portM.act with
  | some a => .next (if s.portM.wait ∧ s.portM.free then s.pmEmit a else s)
  | none => .next s

/-- PM_CLOCK_TIMEOUT (R503): a target holds SCL_M low for more than 25 ms during a transaction. -/
def execPmClockTimeout (s : State) : Host.Outcome State Fault Refusal :=
  let s := s.begin
  match s.portM.act with
  | none => .next s
  | some a =>
    if s.portM.wait then .next s
    else
      let s := (s.pmEnd.put F.SMB_M_EVT_TMO_EVT true).record 0x0F0A srcPortM 0
      .next (match a with
        | .poll n => s.pollFail n 1
        | .alert => s
        | .pass r discard => if discard then s else s.complete r.cmd stTimeout)

/-- Every waiting pass-through transfer completes with TIMEOUT; a lost transaction that waits to start again leaves the bus (R504). -/
def State.pmFlush (s : State) : State :=
  let s := match s.portM.act with
    | some (.poll n) => s.onPm (fun m => { m with act := none, wait := false, due := Machine.putBit m.due n true })
    | some .alert => s.onPm (fun m => { m with act := none, wait := false, ara := true })
    | some (.pass r d) =>
      let s := s.onPm (fun m => { m with act := none, wait := false })
      if d then s else s.complete r.cmd stTimeout
    | none => s
  let q := s.portM.q
  q.foldl (fun (s : State) (r : PmReq) => s.complete r.cmd stTimeout) (s.onPm (fun m => { m with q := [] }))

/-- Port M declares itself stuck (R504). -/
def State.pmStuck (s : State) : State :=
  let s := (s.put F.SMB_M_STAT_RECOVERING false).put F.SMB_M_STAT_STUCK true
  ((s.put F.SMB_M_EVT_STUCK_EVT true).record 0x0F07 srcPortM 1).pmFlush

/-- The end of a recovery attempt (R504): `freed` says that SDA_M read high. -/
def State.pmAttempt (s : State) (freed : Bool) : State :=
  let s := s.emit .pmRecover
  if freed then
    ((s.put F.SMB_M_STAT_RECOVERING false).put F.SMB_M_EVT_CLR_EVT true).record 0x0F08 srcPortM s.portM.tries
  else if 4 ≤ s.portM.tries then s.pmStuck
  else s

/-- PM_BUS_STUCK (R504): outside a transaction SDA_M is found or stays low (`sda`), and the first recovery attempt runs; or SCL_M has
been low for 35 ms, which declares stuck with no pulses. -/
def execPmBusStuck (sda freed : Bool) (s : State) : Host.Outcome State Fault Refusal :=
  let s := s.begin
  if !s.flag F.SMB_M_CFG_EN ∨ s.portM.act.isSome ∧ !s.portM.wait ∨ s.flag F.SMB_M_STAT_STUCK ∨
      s.flag F.SMB_M_STAT_RECOVERING then .next s
  else
    let s := s.onPm (fun m => { m with free := false, tries := 1 })
    .next (if sda then (s.put F.SMB_M_STAT_RECOVERING true).pmAttempt freed else s.pmStuck).settle

/-- PM_RECOVERY_RETRY (R504): the 10 ms or 1 s timer expires and recovery is tried again; while stuck, `freed` says that both lines have
been high for 50 us. -/
def execPmRecoveryRetry (freed : Bool) (s : State) : Host.Outcome State Fault Refusal :=
  let s := s.begin
  if s.flag F.SMB_M_STAT_STUCK then
    let s := s.emit .pmRecover
    if freed then
      let s := (s.put F.SMB_M_STAT_STUCK false).record 0x0F07 srcPortM 0
      .next ((s.onPm (fun m => { m with free := true, tries := 0 })).pmNext).settle
    else .next s
  else if s.flag F.SMB_M_STAT_RECOVERING then
    .next ((s.onPm (fun m => { m with tries := m.tries + 1 })).pmAttempt freed).settle
  else .next s

/-- PM_ALERT (R505): ALERT_M_N is low; with ARA_EN an alert read is inserted, at most once per 10 ms. -/
def execPmAlert (s : State) : Host.Outcome State Fault Refusal :=
  let s := s.begin
  let early : Bool := match s.portM.araAt with | some t => decide (s.tb < t + 2000000) | none => false
  if !s.flag F.SMB_M_CFG_EN ∨ !s.flag F.SMB_M_CFG_ARA_EN ∨ early then .next s
  else .next (s.onPm (fun m => { m with ara := true, araAt := some s.tb }))

/-- PORTM_TRANSFER (R459, R500): a transfer joins the pass-through queue. -/
def execPortmTransfer (h : CmdHdr) (addr proto wlen rlen flags : Byte) (data : Vector Byte 32) (s : State) :
    Host.Outcome State Fault Refusal :=
  let big := decide (12 < rlen.toNat)
  .next (s.dispatch { opcode := 0x58, issuers := .mo, tgt := .zero, needBuf := big, minLen := if big then rlen.toNat else 0 } h
    fun s c =>
      let p := proto.toNat
      if 0x7F < addr.toNat ∨ 2 < p ∨ 32 < wlen.toNat ∨ 32 < rlen.toNat ∨ 1 < flags.toNat ∨ p ≠ 1 ∧ wlen = 0 ∨ p ≠ 0 ∧ rlen = 0 then
        s.complete c stFieldRange
      else if s.flag F.SMB_M_STAT_STUCK then s.complete c stTimeout
      else if 8 ≤ s.portM.q.length then s.complete c stResourceBusy
      else
        let r : PmReq := ⟨c, addr.toNat, p, wlen.toNat, rlen.toNat, flags.getLsbD 0, data.toList⟩
        (s.onPm (fun m => { m with q := m.q ++ [r] })).pmNext)

/-! ### Other actions (R506) and register writes (R508) -/

/-- A transaction in progress is cut short (R506): a pass-through transfer completes with TIMEOUT. -/
def State.pmCut (s : State) : State :=
  match s.portM.act with
  | none => s
  | some a =>
    let s := s.pmEnd
    match a with
    | .pass r false => s.complete r.cmd stTimeout
    | _ => s

/-- The transfers of some tenants: queued ones are dropped without completion, the completion of one on the bus is discarded (R403,
R506). -/
def State.pmDrop (s : State) (ts : List Nat) : State :=
  s.onPm (fun m => { m with
    q := m.q.filter (fun r => !ts.contains r.cmd.tenant)
    act := m.act.map (fun a => match a with
      | .pass r d => .pass r (d || ts.contains r.cmd.tenant)
      | a => a) })

/-- A write to SMB_M_CFG: EN cleared ends the transaction in progress; EN set, the bus counts as busy (R499, R506). -/
def State.writeSmbM (s : State) (w : Nat) : State :=
  let was := s.flag F.SMB_M_CFG_EN
  let s := s.plainWrite .SMB_M_CFG 0 w
  let now := s.flag F.SMB_M_CFG_EN
  if was ∧ !now then s.pmCut
  else if !was ∧ now then s.onPm (fun m => { m with free := false })
  else s

/-- A word written to a poll entry (SMB_POLL_CFG): PER 0 is out of range (R12); an entry that is enabled has not succeeded yet. -/
def State.writePoll (s : State) (n w : Nat) : State :=
  let f := F.SMB_POLL_CFG_PER
  let old := s.pollEnt n
  let w := w &&& 0xFF03FFFF
  let w := if f.of w = 0 then putBits w f.lo f.width (f.of old.cfg) else w
  let s := if F.SMB_POLL_CFG_EN.of w = 1 then s else s.onPm (fun m => { m with due := Machine.putBit m.due n false })
  s.onPoll n (fun e => { e with cfg := w, valid := e.valid && old.en })

end Sys2Proof.Machine
end

