-- ==== Sys2Proof/Machine/LaneCmds.lean ====
section
/-!
DEFINITION. Sys2Proof/Machine/LaneCmds.lean: the general and lane commands (R446 to R448, Table 19-2), PHASE_GET_HEALTH (Table 19-4), and
the lane commands the supervisor shares (R445).
-/
namespace Sys2Proof.Machine

/-! ### General commands -/

/-- NOP (R446). -/
def execNop (h : CmdHdr) (s : State) : Host.Outcome State Fault Refusal :=
  .next (s.dispatch { opcode := 0x01, issuers := .any, tgt := .zero } h fun s c => s.complete c stOk)

/-- The opcodes of Table 19-1. -/
def opcodes : List Nat :=
  [0x01, 0x02, 0x10, 0x11, 0x12, 0x13, 0x14, 0x15, 0x16, 0x17, 0x18, 0x19, 0x1A, 0x20, 0x21, 0x28, 0x29, 0x2A, 0x30, 0x31, 0x38] ++
  [0x39, 0x3A, 0x3B, 0x40, 0x41, 0x42, 0x48, 0x49, 0x4A, 0x50, 0x51, 0x52, 0x58, 0x60, 0x61, 0x62, 0x68, 0x69, 0x6A, 0x70]

/-- INVALID_OPCODE (R442, step 1): an opcode that is not in Table 19-1. The command that names a listed one is not this row. -/
def execInvalidOpcode (h : CmdHdr) (opcode : Byte) (s : State) : Host.Outcome State Fault Refusal :=
  let s := s.begin
  if opcodes.contains opcode.toNat ∨ h.tenant.val = 8 ∨ !s.dispatches h opcode.toNat then .next s
  else .next ((s.take h.tenant.val).complete (cmdRef h opcode.toNat) stInvalidOpcode)

/-! ### Ownership (R446, R447, R468, R469) -/

/-- A tenant owns a lane. -/
def State.ownsAny (s : State) (t : Nat) : Bool := (List.range 48).any (fun l => (s.lane l).owner == some t)

/-- LANE_CLAIM (R39, R398, R446, R468): the first owned lane starts the heartbeat timer (R469). -/
def execLaneClaim (h : CmdHdr) (s : State) : Host.Outcome State Fault Refusal :=
  .next (s.dispatch { opcode := 0x10, issuers := .mo, tgt := .lane } h fun s c =>
    let l := h.tgt.toNat
    let t := h.tenant.val
    let res := leBytes 1 (s.laneState l).code
    match (s.lane l).owner with
    | some o => if o = t then s.complete c stOk res else s.complete c stNotOwner (leBytes 1 o)
    | none =>
      if !s.configured l then s.complete c stLaneState
      else
        let first := !s.ownsAny t
        let s := (s.onLane l (fun x => { x with owner := some t })).record 0x0E07 (srcLane l) 1
        let s := if first then s.onTenant t (fun x => { x with hbStart := some s.tb }) else s
        let s := if s.laneState l = .off then s.queue l .claim else s
        s.complete c stOk res)

/-- LANE_RELEASE (R269, R446, R447, R468): with a contract held, CONTRACT_DROP comes first. -/
def execLaneRelease (h : CmdHdr) (s : State) : Host.Outcome State Fault Refusal :=
  .next (s.dispatch { opcode := 0x11, issuers := .ownerM, tgt := .lane } h fun s c =>
    let l := h.tgt.toNat
    let how := if (s.lane l).owner = some h.tenant.val then 0 else 2
    match s.laneState l with
    | .warping | .ramp | .runFull | .runShed | .runPulse | .hold => s.complete c stLaneState
    | .off =>
      let s := s.onLane l (fun x => { x with wants := false, moves := x.moves.filter (fun m => m != .claim) })
      (s.giveUp l how).complete c stOk
    | _ =>
      let s := (s.hold c (.laneOff l)).noStart l
      match (s.jml l).con with
      | some k =>
        if (s.jml l).leaving.isSome then s
        else (s.onJml l (fun j => { j with leaving := some how })).ask l 0x0D (leBytes 2 k.cnum)
      | none => s.queue l (.release how))

/-! ### Targets, limits, latency, policy -/

/-- The host's words stop a fallback (R208): FB_ACTIVE clears; `freed` says that a lane held at 0 takes its target again. -/
def State.endFallback (s : State) (l : Nat) (freed : Bool) : State :=
  (s.put F.LN_STATE_FB_ACTIVE false l).onLane l (fun x => { x with fbRamp := x.fbRamp && !freed })

/-- LANE_SET_TARGET (R92, R101, R446). -/
def execLaneSetTarget (h : CmdHdr) (kind : Byte) (value : Word) (s : State) : Host.Outcome State Fault Refusal :=
  .next (s.dispatch { opcode := 0x12, issuers := .owner, tgt := .lane } h fun s c =>
    let l := h.tgt.toNat
    let v := value.toInt
    let bad := match kind.toNat with
      | 0 => decide (8388607 < v.natAbs)
      | 1 => decide (1000000 < v.natAbs)
      | 2 => decide (v < 1000) || decide (8388607 < v)
      | _ => true
    if bad then s.complete c stFieldRange
    else if s.busForm (s.segOf l) then s.complete c stNotPermitted
    else ((s.endFallback l true).onLane l (fun x => { x with target := some ⟨kind.toNat, v⟩ })).complete c stOk (leInt32 v))

/-- The largest value of each limit of LANE_SET_LIMITS. -/
def limitMax (k : Nat) : Nat := if k = 2 ∨ k = 3 then 1000000 else 8388607

/-- The limits after LANE_SET_LIMITS: replaced by MASK, absent by CLEAR. -/
def newLimits (w : LimitWords) (old : Vector (Option Nat) 6) : Vector (Option Nat) 6 :=
  let v := [w.ichg, w.idis, w.pchg, w.pdis, w.vlo, w.vhi]
  (List.range 6).foldl (fun (a : Vector (Option Nat) 6) k =>
    if bitN w.mask.toNat k then vupd a k (fun _ => some (v.getD k 0).toNat)
    else if bitN w.clear.toNat k then vupd a k (fun _ => none) else a) old

/-- LANE_SET_LIMITS (R93, R446). -/
def execLaneSetLimits (h : CmdHdr) (w : LimitWords) (s : State) : Host.Outcome State Fault Refusal :=
  .next (s.dispatch { opcode := 0x13, issuers := .owner, tgt := .lane } h fun s c =>
    let l := h.tgt.toNat
    let m := w.mask.toNat
    let k := w.clear.toNat
    let v := [w.ichg, w.idis, w.pchg, w.pdis, w.vlo, w.vhi]
    let new := newLimits w (s.lane l).limits
    let cross := match vget new 4 none, vget new 5 none with
      | some a, some b => decide (b ≤ a)
      | _, _ => false
    let bad := decide (63 < m) || decide (63 < k) || m &&& k != 0 || (m == 0 && k == 0) || cross ||
      (List.range 6).any (fun i => bitN m i && decide (limitMax i < (v.getD i 0).toNat))
    if bad then s.complete c stFieldRange
    else
      let s := s.onLane l (fun x => { x with limits := new })
      s.complete c stOk (leBytes 1 (maskOf ((List.range 6).filter (fun i => (vget new i none).isSome)))))

/-- The deepest state code a latency permits (Table 9-3). -/
def State.deepest (s : State) (lat : Nat) : Nat :=
  let (shed, pulse, hold, park) := s.wakeLatency
  if park ≤ lat then 10 else if hold ≤ lat then 9 else if pulse ≤ lat then 8 else if shed ≤ lat then 7 else 6

/-- LANE_SET_LATENCY (R209, R446). -/
def execLaneSetLatency (h : CmdHdr) (lat : Word) (s : State) : Host.Outcome State Fault Refusal :=
  .next (s.dispatch { opcode := 0x14, issuers := .owner, tgt := .lane } h fun s c =>
    if 16777215 < lat.toNat then s.complete c stFieldRange
    else (s.wr F.LN_POLICY_LAT lat.toNat h.tgt.toNat).complete c stOk (leBytes 1 (s.deepest lat.toNat)))

/-- LANE_SET_POLICY (R208, R446). -/
def execLaneSetPolicy (h : CmdHdr) (mask fallback policyEn : Byte) (s : State) : Host.Outcome State Fault Refusal :=
  .next (s.dispatch { opcode := 0x1A, issuers := .owner, tgt := .lane } h fun s c =>
    let l := h.tgt.toNat
    let m := mask.toNat
    if m = 0 ∨ 3 < m ∨ bitN m 0 ∧ 2 < fallback.toNat ∨ bitN m 1 ∧ 1 < policyEn.toNat then s.complete c stFieldRange
    else
      let s := if bitN m 0 then s.wr F.LN_CTL_FALLBACK fallback.toNat l else s
      let s := if bitN m 1 then s.wr F.LN_CTL_POLICY_EN policyEn.toNat l else s
      (s.endFallback l (s.busForm (s.segOf l))).complete c stOk)

/-! ### Arming, parking, clearing -/

/-- A calibration with an internal source runs on a lane (R298). -/
def State.calInternal (s : State) (l : Nat) : Bool := match (s.meter l).calib with | some k => k.internal | none => false

/-- LANE_ARM (R200, R446): the pre-start check begins at the lane's next update (R198). -/
def execLaneArm (h : CmdHdr) (s : State) : Host.Outcome State Fault Refusal :=
  .next (s.dispatch { opcode := 0x15, issuers := .owner, tgt := .lane } h fun s c =>
    let l := h.tgt.toNat
    let st := s.laneState l
    if st ≠ .ready ∧ st ≠ .park ∨ !s.flag F.LN_STATE_CONTRACT l ∨ !s.flag F.LN_WARP_STAT_VALID l ∨
        !s.flag F.BAY_PWM_CTL_PWM_EN (bayOfLane l) ∨ !s.flag F.GLB_REF_REF_SETTLED ∨ s.rd F.MTR_CFG_MODE l = 2 ∨
        s.calInternal l ∨ s.flag F.LN_STATE_PRESTART l then s.complete c stLaneState
    else if s.flag F.LN_STATE_SUP_HOLD l then s.complete c stNotPermitted
    else (s.queue l .arm).hold c (.rampEntered l))

/-- LANE_PARK of a lane, by its owner or by the supervisor (Table 19-2). -/
def State.parkCmd (s : State) (c : CmdRef) (l : Nat) : State :=
  match s.laneState l with
  | .off | .detect | .negotiate | .faulted | .lost => s.complete c stLaneState
  | .park =>
    if s.flag F.LN_STATE_PARK_SRC l then (s.queue l (.park 1)).hold c (.parkingClear l) else s.complete c stLaneState
  | _ => (s.queue l (.park 1)).hold c (.parkingClear l)

/-- LANE_PARK (R203, R446). -/
def execLanePark (h : CmdHdr) (s : State) : Host.Outcome State Fault Refusal :=
  .next (s.dispatch { opcode := 0x16, issuers := .ownerS, tgt := .lane } h fun s c => s.parkCmd c h.tgt.toNat)

/-- Clear a latch and keep the flags of the first refusal. -/
def keepFirst (a : Option Nat) (refused : Option Nat) : Option Nat := match a with | some k => some k | none => refused

/-- LANE_CLEAR_TRIP of a lane, by its owner or by the supervisor: the lane latch, its phases' latches, the FAULTED row (R144,
R204). -/
def State.clearTripCmd (s : State) (c : CmdRef) (l : Nat) : State :=
  let st := s.laneState l
  let any := s.lnLatch l || (s.phasesOf l).any s.phLatch
  let r0 := if s.lnLatch l then s.laneRefusal l else none
  let (s, r) : State × Option Nat := (s.phasesOf l).foldl (fun (a : State × Option Nat) p =>
    if a.1.phLatch p then (a.1.clearPhase p, keepFirst a.2 (a.1.phaseRefusal p)) else a) (s.clearLane l, r0)
  let leaves := st == .faulted && !s.glbLatch && !s.safeLow && !s.lnLatch l && s.formOrder l != []
  let s := if leaves then s.queue l .clearTrip else s
  let ends := if leaves then LaneState.park.code else st.code
  let ok := r.isNone && (any || st == .faulted) && (st != .faulted || leaves)
  s.settle.complete c (if ok then stOk else stLaneState) (leBytes 1 (r.getD 0) ++ leBytes 1 ends)

/-- LANE_CLEAR_TRIP (R144, R446). -/
def execLaneClearTrip (h : CmdHdr) (s : State) : Host.Outcome State Fault Refusal :=
  .next (s.dispatch { opcode := 0x17, issuers := .ownerS, tgt := .lane } h fun s c => s.clearTripCmd c h.tgt.toNat)

/-! ### Reading a lane and a phase -/

/-- The values in force as a KA_MOD payload (Tables 11-5 and 19-3); zeros without a contract. -/
def State.forceBytes (s : State) (l : Nat) : List Byte :=
  match (s.lane l).ka, (s.jml l).con with
  | some v, some c =>
    leBytes 2 c.cnum ++ leBytes 2 v.ichg ++ leBytes 2 v.idis ++ leBytes 2 v.vlo ++ leBytes 2 v.vhi ++
      leBytes 2 (v.soc.getD 0xFFFF) ++ leBytes 1 (ofS (v.tmax.getD (-128)) 8) ++ leBytes 1 v.tmin ++ leBytes 2 v.vpack ++
      leBytes 1 v.mflags
  | _, _ => zeros 17

/-- The lane state record (Table 19-3). -/
def State.laneRecord (s : State) (l : Nat) : List Byte :=
  let x := s.lane l
  let g := fun f => s.rd f l
  leBytes 1 (g F.LN_STATE_STATE) ++ leBytes 1 (g F.LN_STATE_PREV) ++ leBytes 1 (g F.LN_STATE_N) ++ leBytes 1 (g F.LN_STATE_NFULL) ++
    leBytes 1 (bitsN (s.reg .LN_STATE l).toNat 21 7) ++ leBytes 1 (g F.LN_STATE_FCAUSE) ++
    leBytes 1 (x.owner.getD 0xFF) ++ leBytes 1 x.jml.code ++ leInt32 (s.rdS F.LN_LOOP_STAT_IREF l) ++
    leBytes 1 (g F.LN_LOOP_STAT_WIN) ++ leBytes 1 (g F.LN_JML_CLASS) ++
    leBytes 2 (match x.jml.con with | some c => c.cnum | none => 0) ++ leBytes 4 (g F.LN_POLICY_LAT) ++
    leInt32 (match x.target with | some t => t.value | none => 0) ++
    leBytes 1 (match x.target with | some t => t.kind | none => 0xFF) ++ zeros 7 ++
    fitBytes 24 x.jml.caps ++ s.forceBytes l ++ zeros 7 ++
    (match x.jml.con with | some c => c.bytes | none => zeros 12) ++ zeros 4

/-- LANE_GET_STATE (R446, R448). -/
def execLaneGetState (h : CmdHdr) (s : State) : Host.Outcome State Fault Refusal :=
  .next (s.dispatch { opcode := 0x19, issuers := .any, tgt := .lane } h fun s c =>
    let b := s.laneRecord h.tgt.toNat
    (s.writeBuf c b).complete c stOk (b.take 8))

/-- PHASE_GET_HEALTH (R449). -/
def execPhaseGetHealth (h : CmdHdr) (s : State) : Host.Outcome State Fault Refusal :=
  .next (s.dispatch { opcode := 0x21, issuers := .any, tgt := .phase } h fun s c =>
    let p := h.tgt.toNat
    let frozen := match s.laneOf p with | some l => s.rdBit F.LN_WARP_STAT_FROZEN (p % 16) l | none => false
    let flags := (s.quarPh p).toNat + 2 * (s.driven p).toNat + 4 * frozen.toNat + 8 * (s.flag F.PH_LOOP_DSAT p).toNat +
      16 * (s.phLatch p).toNat + 32 * (decide (s.role p = 2)).toNat + 64 * (s.laneOf p).isSome.toNat
    s.complete c stOk (
      leBytes 2 (s.rd F.PH_WARP_LSURV p) ++ leBytes 2 (s.rd F.PH_WARP_LTRACK p) ++ leBytes 2 (s.rd F.PH_LOOP_LRATIO p) ++
        leBytes 1 (s.rd F.PH_ISNCAL_OFS p) ++ leBytes 1 flags ++ leBytes 2 (s.rd F.PH_ISNCAL_GAIN p) ++
        leBytes 1 ((s.laneOf p).getD 0xFF) ++ zeros 1 ++ leInt32 (s.ph p).i))

end Sys2Proof.Machine
end

