-- ==== Sys2Proof/Machine/PortS.lean ====
section
/-!
DEFINITION. Sys2Proof/Machine/PortS.lean: the Port S target (R486 to R498): its address, its communication faults, paging, OPERATION,
CLEAR_FAULTS and MFR_SAFE_ALL of the supervisor, the status commands of Table 21-3, the readings and their formats, the alert response.
-/
namespace Sys2Proof.Machine

/-- Source index of Port S (Table 1-5). -/
def srcPortS : Nat := 0x141

/-! ### Formats (R498) -/

/-- One exponent of lin11, from e = 15 - n up. -/
def lin11From (m : Int) : Nat → Nat
  | 0 => 15 * 2048 + ofS (sat (rndDiv m (1000 * 2 ^ 15)) 11) 11
  | n + 1 =>
    let e : Int := 15 - n
    let y := if e < 0 then rndDiv (m * 2 ^ (-e).toNat) 1000 else rndDiv m (1000 * 2 ^ e.toNat)
    if -1024 ≤ y ∧ y ≤ 1023 then ofS e 5 * 2048 + ofS y 11 else lin11From m n

/-- lin11 of R498: m is the reading in thousandths of its unit. -/
def lin11 (m : Int) : Nat := lin11From m 32

/-- lin16 of R498. -/
def lin16 (m : Int) : Nat := (clampI (rndDiv (m * 256) 1000) 0 65535).toNat

/-! ### Transactions (R487, R490) -/

/-- Port S acknowledges its address (R487). -/
def State.psAnswers (s : State) : Bool :=
  s.flag F.NVM_STAT_PLOADED && s.flag F.SMB_S_STAT_ADDR_VALID && !s.flag F.GLB_PF_PF_STATE &&
    (match s.power.stage with | .run | .waking => true | _ => false)

/-- A transaction whose address and command code are acknowledged; the first one after a Port S wake is not (R407). -/
def State.psTx (s : State) (code : Nat) (f : State → State) : State :=
  let s := s.begin
  if !s.psAnswers then s
  else if s.power.psWake then { s with power := { s.power with psWake := false } }
  else f ((s.bump F.SMB_S_CNT_XFERS).wr F.SMB_S_STAT_LAST_CMD code)

/-- PAGE in force. -/
def State.psPage (s : State) : Nat := s.rd F.SMB_S_STAT_PAGE

/-- The lanes of the page. -/
def State.pageLanes (s : State) : List Nat := if s.psPage = 0xFF then List.range 48 else [s.psPage]

/-- A byte of a failing transaction is not acknowledged (R490). -/
def faultNacks (kind : Nat) : Bool := kind == 1 || kind == 2 || kind == 3 || kind == 4 || kind == 6

/-- A communication fault (R490): CML of the page, 0x0F01. -/
def State.psFault (s : State) (kind : Nat) : State :=
  let s := s.forEach s.pageLanes (fun s l => s.psLatch l 3)
  let s := (s.record 0x0F01 srcPortS kind).put F.SMB_S_EVT_CML_EVT true
  let s := if kind = 4 then s.bump F.SMB_S_CNT_PEC_ERR else s
  if faultNacks kind then (s.bump F.SMB_S_CNT_NACKS).emit (.psAck false) else s

/-- The bytes of a read: address, code, address with the read bit, data (SMBus PEC). -/
def State.psSend (s : State) (code : Nat) (pec : Bool) (d : List Byte) : State :=
  let a := s.rd F.SMB_S_STAT_ADDR
  let head := leBytes 1 (2 * a) ++ leBytes 1 code ++ leBytes 1 (2 * a + 1)
  s.emit (.psRead (if pec then d ++ [crc8 (head ++ d)] else d))

/-- A read that is not paged, or of a status command. -/
def State.psRead (s : State) (code : Nat) (pec : Bool) (d : State → List Byte) : State :=
  s.psTx code (fun s => s.psSend code pec (d s))

/-- A paged read other than a status command, of `n` bytes: 0xFF in every byte with PAGE 0xFF (R490). -/
def State.psPaged (s : State) (code : Nat) (pec : Bool) (n : Nat) (d : State → Nat → Nat) : State :=
  s.psTx code (fun s =>
    if s.psPage = 0xFF then (s.psSend code pec (List.replicate n 0xFF)).psFault 7
    else s.psSend code pec (leBytes n (d s s.psPage)))

/-- A status read: the OR of all pages with PAGE 0xFF (R497). -/
def State.psStatus (s : State) (code : Nat) (pec : Bool) (n : Nat) (d : State → Nat → Nat) : State :=
  s.psRead code pec (fun s => leBytes n (s.pageLanes.foldl (fun a l => a ||| d s l) 0))

/-- A write goes on when its PEC allows it (R490). -/
def State.psPec (s : State) (p : PecByte) (f : State → State) : State :=
  match p with
  | .bad => s.psFault 4
  | .absent => if s.flag F.SMB_S_CFG_PEC_REQ then s.psFault 5 else f s
  | .good => f s

/-- Tenant 8 has commands outstanding (BUSY, R496). -/
def State.psBusy (s : State) : Bool := decide (0 < s.supOut)

/-! ### Status words (Table 21-3) -/

/-- Bit k of a lane's status as 0 or 1. -/
def LaneSt.lat (x : LaneSt) (k : Nat) : Nat := (bitN x.psLat k).toNat

/-- The lane is in none of WARPING, RAMP or a RUN state. -/
def State.psOff (s : State) (l : Nat) : Bool :=
  let st := s.laneState l
  !(st == .warping || st == .ramp || st.running)

/-- STATUS_BYTE of a lane. -/
def State.statusB (s : State) (l : Nat) : Nat :=
  let x := s.lane l
  let none' := bitN x.psLat 4 || !(s.laneState l).running
  none'.toNat + 2 * x.lat 3 + 4 * (bitN x.psLat 7 || bitN x.psLat 8).toNat + 8 * x.lat 2 + 16 * x.lat 1 + 32 * x.lat 0 +
    64 * (s.psOff l).toNat + 128 * s.psBusy.toNat

/-- STATUS_WORD of a lane. -/
def State.statusW (s : State) (l : Nat) : Nat :=
  let x := s.lane l
  s.statusB l + 0x800 * (!(s.laneState l).running).toNat + 0x1000 * x.lat 4 + 0x2000 * x.lat 2 +
    0x4000 * (bitN x.psLat 1 || bitN x.psLat 6).toNat + 0x8000 * (bitN x.psLat 0 || bitN x.psLat 5).toNat

/-- STATUS_BYTE (R497). -/
def execStatusByte (pec : Bool) (s : State) : Host.Outcome State Fault Refusal := .next (s.psStatus 0x78 pec 1 State.statusB)

/-- STATUS_WORD (R497). -/
def execStatusWord (pec : Bool) (s : State) : Host.Outcome State Fault Refusal := .next (s.psStatus 0x79 pec 2 State.statusW)

/-- STATUS_VOUT (R497). -/
def execStatusVout (pec : Bool) (s : State) : Host.Outcome State Fault Refusal :=
  .next (s.psStatus 0x7A pec 1 (fun s l => 128 * (s.lane l).lat 0 + 64 * (s.lane l).lat 5))

/-- STATUS_IOUT (R497). -/
def execStatusIout (pec : Bool) (s : State) : Host.Outcome State Fault Refusal :=
  .next (s.psStatus 0x7B pec 1 (fun s l => 128 * (s.lane l).lat 1 + 32 * (s.lane l).lat 6))

/-- STATUS_TEMPERATURE (R497). -/
def execStatusTemperature (pec : Bool) (s : State) : Host.Outcome State Fault Refusal :=
  .next (s.psStatus 0x7D pec 1 (fun s l => 128 * (s.lane l).lat 7 + 64 * (s.lane l).lat 8))

/-! ### PAGE and the constant reads -/

/-- PAGE (R489, R490): a read, or a write of a byte. -/
def execPage (write : Option (Byte × PecByte)) (pec : Bool) (s : State) : Host.Outcome State Fault Refusal :=
  .next (match write with
    | none => s.psRead 0x00 pec (fun s => leBytes 1 s.psPage)
    | some (v, p) => s.psTx 0x00 (fun s =>
        if 48 ≤ v.toNat ∧ v.toNat ≤ 0xFE then s.psFault 3 else s.psPec p (fun s => (s.wr F.SMB_S_STAT_PAGE v.toNat).emit (.psAck true))))

/-- CAPABILITY: 0xD0. -/
def execCapability (pec : Bool) (s : State) : Host.Outcome State Fault Refusal := .next (s.psRead 0x19 pec (fun _ => [0xD0]))

/-- VOUT_MODE: 0x18. -/
def execVoutMode (pec : Bool) (s : State) : Host.Outcome State Fault Refusal := .next (s.psRead 0x20 pec (fun _ => [0x18]))

/-- PMBUS_REVISION: 0x33. -/
def execPmbusRevision (pec : Bool) (s : State) : Host.Outcome State Fault Refusal := .next (s.psRead 0x98 pec (fun _ => [0x33]))

/-! ### Readings (R491) -/

/-- The samples of the latest complete 1 ms window: from 200,000 · (k - 1) to 200,000 · k cycles. -/
def State.lastWindow {α : Type} (s : State) (h : List (Nat × α)) : List α :=
  let e := s.tb / 200000 * 200000
  (h.filter (fun x => decide (e ≤ x.1 + 200000) && decide (x.1 < e))).map (fun x => x.2)

/-- Means of v_mod in mV and the shunt current in mA; the latest values where the window holds no sample. -/
def State.psVI (s : State) (l : Nat) : Int × Int :=
  let x := s.lane l
  let w := s.lastWindow x.taps
  (meanOr x.vMod (w.map (fun p => p.1)), meanOr x.iShunt (w.map (fun p => p.2)))

/-- Mean bus voltage of a lane's segment in mV. -/
def State.psBus (s : State) (l : Nat) : Int :=
  let g := s.seg (s.segOf l)
  meanOr g.vBus (s.lastWindow g.hist)

/-- The temperature of READ_TEMPERATURE_1 in thousandths of a degree. -/
def State.psTemp (s : State) (l : Nat) : Int :=
  match s.laneTemp l with
  | some t => t * 1000
  | none => (s.bay (bayOfLane l)).die * 250

/-- A reading of a configured lane; 0 of any other. -/
def State.psValue (s : State) (l : Nat) (m : Int) : Int := if s.configured l then m else 0

/-- READ_VIN (R491). -/
def execReadVin (pec : Bool) (s : State) : Host.Outcome State Fault Refusal :=
  .next (s.psPaged 0x88 pec 2 (fun s l => lin11 (s.psValue l (s.psBus l))))

/-- READ_VOUT (R491). -/
def execReadVout (pec : Bool) (s : State) : Host.Outcome State Fault Refusal :=
  .next (s.psPaged 0x8B pec 2 (fun s l => lin16 (s.psValue l (s.psVI l).1)))

/-- READ_IOUT (R491). -/
def execReadIout (pec : Bool) (s : State) : Host.Outcome State Fault Refusal :=
  .next (s.psPaged 0x8C pec 2 (fun s l => lin11 (s.psValue l (s.psVI l).2)))

/-- READ_TEMPERATURE_1 (R491). -/
def execReadTemperature1 (pec : Bool) (s : State) : Host.Outcome State Fault Refusal :=
  .next (s.psPaged 0x8D pec 2 (fun s l => lin11 (s.psValue l (s.psTemp l))))

/-- READ_POUT (R491): mV times mA, in mW. -/
def execReadPout (pec : Bool) (s : State) : Host.Outcome State Fault Refusal :=
  .next (s.psPaged 0x96 pec 2 (fun s l => lin11 (s.psValue l ((s.psVI l).1 * (s.psVI l).2 / 1000))))

/-- MFR_LANE_STATE (Table 21-2). -/
def execMfrLaneState (pec : Bool) (s : State) : Host.Outcome State Fault Refusal :=
  .next (s.psPaged 0xD1 pec 1 (fun s l => (s.laneState l).code))

/-- MFR_SUP_RESULT (R496). -/
def execMfrSupResult (pec : Bool) (s : State) : Host.Outcome State Fault Refusal :=
  .next (s.psRead 0xD2 pec (fun s => leBytes 2 (if s.psBusy then 0xFFFF else s.supRes + 256 * s.supBad)))

/-- OPERATION read (R492). -/
def execOperationRead (pec : Bool) (s : State) : Host.Outcome State Fault Refusal :=
  .next (s.psPaged 0x01 pec 1 (fun s l => if s.flag F.LN_STATE_SUP_HOLD l then 0 else 0x80))

/-! ### The supervisor's commands (R492 to R496) -/

/-- The supervisor's commands of one transaction enter the dispatcher (R496): `n` of them. -/
def State.supBegin (s : State) (n : Nat) : State := { s with supOut := s.supOut + n, supRes := 0, supBad := 0, served := 8 }

/-- A command of tenant 8. -/
def supCmd (opcode : Nat) : CmdRef := ⟨8, 0, opcode, false, 0, 0⟩

/-- The supervisor hold of a lane is set: a lane that waits to start is withdrawn, and its LANE_ARM ends NOT_PERMITTED (R446). -/
def State.setHold (s : State) (l : Nat) : State :=
  let s := s.put F.LN_STATE_SUP_HOLD true l
  let s := s.finish (fun w => match w with | .rampEntered k => k == l | _ => false) stNotPermitted
  let s := s.onLane l (fun x => { x with moves := x.moves.filter (fun m => m != .arm) })
  if s.flag F.LN_STATE_PRESTART l ∨ s.flag F.LN_STATE_TOKEN_WAIT l then s.noStart l else s

/-- A write command of Port S: refused while BUSY where `busy` says so, discarded for its PEC, else carried out. -/
def State.psWrite (s : State) (code : Nat) (busy : Bool) (p : PecByte) (f : State → State) : State :=
  let t := s.begin
  if busy ∧ t.psBusy ∧ t.psAnswers ∧ !t.power.psWake then t.psFault 6
  else s.psTx code (fun s => s.psPec p (fun s => (f (s.emit (.psAck true))).settle))

/-- OPERATION 0x00 (R492): the holds, then LANE_PARK of each lane. -/
def execOperationOff (pec : PecByte) (s : State) : Host.Outcome State Fault Refusal :=
  .next (s.psWrite 0x01 true pec (fun s =>
    let ls := s.pageLanes
    let s := (s.supBegin ls.length).forEach ls State.setHold
    s.forEach ls (fun s l => s.parkCmd (supCmd 0x16) l)))

/-- OPERATION 0x80 (R492): the holds clear; no lane starts. -/
def execOperationOn (pec : PecByte) (s : State) : Host.Outcome State Fault Refusal :=
  .next (s.psWrite 0x01 true pec (fun s =>
    (s.supBegin 0).forEach s.pageLanes (fun s l =>
      if s.flag F.LN_STATE_SUP_HOLD l then (s.put F.LN_STATE_SUP_HOLD false l).record 0x0F04 (srcLane l) 0 else s)))

/-- A lane is in FAULTED, or a latch covers it. -/
def State.needsClear (s : State) (l : Nat) : Bool :=
  s.laneState l == .faulted || s.glbLatch || s.lnLatch l || (s.phasesOf l).any s.phLatch

/-- The latched bits of a lane whose cause no longer holds clear, and CML (R493). -/
def State.clearBits (s : State) (l : Nat) : State :=
  let now := s.psCauses l
  let kept := (List.range 11).filter (fun c => bitN now c)
  s.onLane l (fun x => { x with psLat := x.psLat &&& maskOf ((kept.map psBit).filter (fun b => b != 3)).eraseDups })

/-- CLEAR_FAULTS (R493). -/
def execClearFaults (pec : PecByte) (s : State) : Host.Outcome State Fault Refusal :=
  .next (s.psWrite 0x03 true pec (fun s =>
    let ls := s.pageLanes
    let s := s.supBegin (ls.countP s.needsClear)
    let need := ls.filter s.needsClear
    s.forEach ls (fun s l => (if need.contains l then s.clearTripCmd (supCmd 0x17) l else s).clearBits l)))

/-- The lanes SAFE_ALL parks (R494). -/
def State.safeParks (s : State) (l : Nat) : Bool :=
  let st := s.laneState l
  st == .ready || st == .warping || st.inService || st == .park && s.flag F.LN_STATE_PARK_SRC l

/-- MFR_SAFE_ALL (R494): accepted while BUSY. -/
def execMfrSafeAll (pec : PecByte) (s : State) : Host.Outcome State Fault Refusal :=
  .next (s.psWrite 0xD0 false pec (fun s =>
    let s := (s.supBegin 1).forEach (List.range 48) State.setHold
    let s := s.forEach ((List.range 48).filter s.safeParks) (fun s l => s.queue l (.park 3))
    ((s.put F.SMB_S_EVT_SAFE_EVT true).record 0x0F03 srcPortS 0).hold (supCmd 0xD0) .safeAll))

/-! ### Faults, time-out, address, alert -/

/-- The codes of Table 21-2 Port S can be asked to write. -/
def psWritable : List Nat := [0x00, 0x01, 0x03, 0xD0]

/-- The codes of Table 21-2. -/
def psCodes : List Nat :=
  [0x00, 0x01, 0x03, 0x19, 0x20, 0x78, 0x79, 0x7A, 0x7B, 0x7D, 0x88, 0x8B, 0x8C, 0x8D, 0x96, 0x98, 0xD0, 0xD1, 0xD2]

/-- The paged reads other than status commands. -/
def psPagedReads : List Nat := [0x01, 0x88, 0x8B, 0x8C, 0x8D, 0x96, 0xD1]

/-- A fault of a kind can be the outcome of a transaction with this command code (Table 21-4). -/
def State.psFits (s : State) (kind code : Nat) : Bool :=
  match kind with
  | 1 => !psCodes.contains code
  | 2 => psCodes.contains code && !psWritable.contains code
  | 3 => code == 0x00 || code == 0x01
  | 4 => psWritable.contains code
  | 5 => psWritable.contains code && s.flag F.SMB_S_CFG_PEC_REQ
  | 6 => s.psBusy && (code == 0x01 || code == 0x03)
  | 7 => psPagedReads.contains code && s.psPage == 0xFF
  | _ => false

/-- PS_COMM_FAULT (R490): a failing transaction, by the flags of Table 21-4. -/
def execPsCommFault (kind : Fin 8) (code : Byte) (s : State) : Host.Outcome State Fault Refusal :=
  let k := kind.val
  let s := s.begin
  if !s.psAnswers ∨ !s.psFits k code.toNat then .next s
  else if s.power.psWake then .next { s with power := { s.power with psWake := false } }
  else
    let acked := k == 3 || k == 4 || k == 5 || k == 7
    let s := if acked then (s.bump F.SMB_S_CNT_XFERS).wr F.SMB_S_STAT_LAST_CMD code.toNat else s
    let s := if k = 7 then
        s.psSend code.toNat false (List.replicate (if code.toNat = 0x01 ∨ code.toNat = 0xD1 then 1 else 2) 0xFF)
      else s
    .next (s.psFault k)

/-- PS_TIMEOUT (R488): SCL_S has stayed low too long. -/
def execPsTimeout (s : State) : Host.Outcome State Fault Refusal :=
  .next ((s.begin.put F.SMB_S_EVT_TMO_EVT true).record 0x0F02 srcPortS 0)

/-- PS_ADDRESS (R486): the eighth conversion of slot 29 after bay 0's analogue section is enabled; a code is 0.5 mV. -/
def execPsAddress (codes : Vector (BitVec 12) 8) (s : State) : Host.Outcome State Fault Refusal :=
  let s := s.begin
  if s.flag F.SMB_S_STAT_ADDR_VALID ∨ !s.flag F.GLB_BAY_STAT_AN_ON 0 then .next s
  else
    let v := codes.toList.foldl (fun a c => a + c.toNat) 0 / 16
    let k := min 15 (v / 125)
    let s := ((s.wr F.SMB_S_STAT_STRAP k).wr F.SMB_S_STAT_ADDR (0x40 + k)).put F.SMB_S_STAT_ADDR_VALID true
    .next (s.record 0x0F05 srcPortS k)

/-- ALERT_RESPONSE (R495): a read of 0x0C; `lost` says that arbitration was lost. -/
def execAlertResponse (lost : Bool) (s : State) : Host.Outcome State Fault Refusal :=
  let s := s.begin
  if !s.psAnswers ∨ !s.flag F.SMB_S_STAT_ALERT then .next s
  else if lost then .next s
  else .next ((s.put F.SMB_S_STAT_ALERT false).emit (.psRead (leBytes 1 (2 * s.rd F.SMB_S_STAT_ADDR))))

end Sys2Proof.Machine
end

