-- ==== Sys2Proof/Machine/Tenancy.lean ====
section
/-!
DEFINITION. Sys2Proof/Machine/Tenancy.lean: roles, promotion, heartbeats, violation windows and quarantine (R463 to R473), the metering
seal, statements and unsealing (R474 to R480), debug access and boundary scan (R481 to R483).
-/
namespace Sys2Proof.Machine

/-! ### Roles (R463 to R467) -/

/-- Change the hidden state of the security block. -/
def State.onSec (s : State) (f : Sec → Sec) : State := { s with sec := f s.sec }

/-- Store a role. -/
def State.setRole (s : State) (t role : Nat) : State := s.wr (F.SEC_ROLE_ROLE0.up (3 * t)) role

/-- The Manager-standby, where one exists (R464). -/
def State.standby (s : State) : Option Nat :=
  let t := 4 - s.manager
  if s.roleOf t = 0 then some t else none

/-- SEC_ROLE shows the standby. -/
def State.showStandby (s : State) : State :=
  (s.wr F.SEC_ROLE_STBY (4 - s.manager)).put F.SEC_ROLE_STBY_VALID s.standby.isSome

/-- The roles of some tenants change at once (R465): the event and the notice of each whose role differs, in ascending order. -/
def State.giveRoles (s : State) (ch : List (Nat × Nat)) : State :=
  let ch := ch.filter (fun c => s.roleOf c.1 ≠ c.2)
  let s := (ch.foldl (fun s c => s.setRole c.1 c.2) s).showStandby
  s.forEach ((List.range 8).filter (fun t => ch.any (fun c => c.1 == t))) (fun s t =>
    (s.record 0x0E05 (srcTenant t) (s.roleOf t)).notice [t, s.manager] 0x13
      (leBytes 1 t ++ leBytes 1 (s.roleOf t) ++ leBytes 1 (s.standby == some t).toNat))

/-- The standby becomes Manager, and the former Manager Observer (R466). -/
def State.promote (s : State) (new : Nat) : State :=
  let old := s.manager
  let s := ((s.setRole new 3).setRole old 0).showStandby
  let s := (s.onSec (fun x => { x with promoDue := false })).put F.SEC_STAT_PROMO_EVT true
  (s.record 0x0E06 (srcTenant new) 0).notice [0, 4] 0x14 (leBytes 1 new ++ leBytes 1 old)

/-- After a change of presence (R466): a Manager that is present ends the count of its absence; a standby present after the 2 s is
promoted. -/
def State.presence (s : State) : State :=
  if !s.sec.promoDue then s
  else if !s.absent s.manager then s.onSec (fun x => { x with promoDue := false })
  else match s.standby with
    | some t => if s.absent t then s else s.promote t
    | none => s

/-- MANAGER_PROMOTED (R466): the Manager has been absent for 2 s. -/
def execManagerPromoted (s : State) : Host.Outcome State Fault Refusal :=
  let s := s.begin
  if !s.absent s.manager then .next s else .next (s.onSec (fun x => { x with promoDue := true })).presence

/-- A grant or removal of the Meter role. -/
def State.movesMeter (s : State) (ch : List (Nat × Nat)) : Bool := ch.any (fun c => (s.roleOf c.1 == 2) != (c.2 == 2))

/-- TENANT_SET_ROLE (R460, R465). -/
def execTenantSetRole (h : CmdHdr) (role : Byte) (s : State) : Host.Outcome State Fault Refusal :=
  .next (s.dispatch { opcode := 0x61, issuers := .m, tgt := .tenant } h fun s c =>
    let me := h.tenant.val
    let t := h.tgt.toNat
    let r := role.toNat
    if 3 < r then s.complete c stFieldRange
    else if r = 3 ∧ t ≠ 0 ∧ t ≠ 4 ∨ s.absent t then s.complete c stNotPermitted
    else if t = me ∧ r = 3 then s.complete c stOk
    else if t = me ∧ s.absent (4 - me) then s.complete c stNotPermitted
    else
      let ch := if t = me then [(me, r), (4 - me, 3)] else if r = 3 then [(t, 3), (me, 0)] else [(t, r)]
      if s.flag F.SEC_STAT_SEALED ∧ s.movesMeter ch then s.complete c stSealed
      else (s.giveRoles ch).presence.complete c stOk)

/-! ### Heartbeats (R469) and quarantine (R471, R472) -/

/-- TENANT_HEARTBEAT (R460, R469). -/
def execTenantHeartbeat (h : CmdHdr) (interval : Word) (s : State) : Host.Outcome State Fault Refusal :=
  .next (s.dispatch { opcode := 0x60, issuers := .any, tgt := .zero } h fun s c =>
    let t := h.tenant.val
    let v := interval.toNat
    if v ≠ 0 ∧ outside v 10 10000 then s.complete c stFieldRange
    else
      let own := s.ownsAny t
      let s := s.onTenant t (fun x => { x with
        hbInt := if v = 0 then x.hbInt else v, hbStart := if own then some s.tb else none })
      let s := (s.putBit F.SEC_TFLAGS_LAPSED t false).settle
      s.complete c stOk (leBytes 4 (s.tenant t).hbInt))

/-- A quarantine is released (R472): the counting window closes, fetching resumes. -/
def State.release (s : State) (t : Nat) : State :=
  if !s.quarT t then s
  else
    let s := (s.putBit F.SEC_TFLAGS_QUAR t false).onTenant t (fun x => { x with quar := 0, viol := 0, window := none })
    let s := (s.record 0x0E03 (srcTenant t) 0).notice [t, s.manager] 0x11 (leBytes 1 t)
    (s.kickFetch t).settle

/-- TENANT_RELEASE_QUARANTINE (R460, R472). -/
def execTenantReleaseQuarantine (h : CmdHdr) (s : State) : Host.Outcome State Fault Refusal :=
  .next (s.dispatch { opcode := 0x62, issuers := .m, tgt := .tenant } h fun s c => (s.release h.tgt.toNat).complete c stOk)

/-- A write to SEC_TSEL: QREL releases the quarantine of the tenant it selects (R472). -/
def State.writeTsel (s : State) (w : Nat) : State :=
  let s := s.plainWrite .SEC_TSEL 0 w
  if bitN w 8 then s.release (s.rd F.SEC_TSEL_TSEL) else s

/-- QREL (R472). -/
def execQrel (w : BusWrite) (s : State) : Host.Outcome State Fault Refusal := .next (s.gate w State.writeTsel)

/-- VIOLATION_WINDOW_END (R471): 1 s after a tenant's window opened. -/
def execViolationWindowEnd (t : HostT) (s : State) : Host.Outcome State Fault Refusal :=
  .next (s.begin.onTenant t.val (fun x => { x with viol := 0, window := none }))

/-! ### The seal (R474 to R480) -/

/-- Counter 299 advances by one (R330). -/
def State.countSeal (s : State) : State := s.onCtr 299 (fun k => { k with acc := min (k.acc + 1) (2 ^ 64 - 1) })

/-- SEAL takes effect in its dispatch cycle (R474); the record and the cell follow. -/
def State.sealNow (s : State) (t : Nat) : State :=
  let s := ((s.put F.SEC_STAT_SEALED true).wr F.SEC_STAT_SEALER t).put F.SEC_STAT_DBG_LOCK true
  let s := s.giveRoles (((List.range 8).filter (fun k => k != t && s.roleOf k == 2)).map (fun k => (k, 0)))
  let s := if s.flag F.GLB_PWM_STAT_FREEZE then s.unfreeze else s
  let s := s.countSeal
  s.writeSeal true t (s.reading 299)

/-- SEAL (R461, R474, R475). -/
def execSeal (h : CmdHdr) (s : State) : Host.Outcome State Fault Refusal :=
  .next (s.dispatch { opcode := 0x68, issuers := .t, tgt := .zero } h fun s c =>
    if s.flag F.SEC_STAT_SEALED then s.complete c stSealed
    else if (List.range 48).any (fun l => s.rd F.MTR_CFG_MODE l == 2) then s.complete c stLaneState
    else if !s.flag F.NVM_STAT_RECOVERED then s.complete c stNvmBusy
    else ((s.hold c .sealRecord).sealNow h.tenant.val).settle)

/-- UNSEAL_CHALLENGE (R461, R479): the challenge is the generator's. -/
def execUnsealChallenge (h : CmdHdr) (s : State) : Host.Outcome State Fault Refusal :=
  .next (s.dispatch { opcode := 0x69, issuers := .sealer, tgt := .zero } h fun s c =>
    if !s.flag F.SEC_STAT_SEALED then s.complete c stNotPermitted
    else
      let (n, s) := s.draw
      let b := leBytes 16 (Config.challenge n).toNat
      (s.onSec (fun x => { x with challenge := some b })).complete c stOk b)

/-- CHALLENGE_EXPIRY (R461): 60 s after the challenge. -/
def execChallengeExpiry (s : State) : Host.Outcome State Fault Refusal :=
  .next (s.begin.onSec (fun x => { x with challenge := none }))

/-- UID as eight bytes. -/
def uidBytes : List Byte := leBytes 8 Config.uid.toNat

/-- The leftmost 16 bytes of HMAC-SHA-256 under K (R478). -/
def macOf (m : List Byte) : List Byte := (hmac (Config.deviceKey.take 32) m).take 16

/-- The response to a challenge (R479). -/
def State.unsealMac (s : State) (ch : List Byte) : List Byte :=
  macOf ([0x55, 0x4E, 0x53, 0x4C] ++ ch ++ uidBytes ++ leBytes 8 (s.reading 299))

/-- UNSEAL_RESPONSE (R461, R480): every response consumes the challenge. -/
def execUnsealResponse (h : CmdHdr) (response : Vector Byte 16) (s : State) : Host.Outcome State Fault Refusal :=
  .next (s.dispatch { opcode := 0x6A, issuers := .sealer, tgt := .zero } h fun s c =>
    let t := h.tenant.val
    if !s.flag F.SEC_STAT_SEALED then s.complete c stNotPermitted
    else
      let ch := s.sec.challenge
      let s := s.onSec (fun x => { x with challenge := none })
      match ch with
      | none => s.complete c stNotPermitted
      | some b =>
        if response.toList ≠ s.unsealMac b then
          ((s.violation t 9).record 0x0E0A (srcTenant t) 0).complete c stNotPermitted
        else
          let s := ((s.put F.SEC_STAT_SEALED false).put F.SEC_STAT_DBG_LOCK false).countSeal
          (s.hold c .unsealRecord).writeSeal false t (s.reading 299))

/-! ### Statements (R476 to R478) -/

/-- Bytes 0 to 111 of a statement, and its FLAGS (Table 20-4). -/
def State.statement (s : State) (l t : Nat) (nonce : BitVec 64) : List Byte × Nat :=
  let cs := (List.range 6).map (6 * l + ·)
  let unmet := s.flag F.MTR_STAT_UNMET l
  let disp := cs.any (fun c => (s.ctr c).st != .normal)
  let fl := disp.toNat + 2 * unmet.toNat + 4 * (s.flag F.SEC_STAT_SEALED).toNat + 8 * (!s.acct l).toNat
  (leBytes 1 1 ++ leBytes 1 fl ++ leBytes 1 l ++ leBytes 1 t ++ leBytes 4 (s.rd F.SEC_STMT_STMT_NO) ++ leBytes 4 (s.reading 289) ++
    leBytes 4 (s.reading 298) ++ leBytes 8 nonce.toNat ++ leBytes 8 s.tb ++ cs.flatMap (fun c => leBytes 8 (s.reading c)) ++
    cs.flatMap (fun c => leBytes 4 (s.ctr c).sector.lastSeq) ++ uidBytes, fl)

/-- METER_STATEMENT (R452, R476, R477): the values are those of the dispatch cycle. -/
def execMeterStatement (h : CmdHdr) (nonce : BitVec 64) (s : State) : Host.Outcome State Fault Refusal :=
  .next (s.dispatch { opcode := 0x39, issuers := .mtOwner, tgt := .lane, needBuf := true, minLen := 128 } h fun s c =>
    if !s.flag F.NVM_STAT_RECOVERED then s.complete c stNvmBusy
    else
      let (b, _) := s.statement h.tgt.toNat h.tenant.val nonce
      let s := s.wr F.SEC_STMT_STMT_NO (s.rd F.SEC_STMT_STMT_NO + 1)
      s.onSec (fun x => { x with stmts := x.stmts ++ [⟨c, b⟩] }))

/-- STATEMENT_SIGNED (R478): the oldest statement is signed; on a part without a key its MAC reads zero. -/
def execStatementSigned (s : State) : Host.Outcome State Fault Refusal :=
  let s := s.begin
  match s.sec.stmts with
  | [] => .next s
  | q :: rest =>
    let s := s.onSec (fun x => { x with stmts := rest })
    let mac := if Config.keyProgrammed then macOf q.body else zeros 16
    let res := bytesAt q.body 4 4 ++ leBytes 1 (leAt q.body 1 1 % 4)
    .next ((s.writeBuf q.cmd (q.body ++ mac)).complete q.cmd stOk res)

/-! ### Debug and boundary scan (R481 to R483) -/

/-- A JTAG instruction takes effect: EXTEST ends with any other. -/
def State.jtagLoad (s : State) (ir : Nat) : State := s.onSec (fun x => { x with jtagIr := ir, extest := false })

/-- EXTEST (R482): refused while sealed with SAFE_N high, when it acts as BYPASS. -/
def execExtest (s : State) : Host.Outcome State Fault Refusal :=
  let s := s.begin
  if s.flag F.SEC_STAT_SEALED ∧ !s.safeLow then .next ((s.jtagLoad 0x3F).record 0x0E0B srcDevice 2)
  else .next ((s.jtagLoad 0x00).onSec (fun x => { x with extest := true }))

/-- SAMPLE/PRELOAD (R483). -/
def execSamplePreload (s : State) : Host.Outcome State Fault Refusal := .next (s.begin.jtagLoad 0x02)

/-- IDCODE (R483). -/
def execIdcode (s : State) : Host.Outcome State Fault Refusal := .next ((s.begin.jtagLoad 0x03).emit (.jtag 0xB9248F3F 32))

/-- BYPASS, and every code that is not listed (R483): its register loads 0 at Capture-DR. -/
def execBypass (s : State) : Host.Outcome State Fault Refusal := .next ((s.begin.jtagLoad 0x3F).emit (.jtag 0 1))

/-- DBG (R481, R483): what Capture-DR loads goes out, and the value is taken at Update-DR. -/
def execDbg (value : BitVec 16) (s : State) : Host.Outcome State Fault Refusal :=
  let s := s.begin.jtagLoad 0x21
  let now := s.flag F.GLB_PWM_STAT_FREEZE
  let s := s.emit (.jtag (now.toNat + 2 * (s.flag F.SEC_STAT_DBG_LOCK).toNat) 16)
  let want := value.getLsbD 0
  if value.toNat / 256 ≠ 0xD5 then .next s
  else if s.flag F.SEC_STAT_SEALED then .next (s.record 0x0E0B srcDevice 1)
  else if want = now then .next s
  else if want then .next s.freeze.settle
  else .next s.unfreeze.settle

end Sys2Proof.Machine
end

