-- ==== Sys2Proof/Machine/Host.lean ====
section
/-!
DEFINITION. Sys2Proof/Machine/Host.lean: the host ports: the identity block (R421), rings and doorbells (R423 to R431), telemetry (R433 to
R437), DMA errors (R438), Bus Master Enable (R439), port and function resets (R403, R415), the links (R413, R414).
-/
namespace Sys2Proof.Machine

/-! ### The identity block (R421) -/

/-- The lanes of a run of 32 that a tenant owns, as a mask. -/
def State.ownMask (s : State) (t first n : Nat) : Nat :=
  maskOf ((List.range n).filter (fun k => (s.lane (first + k)).owner == some t))

/-- A word of the identity block (Table 18-3). -/
def State.identWord (s : State) (t off : Nat) : Nat :=
  match off with
  | 0x00 => 0x5A9248B1
  | 0x04 => t + 16 * portOf t + 32 * (t % 4)
  | 0x08 => s.roleOf t + 8 * (s.standby == some t).toNat + 16 * (s.quarT t).toNat
  | 0x0C => s.ownMask t 0 32
  | 0x10 => s.ownMask t 32 16
  | 0x14 => s.tb % 2 ^ 32
  | 0x18 => s.tb / 2 ^ 32 % 2 ^ 32
  | 0x1C => 12 + 14 * 2 ^ 4 + 4 * 2 ^ 8 + 8 * 2 ^ 12 + 64 * 2 ^ 16
  | 0x20 => (s.flag F.SEC_STAT_SEALED).toNat
  | _ => 0

/-- The 256 bytes of the identity block. -/
def State.identBytes (s : State) (t : Nat) : List Byte := (List.range 64).flatMap (fun k => leBytes 4 (s.identWord t (4 * k)))

/-- IDENTIFY (R446). -/
def execIdentify (h : CmdHdr) (s : State) : Host.Outcome State Fault Refusal :=
  .next (s.dispatch { opcode := 0x02, issuers := .any, tgt := .zero } h fun s c =>
    let b := s.identBytes h.tenant.val
    (s.writeBuf c b).complete c stOk (b.take 12 ++ bytesAt b 0x1C 4))

/-! ### Rings (R423 to R431) -/

/-- A write of a tenant's own HST register through its window (R422). -/
def State.ownWrite (s : State) (w : BusWrite) (f : State → Nat → Nat → State) : State :=
  f (s.begin.toL0 w.tenant.val) w.tenant.val w.value.toNat

/-- A doorbell value is ignored (R425, R430). -/
def State.badDoorbell (s : State) (t : Nat) : State := (s.put F.HST_T_ERR_DB_RANGE true t).violation t 5

/-- A port reports its active latency tolerance again (R414). -/
def State.ltrWake (s : State) (t : Nat) : State :=
  let en := if t < 4 then s.flag F.HST_LINK_A_LTR_EN else s.flag F.HST_LINK_B_LTR_EN
  let idle := if t < 4 then F.HST_LINK_A_LTR_IDLE else F.HST_LINK_B_LTR_IDLE
  if en ∧ s.flag idle then (s.put idle false).emit (.ltr (portOf t) false) else s

/-- A write to SQ_TAIL_DB (R425). -/
def State.writeSqTail (s : State) (t w : Nat) : State :=
  let v := F.HST_SQ_TAIL_DB_TAIL.of w
  let n := 2 ^ s.rd F.HST_SQ_CFG_SIZE t
  let head := s.rd F.HST_SQ_STAT_HEAD t
  let tail := s.rd F.HST_SQ_STAT_TAIL t
  if s.power.stage = .dormant then s
  else if !s.flag F.HST_SQ_CFG_EN t then s.violation t 5
  else if n ≤ v then s.badDoorbell t
  else if n - 1 < (tail + n - head) % n + (v + n - tail) % n then
    ((s.put F.HST_T_ERR_OVERRUN true t).pushEvent t (zeros 16 ++ leBytes 8 s.tb) stRingOverrun 1).violation t 6
  else
    let s := s.wr F.HST_SQ_STAT_TAIL v t
    (if v = head then s else s.ltrWake t).kickFetch t

/-- SQ_TAIL_DB (R425). -/
def execSqTailDb (w : BusWrite) (s : State) : Host.Outcome State Fault Refusal := .next (s.ownWrite w State.writeSqTail).settle

/-- A write to CQ_HEAD_DB (R430): it releases entries, and signals those not yet signalled (R431). -/
def State.writeCqHead (s : State) (t w : Nat) : State :=
  let v := F.HST_CQ_HEAD_DB_HEAD.of w
  let n := 2 ^ s.rd F.HST_CQ_CFG_SIZE t
  let head := (s.tenant t).cqHead
  if s.power.stage = .dormant then s
  else if n ≤ v ∨ (s.rd F.HST_CQ_STAT_TAIL t + n - head) % n < (v + n - head) % n then s.badDoorbell t
  else
    let s := s.onTenant t (fun x => { x with cqHead := v })
    (if 0 < (s.tenant t).unsig then s.signalRing t else s).kickFetch t

/-- CQ_HEAD_DB (R430). -/
def execCqHeadDb (w : BusWrite) (s : State) : Host.Outcome State Fault Refusal := .next (s.ownWrite w State.writeCqHead).settle

/-- A write to HST_SQ_CFG (R423): SIZE is held while EN reads 1, and EN is refused while the completion ring is disabled; enabled, head
and tail become 0. -/
def State.writeSqCfg (s : State) (t w : Nat) : State :=
  let was := s.flag F.HST_SQ_CFG_EN t
  let want := F.HST_SQ_CFG_EN.of w == 1
  let en := if want ∧ !s.flag F.HST_CQ_CFG_EN t then was else want
  let s := s.storeBut .HST_SQ_CFG t w (F.HST_SQ_CFG_EN.mask ||| keepIf was [F.HST_SQ_CFG_SIZE])
  let s := s.put F.HST_SQ_CFG_EN en t
  if en ∧ !was then ((s.wr F.HST_SQ_STAT_HEAD 0 t).wr F.HST_SQ_STAT_TAIL 0 t).put F.HST_SQ_STAT_STOPPED false t
  else if was ∧ !en then s.onTenant t (fun x => { x with fetching := none })
  else s

/-- HST_SQ_CFG (R423). -/
def execHstSqCfg (w : BusWrite) (s : State) : Host.Outcome State Fault Refusal := .next (s.ownWrite w State.writeSqCfg)

/-- A write to HST_CQ_CFG (R423): EN is held at 1 while the submission ring is enabled or commands are outstanding. -/
def State.writeCqCfg (s : State) (t w : Nat) : State :=
  let was := s.flag F.HST_CQ_CFG_EN t
  let want := F.HST_CQ_CFG_EN.of w == 1
  let en := if !want ∧ (s.flag F.HST_SQ_CFG_EN t ∨ s.rd F.HST_T_ERR_OUTST t ≠ 0) then was else want
  let s := s.storeBut .HST_CQ_CFG t w (F.HST_CQ_CFG_EN.mask ||| keepIf was [F.HST_CQ_CFG_SIZE])
  let s := s.put F.HST_CQ_CFG_EN en t
  if en ∧ !was then
    ((s.wr F.HST_CQ_STAT_TAIL 0 t).wr F.HST_CQ_STAT_PHASE 1 t).onTenant t (fun x => { x with cqHead := 0, unsig := 0 })
  else s

/-- HST_CQ_CFG (R423). -/
def execHstCqCfg (w : BusWrite) (s : State) : Host.Outcome State Fault Refusal := .next (s.ownWrite w State.writeCqCfg)

/-- Fetched entries have arrived: they count in OUTST, the head passes them (R426). -/
def State.fetched (s : State) (t : Nat) (es : List Fetched) : State :=
  let n := 2 ^ s.rd F.HST_SQ_CFG_SIZE t
  let s := s.wr F.HST_SQ_STAT_HEAD ((s.rd F.HST_SQ_STAT_HEAD t + es.length) % n) t
  let s := s.wr F.HST_T_ERR_OUTST (s.rd F.HST_T_ERR_OUTST t + es.length) t
  (s.onTenant t (fun x => { x with fetched := x.fetched ++ es })).kickFetch t

/-- SQ_FETCH_DONE (R426, R438): the read request that is open ends, with its entries or with an error. -/
def execSqFetchDone (t : HostT) (entries : List Fetched) (error : Option (Fin 5)) (s : State) : Host.Outcome State Fault Refusal :=
  let t := t.val
  let s := s.begin
  match (s.tenant t).fetching with
  | none => .next s
  | some n =>
    let done := s.onTenant t (fun x => { x with fetching := none })
    if s.ringsDead ∨ s.power.intakeOff ∨ !(s.tenant t).bme then .next done
    else match error with
      | some k =>
        let addr := s.rd F.HST_SQ_BASE_LO_ADDR t * 2 ^ 12 + s.rd F.HST_SQ_BASE_HI_ADDR_HI t * 2 ^ 32 + 64 * s.rd F.HST_SQ_STAT_HEAD t
        let s := done.dmaError t k.val 0 addr
        let s := (s.put F.HST_SQ_STAT_STOPPED true t).put F.HST_T_ERR_FAULT true t
        .next ((s.pushEvent t (zeros 16 ++ leBytes 8 s.tb) stDmaFault 1).violation t 4).settle
      | none => if entries.length ≠ n then .next s else .next (done.fetched t entries)

/-- MSIX_COAL_TIMEOUT (R431): COAL_T after the oldest unsignalled entry. -/
def execMsixCoalTimeout (t : HostT) (s : State) : Host.Outcome State Fault Refusal :=
  let t := t.val
  let s := s.begin
  if s.rd F.HST_CQ_CFG_COAL_T t = 0 ∨ (s.tenant t).unsig = 0 ∨ s.ringsDead ∨ !(s.tenant t).bme then .next s
  else .next (s.signalRing t)

/-! ### Telemetry (R433 to R437) -/

/-- Lanes in a mask. -/
def lanesOf (mask : Nat) : List Nat := (List.range 48).filter (fun l => bitN mask l)

/-- The record rate of a stream (R436). -/
def streamRate (mask per : Nat) : Nat := (lanesOf mask).length * 10000 / max 1 per

/-- The committed rate of a port. -/
def State.portRate (s : State) (port : Nat) : Nat :=
  ((List.range 8).filter (fun t => portOf t == port)).foldl (fun a t =>
    (s.tenant t).streams.toList.foldl (fun a o => match o with | some q => a + streamRate q.mask q.per | none => a) a) 0

/-- HST_BUDGET follows the open streams. -/
def State.showBudget (s : State) : State :=
  (s.wr F.HST_BUDGET_RATE_A ((s.portRate 0 + 999) / 1000)).wr F.HST_BUDGET_RATE_B ((s.portRate 1 + 999) / 1000)

/-- The link of a port: UP, GEN, WIDTH. -/
def State.linkOf (s : State) (port : Nat) : Bool × Nat × Nat :=
  if port = 0 then (s.flag F.HST_LINK_A_UP, s.rd F.HST_LINK_A_GEN, s.rd F.HST_LINK_A_WIDTH)
  else (s.flag F.HST_LINK_B_UP, s.rd F.HST_LINK_B_GEN, s.rd F.HST_LINK_B_WIDTH)

/-- The budget of a link (Table 18-8). -/
def linkBudget (gen width : Nat) : Nat := (match gen with | 1 => 1500000 | 2 => 3000000 | 3 => 6000000 | _ => 0) * width

/-- TELEMETRY_STREAM_OPEN (R433, R436, R450). -/
def execTelemetryStreamOpen (h : CmdHdr) (p : StreamOpen) (s : State) : Host.Outcome State Fault Refusal :=
  .next (s.dispatch { opcode := 0x30, issuers := .any, tgt := .zero } h fun s c =>
    let t := h.tenant.val
    let k := p.stream.toNat
    let m := p.mask.toNat
    if 3 < k ∨ outside p.bsz.toNat 6 16 ∨ 7 < p.vector.toNat ∨ m = 0 ∨ p.maskHigh ∨ outside p.per.toNat 1 10000 ∨ p.wbN = 0 ∨
        p.base.toNat % 4096 ≠ 0 ∨ p.wbAddr.toNat % 8 ≠ 0 then s.complete c stFieldRange
    else
      let (up, gen, width) := s.linkOf (portOf t)
      if (vget (s.tenant t).streams k none).isSome ∨ !up ∨
          linkBudget gen width < s.portRate (portOf t) + streamRate m p.per.toNat then s.complete c stResourceBusy
      else
        let q : Stream := ⟨m, p.per.toNat, p.base.toNat, p.bsz.toNat, p.wbAddr.toNat, p.wbN.toNat, p.vector.toNat, 0, 0, 0,
          Vector.replicate 48 ⟨0, 0, 0, 0, 0, false⟩⟩
        (s.onTenant t (fun x => { x with streams := vupd x.streams k (fun _ => some q) })).showBudget.complete c stOk)

/-- The write-back of a stream (R434). -/
def State.writeBack (s : State) (t : Nat) (q : Stream) : State :=
  if s.ringsDead ∨ !(s.tenant t).bme then s else s.emit (.hostWrite t q.wbAddr (leBytes 4 q.seq ++ leBytes 4 q.dropped))

/-- TELEMETRY_STREAM_CLOSE (R434, R450). -/
def execTelemetryStreamClose (h : CmdHdr) (stream : Byte) (s : State) : Host.Outcome State Fault Refusal :=
  .next (s.dispatch { opcode := 0x31, issuers := .any, tgt := .zero } h fun s c =>
    let t := h.tenant.val
    let k := stream.toNat
    if 3 < k then s.complete c stFieldRange
    else match vget (s.tenant t).streams k none with
      | none => s.complete c stOk
      | some q =>
        let s := (s.writeBack t q).onTenant t (fun x => { x with streams := vupd x.streams k (fun _ => none) })
        s.showBudget.complete c stOk (leBytes 4 q.seq ++ leBytes 4 q.dropped))

/-- A telemetry record of a lane (Table 18-7). -/
def State.teleRecord (s : State) (l seq : Nat) (a : TeleAcc) : List Byte :=
  let x := s.lane l
  let g := s.segOf l
  let head := leBytes 4 seq ++ leBytes 1 l
  if !s.configured l then head ++ zeros 3 ++ leBytes 8 s.tb ++ zeros 48
  else
    let v := if a.n = 0 then x.vMod else a.sumV / a.n
    let i := if a.n = 0 then x.iShunt else a.sumI / a.n
    let b := if a.nB = 0 then (s.seg g).vBus else a.sumB / a.nB
    let fl := (s.lnLatch l || s.glbLatch).toNat + 2 * (s.held l).toNat + 4 * s.rd F.LN_LOOP_STAT_CONFLICT l +
      8 * s.rd F.LN_LOOP_STAT_HEADROOM l + 16 * (s.busForm g).toNat + 32 * s.rd F.MTR_STAT_UNMET l + 64 * a.isOver.toNat +
      128 * s.rd F.LN_STATE_CONTRACT l
    let duty := match x.order.head? with | some p => if (s.ph p).on then (s.ph p).duty else 0 | none => 0
    head ++ leBytes 1 (s.laneState l).code ++ leBytes 1 (s.rd F.LN_STATE_N l) ++ leBytes 1 fl ++ leBytes 8 s.tb ++ leInt32 v ++
      leInt32 i ++ leInt32 b ++ leInt32 (v * i / 1000) ++ leInt32 (s.rdS F.LN_LOOP_STAT_IREF l) ++ leInt32 (s.sumI l) ++
      leBytes 1 (s.rd F.LN_LOOP_STAT_WIN l) ++ leBytes 1 (ofS ((s.laneTemp l).getD (-128)) 8) ++
      leBytes 2 ((x.ka.bind (·.soc)).getD 0xFFFF) ++ leBytes 2 duty ++ zeros 2 ++ leBytes 4 (s.reading (6 * l)) ++
      leBytes 4 (s.reading (6 * l + 1)) ++ zeros 8

/-- One record of a stream; `fits` says that the posted-write buffer takes it (R437). -/
def State.teleStep (s : State) (t k l : Nat) (fits : Bool) : State :=
  match vget (s.tenant t).streams k none with
  | none => s
  | some q =>
    let a := vget q.acc l ⟨0, 0, 0, 0, 0, false⟩
    let out := fits && (s.tenant t).bme && !s.ringsDead
    let s := if out then s.emit (.hostWrite t (q.base + 64 * (q.seq % 2 ^ q.bsz)) (s.teleRecord l q.seq a)) else s
    let n := q.sinceWb + 1
    let q := { q with
      seq := (q.seq + 1) % 2 ^ 32, dropped := if out then q.dropped else min (q.dropped + 1) (2 ^ 32 - 1)
      sinceWb := if q.wbN ≤ n then 0 else n, acc := vupd q.acc l (fun _ => ⟨0, 0, 0, 0, 0, false⟩) }
    let s := s.onTenant t (fun x => { x with streams := vupd x.streams k (fun _ => some q) })
    if q.wbN ≤ n ∧ !s.ringsDead ∧ (s.tenant t).bme then (s.writeBack t q).postVec t q.vec else s

/-- The records of a sampling instant, lanes ascending; the first `room` find room in the posted-write buffer. -/
def State.teleLanes (s : State) (t k : Nat) : Nat → List Nat → State
  | _, [] => s
  | room, l :: ls => (s.teleStep t k l (decide (0 < room))).teleLanes t k (room - 1) ls

/-- TELEMETRY_SAMPLE (R434, R437): a sampling instant of a stream. -/
def execTelemetrySample (t : HostT) (stream : Fin 4) (room : Nat) (s : State) : Host.Outcome State Fault Refusal :=
  let s := s.begin
  match vget (s.tenant t.val).streams stream.val none with
  | none => .next s
  | some q => .next (s.teleLanes t.val stream.val room (lanesOf q.mask))

/-! ### Resets of functions and ports (R403, R415) -/

/-- The twelve HST registers of a tenant. -/
def tenantRegs : List Reg :=
  [.HST_SQ_BASE_LO, .HST_SQ_BASE_HI, .HST_SQ_CFG, .HST_CQ_BASE_LO, .HST_CQ_BASE_HI, .HST_CQ_CFG, .HST_SQ_TAIL_DB, .HST_CQ_HEAD_DB,
   .HST_SQ_STAT, .HST_CQ_STAT, .HST_EVT_CFG, .HST_T_ERR]

/-- What a function reset does to a tenant's hidden state: rings, MSI-X, streams, heartbeat interval (R415, R469). -/
def TenantSt.functionReset (x : TenantSt) : TenantSt :=
  { x with
    fetched := [], fetching := none, cqHead := 0, lostNext := false, unsig := 0, oldest := 0, msixEn := false, msixMask := false
    msix := TenantSt.reset.msix, pba := 0, bme := false, d3hot := false, streams := Vector.replicate 4 none, hbInt := 1000 }

/-- The commands of a tenant go on without their completions (R403). -/
def State.orphanCmds (s : State) (t : Nat) : State :=
  let f := fun (c : CmdRef) => if c.tenant = t then { c with tenant := orphan } else c
  let s := { s with waits := s.waits.map (fun (w : Waiting) => { w with cmd := f w.cmd }) }
  (s.onSec (fun (x : Sec) => { x with stmts := x.stmts.map (fun (q : Signing) => { q with cmd := f q.cmd }) })).pmDrop [t]

/-- A reset of one function (R415, R467, R472): the Manager's role stays with it, and the sealing tenant keeps Meter. -/
def State.functionReset (s : State) (t : Nat) : State :=
  let s := (s.orphanCmds t).onTenant t TenantSt.functionReset
  let s := tenantRegs.foldl (fun s r => s.setReg r t (BitVec.ofNat 32 r.info.reset)) s
  let keep := s.roleOf t == 3 || s.flag F.SEC_STAT_SEALED && s.rd F.SEC_STAT_SEALER == t
  let s := (if keep then s else s.setRole t 0).showStandby
  (s.release t).showBudget

/-- FN_EN takes effect for a port (R412). -/
def State.applyFnEn (s : State) (port : Nat) : State :=
  let m := if port = 0 then s.rd F.HST_CTL_FN_EN_A else s.rd F.HST_CTL_FN_EN_B
  s.forEach (List.range 4) (fun s f => s.onTenant (4 * port + f) (fun x => { x with exists' := f == 0 || bitN m f }))

/-- Change the hidden state of a port. -/
def State.onPort (s : State) (port : Nat) (f : Port → Port) : State := { s with ports := vupd s.ports port f }

/-- The hidden state of a port. -/
def State.port (s : State) (port : Nat) : Port := vget s.ports port ⟨false, false, false, false⟩

/-- PERST_N of a port is low. -/
def State.perst (s : State) (port : Nat) : Bool := if port = 0 then s.flag F.GLB_PORT_STAT_PERST_A else s.flag F.GLB_PORT_STAT_PERST_B

/-- The link of a port is down. -/
def State.linkDown (s : State) (port : Nat) : State :=
  (if port = 0 then s.setReg .HST_LINK_A 0 0 else s.setReg .HST_LINK_B 0 0).onPort port (fun p => { p with training := false, aspmEn := false })

/-- Training of a port's link begins, once its SerDes is started and PERST_N is high (R403). -/
def State.train (s : State) (port : Nat) : State :=
  if (s.port port).started ∧ !s.perst port ∧ !(s.linkOf port).1 then s.onPort port (fun p => { p with training := true }) else s

/-- PORT_RESET (R403, R415): PERST_N falls (0), a hot reset (1), or the link goes down (2). -/
def execPortReset (port : Fin 2) (kind : Fin 3) (s : State) : Host.Outcome State Fault Refusal :=
  let x := port.val
  let s := s.begin
  let s := if kind = 0 then (if x = 0 then s.put F.GLB_PORT_STAT_PERST_A true else s.put F.GLB_PORT_STAT_PERST_B true) else s
  let s := if x = 0 then s.put F.GLB_PORT_STAT_A_EVT true else s.put F.GLB_PORT_STAT_B_EVT true
  let s := s.record 0x1006 srcDevice x
  let s := (s.linkDown x).forEach [4 * x, 4 * x + 1, 4 * x + 2, 4 * x + 3] State.functionReset
  .next ((s.applyFnEn x).train x).settle

/-- FUNCTION_LEVEL_RESET (R415). -/
def execFunctionLevelReset (t : HostT) (s : State) : Host.Outcome State Fault Refusal :=
  let s := s.begin
  if !(s.tenant t.val).exists' then .next s else .next (s.functionReset t.val).settle

/-- LINK_TRAINING (R403): PERST_N of a port rises; WAKE_N is released (R408). -/
def execLinkTraining (port : Fin 2) (s : State) : Host.Outcome State Fault Refusal :=
  let x := port.val
  let s := s.begin
  let s := if x = 0 then s.put F.GLB_PORT_STAT_PERST_A false else s.put F.GLB_PORT_STAT_PERST_B false
  let s := if (s.port x).wakeLow then (s.onPort x (fun p => { p with wakeLow := false })).emit (.wakeN x false) else s
  .next (s.train x)

/-- LINK_UP (R413): training completes; the host's configuration of the port's functions comes with it. -/
def execLinkUp (port : Fin 2) (gen width : Fin 4) (ltrEn aspmEn : Bool) (fns : Vector FnConfig 4) (s : State) :
    Host.Outcome State Fault Refusal :=
  let x := port.val
  let s := s.begin
  if !(s.port x).training ∨ gen.val = 0 ∨ width.val = 0 ∨ width.val = 3 then .next s
  else
    let w := BitVec.ofNat 32 (1 + 2 * gen.val + 16 * width.val + 4096 * ltrEn.toNat)
    let s := if x = 0 then s.setReg .HST_LINK_A 0 w else s.setReg .HST_LINK_B 0 w
    let s := s.onPort x (fun p => { p with training := false, aspmEn := aspmEn })
    let s := s.forEach (List.range 4) (fun s f =>
      let c := vget fns f ⟨false, false, false⟩
      s.onTenant (4 * x + f) (fun y => { y with bme := c.bme, msixEn := c.msixEn, msixMask := c.msixMask }))
    .next s.presence

/-- PCI_PM_D3HOT (R466). -/
def execPciPmD3hot (t : HostT) (enter : Bool) (s : State) : Host.Outcome State Fault Refusal :=
  .next ((s.begin.onTenant t.val (fun x => { x with d3hot := enter })).presence)

/-- BUS_MASTER_DISABLE (R439): Bus Master Enable of a function changes; cleared, its submission ring stops; set, nothing restarts. -/
def execBusMasterDisable (t : HostT) (enable : Bool) (s : State) : Host.Outcome State Fault Refusal :=
  let t := t.val
  let s := s.begin.onTenant t (fun x => { x with bme := enable })
  if enable then .next s
  else .next ((s.put F.HST_SQ_STAT_STOPPED true t).onTenant t (fun x => { x with fetching := none }))

/-! ### Link power (R414) -/

/-- ASPM_L1_ENTRY (R414): 10 us without a TLP; the substate reached is 0 L1, 1 L1.1 or 2 L1.2, as the host enables them. -/
def execAspmL1Entry (port : Fin 2) (substate : Fin 3) (s : State) : Host.Outcome State Fault Refusal :=
  let x := port.val
  let s := s.begin
  let pm := if x = 0 then F.HST_LINK_A_PM else F.HST_LINK_B_PM
  if !(s.linkOf x).1 ∨ !(s.port x).aspmEn ∨ s.rd pm ≠ 0 then .next s
  else .next ((s.wr pm (substate.val + 1)).emit (.l1 x))

/-- A function of a port holds the active latency tolerance: a stream open, a submission ring not empty, a command outstanding. -/
def State.portActive (s : State) (port : Nat) : Bool :=
  (List.range 8).any (fun t => portOf t == port &&
    ((s.tenant t).streams.toList.any Option.isSome || s.rd F.HST_SQ_STAT_HEAD t != s.rd F.HST_SQ_STAT_TAIL t ||
      s.rd F.HST_T_ERR_OUTST t != 0))

/-- LTR_IDLE (R414): 1 ms without activity. -/
def execLtrIdle (port : Fin 2) (s : State) : Host.Outcome State Fault Refusal :=
  let x := port.val
  let s := s.begin
  let en := if x = 0 then s.flag F.HST_LINK_A_LTR_EN else s.flag F.HST_LINK_B_LTR_EN
  let idle := if x = 0 then F.HST_LINK_A_LTR_IDLE else F.HST_LINK_B_LTR_IDLE
  if !en ∨ s.flag idle ∨ s.portActive x then .next s else .next ((s.put idle true).emit (.ltr x true))

end Sys2Proof.Machine
end

