-- ==== Sys2Proof/Machine/Timers.lean ====
section
/-!
DEFINITION. Sys2Proof/Machine/Timers.lean: the timebase and the eight timers (R378 to R392): counting, matches, overflow, captures, the
writes of the timer registers, the make-up at a wake, and what an idle CLK_CORE cycle does.
-/
namespace Sys2Proof.Machine

/-- Change a timer. -/
def State.onTimer (s : State) (g : Nat) (f : TimerSt → TimerSt) : State := { s with timers := vupd s.timers g f }

/-- Set entry `c` of a channel table. -/
def putCh {α : Type} (v : Vector α 4) (c : Nat) (x : α) : Vector α 4 := vupd v c (fun _ => x)

/-- MODE, ACT and PIN of a channel (Table 16-1). -/
def State.chMode (s : State) (g c : Nat) : Nat := s.rd (F.TMR_CCFG_MODE0.up (8 * c)) g
def State.chAct (s : State) (g c : Nat) : Nat := s.rd (F.TMR_CCFG_ACT0.up (8 * c)) g
def State.chPin (s : State) (g c : Nat) : Nat := s.rd (F.TMR_CCFG_PIN0.up (8 * c)) g

/-- A channel holds its pin: a compare channel with a pin action (R382). -/
def State.chHolds (s : State) (g c : Nat) : Bool :=
  (s.chMode g c == 1 || s.chMode g c == 2) && s.chAct g c != 0

/-- A channel matches when the count reaches its value: a periodic one, or an armed one-shot. -/
def State.chWaits (s : State) (g c : Nat) : Bool :=
  s.chMode g c == 2 || s.chMode g c == 1 && vget (s.timer g).armed c false

/-- Drive a TIO pin. -/
def State.driveTio (s : State) (n : Nat) (high : Bool) : State :=
  { s with tioDrv := Machine.putBit s.tioDrv n high }.emit (.tio n high)

/-- ACT of a match: drive the pin high, low, or toggle it (Table 16-1). -/
def State.chPinAct (s : State) (g c : Nat) : State :=
  if !s.chHolds g c then s
  else
    let n := s.chPin g c
    match s.chAct g c with
    | 1 => s.driveTio n true
    | 2 => s.driveTio n false
    | _ => s.driveTio n (!bitN s.tioDrv n)

/-- DROPS of a channel increments, saturating at 31 (R384, R386). -/
def State.chDrop (s : State) (g c n : Nat) : State :=
  s.onTimer g (fun t => { t with drops := vupd t.drops c (fun d => min (d + n) 31) })

/-- A dropped capture (0x0D01) or an overrun match (0x0D02). -/
def State.chLost (s : State) (g c code : Nat) : State :=
  (((s.chDrop g c 1).putBit F.TMR_OVF_DROP_EVT g true).record code (srcTimer g) c)

/-- A match (R384). -/
def State.chMatch (s : State) (g c : Nat) : State :=
  let s := if s.rdBit F.TMR_CHF_FLAG (4 * g + c) then s.chLost g c 0x0D02 else s.putBit F.TMR_CHF_FLAG (4 * g + c) true
  let s := s.chPinAct g c
  if s.chMode g c = 2 then
    s.onTimer g (fun t => { t with val := vupd t.val c (fun v => (v + s.rd F.TMR_STEP_STEP g) % 2 ^ 32) })
  else s.onTimer g (fun t => { t with armed := putCh t.armed c false })

/-- One increment of a timer (R380, R383): the new count, OVF at the wrap, and every channel whose value it equals. -/
def State.increment (s : State) (g : Nat) : State :=
  let v0 := (s.timer g).val
  let n := ((s.timer g).count + 1) % 2 ^ 32
  let s := s.onTimer g (fun t => { t with count := n, ph := 0 })
  let s := if n = 0 then s.putBit F.TMR_OVF_OVF g true else s
  s.forEach ((List.range 4).filter (fun c => s.chWaits g c && vget v0 c 0 == n)) (fun s c => s.chMatch g c)

/-- One CLK_CORE cycle of a timer (R380). -/
def State.tickTimer (s : State) (g : Nat) : State :=
  if !s.flag F.TMR_CFG_EN g then s
  else if (s.timer g).ph + 1 < 2 ^ s.rd F.TMR_CFG_PSC g then s.onTimer g (fun t => { t with ph := t.ph + 1 })
  else s.increment g

/-- CLK_CORE runs: the root PLL has been started and the device is not in Dormant (R390, R396). -/
def State.coreRuns (s : State) : Bool :=
  s.power.stage != .dormant &&
    (match s.power.boot with | .waitXin | .pllEnabled | .halted => false | _ => true)

/-- An idle CLK_CORE cycle: the timebase advances (R378), the timers count (R380), counter 288 accumulates from RECOVERED on (Table
13-3). -/
def State.idleTick (s : State) : State :=
  if !s.coreRuns then s.begin
  else
    let s := { s.begin with tb := (s.tb + 1) % 2 ^ 64 }
    let s := if s.flag F.NVM_STAT_RECOVERED then s.onCtr 288 (fun k => { k with acc := min (k.acc + 1) (2 ^ 96 - 1) }) else s
    (s.forEach (List.range 8) State.tickTimer).settle

/-- TIMER_MATCH (R384): the increment that makes the count of a running timer equal to the value of a channel that waits for it. -/
def execTimerMatch (g : TimerIx) (c : Fin 4) (s : State) : Host.Outcome State Fault Refusal :=
  let s := s.begin
  let g := g.val
  let c := c.val
  if !s.flag F.TMR_CFG_EN g ∨ !s.chWaits g c then .next s
  else
    let s := s.onTimer g (fun t => { t with count := vget t.val c 0, ph := 0 })
    .next (s.chMatch g c).settle

/-- TIMER_OVERFLOW (R380): the increment of a running timer from 0xFFFF_FFFF to 0. -/
def execTimerOverflow (g : TimerIx) (s : State) : Host.Outcome State Fault Refusal :=
  let s := s.begin
  let g := g.val
  if !s.flag F.TMR_CFG_EN g then .next s
  else .next ((s.onTimer g (fun t => { t with count := 0, ph := 0 })).putBit F.TMR_OVF_OVF g true).settle

/-- ACT of a capture channel selects an edge: 0 rising, 1 falling, 2 both. -/
def edgeSelected (act : Nat) (rising : Bool) : Bool := act == 2 || (if rising then act == 0 else act == 1)

/-- TIMER_CAPTURE (R386): an edge of a capture channel's pin: its queue takes the count, or drops it when it holds four. -/
def execTimerCapture (g : TimerIx) (c : Fin 4) (rising : Bool) (s : State) : Host.Outcome State Fault Refusal :=
  let s := s.begin
  let g := g.val
  let c := c.val
  if s.chMode g c ≠ 3 ∨ !edgeSelected (s.chAct g c) rising then .next s
  else
    let t := s.timer g
    if (vget t.q c []).length < 4 then
      .next ((s.onTimer g (fun t => { t with q := vupd t.q c (· ++ [t.count]) })).putBit F.TMR_CHF_FLAG (4 * g + c) true).settle
    else .next (s.chLost g c 0x0D01)

/-! ### Register writes -/

/-- A write to TMR_CFG: POP removes the oldest capture of channel CSEL (R387); the prescaler starts at 0 as EN goes from 0 to 1
(R380). -/
def State.writeTmrCfg (s : State) (g w : Nat) : State :=
  let was := s.flag F.TMR_CFG_EN g
  let s := s.plainWrite .TMR_CFG g w
  let s := if !was ∧ s.flag F.TMR_CFG_EN g then s.onTimer g (fun t => { t with ph := 0 }) else s
  if bitN w 12 then s.onTimer g (fun t => { t with q := vupd t.q (s.rd F.TMR_CFG_CSEL g) (·.drop 1) }) else s

/-- TMR_CFG (R380): a write of PSC, EN and CSEL. -/
def execTmrCfg (g : TimerIx) (w : BusWrite) (s : State) : Host.Outcome State Fault Refusal :=
  .next (s.gate w (fun s v => s.writeTmrCfg g.val v))

/-- POP (R387): the same register's write with POP. -/
def execPop (w : BusWrite) (g : TimerIx) (s : State) : Host.Outcome State Fault Refusal :=
  .next (s.gate w (fun s v => s.writeTmrCfg g.val v))

/-- A write to TMR_CNT loads the count and clears the prescaler phase (R381). -/
def State.writeTmrCnt (s : State) (g w : Nat) : State := s.onTimer g (fun t => { t with count := w, ph := 0 })

/-- TMR_CNT (R381). -/
def execTmrCnt (g : TimerIx) (w : BusWrite) (s : State) : Host.Outcome State Fault Refusal :=
  .next (s.gate w (fun s v => s.writeTmrCnt g.val v))

/-- A write to TMR_CV: the value of channel CSEL, which arms a one-shot; ignored for a capture channel (R382, R383, R387). -/
def State.writeTmrCv (s : State) (g w : Nat) : State :=
  let c := s.rd F.TMR_CFG_CSEL g
  let m := s.chMode g c
  if m = 3 then s
  else s.onTimer g (fun t => { t with
    val := putCh t.val c w, armed := if m = 1 then putCh t.armed c true else t.armed })

/-- TMR_CV (R383). -/
def execTmrCv (g : TimerIx) (w : BusWrite) (s : State) : Host.Outcome State Fault Refusal :=
  .next (s.gate w (fun s v => s.writeTmrCv g.val v))

/-- Some channel of all 32 but one holds a pin (R382). -/
def State.pinTaken (s : State) (g c n : Nat) : Bool :=
  s.rdBit F.RTR_TIO_CLAIMED n ||
    (List.range 8).any (fun k => (List.range 4).any (fun d => !(k == g && d == c) && s.chHolds k d && s.chPin k d == n))

/-- The byte of one channel in a write to TMR_CCFG (R382): capture with ACT 3 is refused as a combination (R12); a change of MODE
empties its queue and clears DROPS; a new claim takes the pin, driven low, or reads back ACT 0. -/
def State.writeChannel (s : State) (g c b : Nat) : State :=
  let held := s.chHolds g c
  let pin0 := s.chPin g c
  let mode0 := s.chMode g c
  let keep := bitsN b 0 2 == 3 && bitsN b 2 2 == 3
  let mode := if keep then mode0 else bitsN b 0 2
  let act := if keep then s.chAct g c else bitsN b 2 2
  let pin := bitsN b 4 3
  let s := ((s.wr (F.TMR_CCFG_MODE0.up (8 * c)) mode g).wr (F.TMR_CCFG_ACT0.up (8 * c)) act g).wr (F.TMR_CCFG_PIN0.up (8 * c)) pin g
  let s := if mode = mode0 then s else s.onTimer g (fun t => { t with
    q := putCh t.q c [], drops := putCh t.drops c 0, armed := putCh t.armed c false })
  let wants := s.chHolds g c
  if wants && !(held && pin == pin0) then
    if s.pinTaken g c pin then (s.wr (F.TMR_CCFG_ACT0.up (8 * c)) 0 g).record 0x0114 (srcTio pin) 0
    else s.driveTio pin false
  else s

/-- A write to TMR_CCFG, channel by channel. -/
def State.writeTmrCcfg (s : State) (g w : Nat) : State :=
  s.forEach (List.range 4) (fun s c => s.writeChannel g c (bitsN w (8 * c) 8))

/-- TMR_CCFG (R382). -/
def execTmrCcfg (g : TimerIx) (w : BusWrite) (s : State) : Host.Outcome State Fault Refusal :=
  .next (s.gate w (fun s v => s.writeTmrCcfg g.val v)).settle

/-- Stagger-load the periodic channels of a timer (R385). -/
def State.armTimer (s : State) (g : Nat) : State :=
  let cs := (List.range 4).filter (fun c => s.chMode g c == 2)
  let step := s.rd F.TMR_STEP_STEP g
  let c0 := (s.timer g).count
  s.forEach (List.range cs.length) (fun s j => s.onTimer g (fun t => { t with
    val := putCh t.val (cs.getD j 0) ((c0 + step + j * step / cs.length) % 2 ^ 32) }))

/-- A write to TMR_CTL: ARM and DROP_CLR. -/
def State.writeTmrCtl (s : State) (w : Nat) : State :=
  let s := s.forEach ((List.range 8).filter (fun g => bitN w g)) State.armTimer
  if bitN w 16 then s.forEach (List.range 8) (fun s g => s.onTimer g (fun t => { t with drops := Vector.replicate 4 0 })) else s

/-- ARM (R385). -/
def execArm (w : BusWrite) (s : State) : Host.Outcome State Fault Refusal := .next (s.gate w State.writeTmrCtl)

/-- DROP_CLR (R394). -/
def execDropClr (w : BusWrite) (s : State) : Host.Outcome State Fault Refusal := .next (s.gate w State.writeTmrCtl)

/-! ### The make-up at a wake (R390, R391) -/

/-- A channel whose value the make-up passes: its flag once, ACT once; a periodic value moves ahead of the new count, every match
beyond the first counted in DROPS; a one-shot disarms. -/
def State.passChannel (s : State) (g c adv dist : Nat) : State :=
  let s := (s.putBit F.TMR_CHF_FLAG (4 * g + c) true).chPinAct g c
  if s.chMode g c = 2 then
    let step := max 1 (s.rd F.TMR_STEP_STEP g)
    let k := (adv - dist) / step + 1
    (s.onTimer g (fun t => { t with val := vupd t.val c (fun v => (v + k * step) % 2 ^ 32) })).chDrop g c (k - 1)
  else s.onTimer g (fun t => { t with armed := putCh t.armed c false })

/-- The make-up of one timer by `m` cycles: whether a compare value and whether the wrap was passed. -/
def State.makeupTimer (s : State) (g m : Nat) : Bool × Bool × State :=
  if !s.flag F.TMR_CFG_EN g then (false, false, s)
  else
    let t := s.timer g
    let p := 2 ^ s.rd F.TMR_CFG_PSC g
    let adv := (t.ph + m) / p
    let dist := fun c => (vget t.val c 0 + 2 ^ 32 - t.count - 1) % 2 ^ 32 + 1
    let hit := (List.range 4).filter (fun c => s.chWaits g c && decide (dist c ≤ adv))
    let ovf := decide (2 ^ 32 ≤ t.count + adv)
    let s := s.onTimer g (fun t => { t with ph := (t.ph + m) % p, count := (t.count + adv) % 2 ^ 32 })
    let s := s.forEach hit (fun s c => s.passChannel g c adv (dist c))
    (!hit.isEmpty, ovf, if ovf then s.putBit F.TMR_OVF_OVF g true else s)

/-- makeup of R390, and its record (R391). -/
def State.makeup (s : State) (ticks : Nat) : State :=
  let x := ticks * 390625 + s.rd F.TMR_MKFR_FRAC
  let m := x / 64
  let s := (s.wr F.TMR_MKFR_FRAC (x % 64)).wr F.TMR_MKUP_TICKS (min ticks (2 ^ 32 - 1))
  let s := { s with tb := (s.tb + m) % 2 ^ 64 }
  let r := (List.range 8).foldl (fun (a : Bool × Bool × State) g =>
    let (h, o, s) := a.2.2.makeupTimer g m
    (a.1 || h, a.2.1 || o, s)) (false, false, s)
  r.2.2.record 0x0D03 srcDevice (r.1.toNat + 2 * r.2.1.toNat)

end Sys2Proof.Machine
end

