-- ==== Sys2Proof/Machine/Writes.lean ====
section
/-!
DEFINITION. Sys2Proof/Machine/Writes.lean: the effect of a write on every register of the map (R10 to R12, R513, R514), the Dormant
request (R405, R406), the writes that arrive as memory requests to an aperture (R418 to R422), and the reads with a side effect
(R515).
-/
namespace Sys2Proof.Machine

/-! ### NVM and Selvedge controls -/

/-- A write to NVM_CTL: CKPT_NOW starts a checkpoint (R314), CNT_CLR clears NVM_ECC and NVM_FOLDS. -/
def State.writeNvmCtl (s : State) (w : Nat) : State :=
  let s := if bitN w 0 then s.checkpoint else s
  if bitN w 1 then (s.setReg .NVM_ECC 0 0).setReg .NVM_FOLDS 0 0 else s

/-- CKPT_NOW (R314). -/
def execCkptNow (w : BusWrite) (s : State) : Host.Outcome State Fault Refusal := .next (s.gate w State.writeNvmCtl)

/-- CNT_CLR of NVM_CTL. -/
def execNvmCntClr (w : BusWrite) (s : State) : Host.Outcome State Fault Refusal := .next (s.gate w State.writeNvmCtl)

/-- A write to SLV_CTL: FLUSH_NOW starts a flush once RECOVERED reads 1 (Table 14-3), CNT_CLR clears DROPS and every SLV_CCNT. -/
def State.writeSlvCtl (s : State) (w : Nat) : State :=
  let s := if bitN w 0 ∧ s.flag F.NVM_STAT_RECOVERED then s.startFlush .all else s
  if bitN w 1 then (s.wr F.SLV_EVT_DROPS 0).forEach (List.range 16) (fun s n => s.setReg .SLV_CCNT n 0) else s

/-- FLUSH_NOW (R342). -/
def execFlushNow (w : BusWrite) (s : State) : Host.Outcome State Fault Refusal := .next (s.gate w State.writeSlvCtl)

/-- CNT_CLR of SLV_CTL. -/
def execSlvCntClr (w : BusWrite) (s : State) : Host.Outcome State Fault Refusal := .next (s.gate w State.writeSlvCtl)

/-- Store snapshot selection `i` = 8·K + N (R336). -/
def State.putSel (s : State) (i w : Nat) : State := s.onSlv (fun v => { v with sel := v.sel.set i (BitVec.ofNat 32 w) })

/-- A write to SLV_SNAP_ADDR: the selection at K and N. -/
def State.writeSnapAddr (s : State) (w : Nat) : State := s.putSel (8 * s.rd F.SLV_SNAP_SEL_K + s.rd F.SLV_SNAP_SEL_N) w

/-- SLV_SNAP_ADDR (R336). -/
def execSlvSnapAddr (w : BusWrite) (s : State) : Host.Outcome State Fault Refusal := .next (s.gate w State.writeSnapAddr)

/-! ### The Dormant request (R405, R406) -/

/-- The first condition of R405 that fails. -/
def State.dormRefusal (s : State) : Option Nat :=
  if (List.range 48).any (fun l => s.laneState l != .off) then some 1
  else if (List.range 2).any (fun x => !s.perst x && (s.linkOf x).1) then some 2
  else if !s.flag F.NVM_STAT_RECOVERED ∨ s.nvm.commit.isSome ∨ s.nvm.resolve.isSome ∨
      s.meters.toList.any (fun m => m.calib.isSome) then some 3
  else if s.flag F.GLB_PF_PF_STATE then some 4
  else if s.rd F.GLB_WAKE_EN_SRC = 0 then some 5
  else none

/-- Enter a stage of Table 17-3 or of R406; host intake stops. -/
def State.enterStage (s : State) (x : Stage) : State := { s with power := { s.power with stage := x, intakeOff := true } }

/-- An accepted Dormant request (R406, step 1): intake and the board ports stop, and the closing save starts. -/
def State.startDormant (s : State) : State :=
  (((s.record 0x1003 srcDevice 0).enterStage .entering).pmCut).closingSave .dormant

/-- A write to GLB_PWR_CTL (R405); a request while a soft reset or a Dormant entry runs is ignored. -/
def State.writePwrCtl (s : State) (w : Nat) : State :=
  if F.GLB_PWR_CTL_DORM.of w ≠ 0x3C ∨ s.power.stage ≠ .run then s
  else match s.dormRefusal with
    | some n => ((s.put F.GLB_PWR_STAT_DORM_REFUSED true).wr F.GLB_PWR_STAT_RCAUSE n).record 0x1004 srcDevice n
    | none => s.startDormant

/-- DORM (R405). -/
def execDorm (w : BusWrite) (s : State) : Host.Outcome State Fault Refusal := .next (s.gate w State.writePwrCtl)

/-! ### Every register of the map (R10, R513) -/

/-- A write to GLB_CLK_CFG; with SLOW_SRC at RC only the slow clock runs from the RC. -/
def State.writeClkCfg (s : State) (w : Nat) : State :=
  let s := s.plainWrite .GLB_CLK_CFG 0 w
  if s.rd F.GLB_CLK_CFG_SLOW_SRC = 1 then s.put F.GLB_CLK_STAT_SLOW_ON_XTAL false else s

/-- A write to GLB_CLK_STAT: a loss that still lasts keeps its flag. -/
def State.writeClkStat (s : State) (w : Nat) : State :=
  s.w1cBut .GLB_CLK_STAT 0 w (keepIf s.power.xinAbsent [F.GLB_CLK_STAT_XIN_LOST] |||
    keepIf (!s.flag F.GLB_CLK_STAT_PLL_LOCK) [F.GLB_CLK_STAT_PLL_UNLOCKED])

/-- A write to HST_CTL: bit 0 of each FN_EN reads 1 (R412). -/
def State.writeHstCtl (s : State) (w : Nat) : State :=
  let s := s.plainWrite .HST_CTL 0 w
  (s.wr F.HST_CTL_FN_EN_A (s.rd F.HST_CTL_FN_EN_A ||| 1)).wr F.HST_CTL_FN_EN_B (s.rd F.HST_CTL_FN_EN_B ||| 1)

/-- A write to PH_SAMP: 0x0202 may be recorded again (R53). -/
def State.writeSamp (s : State) (p w : Nat) : State := (s.plainWrite .PH_SAMP p w).onPh p (fun x => { x with deferred := false })

/-- A write to PH_LOOP: LRATIO is then not Warping's (R116). -/
def State.writePhLoop (s : State) (p w : Nat) : State := (s.plainWrite .PH_LOOP p w).onPh p (fun x => { x with surveyed := false })

/-- A write to LN_SHTL_CFG: LNOM is then not Warping's (R116). -/
def State.writeLnShtl (s : State) (l w : Nat) : State :=
  (s.plainWrite .LN_SHTL_CFG l w).onLane l (fun x => { x with surveyed := false })

/-- What a register-space write does to a register of the lane, phase, bay and metering blocks. -/
def State.writeUnit (s : State) (r : Reg) (i w : Nat) : State :=
  match r with
  | .BAY_HEDDLE_CMT => s.writeCommit i w
  | .BAY_RB_CTL => s.writeRbCtl i w
  | .BAY_SHTL_STAT => s.writeShtlStat i w
  | .BAY_PWM_CTL => s.writePwmCtl i w
  | .BAY_SAFE => s.writeSafe i w
  | .BAY_PH_TRIP => s.writePhTrip i w
  | .PH_SAMP => s.writeSamp i w
  | .PH_LOOP => s.writePhLoop i w
  | .LN_SHTL_CFG => s.writeLnShtl i w
  | .LN_COEF_SEL => s.writeCoefSel i w
  | .LN_COEF_DATA => s.writeCoefData i w
  | .LN_TRIP => s.writeLnTrip i w
  | .LN_REED => s.writeLnReed i w
  | .LN_WARP_DATA => s.writeWarpData i w
  | .MTR_CFG => s.writeMtrCfg i w
  | .MTR_STAT => s.writeMtrStat i w
  | .MTR_DATA => s.writeMtrData i w
  | _ => s.plainWrite r i w

/-- What a register-space write does to a register; the tenant registers of the HST block are not written here (R422). -/
def State.writeReg (s : State) (r : Reg) (i w : Nat) : State :=
  match r with
  | .GLB_CLK_CFG => s.writeClkCfg w
  | .GLB_CLK_STAT => s.writeClkStat w
  | .GLB_PWR_CTL => s.writePwrCtl w
  | .GLB_PWM_PER => s.writePer w
  | .GLB_TRIP => s.writeGlbTrip w
  | .GLB_TRIP_CFG => s.writeTripCfg w
  | .GLB_REF => s.writeRef w
  | .GLB_THM_EN_LO => s.writeThermReg false w
  | .GLB_THM_EN_HI => s.writeThermReg true w
  | .BUS_COEF_SEL => s.writeBusCoefSel w
  | .BUS_COEF_DATA => s.writeBusCoefData w
  | .REED_CFG => s.writeReedCfg w
  | .TRD_CFG => s.writeTrdCfg w
  | .NVM_CTL => s.writeNvmCtl w
  | .SLV_CTL => s.writeSlvCtl w
  | .SLV_SNAP_ADDR => s.writeSnapAddr w
  | .RTR_ROUTE => s.writeRoute i w
  | .RTR_CTL => s.writeRtrCtl w
  | .RTR_TIO => s.writeTio w
  | .TMR_CTL => s.writeTmrCtl w
  | .TMR_CFG => s.writeTmrCfg i w
  | .TMR_CNT => s.writeTmrCnt i w
  | .TMR_CCFG => s.writeTmrCcfg i w
  | .TMR_CV => s.writeTmrCv i w
  | .HST_CTL => s.writeHstCtl w
  | .SEC_TSEL => s.writeTsel w
  | .SMB_M_CFG => s.writeSmbM w
  | .SMB_POLL_CFG => s.writePoll (s.rd F.SMB_POLL_SEL_ENTRY) w
  | .HST_SQ_BASE_LO | .HST_SQ_BASE_HI | .HST_SQ_CFG | .HST_CQ_BASE_LO | .HST_CQ_BASE_HI | .HST_CQ_CFG | .HST_SQ_TAIL_DB
  | .HST_CQ_HEAD_DB | .HST_SQ_STAT | .HST_CQ_STAT | .HST_EVT_CFG | .HST_T_ERR => s
  | r => s.writeUnit r i w

/-- A register-space write at an address; an unmapped one is ignored (R509). -/
def State.writeAddr (s : State) (a w : Nat) : State :=
  match decodeAddr a with
  | some (r, i) => s.writeReg r i w
  | none => s

/-! ### The tenant window (Table 18-2, R422, R423, R431) -/

/-- A tenant's write of its own HST registers; a ring base keeps its value while the ring is enabled (R423). -/
def State.writeOwn (s : State) (r : Reg) (t w : Nat) : State :=
  match r with
  | .HST_SQ_BASE_LO | .HST_SQ_BASE_HI => if s.flag F.HST_SQ_CFG_EN t then s else s.plainWrite r t w
  | .HST_CQ_BASE_LO | .HST_CQ_BASE_HI => if s.flag F.HST_CQ_CFG_EN t then s else s.plainWrite r t w
  | .HST_SQ_CFG => s.writeSqCfg t w
  | .HST_CQ_CFG => s.writeCqCfg t w
  | .HST_SQ_TAIL_DB => s.writeSqTail t w
  | .HST_CQ_HEAD_DB => s.writeCqHead t w
  | .HST_EVT_CFG | .HST_T_ERR => s.plainWrite r t w
  | _ => s

/-- Change an entry of a tenant's MSI-X table (Table 18-2). -/
def State.onMsix (s : State) (t k : Nat) (f : MsixEntry → MsixEntry) : State :=
  s.onTenant t (fun x => { x with msix := vupd x.msix k f })

/-- A write of one word of an MSI-X entry: address low, address high, data, or vector control, whose bit 0 masks the vector. A message
that waits in the pending bits is sent as its vector is unmasked (R431). -/
def State.writeMsix (s : State) (t k j w : Nat) : State :=
  let v := BitVec.ofNat 32 w
  match j with
  | 0 => s.onMsix t k (fun e => { e with addr := (e.addr &&& 0xFFFFFFFF00000000#64) ||| v.setWidth 64 })
  | 1 => s.onMsix t k (fun e => { e with addr := (e.addr &&& 0xFFFFFFFF#64) ||| (v.setWidth 64 <<< 32) })
  | 2 => s.onMsix t k (fun e => { e with data := v })
  | _ =>
    let s := s.onMsix t k (fun e => { e with masked := bitN w 0 })
    let x := s.tenant t
    if x.pba.getLsbD k ∧ !bitN w 0 ∧ x.msixEn ∧ !x.msixMask then
      (s.onTenant t (fun x => { x with pba := x.pba &&& ~~~(1#8 <<< k) })).emit (.msix t k)
    else s

/-- A write at an offset of the tenant window (Table 18-2). -/
def State.writeWindow (s : State) (t o w : Nat) : State :=
  if 0x1000 ≤ o ∧ o < 0x1030 then
    match decodeAddr (0x5100 + 0x100 * t + (o - 0x1000)) with
    | some (r, _) => s.writeOwn r t w
    | none => s
  else if 0x3000 ≤ o ∧ o < 0x3080 then s.writeMsix t ((o - 0x3000) / 16) ((o - 0x3000) % 16 / 4) w
  else s

/-! ### Memory requests (R417 to R420) -/

/-- One DW of a write request: the register space of a 512 KiB aperture, or the tenant window. -/
def State.writeDw (s : State) (t o w : Nat) : State :=
  let big := t % 4 == 0
  if big ∧ o < 0x50000 then
    if !s.flag F.NVM_STAT_PLOADED then s.deny t false
    else if s.roleOf t ≠ 3 then s.deny t true
    else s.writeAddr o w
  else if big ∧ 0x7C000 ≤ o ∧ o < 0x80000 then s.writeWindow t (o - 0x7C000) w
  else if !big ∧ o < 0x4000 then s.writeWindow t o w
  else s

/-- The DWs of a request in ascending address; one with a byte enable clear is discarded (R420). -/
def State.writeDws (s : State) (t : Nat) : Nat → List WriteDw → State
  | _, [] => s
  | o, d :: ds => (if d.be = 0xF#4 then s.writeDw t o d.value.toNat else s).writeDws t (o + 4) ds

/-- REGISTER_WRITE (R10, R418 to R422): a memory write request to BAR0 of `bytes` bytes. One that is not one or two DWs, naturally
aligned, is discarded and sets BAD_ACCESS (R420, Table 20-2). -/
def execRegisterWrite (t : HostT) (offset : BitVec 32) (bytes : Nat) (dws : List WriteDw) (s : State) :
    Host.Outcome State Fault Refusal :=
  let t := t.val
  let o := offset.toNat
  let s := s.begin
  if !(s.tenant t).exists' then .next s
  else
    let s := s.toL0 t
    if (bytes = 4 ∨ bytes = 8) ∧ o % bytes = 0 ∧ 4 * dws.length = bytes then .next (s.writeDws t o dws).settle
    else .next ((s.put F.HST_T_ERR_BAD_ACCESS true t).violation t 8)

/-! ### Reads with a side effect (R515) -/

/-- A read of a low register by a tenant with a register aperture: the low word is returned, the high word latched for that tenant. -/
def State.readLow (s : State) (t k v : Nat) : State :=
  if t % 4 ≠ 0 ∨ !(s.tenant t).exists' then s
  else (s.onTenant t (fun x => { x with latch := vupd x.latch k (fun _ => BitVec.ofNat 32 (v / 2 ^ 32)) })).emit
    (.readData t (BitVec.ofNat 32 v))

/-- NVM_TVAL_LO: the live reading of the counter NVM_TSEL selects. -/
def execNvmTvalLo (t : HostT) (s : State) : Host.Outcome State Fault Refusal :=
  .next (s.begin.readLow t.val 0 (s.reading (s.rd F.NVM_TSEL_ID)))

/-- NVM_TSTO_LO: its stored value. -/
def execNvmTstoLo (t : HostT) (s : State) : Host.Outcome State Fault Refusal :=
  .next (s.begin.readLow t.val 1 (s.ctr (s.rd F.NVM_TSEL_ID)).stored)

/-- NVM_TALT_LO: the other copy's value while the counter is DISPUTED (R322). -/
def execNvmTaltLo (t : HostT) (s : State) : Host.Outcome State Fault Refusal :=
  let c := s.ctr (s.rd F.NVM_TSEL_ID)
  .next (s.begin.readLow t.val 2 (if c.st = .disputed then c.alt else 0))

/-- GLB_OPTIME_LO: the reading of counter 288, 0 before RECOVERED. -/
def execGlbOptimeLo (t : HostT) (s : State) : Host.Outcome State Fault Refusal :=
  .next (s.begin.readLow t.val 3 (if s.flag F.NVM_STAT_RECOVERED then s.opTime else 0))

end Sys2Proof.Machine
end

