-- ==== Sys2Proof/Machine/Startup.lean ====
section
/-!
DEFINITION. Sys2Proof/Machine/Startup.lean: start-up (R395 to R399), the parameter load (R327), the device resets (R400 to R404) and
Dormant (R406 to R408).
-/
namespace Sys2Proof.Machine

/-- Change the hidden state of clocks, start-up and power. -/
def State.onPower (s : State) (f : Power → Power) : State := { s with power := f s.power }

/-! ### The device resets (R395, R400, R402, Table 17-4) -/

/-- What the flash holds survives every reset; an operation in progress is torn (R316, R317). -/
def Nvm.afterReset (n : Nvm) : Nvm :=
  { Nvm.made with
    ctrs := n.ctrs.map (fun k => { Counter.made with s0 := k.s0, s1 := k.s1 })
    bank0 := n.bank0
    bank1 := n.bank1
    sealHalf0 := n.sealHalf0
    sealHalf1 := n.sealHalf1
    sealActive := n.sealActive }

/-- A tenant after a device reset; a soft reset keeps its configuration space (Table 17-4). -/
def TenantSt.afterReset (x : TenantSt) (soft : Bool) : TenantSt :=
  if soft then { TenantSt.reset with bme := x.bme, d3hot := x.d3hot, exists' := x.exists' } else TenantSt.reset

/-- The registers that show the levels of pins, and their fields: no reset changes what is outside the device. -/
def pinFields : List (Field × Nat) :=
  [(F.GLB_TRIP_SAFE_LIVE, 1), (F.GLB_TRIP_FIN_LIVE, 1), (F.LN_TRIP_LFLT_LIVE, 48), (F.GLB_PF_PFI_LIVE, 1),
   (F.GLB_PORT_STAT_PERST_A, 1), (F.GLB_PORT_STAT_PERST_B, 1)]

/-- The RWS fields (Table 22-7). -/
def rwsFields : List (Field × Nat) :=
  [(F.GLB_CLK_CFG_SLOW_SRC, 1), (F.HST_CTL_FN_EN_A, 1), (F.HST_CTL_FN_EN_B, 1), (F.GLB_SCRATCH_DATA, 8)]

/-- What a soft reset keeps beside: clocks, analogue sections, comparators, links, the reference that stays selected (Table 17-2, Table
17-4). -/
def softFields (ref : Bool) : List (Field × Nat) :=
  [(F.GLB_CLK_STAT_PLL_LOCK, 1), (F.GLB_BAY_STAT_AN_ON, 12), (F.BAY_DL_STAT_DL_LOCK, 12), (F.PH_OCTHR_OCH_LIVE, 192),
   (F.PH_OCTHR_OCL_LIVE, 192), (F.LN_CMPTHR_BOV_LIVE, 48), (F.LN_CMPTHR_SHC_LIVE, 48), (F.BUS_CMPTHR_BUSOV_LIVE, 4),
   (F.BUS_CMPTHR_BUSUV_LIVE, 4)] ++ (if ref then [(F.GLB_REF_REF_SETTLED, 1), (F.GLB_REF_REF_IN_WIN, 1)] else [])

/-- Take fields over from an earlier state. -/
def State.keepFields (s old : State) (fs : List (Field × Nat)) : State :=
  fs.foldl (fun s f => s.forEach (List.range f.2) (fun s i => s.wr f.1 (old.rd f.1 i) i)) s

/-- What a device reset of a cause of Table 17-2 puts in place before the kept fields return: every register at its reset word, the
log, the flash and the tenants' kept parts as they were (R402). -/
def State.resetBase (old : State) (cause : Nat) : State :=
  let soft := cause == 3
  let ref := soft && old.rd F.GLB_REF_REF_SEL == 0
  { State.reset with
    pending := old.pending
    outs := old.outs
    free := old.free
    tb := if cause = 1 then 0 else old.tb
    slv := { Selvedge.reset with log := old.slv.log }
    nvm := old.nvm.afterReset
    tenants := old.tenants.map (fun x => x.afterReset soft)
    sec := if cause = 1 then Sec.reset else { Sec.reset with jtagIr := old.sec.jtagIr, extest := old.sec.extest }
    ports := if soft then old.ports else State.reset.ports
    refOn := soft && old.refOn
    refSeen := ref && old.flag F.GLB_REF_REF_SETTLED
    refRun := if soft && old.refOn then (if ref then old.refRun else some 0) else none
    power := if soft then { Power.reset with boot := .recovery, pump := true } else { Power.reset with xinAbsent := old.power.xinAbsent } }

/-- The state a device reset of a cause of Table 17-2 leaves (R402). -/
def State.deviceReset (s : State) (cause : Nat) : State :=
  let old := s.crashFlash
  let soft := cause == 3
  let ref := soft && old.rd F.GLB_REF_REF_SEL == 0
  let s := (old.resetBase cause).keepFields old pinFields
  let s := if cause = 1 then s else (s.keepFields old rwsFields).keepFields old [(F.GLB_CLK_STAT_SLOW_ON_XTAL, 1)]
  let s := if soft then ((s.keepFields old (softFields ref)).setReg .HST_LINK_A 0 (old.reg .HST_LINK_A 0)).setReg .HST_LINK_B 0 (old.reg .HST_LINK_B 0)
    else (s.applyFnEn 0).applyFnEn 1
  s.wr F.GLB_BOOT_CAUSE cause

/-- POWER_ON_RESET (R395): the supplies hold power-on reset and release it. -/
def execPowerOnReset (s : State) : Host.Outcome State Fault Refusal := .next (s.begin.deviceReset 1)

/-- RESET_N (R400): a low pulse. Below 100 ns it is ignored and from 1 us on it resets; between the two the spec states neither. -/
def execResetN (widthNs : Nat) (s : State) : Host.Outcome State Fault Refusal :=
  let s := s.begin
  if widthNs < 100 then .next s
  else if 1000 ≤ widthNs then .next (s.deviceReset 2)
  else
    let (n, s) := s.draw
    .next (if Config.midPulseResets n then s.deviceReset 2 else s)

/-! ### Table 17-1, steps 2 to 5, at power-up and at a wake -/

/-- XIN_READY (step 2): 1,024 clean cycles of XIN; the root PLL is enabled. -/
def execXinReady (s : State) : Host.Outcome State Fault Refusal :=
  let s := s.begin.onPower (fun x => { x with xinAbsent := false })
  if s.power.boot = .waitXin then .next (s.onPower (fun x => { x with boot := .pllEnabled })) else .next s

/-- The wake's share of the lock (R408): the make-up, 0x1005, WSRC and WOKE; the board ports and intake resume. -/
def State.wakeLock (s : State) : State :=
  let m := s.power.wakeSrc
  let s := (s.makeup s.power.ticks).record 0x1005 srcDevice m
  let s := (s.wr F.GLB_PWR_STAT_WSRC m).put F.GLB_PWR_STAT_WOKE true
  let s := (s.onPower (fun x => { x with wakeSrc := 0, intakeOff := false })).onSlv (fun v => { v with sealedOff := false })
  s.forEach (List.range 8) State.kickFetch

/-- PLL_LOCK (step 3): the clocks start, the reference is enabled, and bay 0's analogue section; pins that are low act from here on
(Table 17-5). -/
def execPllLock (s : State) : Host.Outcome State Fault Refusal :=
  let s := s.begin
  if s.power.boot ≠ .pllEnabled then .next s
  else
    let s := (s.put F.GLB_CLK_STAT_PLL_LOCK true).put F.GLB_BAY_STAT_AN_ON true 0
    let s : State := { s.onPower (fun x => { x with boot := .bays 1 }) with refOn := true, refRun := some 0, refOut := 0 }
    let s := if s.power.stage = .waking then s.wakeLock else s
    .next s.pinTrips.settle

/-- PLL_RETRY (R397): 200 us have passed without lock. Three retries are made; the failure after the third halts start-up. -/
def execPllRetry (s : State) : Host.Outcome State Fault Refusal :=
  let s := s.begin
  let n := s.power.tries + 1
  if s.power.boot ≠ .pllEnabled then .next s
  else if 3 < n then .next (s.onPower (fun x => { x with boot := .halted }))
  else .next (((s.onPower (fun x => { x with tries := n })).wr F.GLB_BOOT_PLL_TRIES n).record 0x1007 srcDevice n)

/-- BAY_ANALOGUE_ENABLE (step 4): the bays follow one another. -/
def execBayAnalogueEnable (b : Bay) (s : State) : Host.Outcome State Fault Refusal :=
  let s := s.begin
  let b := b.val
  if s.power.boot ≠ .bays b then .next s
  else .next ((s.put F.GLB_BAY_STAT_AN_ON true b).onPower (fun x => { x with boot := if b = 11 then .pump else .bays (b + 1) }))

/-- The SerDes of both ports start, and training where PERST_N is high (step 7, R403). -/
def State.startPorts (s : State) : State :=
  let s := (s.onPort 0 (fun p => { p with started := true })).onPort 1 (fun p => { p with started := true })
  (s.train 0).train 1

/-- CHARGE_PUMP_READY (steps 5 to 7): recovery starts at power-up; at a wake the wake marker of counter 288 is written (R408). -/
def execChargePumpReady (s : State) : Host.Outcome State Fault Refusal :=
  let s := s.begin
  if s.power.boot ≠ .pump then .next s
  else if s.power.stage = .waking then
    let s := s.onPower (fun x => { x with pump := true, boot := .done, stage := .run })
    let s := s.onNvm (fun n => { n with closing := none, closed := false })
    .next ((s.writeInc 288 0 false).kickAll.startPorts).settle
  else .next (s.onPower (fun x => { x with pump := true, boot := .recovery })).startPorts

/-! ### Recovery (step 6, 10) -/

/-- The roles after a device reset: the defaults, but the sealing tenant is Meter while the seal is set (R467). -/
def State.defaultRoles (s : State) : State :=
  if !s.flag F.SEC_STAT_SEALED then s
  else
    let t := s.rd F.SEC_STAT_SEALER
    let s := s.setRole t 2
    (if t = 0 then s.setRole 4 3 else s).showStandby

/-- RECOVERY_DONE (R318, R346, R402): Tally recovery and the Selvedge scan have ended, with the words of flash that needed a correction
or could not be read; 0x1001 follows, and accounting may start (R290). -/
def execRecoveryDone (ecc : List (Nat × Bool)) (s : State) : Host.Outcome State Fault Refusal :=
  let s := s.begin
  if s.power.boot ≠ .recovery ∨ s.flag F.NVM_STAT_RECOVERED ∨ s.ringsDead then .next s
  else
    let cause := s.rd F.GLB_BOOT_CAUSE
    let s := (s.tallyRecover cause ecc).slvRecover
    let s := (s.put F.NVM_STAT_RECOVERED true).record 0x1001 srcDevice cause
    .next s.defaultRoles.kickAll.startAll.presence.settle

/-! ### The parameter load (R325 to R327) -/

/-- The fields of a register that its chapter loads from the parameter bank; 0 where it loads none. -/
def Reg.loads (r : Reg) : Nat :=
  let all := r.info.rw ||| r.info.rwl
  match r with
  | .BAY_HEDDLE_LO | .BAY_HEDDLE_HI | .BAY_LANE_SEG | .PH_SAMP | .PH_OCTHR | .LN_CMPTHR | .BUS_CMPTHR | .PH_LOOP | .BAY_DLIM
  | .LN_LOOP_CFG | .LN_IPH | .LN_COEF_DATA | .BUS_WIN_HI | .BUS_WIN_LO | .BUS_COEF_DATA | .BAY_SHTL_CFG | .LN_SHTL_CFG
  | .GLB_PWM_PER | .GLB_PWM_SS | .GLB_TRIP_CFG | .BAY_PWM_CTL | .BAY_DT | .BAY_SAFE | .REED_CFG | .REED_RIP | .LN_REED
  | .BAY_WARP_CFG | .LN_WARP_CFG | .LN_WARP_DATA | .LN_CTL | .LN_LOSS | .LN_PULSE | .GLB_START | .BUS_SOC | .TRD_CFG | .LN_JML
  | .GLB_REF | .MTR_FILT | .MTR_SEL | .MTR_DATA | .NVM_CFG | .SLV_CFG | .RTR_ROUTE | .RTR_FOUT | .RTR_TIO | .RTR_IRQ
  | .GLB_TEMP_CFG | .GLB_THM_CFG | .GLB_PF | .TMR_STEP | .TMR_CCFG | .GLB_WAKE_EN | .GLB_WAKE_TMR | .GLB_PRES_EN_LO
  | .GLB_PRES_EN_HI | .HST_LTR | .SMB_S_CFG | .SMB_M_CFG => all
  | .MTR_CFG => all &&& (0xFFFFFFFF ^^^ F.MTR_CFG_MODE.mask)
  | .TMR_CFG => F.TMR_CFG_PSC.mask ||| F.TMR_CFG_EN.mask
  | .GLB_ATTR => all &&& (0xFFFFFFFF ^^^ F.GLB_ATTR_LSEL.mask)
  | _ => 0

/-- Carry out an access that the metering seal does not touch (R327). -/
def State.unsealed (s : State) (f : State → State) : State :=
  if s.flag F.SEC_STAT_SEALED then (f (s.put F.SEC_STAT_SEALED false)).put F.SEC_STAT_SEALED true else f s

/-- An entry's value puts a field out of its range. -/
def State.entryBad (s : State) (r : Reg) (i w : Nat) : Bool :=
  match r with
  | .RTR_ROUTE => (routeRefusal w).isSome
  | .MTR_DATA => !s.itemTakes (s.rd F.MTR_SEL_IDX i) w
  | .LN_WARP_DATA => decide (4 < s.rd F.LN_WARP_CFG_IDX i)
  | .BAY_SAFE => (List.range 16).any (fun k => bitsN w (2 * k) 2 == 3)
  | r => s.outOf r i w &&& r.loads != 0

/-- The working copy of a coefficient word loads with its staging copy (chapter 4). -/
def State.loadCoef (s : State) (r : Reg) (i : Nat) : State :=
  match r with
  | .LN_COEF_DATA =>
    let k := coefAt (s.rd F.LN_COEF_SEL_SET i) (s.rd F.LN_COEF_SEL_INDEX i)
    s.onLane i (fun x => { x with coefW := vupd x.coefW k (fun _ => vget x.coefS k 0) })
  | .BUS_COEF_DATA =>
    let k := s.rd F.BUS_COEF_SEL_INDEX
    s.onSeg (s.rd F.BUS_COEF_SEL_SEG) (fun x => { x with coefW := vupd x.coefW k (fun _ => vget x.coefS k 0) })
  | _ => s

/-- One entry skipped, or one field of it (R327). -/
def State.ignoreEntry (s : State) : State := s.bump F.NVM_PCNT_IGNORED

/-- Apply one entry of a bank (R327). -/
def State.loadEntry (s : State) (e : Nat × Word) : State :=
  let a := e.1
  let v := e.2.toNat
  if 0x80004000 ≤ a ∧ a < 0x80004200 ∧ a % 4 = 0 then s.putSel ((a - 0x80004000) / 4) v
  else if 0x80006000 ≤ a ∧ a < 0x80006080 ∧ a % 4 = 0 then
    let s := if F.SMB_POLL_CFG_PER.of v = 0 then s.ignoreEntry else s
    s.writePoll ((a - 0x80006000) / 4) v
  else match decodeAddr a with
    | none => s.ignoreEntry
    | some (r, i) =>
      let m := r.loads
      if m = 0 then s.ignoreEntry
      else s.unsealed (fun s =>
        let s := if s.entryBad r i v then s.ignoreEntry else s
        let keep := (s.reg r i).toNat &&& (r.info.rw ||| r.info.rwl) &&& (0xFFFFFFFF ^^^ m)
        (s.writeReg r i ((v &&& m) ||| keep)).loadCoef r i)

/-- The active copy of a bay is loaded from its shadow, unless a commit of it would be refused. -/
def State.loadHeddle (s : State) (b : Nat) : State :=
  let q : Snap := ⟨s.rd F.BAY_HEDDLE_LO_PH0_7 b, s.rd F.BAY_HEDDLE_HI_PH8_15 b, (s.reg .BAY_LANE_SEG b).toNat % 256, 0⟩
  match s.commitCheck b q with
  | some _ => s
  | none => s.applyCommit b q

/-- PARAM_LOADED (R326, R327): the active bank's entries apply in its order, the active Heddle copies load, the staging image starts as a
copy of the bank, and PLOADED sets. -/
def execParamLoaded (s : State) : Host.Outcome State Fault Refusal :=
  let s := s.begin
  if s.power.boot ≠ .recovery ∨ s.flag F.NVM_STAT_PLOADED ∨ s.ringsDead then .next s
  else
    let s := s.showBanks
    let s := match s.nvm.activeBank with
      | some (n, b) =>
        let s := (b.entries.foldl State.loadEntry s).forEach (List.range 12) State.loadHeddle
        (s.onNvm (fun m => { m with staging := b.entries })).record 0x0A0A srcDevice n
      | none => s.record 0x0A0B srcDevice 0
    .next (s.put F.NVM_STAT_PLOADED true).pinTrips.settle

/-- Steps 4 to 10 of Table 17-1 are complete. -/
def State.startable (s : State) : Bool :=
  s.power.boot == .recovery && s.flag F.NVM_STAT_RECOVERED && s.flag F.NVM_STAT_PLOADED && s.flag F.GLB_REF_REF_SETTLED &&
    s.power.pump && (List.range 12).all (fun b => s.flag F.GLB_BAY_STAT_AN_ON b && s.flag F.BAY_DL_STAT_DL_LOCK b)

/-- STARTUP_COMPLETE (step 11): STARTED sets, and 0x1002. -/
def execStartupComplete (s : State) : Host.Outcome State Fault Refusal :=
  let s := s.begin
  if !s.startable then .next s
  else .next (((s.onPower (fun x => { x with boot := .done })).put F.GLB_BOOT_STARTED true).record 0x1002 srcDevice
    (s.rd F.GLB_BOOT_CAUSE))

/-! ### The soft reset (R401, R404, Table 17-3) -/

/-- Step 2 of Table 17-3: lanes in RAMP or a RUN state, and in HOLD, stop; other lanes keep their state. -/
def State.softStops (s : State) (l : Nat) : State :=
  match s.laneState l with
  | .ramp | .runFull | .runShed | .runPulse | .hold => s.parkLane l 0
  | _ => s

/-- DEVICE_SOFT_RESET (R401, R404, R462): the command completes, intake stops and the lanes are stopped. -/
def execDeviceSoftReset (h : CmdHdr) (key : Word) (s : State) : Host.Outcome State Fault Refusal :=
  .next (s.dispatch { opcode := 0x70, issuers := .m, tgt := .zero } h fun s c =>
    if key ≠ 0x52E5#32 then s.complete c stFieldRange
    else if s.power.stage ≠ .run then s.complete c stLaneState
    else (((s.complete c stOk).enterStage .softReset).forEach (List.range 48) State.softStops).settle)

/-- The commands that still wait as the registers reset complete with LANE_STATE. -/
def State.endWaits (s : State) : State :=
  let s := s.finish (fun _ => true) stLaneState
  let q := s.sec.stmts
  let s := q.foldl (fun (s : State) (x : Signing) => s.complete x.cmd stLaneState) (s.onSec (fun x => { x with stmts := [] }))
  let r := s.portM.q ++ (match s.portM.act.bind PmAct.req? with | some r => [r] | none => [])
  let s := { s with portM := { s.portM with q := [], act := none } }
  r.foldl (fun (s : State) (x : PmReq) => s.complete x.cmd stLaneState) s

/-- SOFT_RESET_CYCLE (Table 17-3, steps 5 and 6): the closing save is complete, and the registers reset. -/
def execSoftResetCycle (s : State) : Host.Outcome State Fault Refusal :=
  let s := s.begin
  if s.power.stage = .softReset ∧ s.closingDone ∧ s.nvm.closing = some .softReset then
    .next (s.endWaits.deviceReset 3).pinTrips.settle
  else .next s

/-! ### Dormant (R406 to R408) -/

/-- WAKE_N of a port is driven low from the wake until its PERST_N rises (R408). -/
def State.driveWake (s : State) (x m : Nat) : State :=
  if s.rdBit F.GLB_WAKE_EN_WAKEN_EN x ∧ s.perst x ∧ !bitN m 2 then (s.onPort x (fun p => { p with wakeLow := true })).emit (.wakeN x true)
  else s

/-- A wake is taken: XIN is enabled, and steps 2 to 5 of Table 17-1 run again (R408). -/
def State.takeWake (s : State) (m ticks : Nat) : State :=
  let s := s.onPower (fun x => { x with
    stage := .waking, boot := .waitXin, wakeSrc := m, ticks := ticks, tries := 0, psWake := bitN m 3 })
  let s := (s.wr F.GLB_BOOT_PLL_TRIES 0).onNvm (fun n => { n with wakeMark := true })
  (s.driveWake 0 m).driveWake 1 m

/-- Step 3 of R406: bays, reference, charge pump, PLL and XIN are off, and every PWM ball is high impedance. -/
def State.powerDown (s : State) : State :=
  let s : State := { s.refFalls (s.rd F.GLB_REF_REF_SEL) with refOn := false, refRun := none, refOut := 0 }
  let s := s.forEach (List.range 12) (fun s b => (s.put F.GLB_BAY_STAT_AN_ON false b).put F.BAY_DL_STAT_DL_LOCK false b)
  let s := (s.put F.GLB_CLK_STAT_PLL_LOCK false).forEach (List.range 192) State.cutPhase
  let s := (s.onPort 0 (fun p => { p with started := false, training := false })).onPort 1 (fun p =>
    { p with started := false, training := false })
  (s.onPower (fun x => { x with stage := .dormant, pump := false })).onNvm (fun n => { n with closed := true })

/-- DORMANT_ENTERED (R406): the closing save is complete; a wake recognised meanwhile is taken now (R407). -/
def execDormantEntered (s : State) : Host.Outcome State Fault Refusal :=
  let s := s.begin
  if s.power.stage = .entering ∧ s.closingDone ∧ s.nvm.closing = some .dormant then
    let s := s.powerDown
    .next ((if s.power.wakeSrc = 0 then s else s.takeWake s.power.wakeSrc 0).settle)
  else .next s

/-- WAKE (R407, R408): enabled sources of Table 17-6 are recognised, `ticks` slow-clock ticks after entry. -/
def execWake (sources : BitVec 4) (ticks : BitVec 48) (s : State) : Host.Outcome State Fault Refusal :=
  let s := s.begin
  let m := sources.toNat &&& s.rd F.GLB_WAKE_EN_SRC
  match s.power.stage with
  | .entering => .next (s.onPower (fun x => { x with wakeSrc := x.wakeSrc ||| m }))
  | .dormant => if m = 0 then .next s else .next (s.takeWake m ticks.toNat)
  | _ => .next s

end Sys2Proof.Machine
end

