-- ==== Sys2Proof/Machine/Monitors.lean ====
section
/-!
DEFINITION. Sys2Proof/Machine/Monitors.lean: power-fail (R368 to R371), the supervision of the clocks (R21), and the ECC of context
SRAM (R24).
-/
namespace Sys2Proof.Machine

/-! ### Power-fail -/

/-- Host intake stops for good (R369): entries fetched and not yet dispatched are dropped, and count in OUTST no more. -/
def State.dropFetched (s : State) : State :=
  let s := s.forEach (List.range 8) (fun s t =>
    (s.wr F.HST_T_ERR_OUTST (s.rd F.HST_T_ERR_OUTST t - (s.tenant t).fetched.length) t).onTenant t (fun x =>
      { x with fetched := [], fetching := none }))
  s.onPower (fun x => { x with intakeOff := true, stage := match x.stage with
    | .softReset | .entering => .run
    | y => y })

/-- The closing save of power-fail (R315); before RECOVERED there is none (R330, R371). -/
def State.powerFailSave (s : State) : State :=
  let s := s.onNvm (fun n => { n with closed := false })
  if s.flag F.NVM_STAT_RECOVERED then s.closingSave .powerFail else s.onNvm (fun n => { n with closing := some .powerFail })

/-- POWER_FAIL (R368, R369): PFI has lain below 1.200 V for 0.5 us. In Dormant, and while CLK_CORE does not run, only PFI_LIVE
changes (R371). -/
def execPowerFail (s : State) : Host.Outcome State Fault Refusal :=
  let s := s.begin.put F.GLB_PF_PFI_LIVE true
  if !s.coreRuns ∨ s.flag F.GLB_PF_PF_STATE then .next s
  else
    let s := s.put F.GLB_PF_PF_STATE true
    let s := s.setGlobal F.GLB_TRIP_PFI_SRC 0 0x20 2 (fun s => s.record 0x0C03 srcDevice 0)
    .next s.dropFetched.pmCut.settle.powerFailSave.settle

/-- PF_RESTART (R371): PFI has lain above 1.240 V for 10 ms, after FLUSHED or, in a state entered before RECOVERED, after its entry. -/
def execPfRestart (s : State) : Host.Outcome State Fault Refusal :=
  let s := s.begin.put F.GLB_PF_PFI_LIVE false
  if s.flag F.GLB_PF_PF_STATE ∧ s.flag F.GLB_PF_PF_RESTART ∧ (s.flag F.NVM_STAT_FLUSHED ∨ !s.flag F.NVM_STAT_RECOVERED) then
    .next (s.deviceReset 4)
  else .next s

/-! ### Clocks (R21) -/

/-- Clock loss (R21): 0x0C10 and the global latch. -/
def State.clockLoss (s : State) (flags : Nat) : State :=
  (s.record 0x0C10 srcDevice flags).setGlobal F.GLB_TRIP_CLK_SRC 0 0x40 2

/-- XIN_LOST (R21): no XIN edge for 2 slow-clock periods. -/
def execXinLost (s : State) : Host.Outcome State Fault Refusal :=
  let s := s.begin.onPower (fun x => { x with xinAbsent := true })
  if !s.coreRuns then .next s else .next ((s.put F.GLB_CLK_STAT_XIN_LOST true).clockLoss 1).settle

/-- PLL_UNLOCKED (R21): the root frequency has left its window; metering halts on every configured lane (Table 12-8). -/
def execPllUnlocked (s : State) : Host.Outcome State Fault Refusal :=
  let s := s.begin
  if !s.coreRuns ∨ !s.flag F.GLB_CLK_STAT_PLL_LOCK then .next s
  else
    let s := (s.put F.GLB_CLK_STAT_PLL_LOCK false).put F.GLB_CLK_STAT_PLL_UNLOCKED true
    .next (s.clockLoss 2).haltAll.settle

/-- PLL_RELOCK (R21): with PLL_RELOCK_AUTO the PLL locks again, a start of accounting (R290). The global latch stays. -/
def execPllRelock (s : State) : Host.Outcome State Fault Refusal :=
  let s := s.begin
  if !s.coreRuns ∨ s.flag F.GLB_CLK_STAT_PLL_LOCK ∨ !s.flag F.GLB_CLK_CFG_PLL_RELOCK_AUTO then .next s
  else .next ((s.onPower (fun x => { x with xinAbsent := false })).put F.GLB_CLK_STAT_PLL_LOCK true).startAll.settle

/-- XTAL_FAIL (R21): the crystal has stopped, and the slow clock runs from the RC. -/
def execXtalFail (s : State) : Host.Outcome State Fault Refusal :=
  let s := s.begin
  if s.rd F.GLB_CLK_CFG_SLOW_SRC ≠ 0 ∨ !s.flag F.GLB_CLK_STAT_SLOW_ON_XTAL then .next s
  else .next ((s.put F.GLB_CLK_STAT_SLOW_ON_XTAL false).put F.GLB_CLK_STAT_XTAL_FAIL true).settle

/-- SLOW_ON_XTAL (R21): 1,024 stable crystal cycles with SLOW_SRC 0b00. -/
def execSlowOnXtal (s : State) : Host.Outcome State Fault Refusal :=
  let s := s.begin
  if s.rd F.GLB_CLK_CFG_SLOW_SRC ≠ 0 then .next s else .next (s.put F.GLB_CLK_STAT_SLOW_ON_XTAL true)

/-! ### Context SRAM (R23, R24) -/

/-- CONTEXT_ECC (R24): a double-bit error in a context: 0 to 191 a phase, 192 to 239 a lane, 240 to 255 the rings of a tenant. -/
def execContextEcc (ctx : Fin 256) (s : State) : Host.Outcome State Fault Refusal :=
  let n := ctx.val
  let s := s.begin.record 0x0C11 n 0
  if n < 192 then .next (s.setPhaseLatch n 2).settle
  else if n < 240 then .next (s.setLaneLatch (n - 192) 1).settle
  else .next (s.quarantine (n % 8) 2).settle

end Sys2Proof.Machine
end

