-- ==== Sys2Proof/Machine/Dispatch.lean ====
section
/-!
DEFINITION. Sys2Proof/Machine/Dispatch.lean: one arm per command, each one direct call of its meaning.
-/
namespace Sys2Proof.Machine

open Sys2Proof

/-- The effect of a command on everything but the queue of waiting commands. -/
def exec (i : Instr) (s : State) : Host.Outcome State Fault Refusal :=
  match i with
  | .nop h => Sys2Proof.Machine.execNop h s
  | .identify h => Sys2Proof.Machine.execIdentify h s
  | .invalidOpcode h opcode => Sys2Proof.Machine.execInvalidOpcode h opcode s
  | .laneClaim h => Sys2Proof.Machine.execLaneClaim h s
  | .laneRelease h => Sys2Proof.Machine.execLaneRelease h s
  | .laneSetTarget h kind value => Sys2Proof.Machine.execLaneSetTarget h kind value s
  | .laneSetLimits h w => Sys2Proof.Machine.execLaneSetLimits h w s
  | .laneSetLatency h lat => Sys2Proof.Machine.execLaneSetLatency h lat s
  | .laneArm h => Sys2Proof.Machine.execLaneArm h s
  | .lanePark h => Sys2Proof.Machine.execLanePark h s
  | .laneClearTrip h => Sys2Proof.Machine.execLaneClearTrip h s
  | .laneWarp h => Sys2Proof.Machine.execLaneWarp h s
  | .laneGetState h => Sys2Proof.Machine.execLaneGetState h s
  | .laneSetPolicy h mask fallback policyEn => Sys2Proof.Machine.execLaneSetPolicy h mask fallback policyEn s
  | .phaseReadmit h => Sys2Proof.Machine.execPhaseReadmit h s
  | .phaseGetHealth h => Sys2Proof.Machine.execPhaseGetHealth h s
  | .segmentSetMode h mode => Sys2Proof.Machine.execSegmentSetMode h mode s
  | .segmentSetTarget h mask cmdV slew droop plim => Sys2Proof.Machine.execSegmentSetTarget h mask cmdV slew droop plim s
  | .segmentSetSharing h policy buf => Sys2Proof.Machine.execSegmentSetSharing h policy buf s
  | .telemetryStreamOpen h p => Sys2Proof.Machine.execTelemetryStreamOpen h p s
  | .telemetryStreamClose h stream => Sys2Proof.Machine.execTelemetryStreamClose h stream s
  | .meterRead h opts => Sys2Proof.Machine.execMeterRead h opts s
  | .meterStatement h nonce => Sys2Proof.Machine.execMeterStatement h nonce s
  | .meterResolveDispute h choice => Sys2Proof.Machine.execMeterResolveDispute h choice s
  | .meterCalibrate h chan kind src nexp eRef => Sys2Proof.Machine.execMeterCalibrate h chan kind src nexp eRef s
  | .calibrated l => Sys2Proof.Machine.execCalibrated l s
  | .logRead h start => Sys2Proof.Machine.execLogRead h start s
  | .logConfig h k sel => Sys2Proof.Machine.execLogConfig h k sel s
  | .logMark h flags data => Sys2Proof.Machine.execLogMark h flags data s
  | .paramWrite h op buf => Sys2Proof.Machine.execParamWrite h op buf s
  | .paramRead h src first => Sys2Proof.Machine.execParamRead h src first s
  | .paramCommit h => Sys2Proof.Machine.execParamCommit h s
  | .linkSend h chan len data => Sys2Proof.Machine.execLinkSend h chan len data s
  | .linkRenegotiate h => Sys2Proof.Machine.execLinkRenegotiate h s
  | .linkRoleSwap h dir => Sys2Proof.Machine.execLinkRoleSwap h dir s
  | .portmTransfer h addr proto wlen rlen flags data => Sys2Proof.Machine.execPortmTransfer h addr proto wlen rlen flags data s
  | .tenantHeartbeat h interval => Sys2Proof.Machine.execTenantHeartbeat h interval s
  | .tenantSetRole h role => Sys2Proof.Machine.execTenantSetRole h role s
  | .tenantReleaseQuarantine h => Sys2Proof.Machine.execTenantReleaseQuarantine h s
  | .sealDevice h => Sys2Proof.Machine.execSeal h s
  | .unsealChallenge h => Sys2Proof.Machine.execUnsealChallenge h s
  | .unsealResponse h response => Sys2Proof.Machine.execUnsealResponse h response s
  | .deviceSoftReset h key => Sys2Proof.Machine.execDeviceSoftReset h key s
  | .softResetCycle => Sys2Proof.Machine.execSoftResetCycle s
  | .page write pec => Sys2Proof.Machine.execPage write pec s
  | .operationRead pec => Sys2Proof.Machine.execOperationRead pec s
  | .operationOff pec => Sys2Proof.Machine.execOperationOff pec s
  | .operationOn pec => Sys2Proof.Machine.execOperationOn pec s
  | .clearFaults pec => Sys2Proof.Machine.execClearFaults pec s
  | .capability pec => Sys2Proof.Machine.execCapability pec s
  | .voutMode pec => Sys2Proof.Machine.execVoutMode pec s
  | .statusByte pec => Sys2Proof.Machine.execStatusByte pec s
  | .statusWord pec => Sys2Proof.Machine.execStatusWord pec s
  | .statusVout pec => Sys2Proof.Machine.execStatusVout pec s
  | .statusIout pec => Sys2Proof.Machine.execStatusIout pec s
  | .statusTemperature pec => Sys2Proof.Machine.execStatusTemperature pec s
  | .readVin pec => Sys2Proof.Machine.execReadVin pec s
  | .readVout pec => Sys2Proof.Machine.execReadVout pec s
  | .readIout pec => Sys2Proof.Machine.execReadIout pec s
  | .readTemperature1 pec => Sys2Proof.Machine.execReadTemperature1 pec s
  | .readPout pec => Sys2Proof.Machine.execReadPout pec s
  | .pmbusRevision pec => Sys2Proof.Machine.execPmbusRevision pec s
  | .mfrSafeAll pec => Sys2Proof.Machine.execMfrSafeAll pec s
  | .mfrLaneState pec => Sys2Proof.Machine.execMfrLaneState pec s
  | .mfrSupResult pec => Sys2Proof.Machine.execMfrSupResult pec s
  | .alertResponse lost => Sys2Proof.Machine.execAlertResponse lost s
  | .psCommFault kind code => Sys2Proof.Machine.execPsCommFault kind code s
  | .psTimeout => Sys2Proof.Machine.execPsTimeout s
  | .psAddress codes => Sys2Proof.Machine.execPsAddress codes s
  | .setVbus sg value parityOk => Sys2Proof.Machine.execSetVbus sg value parityOk s
  | .setSlew sg value parityOk => Sys2Proof.Machine.execSetSlew sg value parityOk s
  | .setDroop sg value parityOk => Sys2Proof.Machine.execSetDroop sg value parityOk s
  | .setPlimit sg value parityOk => Sys2Proof.Machine.execSetPlimit sg value parityOk s
  | .getStatus sg value parityOk => Sys2Proof.Machine.execGetStatus sg value parityOk s
  | .getIbus sg value parityOk => Sys2Proof.Machine.execGetIbus sg value parityOk s
  | .trdUnknown sg code value parityOk => Sys2Proof.Machine.execTrdUnknown sg code value parityOk s
  | .trdAbort response => Sys2Proof.Machine.execTrdAbort response s
  | .caps l f => Sys2Proof.Machine.execCaps l f s
  | .contractAck l f => Sys2Proof.Machine.execContractAck l f s
  | .kaMod l f => Sys2Proof.Machine.execKaMod l f s
  | .attnInfo l f => Sys2Proof.Machine.execAttnInfo l f s
  | .swapAck l f => Sys2Proof.Machine.execSwapAck l f s
  | .swapReq l f => Sys2Proof.Machine.execSwapReq l f s
  | .ack l f => Sys2Proof.Machine.execAck l f s
  | .nak l f => Sys2Proof.Machine.execNak l f s
  | .linkData l f => Sys2Proof.Machine.execLinkData l f s
  | .badFrame l kind => Sys2Proof.Machine.execBadFrame l kind s
  | .unknownType l type f => Sys2Proof.Machine.execUnknownType l type f s
  | .attentionPulse l widthNs => Sys2Proof.Machine.execAttentionPulse l widthNs s
  | .attnCollision l => Sys2Proof.Machine.execAttnCollision l s
  | .pilotTrunc l => Sys2Proof.Machine.execPilotTrunc l s
  | .pilotNoise l => Sys2Proof.Machine.execPilotNoise l s
  | .frameReleased l => Sys2Proof.Machine.execFrameReleased l s
  | .kaDev l => Sys2Proof.Machine.execKaDev l s
  | .responseTimeout l => Sys2Proof.Machine.execResponseTimeout l s
  | .graceExpiry l => Sys2Proof.Machine.execGraceExpiry l s
  | .hardResetDrive l => Sys2Proof.Machine.execHardResetDrive l s
  | .hardResetRelease l => Sys2Proof.Machine.execHardResetRelease l s
  | .presenceTimeout l => Sys2Proof.Machine.execPresenceTimeout l s
  | .contactorTimeout l => Sys2Proof.Machine.execContactorTimeout l s
  | .swapTimeout l => Sys2Proof.Machine.execSwapTimeout l s
  | .contractBreach l => Sys2Proof.Machine.execContractBreach l s
  | .idAverage l mv => Sys2Proof.Machine.execIdAverage l mv s
  | .idRestart l => Sys2Proof.Machine.execIdRestart l s
  | .laneUpdate l => Sys2Proof.Machine.execLaneUpdate l s
  | .phaseUpdate p code => Sys2Proof.Machine.execPhaseUpdate p code s
  | .dutySaturated p => Sys2Proof.Machine.execDutySaturated p s
  | .headroomLost l => Sys2Proof.Machine.execHeadroomLost l s
  | .segmentUpdate sg => Sys2Proof.Machine.execSegmentUpdate sg s
  | .segCapacity sg => Sys2Proof.Machine.execSegCapacity sg s
  | .sharingCompute sg => Sys2Proof.Machine.execSharingCompute sg s
  | .shuttleSequenceStart b => Sys2Proof.Machine.execShuttleSequenceStart b s
  | .shuttleHandback b => Sys2Proof.Machine.execShuttleHandback b s
  | .shuttleAbort b => Sys2Proof.Machine.execShuttleAbort b s
  | .refBoundary => Sys2Proof.Machine.execRefBoundary s
  | .glideStep p => Sys2Proof.Machine.execGlideStep p s
  | .pulsePeriod l => Sys2Proof.Machine.execPulsePeriod l s
  | .watchSample p code => Sys2Proof.Machine.execWatchSample p code s
  | .controlTapSample l v ci => Sys2Proof.Machine.execControlTapSample l v ci s
  | .segmentSarConversion sg code => Sys2Proof.Machine.execSegmentSarConversion sg code s
  | .meterSample l alt v ci ovrV ovrI elapsed => Sys2Proof.Machine.execMeterSample l alt v ci ovrV ovrI elapsed s
  | .xchkWindow l => Sys2Proof.Machine.execXchkWindow l s
  | .policyMove l => Sys2Proof.Machine.execPolicyMove l s
  | .prestartEnd l => Sys2Proof.Machine.execPrestartEnd l s
  | .startTokenGrant => Sys2Proof.Machine.execStartTokenGrant s
  | .parkRampEnd l => Sys2Proof.Machine.execParkRampEnd l s
  | .heartbeatLapsed t => Sys2Proof.Machine.execHeartbeatLapsed t s
  | .surveyStart b => Sys2Proof.Machine.execSurveyStart b s
  | .surveyStep b values => Sys2Proof.Machine.execSurveyStep b values s
  | .surveyDone b => Sys2Proof.Machine.execSurveyDone b s
  | .readmitPassed b => Sys2Proof.Machine.execReadmitPassed b s
  | .adaptEstimate p high dt di => Sys2Proof.Machine.execAdaptEstimate p high dt di s
  | .reedReplan => Sys2Proof.Machine.execReedReplan s
  | .reedPlanStart => Sys2Proof.Machine.execReedPlanStart s
  | .planAdopted => Sys2Proof.Machine.execPlanAdopted s
  | .heddleCommit b w => Sys2Proof.Machine.execHeddleCommit b w s
  | .heddleCommitDone b => Sys2Proof.Machine.execHeddleCommitDone b s
  | .lnCoefCommit l w => Sys2Proof.Machine.execLnCoefCommit l w s
  | .busCoefCommit w => Sys2Proof.Machine.execBusCoefCommit w s
  | .phaseTrip p low => Sys2Proof.Machine.execPhaseTrip p low s
  | .laneTrip l low => Sys2Proof.Machine.execLaneTrip l low s
  | .lfltAttributed l => Sys2Proof.Machine.execLfltAttributed l s
  | .faultInEdge n high => Sys2Proof.Machine.execFaultInEdge n high s
  | .safeNEdge high => Sys2Proof.Machine.execSafeNEdge high s
  | .powerFail => Sys2Proof.Machine.execPowerFail s
  | .pfRestart => Sys2Proof.Machine.execPfRestart s
  | .xinLost => Sys2Proof.Machine.execXinLost s
  | .pllUnlocked => Sys2Proof.Machine.execPllUnlocked s
  | .pllRelock => Sys2Proof.Machine.execPllRelock s
  | .xtalFail => Sys2Proof.Machine.execXtalFail s
  | .contextEcc ctx => Sys2Proof.Machine.execContextEcc ctx s
  | .comparator src idx high => Sys2Proof.Machine.execComparator src idx high s
  | .isrefWindow b code => Sys2Proof.Machine.execIsrefWindow b code s
  | .supplyWindow b tap mv => Sys2Proof.Machine.execSupplyWindow b tap mv s
  | .dieTempWarn b quarterC => Sys2Proof.Machine.execDieTempWarn b quarterC s
  | .dieTempTrip b quarterC => Sys2Proof.Machine.execDieTempTrip b quarterC s
  | .auxTempAverage l mv => Sys2Proof.Machine.execAuxTempAverage l mv s
  | .interlockOpen l mv => Sys2Proof.Machine.execInterlockOpen l mv s
  | .refCheck mv => Sys2Proof.Machine.execRefCheck mv s
  | .dlLock b => Sys2Proof.Machine.execDlLock b s
  | .dlCompare b err => Sys2Proof.Machine.execDlCompare b err s
  | .autoReadback b => Sys2Proof.Machine.execAutoReadback b s
  | .readbackDone b sel code => Sys2Proof.Machine.execReadbackDone b sel code s
  | .go b w => Sys2Proof.Machine.execGo b w s
  | .pwmEn b w => Sys2Proof.Machine.execPwmEn b w s
  | .unlock b w => Sys2Proof.Machine.execUnlock b w s
  | .baySafe b w => Sys2Proof.Machine.execBaySafe b w s
  | .bayPhTrip b w => Sys2Proof.Machine.execBayPhTrip b w s
  | .lnTrip l w => Sys2Proof.Machine.execLnTrip l w s
  | .glbTrip w => Sys2Proof.Machine.execGlbTrip w s
  | .glbPwmPer w => Sys2Proof.Machine.execGlbPwmPer w s
  | .glbPwmSs w => Sys2Proof.Machine.execGlbPwmSs w s
  | .glbRef w => Sys2Proof.Machine.execGlbRef w s
  | .mtrCfg l w => Sys2Proof.Machine.execMtrCfg l w s
  | .lnReed l w => Sys2Proof.Machine.execLnReed l w s
  | .plan w => Sys2Proof.Machine.execPlan w s
  | .planEn w => Sys2Proof.Machine.execPlanEn w s
  | .tmrCfg g w => Sys2Proof.Machine.execTmrCfg g w s
  | .pop w g => Sys2Proof.Machine.execPop w g s
  | .tmrCnt g w => Sys2Proof.Machine.execTmrCnt g w s
  | .tmrCv g w => Sys2Proof.Machine.execTmrCv g w s
  | .tmrCcfg g w => Sys2Proof.Machine.execTmrCcfg g w s
  | .arm w => Sys2Proof.Machine.execArm w s
  | .dropClr w => Sys2Proof.Machine.execDropClr w s
  | .timerMatch g c => Sys2Proof.Machine.execTimerMatch g c s
  | .timerOverflow g => Sys2Proof.Machine.execTimerOverflow g s
  | .timerCapture g c rising => Sys2Proof.Machine.execTimerCapture g c rising s
  | .rtrRoute n w => Sys2Proof.Machine.execRtrRoute n w s
  | .rtrTio w => Sys2Proof.Machine.execRtrTio w s
  | .hitClr w => Sys2Proof.Machine.execHitClr w s
  | .glbThmEn hi w => Sys2Proof.Machine.execGlbThmEn hi w s
  | .ckptNow w => Sys2Proof.Machine.execCkptNow w s
  | .nvmCntClr w => Sys2Proof.Machine.execNvmCntClr w s
  | .flushNow w => Sys2Proof.Machine.execFlushNow w s
  | .slvCntClr w => Sys2Proof.Machine.execSlvCntClr w s
  | .slvSnapAddr w => Sys2Proof.Machine.execSlvSnapAddr w s
  | .shtlCntClr b w => Sys2Proof.Machine.execShtlCntClr b w s
  | .trdCfg w => Sys2Proof.Machine.execTrdCfg w s
  | .trdCntClr w => Sys2Proof.Machine.execTrdCntClr w s
  | .dorm w => Sys2Proof.Machine.execDorm w s
  | .qrel w => Sys2Proof.Machine.execQrel w s
  | .nvmTvalLo t => Sys2Proof.Machine.execNvmTvalLo t s
  | .nvmTstoLo t => Sys2Proof.Machine.execNvmTstoLo t s
  | .nvmTaltLo t => Sys2Proof.Machine.execNvmTaltLo t s
  | .glbOptimeLo t => Sys2Proof.Machine.execGlbOptimeLo t s
  | .sqTailDb w => Sys2Proof.Machine.execSqTailDb w s
  | .cqHeadDb w => Sys2Proof.Machine.execCqHeadDb w s
  | .hstSqCfg w => Sys2Proof.Machine.execHstSqCfg w s
  | .hstCqCfg w => Sys2Proof.Machine.execHstCqCfg w s
  | .registerWrite t offset bytes dws => Sys2Proof.Machine.execRegisterWrite t offset bytes dws s
  | .sqFetchDone t entries error => Sys2Proof.Machine.execSqFetchDone t entries error s
  | .msixCoalTimeout t => Sys2Proof.Machine.execMsixCoalTimeout t s
  | .telemetrySample t stream room => Sys2Proof.Machine.execTelemetrySample t stream room s
  | .portReset port kind => Sys2Proof.Machine.execPortReset port kind s
  | .linkTraining port => Sys2Proof.Machine.execLinkTraining port s
  | .functionLevelReset t => Sys2Proof.Machine.execFunctionLevelReset t s
  | .busMasterDisable t enable => Sys2Proof.Machine.execBusMasterDisable t enable s
  | .aspmL1Entry port substate => Sys2Proof.Machine.execAspmL1Entry port substate s
  | .ltrIdle port => Sys2Proof.Machine.execLtrIdle port s
  | .managerPromoted => Sys2Proof.Machine.execManagerPromoted s
  | .violationWindowEnd t => Sys2Proof.Machine.execViolationWindowEnd t s
  | .challengeExpiry => Sys2Proof.Machine.execChallengeExpiry s
  | .selvedgeReport => Sys2Proof.Machine.execSelvedgeReport s
  | .recordClose slot => Sys2Proof.Machine.execRecordClose slot s
  | .checkpoint => Sys2Proof.Machine.execCheckpoint s
  | .flashProgramDone bank ok => Sys2Proof.Machine.execFlashProgramDone bank ok s
  | .flashEraseDone bank ok => Sys2Proof.Machine.execFlashEraseDone bank ok s
  | .powerOnReset => Sys2Proof.Machine.execPowerOnReset s
  | .resetN widthNs => Sys2Proof.Machine.execResetN widthNs s
  | .xinReady => Sys2Proof.Machine.execXinReady s
  | .pllLock => Sys2Proof.Machine.execPllLock s
  | .pllRetry => Sys2Proof.Machine.execPllRetry s
  | .bayAnalogueEnable b => Sys2Proof.Machine.execBayAnalogueEnable b s
  | .recoveryDone ecc => Sys2Proof.Machine.execRecoveryDone ecc s
  | .paramLoaded => Sys2Proof.Machine.execParamLoaded s
  | .startupComplete => Sys2Proof.Machine.execStartupComplete s
  | .dormantEntered => Sys2Proof.Machine.execDormantEntered s
  | .wake sources ticks => Sys2Proof.Machine.execWake sources ticks s
  | .poll entry => Sys2Proof.Machine.execPoll entry s
  | .pmTransactionDone result data => Sys2Proof.Machine.execPmTransactionDone result data s
  | .pmArbLoss => Sys2Proof.Machine.execPmArbLoss s
  | .pmBackoffEnd => Sys2Proof.Machine.execPmBackoffEnd s
  | .pmClockTimeout => Sys2Proof.Machine.execPmClockTimeout s
  | .pmBusStuck sda freed => Sys2Proof.Machine.execPmBusStuck sda freed s
  | .pmRecoveryRetry freed => Sys2Proof.Machine.execPmRecoveryRetry freed s
  | .pmAlert => Sys2Proof.Machine.execPmAlert s
  | .extest => Sys2Proof.Machine.execExtest s
  | .samplePreload => Sys2Proof.Machine.execSamplePreload s
  | .idcode => Sys2Proof.Machine.execIdcode s
  | .bypass => Sys2Proof.Machine.execBypass s
  | .dbg value => Sys2Proof.Machine.execDbg value s
  | .carrierStart p => Sys2Proof.Machine.execCarrierStart p s
  | .idleGuard l => Sys2Proof.Machine.execIdleGuard l s
  | .preambleStart l => Sys2Proof.Machine.execPreambleStart l s
  | .slowOnXtal => Sys2Proof.Machine.execSlowOnXtal s
  | .unlockExpiry b => Sys2Proof.Machine.execUnlockExpiry b s
  | .chargePumpReady => Sys2Proof.Machine.execChargePumpReady s
  | .eraseSuspendDone bank => Sys2Proof.Machine.execEraseSuspendDone bank s
  | .linkUp port gen width ltrEn aspmEn fns => Sys2Proof.Machine.execLinkUp port gen width ltrEn aspmEn fns s
  | .pciPmD3hot t enter => Sys2Proof.Machine.execPciPmD3hot t enter s
  | .pmBusFree => Sys2Proof.Machine.execPmBusFree s
  | .statementSigned => Sys2Proof.Machine.execStatementSigned s

end Sys2Proof.Machine
end

