-- ==== Sys2Proof/Machine/Step.lean ====
section
/-!
DEFINITION. Sys2Proof/Machine/Step.lean: one step of the block: the command at the front of the queue, or, with none waiting, one idle
CLK_CORE cycle.
-/
namespace Sys2Proof.Machine

/-- One step: the command at the front runs on the state with the queue's rest; an empty queue is an idle CLK_CORE cycle, in which the
timebase, the timers and counter 288 advance (R378, R380, Table 13-3). -/
def step (s : State) : Host.Outcome State Fault Refusal :=
  match s.pending with
  | [] => .next s.idleTick
  | c :: rest => exec c { s with pending := rest }

/-- The state with the command a table word spells put at the front of its queue. -/
def State.withFetchWord (s : State) (nbits w : Nat) : State :=
  match decodeTableWord nbits w with
  | some c => { s with pending := c :: s.pending }
  | none => s

end Sys2Proof.Machine
end

