-- ==== Sys2Proof/WellFormed.lean ====
section
/-!
DEFINITION. Sys2Proof/WellFormed.lean: the commands the outside can present: the lengths of buffers, frames and value lists that the
operands' types leave open. A meaning does not rest on it: an ill-formed command runs, and what it does is the rules' answer to it.
-/
namespace Sys2Proof

/-- A command's header: CID 0xFFFF belongs to event entries (Table 18-5), DPTR is 8-byte aligned (R424). -/
def CmdHdr.wf (h : CmdHdr) : Bool := h.cid != 0xFFFF#16 && h.dptr.toNat % 8 == 0 && !h.rsvd

/-- A JML frame: at most 34 payload bytes (Table 11-3). -/
def JmlRx.wf (f : JmlRx) : Bool := decide (f.payload.length ≤ 34)

/-- The header of a ring command. -/
def Instr.header? : Instr → Option CmdHdr
  | .nop h | .identify h | .invalidOpcode h _ | .laneClaim h | .laneRelease h | .laneSetTarget h _ _ | .laneSetLimits h _
  | .laneSetLatency h _ | .laneArm h | .lanePark h | .laneClearTrip h | .laneWarp h | .laneGetState h | .laneSetPolicy h _ _ _
  | .phaseReadmit h | .phaseGetHealth h | .segmentSetMode h _ | .segmentSetTarget h _ _ _ _ _ | .segmentSetSharing h _ _
  | .telemetryStreamOpen h _ | .telemetryStreamClose h _ | .meterRead h _ | .meterStatement h _ | .meterResolveDispute h _
  | .meterCalibrate h _ _ _ _ _ | .logRead h _ | .logConfig h _ _ | .logMark h _ _ | .paramWrite h _ _ | .paramRead h _ _
  | .paramCommit h | .linkSend h _ _ _ | .linkRenegotiate h | .linkRoleSwap h _ | .portmTransfer h _ _ _ _ _ _
  | .tenantHeartbeat h _ | .tenantSetRole h _ | .tenantReleaseQuarantine h | .sealDevice h | .unsealChallenge h | .unsealResponse h _
  | .deviceSoftReset h _ => some h
  | _ => none

/-- The payload-carrying frame of a module-link command. -/
def Instr.frame? : Instr → Option JmlRx
  | .caps _ f | .contractAck _ f | .kaMod _ f | .attnInfo _ f | .swapAck _ f | .swapReq _ f | .ack _ f | .nak _ f | .linkData _ f
  | .unknownType _ _ f => some f
  | _ => none

/-- The check: the header of a ring command, the frame of a link command, and the list operands of the others. -/
def Instr.wf (c : Instr) : Bool :=
  (match c.header? with | some h => h.wf | none => true) && (match c.frame? with | some f => f.wf | none => true) &&
  (match c with
    | .registerWrite _ o n dws => (n == 4 || n == 8) && o.toNat % n == 0 && 4 * dws.length == n
    | .sqFetchDone _ es err => decide (es.length ≤ 8) && (err.isNone || es.isEmpty)
    | .surveyStep _ vs => decide (vs.length ≤ 256)
    | .linkUp _ g w _ _ _ => g.val != 0 && (w.val == 1 || w.val == 2)
    | .recoveryDone ecc => ecc.all (fun e => decide (e.1 < 0x200000))
    | .pmTransactionDone _ d => decide (d.length ≤ 33)
    | .telemetrySample _ _ room => decide (room ≤ 48)
    | .psCommFault k _ => decide (k.val ≠ 0)
    | _ => true)

end Sys2Proof
end

