-- ==== Sys2Proof/Safety.lean ====
section
/-!
DEFINITION. Sys2Proof/Safety.lean: what a sound state of the block is, and the terms the statements use: the canonical form of the
register table, the parts of State beside the registers, and frames: what a command leaves as it was.
-/
namespace Sys2Proof.Machine

/-! ### The register table -/

/-- One entry of the register table is in canonical form: its address is one the register map gives (R509), and its word is not
the reset word that an unlisted address reads as. -/
def entryOk (e : Nat × Word) : Bool :=
  match decodeAddr e.1 with
  | some (r, _) => e.2 != BitVec.ofNat 32 r.info.reset
  | none => false

/-- The register table is canonical: addresses strictly rising, every entry canonical; equal register contents are equal data. -/
def State.regsWf (s : State) : Bool := tabSorted none s.regs && s.regs.all entryOk

/-- What a stored word of a register can be: the state and the previous state of a lane are codes of Table 9-1 (0 to 12; R196), and the
identity and feature registers read what R512 and their tables give. -/
def wordOk (r : Reg) (w : Word) : Bool :=
  match r with
  | .LN_STATE => decide (bitsN w.toNat 0 4 ≤ 12) && decide (bitsN w.toNat 4 4 ≤ 12)
  | .GLB_ID | .GLB_FEAT => w == BitVec.ofNat 32 r.info.reset
  | _ => true

/-- The invariant every step keeps: the register table is canonical, and every register holds a word it can hold. -/
structure State.Sound (s : State) : Prop where
  table : s.regsWf = true
  words : ∀ r i, i < r.info.count → wordOk r (s.reg r i) = true

/-! ### Parts of State and frames -/

/-- The parts of State beside the waiting commands and the registers, one constructor per field. -/
inductive Part where
  | tb | free | outs | waits | supOut | supRes | supBad | served | tenants | ports | sec | slv | nvm | meters | lanes | phases
  | bays | segs | pwm | power | rtrLive | refSeen | refRun | refOut | refOn | timers | tioDrv | portM | tokenQ | lastGrant
  deriving DecidableEq, Repr

/-- A part holds the same value in two states. -/
def Part.same (s t : State) : Part → Prop
  | .tb => t.tb = s.tb
  | .free => t.free = s.free
  | .outs => t.outs = s.outs
  | .waits => t.waits = s.waits
  | .supOut => t.supOut = s.supOut
  | .supRes => t.supRes = s.supRes
  | .supBad => t.supBad = s.supBad
  | .served => t.served = s.served
  | .tenants => t.tenants = s.tenants
  | .ports => t.ports = s.ports
  | .sec => t.sec = s.sec
  | .slv => t.slv = s.slv
  | .nvm => t.nvm = s.nvm
  | .meters => t.meters = s.meters
  | .lanes => t.lanes = s.lanes
  | .phases => t.phases = s.phases
  | .bays => t.bays = s.bays
  | .segs => t.segs = s.segs
  | .pwm => t.pwm = s.pwm
  | .power => t.power = s.power
  | .rtrLive => t.rtrLive = s.rtrLive
  | .refSeen => t.refSeen = s.refSeen
  | .refRun => t.refRun = s.refRun
  | .refOut => t.refOut = s.refOut
  | .refOn => t.refOn = s.refOn
  | .timers => t.timers = s.timers
  | .tioDrv => t.tioDrv = s.tioDrv
  | .portM => t.portM = s.portM
  | .tokenQ => t.tokenQ = s.tokenQ
  | .lastGrant => t.lastGrant = s.lastGrant

/-- From `s` to `t` only the named registers and parts may differ: the queue, every instance of every other register and every
other part are as they were. -/
structure Leaves (rs : List Reg) (ps : List Part) (s t : State) : Prop where
  queue : t.pending = s.pending
  regs : ∀ r i, i < r.info.count → r ∉ rs → t.reg r i = s.reg r i
  parts : ∀ p, p ∉ ps → p.same s t

/-- Register `r` may differ from `s` to `t` only at instance `i`. -/
def OnlyAt (r : Reg) (i : Nat) (s t : State) : Prop := ∀ k, k ≠ i → t.reg r k = s.reg r k

/-- The stored word of a register with one field replaced. -/
def Field.set (f : Field) (v : Nat) (w : Word) : Word := BitVec.ofNat 32 (putBits w.toNat f.lo f.width v)

/-- Only lane `l`, tenant `k`, phase `p`, segment `g`, bay `b` of its table may differ in hidden state. -/
def OnlyLane (l : Nat) (s t : State) : Prop := ∀ k, k ≠ l → t.lane k = s.lane k
def OnlyTenant (n : Nat) (s t : State) : Prop := ∀ k, k ≠ n → t.tenant k = s.tenant k
def OnlyPhase (p : Nat) (s t : State) : Prop := ∀ k, k ≠ p → t.ph k = s.ph k
def OnlySeg (g : Nat) (s t : State) : Prop := ∀ k, k ≠ g → t.seg k = s.seg k
def OnlyBay (b : Nat) (s t : State) : Prop := ∀ k, k ≠ b → t.bay k = s.bay k
def OnlyMeter (l : Nat) (s t : State) : Prop := ∀ k, k ≠ l → t.meter k = s.meter k
def OnlyTimer (g : Nat) (s t : State) : Prop := ∀ k, k ≠ g → t.timer k = s.timer k

/-- A state change of lane `l` is queued for its next update, behind those that wait (R198). -/
def Queued (l : Nat) (m : Move) (s t : State) : Prop := t.lane l = { s.lane l with moves := (s.lane l).moves ++ [m] }

/-- A command waits for its event, behind those that wait (R443). -/
def Waits (c : CmdRef) (w : WaitFor) (s t : State) : Prop := t.waits = s.waits ++ [⟨c, w⟩]

/-- What the completion of a command may change (R426, R428, R431, R470, R496): OUTST, the completion ring, violations and quarantine,
the link's way back to L0, and a report that is lost. -/
def endRegs : List Reg := [.HST_T_ERR, .HST_CQ_STAT, .HST_LINK_A, .HST_LINK_B, .SEC_TFLAGS, .SLV_EVT]
def endParts : List Part := [.outs, .tenants, .slv, .supOut, .supRes, .supBad]

/-- What the evaluation of the router and of the level-sensitive conditions at the end of a command may change (R353 to R358). -/
def settleRegs : List Reg :=
  endRegs ++ [.GLB_TRIP, .GLB_START, .GLB_THM_EN_LO, .GLB_THM_EN_HI, .RTR_HIT, .RTR_PROBE, .RTR_FOUT_STAT, .NVM_STAT, .NVM_PF,
    .SLV_NEXT, .SLV_CCNT, .SMB_S_STAT, .BUS_LOOP_STAT, .BAY_PHASE_SVC, .BAY_SHTL_STAT, .BAY_PH_TRIP, .LN_LOOP_STAT, .LN_TRIP,
    .LN_WARP_STAT, .LN_STATE, .LN_JML, .MTR_STAT]
def settleParts : List Part :=
  endParts ++ [.waits, .nvm, .meters, .lanes, .phases, .bays, .segs, .pwm, .rtrLive, .tokenQ]

/-! ### When a ring command is carried out (R427, R442) -/

/-- The row of Table 19-1 of a ring command. -/
def rowOf : Instr → Option OpRow
  | .nop _ => some { opcode := 0x01, issuers := .any, tgt := .zero }
  | .identify _ => some { opcode := 0x02, issuers := .any, tgt := .zero }
  | .laneClaim _ => some { opcode := 0x10, issuers := .mo, tgt := .lane }
  | .laneRelease _ => some { opcode := 0x11, issuers := .ownerM, tgt := .lane }
  | .laneSetTarget _ _ _ => some { opcode := 0x12, issuers := .owner, tgt := .lane }
  | .laneSetLimits _ _ => some { opcode := 0x13, issuers := .owner, tgt := .lane }
  | .laneSetLatency _ _ => some { opcode := 0x14, issuers := .owner, tgt := .lane }
  | .laneArm _ => some { opcode := 0x15, issuers := .owner, tgt := .lane }
  | .lanePark _ => some { opcode := 0x16, issuers := .ownerS, tgt := .lane }
  | .laneClearTrip _ => some { opcode := 0x17, issuers := .ownerS, tgt := .lane }
  | .laneWarp _ => some { opcode := 0x18, issuers := .owner, tgt := .lane }
  | .laneGetState _ => some { opcode := 0x19, issuers := .any, tgt := .lane }
  | .laneSetPolicy _ _ _ _ => some { opcode := 0x1A, issuers := .owner, tgt := .lane }
  | .phaseReadmit _ => some { opcode := 0x20, issuers := .m, tgt := .phase }
  | .phaseGetHealth _ => some { opcode := 0x21, issuers := .any, tgt := .phase }
  | .segmentSetMode _ _ => some { opcode := 0x28, issuers := .m, tgt := .segment }
  | .segmentSetTarget _ _ _ _ _ _ => some { opcode := 0x29, issuers := .m, tgt := .segment }
  | .segmentSetSharing _ _ _ => some { opcode := 0x2A, issuers := .m, tgt := .segment }
  | .telemetryStreamOpen _ _ => some { opcode := 0x30, issuers := .any, tgt := .zero }
  | .telemetryStreamClose _ _ => some { opcode := 0x31, issuers := .any, tgt := .zero }
  | .meterRead h o => some ⟨0x38, .any, .laneOrDevice, true, if h.tgt.toNat = 0x100 then 192 else if o.getLsbD 0 then 104 else 64⟩
  | .meterStatement _ _ => some { opcode := 0x39, issuers := .mtOwner, tgt := .lane, needBuf := true, minLen := 128 }
  | .meterResolveDispute _ _ => some { opcode := 0x3A, issuers := .t, tgt := .counter }
  | .meterCalibrate _ _ _ _ _ _ => some { opcode := 0x3B, issuers := .t, tgt := .lane }
  | .logRead _ _ => some { opcode := 0x40, issuers := .any, tgt := .zero, needBuf := true }
  | .logConfig _ _ _ => some { opcode := 0x41, issuers := .m, tgt := .zero }
  | .logMark _ _ _ => some { opcode := 0x42, issuers := .mot, tgt := .zero }
  | .paramWrite _ o _ => some { opcode := 0x48, issuers := .m, tgt := .zero, needBuf := decide (o.toNat ≠ 3) }
  | .paramRead _ _ _ => some { opcode := 0x49, issuers := .any, tgt := .zero, needBuf := true }
  | .paramCommit _ => some { opcode := 0x4A, issuers := .m, tgt := .zero }
  | .linkSend _ _ _ _ => some { opcode := 0x50, issuers := .owner, tgt := .lane }
  | .linkRenegotiate _ => some { opcode := 0x51, issuers := .owner, tgt := .lane }
  | .linkRoleSwap _ _ => some { opcode := 0x52, issuers := .owner, tgt := .lane }
  | .portmTransfer _ _ _ _ n _ _ => some ⟨0x58, .mo, .zero, decide (12 < n.toNat), if 12 < n.toNat then n.toNat else 0⟩
  | .tenantHeartbeat _ _ => some { opcode := 0x60, issuers := .any, tgt := .zero }
  | .tenantSetRole _ _ => some { opcode := 0x61, issuers := .m, tgt := .tenant }
  | .tenantReleaseQuarantine _ => some { opcode := 0x62, issuers := .m, tgt := .tenant }
  | .sealDevice _ => some { opcode := 0x68, issuers := .t, tgt := .zero }
  | .unsealChallenge _ => some { opcode := 0x69, issuers := .sealer, tgt := .zero }
  | .unsealResponse _ _ => some { opcode := 0x6A, issuers := .sealer, tgt := .zero }
  | .deviceSoftReset _ _ => some { opcode := 0x70, issuers := .m, tgt := .zero }
  | _ => none

/-- The state a dispatched command's own effect starts from: taken from its tenant's fetched list (R427). -/
def State.taken (s : State) (h : CmdHdr) : State := s.begin.take h.tenant.val

/-- The dispatcher serves a ring command now (R427), and its checks of R442 steps 2 to 4 pass. -/
def State.Admits (s : State) (c : Instr) : Prop :=
  ∃ h r, c.header? = some h ∧ rowOf c = some r ∧ s.begin.dispatches h r.opcode = true ∧ (s.taken h).check r h = none

/-- The dispatcher serves a ring command now, and a check of R442 steps 2 to 4 fails with a status and result bytes. -/
def State.Refuses (s : State) (c : Instr) (st : Nat) (res : List Byte) : Prop :=
  ∃ h r, c.header? = some h ∧ rowOf c = some r ∧ s.begin.dispatches h r.opcode = true ∧ (s.taken h).check r h = some (st, res)

/-! ### When a register write is carried out (R419, R516) -/

/-- The state a tenant's register request starts from: its port's link is in L0 (R414). -/
def State.opened (s : State) (t : Nat) : State := s.begin.toL0 t

/-- A register-space write is carried out: the bank is loaded, and its tenant is Manager (R419, R516). -/
structure State.MayWrite (s : State) (w : BusWrite) : Prop where
  loaded : (s.opened w.tenant.val).flag F.NVM_STAT_PLOADED = true
  manager : (s.opened w.tenant.val).roleOf w.tenant.val = 3

/-! ### Events (R336, R337, R341) -/

/-- From `s` to `t` one event has been reported: its report enters the intake queue, or is lost and counted when 64 wait. -/
def Reported (s t : State) (code src flags : Nat) : Prop :=
  if 64 ≤ s.slv.intake.length then t.slv.intake = s.slv.intake ∧ t.slv.lost = s.slv.lost + 1
  else ∃ r, t.slv.intake = s.slv.intake ++ [r] ∧ r.code = code ∧ r.src = src ∧ r.flags = flags % 256 ∧ r.tb = s.tb

/-- From `s` to `t` the event has been reported, perhaps among others: where no report waited before, it stands in the intake queue. -/
def Recorded (s t : State) (code src flags : Nat) : Prop :=
  s.slv.intake = [] → ∃ r ∈ t.slv.intake, r.code = code ∧ r.src = src ∧ r.flags = flags % 256 ∧ r.tb = s.tb

/-- From `s` to `t` no event has been reported. -/
def Unreported (s t : State) : Prop := t.slv.intake = s.slv.intake ∧ t.slv.lost = s.slv.lost

end Sys2Proof.Machine
end

