-- ==== Sys2Proof/Certificates/Slice0/Obligations.lean ====
section
/-!
DEFINITION. Sys2Proof/Certificates/Slice0/Obligations.lean: the statements for the provers, from the numbered rules of the spec.
-/
open Sys2Proof Sys2Proof.Machine

/-! ### The machine as a whole -/

/-- A step on a non-empty queue is `exec` of the front command on the state with the queue's rest. -/
def stepRunsFrontCommand : Prop :=
  ∀ (s : State) (c : Instr) (rest : List Instr), step { s with pending := c :: rest } = exec c { s with pending := rest }

/-- A step on an empty queue is one CLK_CORE cycle. The model's choice (log entry 2); what advances in it is R378, R380 and Table
13-3: the timebase, and counter 288 once the flash is recovered. Model's readings: log entry 150. -/
def emptyQueueTicks : Prop :=
  ∀ s : State, s.pending = [] →
    (s.coreRuns = true → ∃ t : State, step s = .next t.settle ∧ t.tb = (s.tb + 1) % 2 ^ 64 ∧
      (s.flag F.NVM_STAT_RECOVERED = true → (t.ctr 288).acc = min ((s.ctr 288).acc + 1) (2 ^ 96 - 1)) ∧
      (s.flag F.NVM_STAT_RECOVERED = false → t.nvm = s.nvm)) ∧
    (s.coreRuns = false → step s = .next { s with outs := [] })

/-- Every command, in every state, answers a next state, and none touches the commands that wait behind it. Model's readings: log entry 5. -/
def Obligations.EveryCommandAnswers : Prop :=
  ∀ (c : Instr) (s : State), ∃ t : State, exec c s = .next t ∧ t.pending = s.pending

/-- A sound state (canonical register table; lane states of Table 9-1; identity registers as R512 gives them) stays sound in every
step, from every sound state. -/
def Obligations.StepKeepsSound : Prop :=
  ∀ s t : State, s.Sound → step s = .next t → t.Sound

/-- The state right after reset is sound. -/
def resetIsSound : Prop := State.reset.Sound

/-- Right after power-on reset every register reads its reset word, the timebase is 0, no command waits, no tenant holds a fetched
command, no lane is owned or leaves OFF, and the JTAG instruction is IDCODE. Model's readings: log entries 8, 118. -/
def resetValues : Prop :=
  (∀ r i, State.reset.reg r i = BitVec.ofNat 32 r.info.reset) ∧ State.reset.tb = 0 ∧ State.reset.pending = [] ∧
  (∀ t, (State.reset.tenant t).fetched = []) ∧
  (∀ l, (State.reset.lane l).owner = none ∧ State.reset.laneState l = .off) ∧ State.reset.sec.jtagIr = 3 ∧
  State.reset.waits = [] ∧ State.reset.outs = []

/-- The address map names one register and one instance for an address, at exactly the addresses of Tables 22-1 to 22-6. -/
def Obligations.AddressMap : Prop :=
  ∀ (a : Nat) (r : Reg) (i : Nat), decodeAddr a = some (r, i) ↔ i < r.info.count ∧ r.info.addr + r.info.stride * i = a

/-- The commands that set configuration: register writes, a bank load, resets, and the commands and results that Table 19-1, R192,
R193, R47 and the register tables name as writing one. -/
def setsConfig : Instr → Bool
  | .laneSetLatency _ _ | .laneSetPolicy _ _ _ _ | .baySafe _ _ | .hstSqCfg _ | .hstCqCfg _ | .mtrCfg _ _ | .tmrCcfg _ _
  | .rtrRoute _ _ | .registerWrite _ _ _ _ | .readmitPassed _ | .heddleCommitDone _ | .surveyDone _ | .paramLoaded
  | .softResetCycle | .pfRestart | .powerOnReset | .resetN _ | .portReset _ _ | .functionLevelReset _ => true
  | _ => false

/-- The registers all of whose fields software sets (RW, RWL, RWS), and whose stored word is what a read returns. -/
def configRegs : List Reg :=
  [.GLB_CLK_CFG, .BAY_HEDDLE_LO, .BAY_HEDDLE_HI, .BAY_LANE_SEG, .PH_SAMP, .PH_ISNCAL, .BAY_ISN_OFS, .BAY_ISN_SCALE, .BAY_WATCH,
   .BAY_XCHK, .BAY_DLIM, .LN_LOOP_CFG, .LN_IPH, .BUS_WIN_HI, .BUS_WIN_LO, .BAY_SHTL_CFG,
   .LN_SHTL_CFG, .GLB_TRIP_CFG, .BAY_DT, .BAY_SAFE, .BAY_WARP_CFG, .LN_WARP_CFG, .LN_CTL, .LN_POLICY, .LN_LOSS, .LN_PULSE,
   .BUS_SOC, .MTR_CFG, .MTR_FILT, .MTR_SEL, .NVM_CFG, .NVM_TSEL, .SLV_CFG, .SLV_SNAP_SEL, .SLV_RSEL,
   .RTR_ROUTE, .RTR_FOUT, .RTR_IRQ, .RTR_PROBE_SEL, .GLB_TEMP_CFG, .GLB_THM_CFG, .TMR_STEP, .TMR_CCFG,
   .GLB_WAKE_EN, .GLB_WAKE_TMR, .GLB_PRES_EN_LO, .GLB_PRES_EN_HI, .HST_CTL, .HST_LTR, .HST_SQ_BASE_LO, .HST_SQ_BASE_HI,
   .HST_SQ_CFG, .HST_CQ_BASE_LO, .HST_CQ_BASE_HI, .HST_CQ_CFG, .HST_EVT_CFG, .SMB_S_CFG, .SMB_M_CFG, .SMB_POLL_SEL,
   .GLB_SCRATCH]

/-- No other command changes a configuration register of the device: not a sample, a control update, a frame, a trip, a timer. -/
def Obligations.ConfigurationIsSoftwares : Prop :=
  ∀ (c : Instr) (s t : State), setsConfig c = false → exec c s = .next t →
    ∀ r ∈ configRegs, ∀ i, i < r.info.count → t.reg r i = s.reg r i

/-- The commands by which the role of a tenant can change: TENANT_SET_ROLE, SEAL (R474), promotion (R466), and resets, links and bank
loads. -/
def movesRoles : Instr → Bool
  | .tenantSetRole _ _ | .sealDevice _ | .managerPromoted | .softResetCycle | .pfRestart | .registerWrite _ _ _ _ | .portReset _ _
  | .functionLevelReset _ | .powerOnReset | .resetN _ | .recoveryDone _ | .paramLoaded | .linkUp _ _ _ _ _ _ | .pciPmD3hot _ _ => true
  | _ => false

/-- No other command changes the role of a tenant: a tenant cannot raise itself by any of them. -/
def rolesMoveOnlyByName : Prop :=
  ∀ (c : Instr) (s t : State), movesRoles c = false → exec c s = .next t → ∀ k, t.roleOf k = s.roleOf k ∧ t.manager = s.manager

/-- The commands that can set or clear the metering seal, and its bits in SEC_STAT. -/
def movesSeal : Instr → Bool
  | .sealDevice _ | .unsealResponse _ _ | .recoveryDone _ | .flashProgramDone _ _ => true
  | c => movesRoles c

/-- No other command changes SEC_STAT: the metering seal, its sealer and the debug lock stand. -/
def sealStands : Prop :=
  ∀ (c : Instr) (s t : State), movesSeal c = false → exec c s = .next t → t.reg .SEC_STAT 0 = s.reg .SEC_STAT 0

/-! ### Ring commands: dispatch, checks, completions (R427, R428, R442) -/

/-- R442 steps 2 to 4: a command whose turn it is not leaves the block as it was; else reserved bits, CID, DPTR, TGT and the buffer are
checked first, then the role, then ownership, and the first check that fails is the status, with no effect of the command.
Model's readings: log entry 6. -/
def Obligations.RingChecksInOrder : Prop :=
  ∀ (s : State) (c : Instr) (h : CmdHdr) (r : OpRow), c.header? = some h → rowOf c = some r →
    let field : Prop := h.rsvd = true ∨ h.cid = 0xFFFF#16 ∨ h.dptr.toNat % 8 ≠ 0 ∨ r.tgt.inRange h.tgt.toNat = false ∨
      r.needBuf = true ∧ (h.dptr = 0 ∨ h.dlen.toNat < r.minLen)
    let role : Prop := (s.taken h).permits r.issuers h.tenant.val = true
    let own : Prop := r.tgt = .lane → (s.taken h).ownsOk r.issuers h.tenant.val h.tgt.toNat = true
    (s.begin.dispatches h r.opcode = false → exec c s = .next s.begin) ∧
    (s.begin.dispatches h r.opcode = true →
      (field → exec c s = .next ((s.taken h).complete (cmdRef h r.opcode) stFieldRange)) ∧
      (¬field → ¬role → exec c s = .next ((s.taken h).complete (cmdRef h r.opcode) stNotPermitted)) ∧
      (¬field → role → ¬own →
        exec c s = .next ((s.taken h).complete (cmdRef h r.opcode) stNotOwner ((s.taken h).ownerByte h.tgt.toNat))) ∧
      (¬field → role → own → s.Admits c))

/-- R428, R426: a completion that is not suppressed takes one entry of the ring: 32 bytes at the tail, the tail advances by one and
wraps, the phase bit inverts at the wrap, and one command fewer is outstanding. Its bytes carry the result, CID, opcode and status. -/
def completionTakesOneEntry : Prop :=
  ∀ (s : State) (c : CmdRef) (st : Nat) (res : List Byte), c.tenant < 8 → statusViolation st = none → s.ringsDead = false →
    (s.tenant c.tenant).bme = true → s.flag F.HST_CQ_CFG_EN c.tenant = true → ¬(c.quiet = true ∧ st = stOk) →
    s.rd F.HST_CQ_CFG_SIZE c.tenant ≤ 14 → s.rd F.HST_CQ_STAT_TAIL c.tenant < 2 ^ s.rd F.HST_CQ_CFG_SIZE c.tenant →
    let t := c.tenant
    let tail := s.rd F.HST_CQ_STAT_TAIL t
    let n := 2 ^ s.rd F.HST_CQ_CFG_SIZE t
    let u := s.complete c st res
    u.rd F.HST_T_ERR_OUTST t = s.rd F.HST_T_ERR_OUTST t - 1 ∧
    u.rd F.HST_CQ_STAT_TAIL t = (if tail + 1 = n then 0 else tail + 1) ∧
    u.flag F.HST_CQ_STAT_PHASE t = (if tail + 1 = n then !s.flag F.HST_CQ_STAT_PHASE t else s.flag F.HST_CQ_STAT_PHASE t) ∧
    (∃ bytes rest, u.outs = s.outs ++ .hostWrite t
        (s.rd F.HST_CQ_BASE_LO_ADDR t * 2 ^ 12 + s.rd F.HST_CQ_BASE_HI_ADDR_HI t * 2 ^ 32 + 32 * tail) bytes :: rest ∧
      bytes.length = 32 ∧ bytes.take 16 = fitBytes 16 res ∧ leAt bytes 24 2 = c.cid % 2 ^ 16 ∧ leAt bytes 26 1 = c.opcode % 256 ∧
      leAt bytes 27 1 = st % 256) ∧
    Leaves endRegs endParts s u

/-- A completion with QUIET and OK, to a disabled ring, or of the supervisor writes no ring entry (R424, R428, R496). -/
def quietCompletionsWriteNothing : Prop :=
  (∀ (s : State) (c : CmdRef) (st : Nat) (res : List Byte), c.tenant < 8 → statusViolation st = none →
    (c.quiet = true ∧ st = stOk ∨ s.flag F.HST_CQ_CFG_EN c.tenant = false) →
    let u := s.complete c st res
    u.rd F.HST_T_ERR_OUTST c.tenant = s.rd F.HST_T_ERR_OUTST c.tenant - 1 ∧
      (∀ k, u.reg .HST_CQ_STAT k = s.reg .HST_CQ_STAT k) ∧
      (∀ t a b, Out.hostWrite t a b ∈ u.outs → Out.hostWrite t a b ∈ s.outs)) ∧
  (∀ (s : State) (c : CmdRef) (st : Nat) (res : List Byte), c.tenant = 8 →
    let u := s.complete c st res
    u.supOut = s.supOut - 1 ∧ (st = stOk → u.supRes = s.supRes) ∧
      (s.supRes = 0 → st ≠ stOk → st ≠ stLaneState → u.supRes = st) ∧ Leaves [] [.supOut, .supRes, .supBad] s u)

/-- NOP, IDENTIFY, LANE_GET_STATE, PHASE_GET_HEALTH, PARAM_READ and LOG_READ complete OK with their results and change nothing but
what their completion changes; METER_READ of the device too. An opcode that is not listed completes INVALID_OPCODE. -/
def Obligations.ReadsCompleteUnchanged : Prop :=
  ∀ (s : State) (h : CmdHdr),
    (s.Admits (.nop h) → exec (.nop h) s = .next ((s.taken h).complete (cmdRef h 0x01) stOk)) ∧
    (∀ op : Byte, op.toNat ∉ opcodes → h.tenant.val ≠ 8 → s.begin.dispatches h op.toNat = true →
      exec (.invalidOpcode h op) s = .next ((s.taken h).complete (cmdRef h op.toNat) stInvalidOpcode)) ∧
    (s.Admits (.identify h) → ∃ b : List Byte, b.length = 256 ∧ leAt b 0 4 = 0x5A9248B1 ∧ leAt b 4 1 % 16 = h.tenant.val ∧
      leAt b 8 1 % 8 = s.roleOf h.tenant.val ∧ leAt b 20 4 = s.tb % 2 ^ 32 ∧ exec (.identify h) s = .next
        (((s.taken h).writeBuf (cmdRef h 0x02) b).complete (cmdRef h 0x02) stOk (b.take 12 ++ bytesAt b 28 4))) ∧
    (s.Admits (.laneGetState h) → ∃ b : List Byte, b.length = 96 ∧ leAt b 0 1 = (s.rd F.LN_STATE_STATE h.tgt.toNat) ∧
      leAt b 1 1 = s.rd F.LN_STATE_PREV h.tgt.toNat ∧ leAt b 6 1 = (match (s.lane h.tgt.toNat).owner with | some o => o % 256 | none => 0xFF) ∧
      exec (.laneGetState h) s = .next (((s.taken h).writeBuf (cmdRef h 0x19) b).complete (cmdRef h 0x19) stOk (b.take 8))) ∧
    (s.Admits (.phaseGetHealth h) → ∃ b : List Byte, b.length = 16 ∧ leAt b 0 2 = s.rd F.PH_WARP_LSURV h.tgt.toNat ∧
      leAt b 2 2 = s.rd F.PH_WARP_LTRACK h.tgt.toNat ∧ leAt b 7 1 % 2 = (s.quarPh h.tgt.toNat).toNat ∧
      exec (.phaseGetHealth h) s = .next ((s.taken h).complete (cmdRef h 0x21) stOk b)) ∧
    (∀ src first, s.Admits (.paramRead h src first) → src.toNat ≤ 1 → h.dlen.toNat % 8 = 0 → s.flag F.NVM_STAT_PLOADED = true →
      ∃ b res, exec (.paramRead h src first) s =
        .next (((s.taken h).writeBuf (cmdRef h 0x49) b).complete (cmdRef h 0x49) stOk res)) ∧
    (∀ start, s.Admits (.logRead h start) → h.dlen.toNat % 64 = 0 → s.flag F.NVM_STAT_RECOVERED = true →
      ∃ b res, b.length % 64 = 0 ∧ leAt res 4 4 = s.rd F.SLV_NEXT_NEXT ∧ exec (.logRead h start) s =
        .next (((s.taken h).writeBuf (cmdRef h 0x40) b).complete (cmdRef h 0x40) stOk res)) ∧
    (∀ opts : Byte, s.Admits (.meterRead h opts) → s.flag F.NVM_STAT_RECOVERED = true → opts.toNat = 0 →
      ∃ b : List Byte, leAt b 0 8 = s.reading (if h.tgt.toNat = 0x100 then 288 else 6 * h.tgt.toNat) % 2 ^ 64 ∧
        exec (.meterRead h opts) s = .next (((s.taken h).writeBuf (cmdRef h 0x38) b).complete (cmdRef h 0x38) stOk))

/-! ### Lane commands (R445 to R447, Table 19-2) -/

/-- LANE_CLAIM of an unowned, configured lane makes the tenant its owner, records 0x0E07 with flags 1, starts the heartbeat timer with
the first owned lane (R469), and in OFF queues the claim for the lane's update; LANE_RELEASE in OFF ends the ownership at once.
Model's readings: log entry 66. -/
def Obligations.ClaimAndRelease : Prop :=
  ∀ (s : State) (h : CmdHdr),
    let l := h.tgt.toNat
    let t := h.tenant.val
    (s.Admits (.laneClaim h) → (s.lane l).owner = none → s.configured l = true →
      ∃ u : State, exec (.laneClaim h) s = .next (u.complete (cmdRef h 0x10) stOk (leBytes 1 (s.laneState l).code)) ∧
        (u.lane l).owner = some t ∧ Reported (s.taken h) u 0x0E07 (srcLane l) 1 ∧
        (u.lane l).moves = (s.lane l).moves ++ (if s.laneState l = .off then [.claim] else []) ∧
        (s.ownsAny t = false → (u.tenant t).hbStart = some s.tb) ∧ (s.ownsAny t = true → u.tenants = (s.taken h).tenants) ∧
        OnlyLane l (s.taken h) u ∧ Leaves [.SLV_EVT] [.lanes, .slv, .tenants] (s.taken h) u) ∧
    (s.Admits (.laneClaim h) → ∀ o, (s.lane l).owner = some o → o ≠ t →
      exec (.laneClaim h) s = .next ((s.taken h).complete (cmdRef h 0x10) stNotOwner (leBytes 1 o))) ∧
    (s.Admits (.laneRelease h) → s.laneState l = .off → (s.lane l).owner = some t →
      ∃ u : State, exec (.laneRelease h) s = .next (u.complete (cmdRef h 0x11) stOk) ∧ (u.lane l).owner = none ∧
        Reported (s.taken h) u 0x0E07 (srcLane l) 0 ∧ OnlyLane l (s.taken h) u ∧
        ((∀ k < 48, k ≠ l → (s.lane k).owner ≠ some t) → (u.tenant t).hbStart = none) ∧
        Leaves [.SLV_EVT] [.lanes, .slv, .tenants] (s.taken h) u) ∧
    (s.Admits (.laneRelease h) → (s.laneState l = .warping ∨ (s.laneState l).inService = true) →
      exec (.laneRelease h) s = .next ((s.taken h).complete (cmdRef h 0x11) stLaneState)) ∧
    (s.Admits (.laneRelease h) → (s.laneState l = .ready ∨ s.laneState l = .park) → (s.jml l).con = none → (s.lane l).owner = some t →
      ∃ u : State, exec (.laneRelease h) s = .next u ∧ ⟨cmdRef h 0x11, .laneOff l⟩ ∈ u.waits ∧
        (u.lane l).moves = (s.lane l).moves ++ [.release 0] ∧ (u.lane l).owner = some t ∧ OnlyLane l (s.taken h) u)

/-- R447: a LANE_RELEASE of the Manager for a lane of another tenant, in order otherwise, is admitted only while that owner's heartbeat has
lapsed, and otherwise completes NOT_OWNER with the owner's number. -/
def Obligations.ManagerReleasesOnLapse : Prop :=
  ∀ (s : State) (h : CmdHdr) (o : Nat),
    let l := h.tgt.toNat
    let t := h.tenant.val
    s.begin.dispatches h 0x11 = true → h.rsvd = false → h.cid ≠ 0xFFFF#16 → h.dptr.toNat % 8 = 0 → l < 48 → t < 8 →
      s.roleOf t = 3 → (s.lane l).owner = some o → o ≠ t →
      (s.rdBit F.SEC_TFLAGS_LAPSED o = true → s.Admits (.laneRelease h)) ∧
      (s.rdBit F.SEC_TFLAGS_LAPSED o = false →
        exec (.laneRelease h) s = .next ((s.taken h).complete (cmdRef h 0x11) stNotOwner (leBytes 1 o)))

/-- The value ranges of LANE_SET_TARGET (Table 19-2): KIND 0 current, 1 power, 2 voltage. -/
def targetInRange (kind : Nat) (v : Int) : Prop :=
  kind = 0 ∧ v.natAbs ≤ 8388607 ∨ kind = 1 ∧ v.natAbs ≤ 1000000 ∨ kind = 2 ∧ 1000 ≤ v ∧ v ≤ 8388607

/-- LANE_SET_TARGET, LANE_SET_LATENCY and LANE_SET_POLICY store what they name and nothing else (R92, R208, R209).
Model's readings: log entry 68. -/
def laneSettingsAreStored : Prop :=
  ∀ (s : State) (h : CmdHdr),
    let l := h.tgt.toNat
    (∀ kind value, s.Admits (.laneSetTarget h kind value) → targetInRange kind.toNat value.toInt → s.busForm (s.segOf l) = false →
      ∃ u : State, exec (.laneSetTarget h kind value) s = .next (u.complete (cmdRef h 0x12) stOk (leInt32 value.toInt)) ∧
        (u.lane l).target = some ⟨kind.toNat, value.toInt⟩ ∧ u.flag F.LN_STATE_FB_ACTIVE l = false ∧
        u.reg .LN_STATE l = F.LN_STATE_FB_ACTIVE.set 0 (s.reg .LN_STATE l) ∧
        OnlyAt .LN_STATE l s u ∧ OnlyLane l s u ∧ Leaves [.LN_STATE] [.lanes] (s.taken h) u) ∧
    (∀ kind value, s.Admits (.laneSetTarget h kind value) → ¬targetInRange kind.toNat value.toInt →
      exec (.laneSetTarget h kind value) s = .next ((s.taken h).complete (cmdRef h 0x12) stFieldRange)) ∧
    (∀ lat : Word, s.Admits (.laneSetLatency h lat) → lat.toNat < 2 ^ 24 →
      ∃ (u : State) (b : List Byte), exec (.laneSetLatency h lat) s = .next (u.complete (cmdRef h 0x14) stOk b) ∧
        u.reg .LN_POLICY l = F.LN_POLICY_LAT.set lat.toNat (s.reg .LN_POLICY l) ∧ u.rd F.LN_POLICY_LAT l = lat.toNat ∧
        OnlyAt .LN_POLICY l s u ∧ Leaves [.LN_POLICY] [] (s.taken h) u) ∧
    (∀ mask fb en : Byte, s.Admits (.laneSetPolicy h mask fb en) → 0 < mask.toNat → mask.toNat ≤ 3 →
      (mask.getLsbD 0 = true → fb.toNat ≤ 2) → (mask.getLsbD 1 = true → en.toNat ≤ 1) →
      ∃ u : State, exec (.laneSetPolicy h mask fb en) s = .next (u.complete (cmdRef h 0x1A) stOk) ∧
        u.rd F.LN_CTL_FALLBACK l = (if mask.getLsbD 0 then fb.toNat else s.rd F.LN_CTL_FALLBACK l) ∧
        u.rd F.LN_CTL_POLICY_EN l = (if mask.getLsbD 1 then en.toNat else s.rd F.LN_CTL_POLICY_EN l) ∧
        u.flag F.LN_STATE_FB_ACTIVE l = false ∧ OnlyAt .LN_CTL l s u ∧ OnlyAt .LN_STATE l s u ∧ OnlyLane l s u ∧
        Leaves [.LN_CTL, .LN_STATE] [.lanes] (s.taken h) u)

/-- LANE_SET_LIMITS replaces the limits MASK names, removes those CLEAR names, keeps the others, and is refused whole where a value, the
masks or VLO and VHI are out of range (R93, Table 19-2). Model's readings: log entry 67. -/
def limitsAreReplacedOrCleared : Prop :=
  ∀ (s : State) (h : CmdHdr) (w : LimitWords), s.Admits (.laneSetLimits h w) →
    let l := h.tgt.toNat
    let v : List Word := [w.ichg, w.idis, w.pchg, w.pdis, w.vlo, w.vhi]
    let new := fun k : Nat => if w.mask.getLsbD k then some (v.getD k 0).toNat
      else if w.clear.getLsbD k then none else vget (s.lane l).limits k none
    let ok : Prop := w.mask.toNat < 64 ∧ w.clear.toNat < 64 ∧ w.mask &&& w.clear = 0 ∧ ¬(w.mask = 0 ∧ w.clear = 0) ∧
      (∀ k < 6, w.mask.getLsbD k = true → (v.getD k 0).toNat ≤ if k = 2 ∨ k = 3 then 1000000 else 8388607) ∧
      (∀ a b, new 4 = some a → new 5 = some b → a < b)
    (ok → ∃ (u : State) (b : List Byte), exec (.laneSetLimits h w) s = .next (u.complete (cmdRef h 0x13) stOk b) ∧
      (∀ k < 6, vget (u.lane l).limits k none = new k) ∧ OnlyLane l s u ∧ Leaves [] [.lanes] (s.taken h) u) ∧
    (¬ok → exec (.laneSetLimits h w) s = .next ((s.taken h).complete (cmdRef h 0x13) stFieldRange))

/-- LANE_ARM, LANE_PARK, LANE_WARP and PHASE_READMIT are accepted in the states their rows name: the state change or the survey is
queued, and the command waits for its event (R198, R200, R203, R169, R188). Model's readings: log entries 59, 61. -/
def laneMovesAreQueued : Prop :=
  ∀ (s : State) (h : CmdHdr),
    let l := h.tgt.toNat
    (s.Admits (.laneArm h) → (s.laneState l = .ready ∨ s.laneState l = .park) → s.flag F.LN_STATE_CONTRACT l = true →
      s.flag F.LN_WARP_STAT_VALID l = true → s.flag F.BAY_PWM_CTL_PWM_EN (bayOfLane l) = true →
      s.flag F.GLB_REF_REF_SETTLED = true → s.rd F.MTR_CFG_MODE l ≠ 2 → s.calInternal l = false → s.flag F.LN_STATE_PRESTART l = false →
      s.flag F.LN_STATE_SUP_HOLD l = false →
      ∃ u : State, exec (.laneArm h) s = .next u ∧ Queued l .arm s u ∧ Waits (cmdRef h 0x15) (.rampEntered l) s u ∧ OnlyLane l s u ∧
        Leaves [] [.lanes, .waits] (s.taken h) u) ∧
    (s.Admits (.laneArm h) → s.laneState l ≠ .ready → s.laneState l ≠ .park →
      exec (.laneArm h) s = .next ((s.taken h).complete (cmdRef h 0x15) stLaneState)) ∧
    (s.Admits (.lanePark h) → ((s.laneState l).inService = true ∨ s.laneState l = .ready ∨ s.laneState l = .warping) →
      ∃ u : State, exec (.lanePark h) s = .next u ∧ Queued l (.park 1) s u ∧ Waits (cmdRef h 0x16) (.parkingClear l) s u ∧
        OnlyLane l s u ∧ Leaves [] [.lanes, .waits] (s.taken h) u) ∧
    (s.Admits (.laneWarp h) → (s.laneState l = .ready ∨ s.laneState l = .park) → s.flag F.LN_STATE_CONTRACT l = true →
      s.flag F.BAY_PWM_CTL_PWM_EN (bayOfLane l) = true → s.flag F.GLB_REF_REF_SETTLED = true → s.rd F.MTR_CFG_MODE l ≠ 2 →
      s.flag F.LN_STATE_SUP_HOLD l = false → s.flag F.LN_WARP_STAT_RUNNING l = false →
      ∃ u : State, exec (.laneWarp h) s = .next u ∧ u.flag F.LN_WARP_STAT_RUNNING l = true ∧ Queued l .warp s u ∧
        Waits (cmdRef h 0x18) (.surveyEnd l) s u ∧ OnlyAt .LN_WARP_STAT l s u ∧ OnlyLane l s u ∧
        Leaves [.LN_WARP_STAT] [.lanes, .waits] (s.taken h) u) ∧
    (s.Admits (.phaseReadmit h) → ∀ k, s.laneOf h.tgt.toNat = some k → (s.laneState k = .ready ∨ s.laneState k = .park) →
      s.quarPh h.tgt.toNat = true → s.flag F.LN_STATE_SUP_HOLD k = false → s.flag F.LN_WARP_STAT_RUNNING k = false →
      ∃ u : State, exec (.phaseReadmit h) s = .next u ∧ u.flag F.LN_WARP_STAT_RUNNING k = true ∧
        (u.bay (bayOfLane k)).warpQ = (s.bay (bayOfLane k)).warpQ ++ [⟨k, .readmit h.tgt.toNat⟩] ∧
        Waits (cmdRef h 0x20) (.readmitEnd h.tgt.toNat) s u ∧ OnlyAt .LN_WARP_STAT k s u ∧ OnlyBay (bayOfLane k) s u ∧
        Leaves [.LN_WARP_STAT] [.bays, .waits] (s.taken h) u)

/-- LANE_CLEAR_TRIP clears the latches of its lane and of the lane's phases that may clear, and says in byte 1 of its result the state
the lane will have; a lane without a set latch that is not FAULTED completes LANE_STATE with nothing changed (R144, R204).
Model's readings: log entry 135. -/
def clearTripOnNoLatch : Prop :=
  ∀ (s : State) (h : CmdHdr), s.Admits (.laneClearTrip h) →
    let l := h.tgt.toNat
    (s.lnLatch l = false → (∀ p ∈ s.phasesOf l, s.phLatch p = false) → s.laneState l ≠ .faulted →
      exec (.laneClearTrip h) s = .next ((s.taken h).settle.complete (cmdRef h 0x17) stLaneState
          (leBytes 1 0 ++ leBytes 1 (s.laneState l).code))) ∧
    (s.lnLatch l = true → s.laneRefusal l = none → (∀ p ∈ s.phasesOf l, s.phLatch p = false) → s.laneState l = .faulted →
      s.glbLatch = false → s.safeLow = false → s.formOrder l ≠ [] →
      ∃ u : State, exec (.laneClearTrip h) s = .next (u.settle.complete (cmdRef h 0x17) stOk (leBytes 1 0 ++ leBytes 1 10)) ∧
        u.lnLatch l = false ∧ (u.lane l).moves = (s.lane l).moves ++ [.clearTrip])

/-! ### Segment commands (R219, R224, R226, R240, R450) -/

/-- SEGMENT_SET_MODE queues a change for the segment's next update and waits for it; SEGMENT_SET_TARGET stores the values MASK names and
claims an unclaimed segment for the host (0x0705); SEGMENT_SET_SHARING sets the policy, and takes host weights from its buffer.
Model's readings: log entry 36. -/
def Obligations.SegmentCommands : Prop :=
  ∀ (s : State) (h : CmdHdr),
    let g := h.tgt.toNat
    (∀ mode : Byte, s.Admits (.segmentSetMode h mode) → mode.toNat ≤ 1 →
      (mode.toNat = 1 → ∃ k < 4, vget (s.seg g).coefW k 0 ≠ 0) →
      (s.busForm g ≠ (mode.toNat == 1) ∨ (s.seg g).pend ≠ none) →
      ∃ u : State, exec (.segmentSetMode h mode) s = .next u ∧ u.seg g = { s.seg g with pend := some (mode.toNat == 1) } ∧
        Waits (cmdRef h 0x28) (.segMode g) s u ∧ OnlySeg g s u ∧ Leaves [] [.segs, .waits] (s.taken h) u) ∧
    (∀ mask cmdV slew droop plim, s.Admits (.segmentSetTarget h mask cmdV slew droop plim) → 0 < mask.toNat → mask.toNat ≤ 15 →
      (mask.getLsbD 0 = true → s.rd F.BUS_WIN_LO_VMIN g ≤ cmdV.toNat ∧ cmdV.toNat ≤ s.rd F.BUS_WIN_HI_VMAX g) →
      (mask.getLsbD 1 = true → slew.toNat ≤ 10000) → (mask.getLsbD 2 = true → droop.toNat ≤ 65535) →
      (mask.getLsbD 3 = true → plim.toNat ≤ 1000000) → s.busForm g = true → (s.holder g = 0 ∨ s.holder g = 2) →
      ∃ u : State, exec (.segmentSetTarget h mask cmdV slew droop plim) s = .next (u.complete (cmdRef h 0x29) stOk (leBytes 1 2)) ∧
        (u.seg g).cmdV = (if mask.getLsbD 0 then cmdV.toNat else (s.seg g).cmdV) ∧
        (u.seg g).slew = (if mask.getLsbD 1 then slew.toNat else (s.seg g).slew) ∧
        (u.seg g).droop = (if mask.getLsbD 2 then droop.toNat else (s.seg g).droop) ∧
        (u.seg g).plim = (if mask.getLsbD 3 then plim.toNat else (s.seg g).plim) ∧ u.holder g = 2 ∧
        (s.holder g = 0 → Reported (s.taken h) u 0x0705 (srcSeg g) 2) ∧ (s.holder g = 2 → u.slv = s.slv ∧ u.regs = s.regs) ∧
        OnlySeg g s u ∧ Leaves [.SLV_EVT, .TRD_STAT, .BUS_STAT] [.segs, .slv] (s.taken h) u) ∧
    (∀ mask cmdV slew droop plim, s.Admits (.segmentSetTarget h mask cmdV slew droop plim) → 0 < mask.toNat → mask.toNat ≤ 15 →
      mask.getLsbD 0 = false → mask.getLsbD 1 = false → (mask.getLsbD 2 = true → droop.toNat ≤ 65535) →
      (mask.getLsbD 3 = true → plim.toNat ≤ 1000000) → s.busForm g = true → s.holder g = 1 →
      ∃ u : State, exec (.segmentSetTarget h mask cmdV slew droop plim) s = .next (u.complete (cmdRef h 0x29) stResourceBusy) ∧
        Reported (s.taken h) u 0x0114 (srcSeg g) 0 ∧ Leaves [.SLV_EVT] [.slv] (s.taken h) u) ∧
    (∀ policy buf, s.Admits (.segmentSetSharing h policy buf) → policy.toNat ≤ 1 →
      ∃ u : State, exec (.segmentSetSharing h policy buf) s = .next (u.complete (cmdRef h 0x2A) stOk) ∧
        u.reg .BUS_STAT 0 = (F.BUS_STAT_POLICY0.up (8 * g)).set policy.toNat (s.reg .BUS_STAT 0) ∧
        Leaves [.BUS_STAT] [] (s.taken h) u) ∧
    (∀ (policy : Byte) (bytes : List Byte), s.Admits (.segmentSetSharing h policy (.ok bytes)) → policy.toNat = 2 → h.dptr ≠ 0 →
      48 ≤ h.dlen.toNat →
      ∃ u : State, exec (.segmentSetSharing h policy (.ok bytes)) s = .next (u.complete (cmdRef h 0x2A) stOk) ∧
        (∀ l < 48, u.lane l = if s.configured l = true ∧ s.segOf l = g then
          { s.lane l with h := leAt (fitBytes h.dlen.toNat bytes) l 1 } else s.lane l) ∧
        u.reg .BUS_STAT 0 = (F.BUS_STAT_POLICY0.up (8 * g)).set 2 (s.reg .BUS_STAT 0) ∧
        Leaves [.BUS_STAT] [.lanes] (s.taken h) u)

/-! ### Tenancy commands (R463 to R473) -/

/-- TENANT_SET_ROLE changes the role at once with event 0x0E05, hands the Manager role over to a candidate, and is refused while sealed
where it would move the Meter role (R460, R465, R474). -/
def Obligations.RolesAreGiven : Prop :=
  ∀ (s : State) (h : CmdHdr) (role : Byte), s.Admits (.tenantSetRole h role) → s.sec.promoDue = false →
    let me := h.tenant.val
    let t := h.tgt.toNat
    (t ≠ me → role.toNat < 3 → s.absent t = false → s.flag F.SEC_STAT_SEALED = false →
      ∃ u : State, exec (.tenantSetRole h role) s = .next (u.complete (cmdRef h 0x61) stOk) ∧ u.roleOf t = role.toNat ∧
        (∀ k < 8, k ≠ t → u.roleOf k = s.roleOf k) ∧
        (s.roleOf t ≠ role.toNat → Reported (s.taken h) u 0x0E05 (srcTenant t) role.toNat) ∧
        (s.roleOf t = role.toNat → Unreported (s.taken h) u) ∧
        Leaves (.SEC_ROLE :: endRegs) endParts (s.taken h) u) ∧
    (t ≠ me → (t = 0 ∨ t = 4) → role.toNat = 3 → s.absent t = false → s.flag F.SEC_STAT_SEALED = false →
      ∃ u : State, exec (.tenantSetRole h role) s = .next (u.complete (cmdRef h 0x61) stOk) ∧ u.roleOf t = 3 ∧ u.roleOf me = 0 ∧
        (∀ k < 8, k ≠ t → k ≠ me → u.roleOf k = s.roleOf k) ∧ Leaves (.SEC_ROLE :: endRegs) endParts (s.taken h) u) ∧
    (t ≠ me → role.toNat < 3 → s.absent t = false → s.flag F.SEC_STAT_SEALED = true → ((s.roleOf t = 2) ≠ (role.toNat = 2)) →
      exec (.tenantSetRole h role) s = .next ((s.taken h).complete (cmdRef h 0x61) stSealed)) ∧
    (3 < role.toNat → exec (.tenantSetRole h role) s = .next ((s.taken h).complete (cmdRef h 0x61) stFieldRange)) ∧
    (role.toNat ≤ 3 → (s.absent t = true ∨ role.toNat = 3 ∧ t ≠ 0 ∧ t ≠ 4) →
      exec (.tenantSetRole h role) s = .next ((s.taken h).complete (cmdRef h 0x61) stNotPermitted))

/-- TENANT_HEARTBEAT restarts the timer with the interval named, and clears the lapse; a quarantine is released by
TENANT_RELEASE_QUARANTINE and by QREL: the window closes, 0x0E03 is recorded; the counting window closes by itself after 1 s; a
challenge lapses (R469, R471, R472, R461). -/
def heartbeatAndRelease : Prop :=
  ∀ s : State,
    (∀ (h : CmdHdr) (v : Word), s.Admits (.tenantHeartbeat h v) → (v = 0 ∨ 10 ≤ v.toNat ∧ v.toNat ≤ 10000) →
      ∃ u : State, exec (.tenantHeartbeat h v) s =
          .next (u.settle.complete (cmdRef h 0x60) stOk (leBytes 4 (u.settle.tenant h.tenant.val).hbInt)) ∧
        (u.tenant h.tenant.val).hbInt = (if v = 0 then (s.tenant h.tenant.val).hbInt else v.toNat) ∧
        (u.tenant h.tenant.val).hbStart = (if s.ownsAny h.tenant.val then some s.tb else none) ∧
        u.rdBit F.SEC_TFLAGS_LAPSED h.tenant.val = false ∧ OnlyTenant h.tenant.val (s.taken h) u ∧
        Leaves [.SEC_TFLAGS] [.tenants] (s.taken h) u) ∧
    (∀ h : CmdHdr, s.Admits (.tenantReleaseQuarantine h) →
      let k := h.tgt.toNat
      (s.quarT k = false → exec (.tenantReleaseQuarantine h) s = .next ((s.taken h).complete (cmdRef h 0x62) stOk)) ∧
      (s.quarT k = true → ∃ u : State, exec (.tenantReleaseQuarantine h) s = .next (u.settle.complete (cmdRef h 0x62) stOk) ∧
        u.quarT k = false ∧ (u.tenant k).viol = 0 ∧ (u.tenant k).window = none ∧ (u.tenant k).quar = 0 ∧
        Reported (s.taken h) u 0x0E03 (srcTenant k) 0 ∧ Leaves endRegs endParts (s.taken h) u)) ∧
    (∀ w : BusWrite, s.MayWrite w → w.value.getLsbD 8 = true →
      let k := F.SEC_TSEL_TSEL.of w.value.toNat
      s.quarT k = true → ∃ u : State, exec (.qrel w) s = .next u.settle ∧ u.quarT k = false ∧ (u.tenant k).window = none ∧
        Reported (s.opened w.tenant.val) u 0x0E03 (srcTenant k) 0 ∧
        Leaves (.SEC_TSEL :: endRegs) endParts (s.opened w.tenant.val) u) ∧
    (∀ t, ∃ u : State, exec (.violationWindowEnd t) s = .next u ∧ u.tenant t.val = { s.tenant t.val with viol := 0, window := none } ∧
      OnlyTenant t.val s u ∧ Leaves [] [.outs, .tenants] s u) ∧
    (∃ u : State, exec .challengeExpiry s = .next u ∧ u.sec = { s.sec with challenge := none } ∧ Leaves [] [.outs, .sec] s u)

/-- When the Manager has been absent for 2 s and a standby is present, the standby becomes Manager and the former Manager Observer, with
0x0E06 and PROMO_EVT; a Manager that is present stays (R466). -/
def standbyIsPromoted : Prop :=
  ∀ s : State,
    (s.absent s.manager = false → exec .managerPromoted s = .next s.begin) ∧
    (∀ t, s.absent s.manager = true → s.standby = some t → s.absent t = false →
      ∃ u : State, exec .managerPromoted s = .next u ∧ u.roleOf t = 3 ∧ u.roleOf s.manager = 0 ∧
        (∀ k < 8, k ≠ t → k ≠ s.manager → u.roleOf k = s.roleOf k) ∧ u.flag F.SEC_STAT_PROMO_EVT = true ∧ u.sec.promoDue = false ∧
        Reported s u 0x0E06 (srcTenant t) 0 ∧ Leaves ([.SEC_ROLE, .SEC_STAT] ++ endRegs) (.sec :: endParts) s u) ∧
    (s.absent s.manager = true → (∀ t, s.standby = some t → s.absent t = true) →
      ∃ u : State, exec .managerPromoted s = .next u ∧ u.sec = { s.sec with promoDue := true } ∧ Leaves [] [.outs, .sec] s u)

/-- A host violation is counted in the tenant's window, which the first one opens; the 65th inside one window quarantines the tenant, with
0x0E01 and 0x0E02 (R470, R471). -/
def Obligations.ViolationsQuarantine : Prop :=
  ∀ (s : State) (t kind : Nat), t < 8 → s.quarT t = false →
    let u := s.violation t kind
    ((s.tenant t).window = none → u.quarT t = false ∧ (u.tenant t).viol = 1 ∧ (u.tenant t).window = some s.tb ∧
      Reported s u 0x0E01 (srcTenant t) kind) ∧
    (∀ w, (s.tenant t).window = some w → (s.tenant t).viol < 64 → u.quarT t = false ∧ (u.tenant t).viol = (s.tenant t).viol + 1 ∧
      (u.tenant t).window = some w ∧ Reported s u 0x0E01 (srcTenant t) kind) ∧
    (∀ w, (s.tenant t).window = some w → (s.tenant t).viol = 64 → u.quarT t = true ∧ (u.tenant t).quar = 1 ∧
      (s.slv.intake.length < 63 → ∃ a b, u.slv.intake = s.slv.intake ++ [a, b] ∧ a.code = 0x0E01 ∧ a.flags = kind % 256 ∧
        b.code = 0x0E02 ∧ b.src = srcTenant t)) ∧
    (u.tenant t).total = min ((s.tenant t).total + 1) 255 ∧ Leaves endRegs endParts s u

/-! ### The seal (R474 to R480) -/

/-- SEAL acts in its dispatch cycle: SEALED, SEALER and DBG_LOCK, every other Meter tenant demoted, debug freeze ended, counter 299
advanced by one; the command waits for its record. It is refused while sealed. Model's readings: log entry 97. -/
def sealActsAtOnce : Prop :=
  ∀ (s : State) (h : CmdHdr), s.Admits (.sealDevice h) →
    (s.flag F.SEC_STAT_SEALED = true → exec (.sealDevice h) s = .next ((s.taken h).complete (cmdRef h 0x68) stSealed)) ∧
    (s.flag F.SEC_STAT_SEALED = false → (∀ l < 48, s.rd F.MTR_CFG_MODE l ≠ 2) → s.flag F.NVM_STAT_RECOVERED = true →
      ∃ u : State, exec (.sealDevice h) s = .next u.settle ∧ u.flag F.SEC_STAT_SEALED = true ∧ u.rd F.SEC_STAT_SEALER = h.tenant.val ∧
        u.flag F.SEC_STAT_DBG_LOCK = true ∧ u.flag F.GLB_PWM_STAT_FREEZE = false ∧
        (∀ k < 8, u.roleOf k = if k ≠ h.tenant.val ∧ s.roleOf k = 2 then 0 else s.roleOf k) ∧
        (u.ctr 299).acc = min ((s.ctr 299).acc + 1) (2 ^ 64 - 1) ∧ Waits (cmdRef h 0x68) .sealRecord s u ∧
        Leaves [.GLB_PWM_STAT, .SLV_EVT, .HST_LINK_A, .HST_LINK_B, .HST_CQ_STAT, .SEC_STAT, .SEC_ROLE]
          [.outs, .waits, .tenants, .slv, .nvm, .phases] (s.taken h) u)

/-- UNSEAL_CHALLENGE holds and returns 16 bytes; UNSEAL_RESPONSE consumes the challenge whatever it answers, unseals on the right bytes,
and on wrong ones counts a violation of kind 9, records 0x0E0A and completes NOT_PERMITTED. Model's readings: log entries 12, 145. -/
def unsealByChallenge : Prop :=
  ∀ (s : State) (h : CmdHdr), s.flag F.SEC_STAT_SEALED = true →
    (s.Admits (.unsealChallenge h) → ∃ (u : State) (b : List Byte), b.length = 16 ∧
      exec (.unsealChallenge h) s = .next (u.complete (cmdRef h 0x69) stOk b) ∧ u.sec = { s.sec with challenge := some b } ∧
      Leaves [] [.sec, .free] (s.taken h) u) ∧
    (∀ r : Vector Byte 16, s.Admits (.unsealResponse h r) →
      (s.sec.challenge = none →
        exec (.unsealResponse h r) s = .next ((s.taken h).complete (cmdRef h 0x6A) stNotPermitted)) ∧
      (∀ b, s.sec.challenge = some b → r.toList ≠ s.unsealMac b → ∃ u : State,
        exec (.unsealResponse h r) s = .next (u.complete (cmdRef h 0x6A) stNotPermitted) ∧ u.sec.challenge = none ∧
        u.flag F.SEC_STAT_SEALED = true ∧ (u.tenant h.tenant.val).total = min ((s.tenant h.tenant.val).total + 1) 255 ∧
        Leaves endRegs (.sec :: endParts) (s.taken h) u) ∧
      (∀ b, s.sec.challenge = some b → r.toList = s.unsealMac b → ∃ u : State,
        exec (.unsealResponse h r) s = .next u ∧ u.sec.challenge = none ∧ u.flag F.SEC_STAT_SEALED = false ∧
        u.flag F.SEC_STAT_DBG_LOCK = false ∧ (u.ctr 299).acc = min ((s.ctr 299).acc + 1) (2 ^ 64 - 1) ∧
        Waits (cmdRef h 0x6A) .unsealRecord s u ∧ Leaves [.SEC_STAT] [.sec, .waits, .slv, .nvm] (s.taken h) u))

/-! ### Statements, disputes, calibration (R298, R299, R324, R476 to R478) -/

/-- METER_STATEMENT freezes 112 bytes in its dispatch cycle and advances the statement number; STATEMENT_SIGNED answers the oldest one
with a 16-byte code; METER_RESOLVE_DISPUTE and METER_CALIBRATE begin and wait. Model's readings: log entry 87. -/
def meterCommandsBegin : Prop :=
  ∀ (s : State) (h : CmdHdr),
    (∀ nonce, s.Admits (.meterStatement h nonce) → s.flag F.NVM_STAT_RECOVERED = true →
      ∃ (u : State) (b : List Byte), exec (.meterStatement h nonce) s = .next u ∧ b.length = 112 ∧ leAt b 4 4 = s.rd F.SEC_STMT_STMT_NO ∧
        leAt b 16 8 = nonce.toNat ∧ u.sec = { s.sec with stmts := s.sec.stmts ++ [⟨cmdRef h 0x39, b⟩] } ∧
        u.rd F.SEC_STMT_STMT_NO = (s.rd F.SEC_STMT_STMT_NO + 1) % 2 ^ 32 ∧ Leaves [.SEC_STMT] [.sec] (s.taken h) u) ∧
    (∀ q rest, s.sec.stmts = q :: rest → ∃ (u : State) (mac : List Byte), mac.length = 16 ∧ u.sec = { s.sec with stmts := rest } ∧
      exec .statementSigned s = .next ((u.writeBuf q.cmd (q.body ++ mac)).complete q.cmd stOk
        (bytesAt q.body 4 4 ++ leBytes 1 (leAt q.body 1 1 % 4))) ∧ Leaves [] [.outs, .sec] s u) ∧
    (∀ choice : Byte, s.Admits (.meterResolveDispute h choice) → s.flag F.NVM_STAT_RECOVERED = true → choice.toNat ≤ 1 →
      (s.ctr h.tgt.toNat).st ≠ .normal → (s.ctr h.tgt.toNat).held = false → s.nvm.resolve = none →
      ∃ u : State, exec (.meterResolveDispute h choice) s = .next u ∧ u.nvm.resolve = some ⟨h.tgt.toNat, choice.toNat, 1⟩ ∧
        u.flag F.NVM_STAT_RESOLVE = true ∧ Waits (cmdRef h 0x3A) .dispute s u ∧ Leaves [.NVM_STAT] [.waits, .slv, .nvm] (s.taken h) u) ∧
    (∀ (chan kind src nexp : Byte) (eRef : Word), s.Admits (.meterCalibrate h chan kind src nexp eRef) →
      s.flag F.SEC_STAT_SEALED = false → chan.toNat ≤ 1 → kind = 0 → src.toNat ≤ 1 → 10 ≤ nexp.toNat → nexp.toNat ≤ 20 →
      (src.toNat = 1 → s.laneState h.tgt.toNat ≠ .warping ∧ (s.laneState h.tgt.toNat).inService = false) →
      s.rd F.MTR_STAT_MODE_NOW h.tgt.toNat = 0 → (s.meter h.tgt.toNat).calib = none →
      ∃ u : State, exec (.meterCalibrate h chan kind src nexp eRef) s = .next u ∧
        (u.meter h.tgt.toNat).calib =
          some ⟨chan.toNat, 0, decide (src.toNat = 1), 2 ^ nexp.toNat, eRef.toInt, 0, 0, 3⟩ ∧
        u.flag F.MTR_STAT_CAL_BUSY h.tgt.toNat = true ∧ Waits (cmdRef h 0x3B) (.calibrate h.tgt.toNat) s u ∧
        OnlyMeter h.tgt.toNat s u ∧ OnlyAt .MTR_STAT h.tgt.toNat s u ∧ Leaves [.MTR_STAT] [.waits, .meters] (s.taken h) u)

/-- CALIBRATED with an offset window complete: OFS takes m - e, CAL_EVT is set, 0x0907 is recorded and the command completes OK; an
offset beyond 32,767 fails the calibration with 0x0908 and leaves the trims (R299). -/
def offsetCalibration : Prop :=
  ∀ (s : State) (l : Lane) (c : Calib), (s.meter l.val).calib = some c → c.kind = 0 → c.chan ≤ 1 → c.n ≤ c.count →
    let x := rndDiv c.sum c.n - rndDiv (c.eRef * 4194304) (s.fullScale l.val c.chan)
    (x.natAbs ≤ 32767 → ∃ u : State, exec (.calibrated l) s = .next u.softAdvance ∧ (u.meter l.val).calib = none ∧
      u.mtrItemS l.val (2 + 2 * c.chan) = x ∧ (∀ k, k ≠ 2 + 2 * c.chan → u.mtrItem l.val k = s.mtrItem l.val k) ∧
      u.flag F.MTR_STAT_CAL_EVT l.val = true ∧ u.flag F.MTR_STAT_CAL_BUSY l.val = false ∧
      (∀ w ∈ u.waits, w.wait ≠ .calibrate l.val) ∧ OnlyMeter l.val s u ∧
      Leaves (.MTR_STAT :: endRegs) ([.waits, .meters] ++ endParts) s u) ∧
    (32767 < x.natAbs → ∃ u : State, exec (.calibrated l) s = .next u.softAdvance ∧
      u.meter l.val = { s.meter l.val with calib := none } ∧ u.flag F.MTR_STAT_CAL_BUSY l.val = false ∧ OnlyMeter l.val s u ∧
      Leaves (.MTR_STAT :: endRegs) ([.waits, .meters] ++ endParts) s u)

/-! ### Log and parameter commands (R325, R328, R350, R455 to R457) -/

/-- LOG_CONFIG replaces the eight selections of one trigger class and records 0x0B04; LOG_MARK opens a mark at once where the buffer can
open a record, and waits for the flash, or else waits for room. -/
def Obligations.LogCommands : Prop :=
  ∀ (s : State) (h : CmdHdr),
    (∀ (k : Byte) (sel : Vector Word 8), s.Admits (.logConfig h k sel) → k.toNat ≤ 15 → s.slv.sel.length = 128 →
      ∃ u : State, exec (.logConfig h k sel) s = .next (u.complete (cmdRef h 0x41) stOk) ∧
        (∀ n < 8, u.slv.sel.getD (8 * k.toNat + n) 0 = vget sel n 0) ∧
        (∀ i, (i < 8 * k.toNat ∨ 8 * k.toNat + 8 ≤ i) → u.slv.sel.getD i 0 = s.slv.sel.getD i 0) ∧
        Reported (s.taken h) u 0x0B04 (srcTenant h.tenant.val) k.toNat ∧ Leaves [.SLV_EVT] [.slv, .nvm] (s.taken h) u) ∧
    (∀ flags data, s.Admits (.logMark h flags data) → s.flag F.NVM_STAT_RECOVERED = true → s.slv.lost = 0 → s.canOpen = true →
      ∃ u : State, exec (.logMark h flags data) s = .next u ∧ u.rd F.SLV_NEXT_NEXT = (s.rd F.SLV_NEXT_NEXT + 1) % 2 ^ 32 ∧
        Waits (cmdRef h 0x42) (.markFlash (s.rd F.SLV_NEXT_NEXT)) s u ∧
        Leaves [.SLV_EVT, .SLV_NEXT, .SLV_CCNT, .HST_LINK_A, .HST_LINK_B, .HST_CQ_STAT] [.outs, .waits, .tenants, .slv, .nvm]
          (s.taken h) u) ∧
    (∀ flags data, s.Admits (.logMark h flags data) → s.flag F.NVM_STAT_RECOVERED = true → s.slv.lost = 0 → s.canOpen = false →
      ∃ u : State, exec (.logMark h flags data) s = .next u ∧
        Waits (cmdRef h 0x42) (.markOpen flags.toNat data.toList) s u ∧ Leaves [] [.waits] (s.taken h) u)

/-- PARAM_WRITE puts one pair into the staging image and keeps every other entry (OP 0), removes an entry (OP 2) or clears the image
(OP 3); a failed buffer read completes DMA_FAULT; PARAM_COMMIT takes the image, in the bank that is not active, and waits.
Model's readings: log entry 96. -/
def Obligations.StagingAndCommit : Prop :=
  ∀ (s : State) (h : CmdHdr),
    (∀ (op : Byte) (bytes : List Byte), s.Admits (.paramWrite h op (.ok bytes)) → h.dlen.toNat = 8 → leAt (fitBytes 8 bytes) 0 4 % 4 = 0 →
      s.flag F.NVM_STAT_PLOADED = true → s.flag F.NVM_STAT_COMMIT = false → s.nvm.staging.length < 12280 →
      let a := leAt (fitBytes 8 bytes) 0 4
      let v := BitVec.ofNat 32 (leAt (fitBytes 8 bytes) 4 4)
      (op = 0 → ∃ u : State, exec (.paramWrite h op (.ok bytes)) s =
          .next (u.complete (cmdRef h 0x48) stOk (leBytes 4 u.nvm.staging.length)) ∧ (a, v) ∈ u.nvm.staging ∧
        (∀ e, e.1 ≠ a → (e ∈ u.nvm.staging ↔ e ∈ s.nvm.staging)) ∧ (∀ e ∈ u.nvm.staging, e.1 = a → e.2 = v) ∧
        Leaves [] [.nvm] (s.taken h) u) ∧
      (op = 2 → ∃ u : State, exec (.paramWrite h op (.ok bytes)) s =
          .next (u.complete (cmdRef h 0x48) stOk (leBytes 4 u.nvm.staging.length)) ∧
        (∀ e, e ∈ u.nvm.staging ↔ e ∈ s.nvm.staging ∧ e.1 ≠ a) ∧ Leaves [] [.nvm] (s.taken h) u)) ∧
    (∀ (op : Byte) (buf : Dma), s.Admits (.paramWrite h op buf) → op = 3 → h.dlen.toNat % 8 = 0 → s.flag F.NVM_STAT_PLOADED = true →
      s.flag F.NVM_STAT_COMMIT = false → ∃ u : State, exec (.paramWrite h op buf) s =
          .next (u.complete (cmdRef h 0x48) stOk (leBytes 4 0)) ∧ u.nvm = { s.nvm with staging := [] } ∧
        Leaves [] [.nvm] (s.taken h) u) ∧
    (∀ (op : Byte) (k : Fin 5), s.Admits (.paramWrite h op (.err k)) → op.toNat < 3 → ∃ u : State,
      exec (.paramWrite h op (.err k)) s = .next (u.complete (cmdRef h 0x48) stDmaFault) ∧ u.flag F.HST_DMA_ERR_ERR = true ∧
        u.rd F.HST_DMA_ERR_TENANT = h.tenant.val ∧ u.rd F.HST_DMA_ERR_WHAT = 1 ∧ u.rd F.HST_DMA_ERR_KIND = k.val ∧
        u.rd F.HST_DMA_ADDR_LO_ADDR = h.dptr.toNat % 2 ^ 32 ∧
        Leaves [.HST_DMA_ERR, .HST_DMA_ADDR_LO, .HST_DMA_ADDR_HI] [] (s.taken h) u) ∧
    (s.Admits (.paramCommit h) → s.flag F.NVM_STAT_PLOADED = true → s.flag F.NVM_STAT_RECOVERED = true →
      s.flag F.NVM_STAT_COMMIT = false → s.flag F.SEC_STAT_SEALED = false →
      ∃ (u : State) (b : ParamBank), exec (.paramCommit h) s = .next u ∧ u.flag F.NVM_STAT_COMMIT = true ∧ u.nvm.commit = some b ∧
        (∀ k x, s.nvm.activeBank = some (k, x) → u.nvm.commitBank = 1 - k ∧ b.seq = (x.seq + 1) % 2 ^ 32) ∧
        (s.nvm.activeBank = none → u.nvm.commitBank = 0 ∧ b.seq = 1) ∧ Waits (cmdRef h 0x4A) .commit s u ∧
        u.nvm.staging = s.nvm.staging ∧ Leaves [.NVM_STAT] [.waits, .slv, .nvm] (s.taken h) u)

/-! ### Link commands of the owner (R458, Table 19-5) -/

/-- LINK_SEND puts a data frame in its lane's queue and waits for its answer; LINK_RENEGOTIATE asks for the module's capabilities again,
or in LOST queues a new negotiation; LINK_ROLE_SWAP asks for a swap, and completes OK where the role is already as asked. -/
def Obligations.LinkCommands : Prop :=
  ∀ (s : State) (h : CmdHdr),
    let l := h.tgt.toNat
    let j := s.jml l
    (∀ (chan len : Byte) (data : Vector Byte 32), s.Admits (.linkSend h chan len data) → len.toNat ≤ 32 → j.con ≠ none →
      s.swapped l = false → (∀ w ∈ s.waits, w.wait ≠ .linkData l) →
      ∃ u : State, exec (.linkSend h chan len data) s = .next u ∧
        u.jml l = { j with due := j.due ++ [⟨0x0E, chan :: data.toList.take len.toNat, none, false, false⟩] } ∧
        Waits (cmdRef h 0x50) (.linkData l) s u ∧ OnlyLane l s u ∧ Leaves [] [.lanes, .waits] (s.taken h) u) ∧
    (s.Admits (.linkRenegotiate h) → s.laneState l = .lost → ∃ u : State, exec (.linkRenegotiate h) s = .next u ∧
      Queued l .renegotiate s u ∧ Waits (cmdRef h 0x51) (.contract l) s u ∧ OnlyLane l s u ∧ Leaves [] [.lanes, .waits] (s.taken h) u) ∧
    (s.Admits (.linkRenegotiate h) → (s.laneState l = .warping ∨ s.laneState l = .ready ∨ s.laneState l = .park ∨
        (s.laneState l).inService = true) → j.con ≠ none → j.reneg = false → s.swapped l = false →
      ∃ u : State, exec (.linkRenegotiate h) s = .next u ∧
        u.jml l = { j with reneg := true, due := j.due ++ [⟨0x01, [], none, false, false⟩] } ∧
        Waits (cmdRef h 0x51) (.contract l) s u ∧ OnlyLane l s u ∧ Leaves [] [.lanes, .waits] (s.taken h) u) ∧
    (∀ dir : Byte, s.Admits (.linkRoleSwap h dir) → dir.toNat ≤ 1 → (dir.toNat == 1) = s.swapped l →
      exec (.linkRoleSwap h dir) s = .next ((s.taken h).complete (cmdRef h 0x52) stOk)) ∧
    (∀ dir : Byte, s.Admits (.linkRoleSwap h dir) → dir.toNat = 1 → s.swapped l = false → j.con ≠ none →
      bitN (leAt j.caps 22 1) 1 = true → j.has 0x0A = false →
      ∃ u : State, exec (.linkRoleSwap h dir) s = .next u ∧ u.jml l = { j with due := j.due ++ [⟨0x0A, [], none, false, false⟩] } ∧
        Waits (cmdRef h 0x52) (.roles l) s u ∧ OnlyLane l s u ∧ Leaves [] [.lanes, .waits] (s.taken h) u)

/-! ### Telemetry (R433 to R437, R450) -/

/-- TELEMETRY_STREAM_OPEN opens a stream that is closed where the link has room; TELEMETRY_STREAM_CLOSE closes it and returns its record
count and its drops; a sampling instant writes one record per lane of the mask, as many as fit, and the others count as dropped.
Model's readings: log entry 130. -/
def Obligations.TelemetryStreams : Prop :=
  ∀ s : State,
    (∀ (h : CmdHdr) (p : StreamOpen), s.Admits (.telemetryStreamOpen h p) →
      let t := h.tenant.val
      let k := p.stream.toNat
      k ≤ 3 → 6 ≤ p.bsz.toNat → p.bsz.toNat ≤ 16 → p.vector.toNat ≤ 7 → p.mask ≠ 0 → p.maskHigh = false → 1 ≤ p.per.toNat →
      p.per.toNat ≤ 10000 → p.wbN ≠ 0 → p.base.toNat % 4096 = 0 → p.wbAddr.toNat % 8 = 0 →
      vget (s.tenant t).streams k none = none → (s.linkOf (portOf t)).1 = true →
      s.portRate (portOf t) + streamRate p.mask.toNat p.per.toNat ≤
        linkBudget (s.linkOf (portOf t)).2.1 (s.linkOf (portOf t)).2.2 →
      ∃ (u : State) (q : Stream), exec (.telemetryStreamOpen h p) s = .next (u.complete (cmdRef h 0x30) stOk) ∧
        vget (u.tenant t).streams k none = some q ∧ q.mask = p.mask.toNat ∧ q.per = p.per.toNat ∧ q.base = p.base.toNat ∧ q.seq = 0 ∧
        q.dropped = 0 ∧ (∀ j, j ≠ k → vget (u.tenant t).streams j none = vget (s.tenant t).streams j none) ∧
        OnlyTenant t (s.taken h) u ∧ Leaves [.HST_BUDGET] [.tenants] (s.taken h) u) ∧
    (∀ (h : CmdHdr) (stream : Byte), s.Admits (.telemetryStreamClose h stream) → stream.toNat ≤ 3 →
      let t := h.tenant.val
      (vget (s.tenant t).streams stream.toNat none = none →
        exec (.telemetryStreamClose h stream) s = .next ((s.taken h).complete (cmdRef h 0x31) stOk)) ∧
      (∀ q, vget (s.tenant t).streams stream.toNat none = some q → ∃ u : State,
        exec (.telemetryStreamClose h stream) s =
          .next (u.complete (cmdRef h 0x31) stOk (leBytes 4 q.seq ++ leBytes 4 q.dropped)) ∧
        vget (u.tenant t).streams stream.toNat none = none ∧ OnlyTenant t (s.taken h) u ∧
        Leaves [.HST_BUDGET, .HST_LINK_A, .HST_LINK_B] [.outs, .tenants] (s.taken h) u)) ∧
    (∀ (t : HostT) (k : Fin 4) (room : Nat) (q : Stream), vget (s.tenant t.val).streams k.val none = some q →
      ∃ (u : State) (q' : Stream), exec (.telemetrySample t k room) s = .next u ∧ vget (u.tenant t.val).streams k.val none = some q' ∧
        q'.seq = (if lanesOf q.mask = [] then q.seq else (q.seq + (lanesOf q.mask).length) % 2 ^ 32) ∧
        (s.ringsDead = false → (s.tenant t.val).bme = true → (lanesOf q.mask).length ≤ room → q'.dropped = q.dropped) ∧
        (∀ j, j ≠ k.val → vget (u.tenant t.val).streams j none = vget (s.tenant t.val).streams j none) ∧
        OnlyTenant t.val s u ∧ Leaves [.HST_LINK_A, .HST_LINK_B] [.outs, .tenants] s u)

/-! ### Soft reset (R401, R462) -/

/-- DEVICE_SOFT_RESET with its key completes OK, and the soft reset begins: host intake stops and every lane in service parks. A wrong
key is out of range; one already running answers LANE_STATE. -/
def Obligations.SoftResetBegins : Prop :=
  ∀ (s : State) (h : CmdHdr) (key : Word), s.Admits (.deviceSoftReset h key) →
    (key ≠ 0x52E5#32 → exec (.deviceSoftReset h key) s = .next ((s.taken h).complete (cmdRef h 0x70) stFieldRange)) ∧
    (key = 0x52E5#32 → s.power.stage ≠ .run →
      exec (.deviceSoftReset h key) s = .next ((s.taken h).complete (cmdRef h 0x70) stLaneState)) ∧
    (key = 0x52E5#32 → s.power.stage = .run → ∃ u : State, exec (.deviceSoftReset h key) s = .next u.settle ∧
      u.power = { s.power with stage := .softReset, intakeOff := true } ∧
      (∀ l < 48, (u.laneState l).inService = false ∧ ((s.laneState l).inService = true → u.laneState l = .park)) ∧
      Leaves settleRegs (.power :: settleParts) (s.taken h) u)

/-! ### Port M (R459, R499 to R506) -/

/-- PORTM_TRANSFER joins the queue while Port M may not start a transaction, and starts at once where it may and nothing is due; a full
queue answers RESOURCE_BUSY. A poll entry that falls due is marked; a STOP frees the bus; an alert asks for an alert read.
Model's readings: log entry 144. -/
def portMQueues : Prop :=
  ∀ s : State,
    (∀ (h : CmdHdr) (addr proto wlen rlen flags : Byte) (data : Vector Byte 32),
      s.Admits (.portmTransfer h addr proto wlen rlen flags data) → addr.toNat ≤ 0x7F → proto.toNat ≤ 2 → wlen.toNat ≤ 32 →
      rlen.toNat ≤ 32 → flags.toNat ≤ 1 → (proto.toNat ≠ 1 → wlen ≠ 0) → (proto.toNat ≠ 0 → rlen ≠ 0) →
      s.flag F.SMB_M_STAT_STUCK = false →
      let r : PmReq := ⟨cmdRef h 0x58, addr.toNat, proto.toNat, wlen.toNat, rlen.toNat, flags.getLsbD 0, data.toList⟩
      (8 ≤ s.portM.q.length →
        exec (.portmTransfer h addr proto wlen rlen flags data) s = .next ((s.taken h).complete (cmdRef h 0x58) stResourceBusy)) ∧
      (s.portM.q.length < 8 → s.pmReady = false → ∃ u : State,
        exec (.portmTransfer h addr proto wlen rlen flags data) s = .next u ∧ u.portM = { s.portM with q := s.portM.q ++ [r] } ∧
        Leaves [] [.portM] (s.taken h) u) ∧
      (s.pmReady = true → s.portM.q = [] → s.portM.ara = false → s.portM.due = 0 → ∃ u : State,
        exec (.portmTransfer h addr proto wlen rlen flags data) s = .next u ∧ u.portM.act = some (.pass r false) ∧ u.portM.q = [] ∧
        u.flag F.SMB_M_STAT_BUSY = true ∧ Leaves [.SMB_M_STAT, .HST_LINK_A, .HST_LINK_B] [.outs, .portM] (s.taken h) u)) ∧
    (∀ n : Fin 32, (s.pollEnt n.val).en = true → s.flag F.SMB_M_CFG_EN = true → s.pmReady = false → ∃ u : State,
      exec (.poll (some n)) s = .next u ∧ u.portM = { s.portM with due := putBit s.portM.due n.val true } ∧
      Leaves [] [.outs, .portM] s u) ∧
    (s.flag F.SMB_M_CFG_EN = true → s.portM.act = none → s.flag F.SMB_M_STAT_STUCK = false → s.portM.q = [] → s.portM.ara = false →
      s.portM.due = 0 → ∃ u : State, exec .pmBusFree s = .next u ∧ u.portM = { s.portM with free := true } ∧
        Leaves [] [.outs, .portM] s u) ∧
    (s.flag F.SMB_M_CFG_EN = true → s.flag F.SMB_M_CFG_ARA_EN = true → (∀ t, s.portM.araAt = some t → t + 2000000 ≤ s.tb) →
      ∃ u : State, exec .pmAlert s = .next u ∧ u.portM = { s.portM with ara := true, araAt := some s.tb } ∧ Leaves [] [.outs, .portM] s u)

/-- The end of a Port M transaction: a poll result is stored and marked valid; a failure of an entry that was valid records 0x0F09; a lost
arbitration waits for its back-off and starts again, and the eighth is skipped with 0x0F06; a clock timeout records 0x0F0A.
Model's readings: log entry 144. -/
def portMTransactions : Prop :=
  ∀ s : State, s.portM.wait = false →
    (∀ (n : Nat) (data : List Byte), s.portM.act = some (.poll n) → n < 32 → ∃ u : State,
      exec (.pmTransactionDone 0 data) s = .next u ∧ u.portM.act = none ∧ (u.pollEnt n).valid = true ∧ (u.pollEnt n).fails = 0 ∧
      (u.pollEnt n).okAt = some s.tb ∧
      u.rd (if n % 2 = 0 then F.SMB_PRES_DATA0 else F.SMB_PRES_DATA1) (n / 2) = leAt data 0 (if (s.pollEnt n).word then 2 else 1) ∧
      u.flag F.SMB_M_STAT_BUSY = false ∧ Leaves [.SMB_M_STAT, .SMB_PRES] [.outs, .portM] s u) ∧
    (∀ (n : Nat) (data : List Byte) (r : Fin 3), s.portM.act = some (.poll n) → n < 32 → r ≠ 0 → ∃ u : State,
      exec (.pmTransactionDone r data) s = .next u ∧ u.portM.act = none ∧
      (u.pollEnt n).fails = min ((s.pollEnt n).fails + 1) 255 ∧ (u.pollEnt n).last = r.val ∧
      ((s.pollEnt n).valid = true → (s.pollEnt n).fails = 0 → Reported s u 0x0F09 srcPortM n ∧ u.flag F.SMB_M_EVT_NACK_EVT = true) ∧
      Leaves [.SMB_M_STAT, .SMB_M_EVT, .SLV_EVT] [.outs, .portM, .slv] s u) ∧
    (∀ (r : PmReq) (data : List Byte), s.portM.act = some (.pass r false) → ∃ u : State,
      exec (.pmTransactionDone 1 data) s = .next (u.complete r.cmd stPartnerRefused) ∧ u.portM.act = none ∧
      Leaves [.SMB_M_STAT] [.outs, .portM] s u) ∧
    (∀ a, s.portM.act = some a → s.portM.losses < 7 → ∃ u : State, exec .pmArbLoss s = .next u ∧
      u.portM = { s.portM with losses := s.portM.losses + 1, wait := true } ∧ u.flag F.SMB_M_STAT_BUSY = false ∧
      u.rd F.SMB_M_STAT_LOSSES = min (s.rd F.SMB_M_STAT_LOSSES + 1) (2 ^ F.SMB_M_STAT_LOSSES.width - 1) ∧
      Leaves [.SMB_M_STAT] [.outs, .portM] s u) ∧
    (∀ n, s.portM.act = some (.poll n) → n < 32 → 7 ≤ s.portM.losses → ∃ u : State, exec .pmArbLoss s = .next u ∧ u.portM.act = none ∧
      (u.pollEnt n).last = 3 ∧ u.flag F.SMB_M_EVT_SKIP_EVT = true ∧ Reported s u 0x0F06 srcPortM n ∧
      Leaves [.SMB_M_STAT, .SMB_M_EVT, .SLV_EVT] [.outs, .portM, .slv] s u) ∧
    (∀ n, s.portM.act = some (.poll n) → n < 32 → ∃ u : State, exec .pmClockTimeout s = .next u ∧ u.portM.act = none ∧
      (u.pollEnt n).last = 1 ∧ u.flag F.SMB_M_EVT_TMO_EVT = true ∧ Reported s u 0x0F0A srcPortM 0 ∧
      Leaves [.SMB_M_STAT, .SMB_M_EVT, .SLV_EVT] [.outs, .portM, .slv] s u)

/-- A lost transaction starts again when its back-off ends on a free bus; a bus found stuck is recovered, and after the fourth attempt
declared stuck with 0x0F07 flags 1, every waiting transfer timing out; both lines high again end it (R501, R504).
Model's readings: log entry 144. -/
def portMRecovers : Prop :=
  ∀ s : State,
    (∀ a, s.portM.act = some a → s.portM.wait = true → s.portM.free = true → ∃ u : State, exec .pmBackoffEnd s = .next u ∧
      u.portM = { s.portM with wait := false, free := false } ∧ u.flag F.SMB_M_STAT_BUSY = true ∧
      Leaves [.SMB_M_STAT, .HST_LINK_A, .HST_LINK_B] [.outs, .portM] s u) ∧
    (s.flag F.SMB_M_CFG_EN = true → s.portM.act = none → s.flag F.SMB_M_STAT_STUCK = false → s.flag F.SMB_M_STAT_RECOVERING = false →
      (∃ u : State, exec (.pmBusStuck true true) s = .next u.settle ∧ u.flag F.SMB_M_STAT_RECOVERING = false ∧
        u.flag F.SMB_M_EVT_CLR_EVT = true ∧ Reported s u 0x0F08 srcPortM 1 ∧
        Leaves [.SMB_M_STAT, .SMB_M_EVT, .SLV_EVT] [.outs, .portM, .slv] s u) ∧
      (∃ u : State, exec (.pmBusStuck true false) s = .next u.settle ∧ u.flag F.SMB_M_STAT_RECOVERING = true ∧
        u.portM = { s.portM with free := false, tries := 1 } ∧ Leaves [.SMB_M_STAT] [.outs, .portM] s u) ∧
      (∀ freed, ∃ u : State, exec (.pmBusStuck false freed) s = .next u.settle ∧ u.flag F.SMB_M_STAT_STUCK = true ∧ u.portM.q = [] ∧
        u.flag F.SMB_M_EVT_STUCK_EVT = true ∧ Leaves ([.SMB_M_STAT, .SMB_M_EVT] ++ endRegs) (.portM :: endParts) s u)) ∧
    (s.flag F.SMB_M_STAT_STUCK = false → s.flag F.SMB_M_STAT_RECOVERING = true → s.portM.tries < 3 → ∃ u : State,
      exec (.pmRecoveryRetry false) s = .next u.settle ∧ u.portM = { s.portM with tries := s.portM.tries + 1 } ∧ Leaves [] [.outs, .portM] s u) ∧
    (s.flag F.SMB_M_STAT_STUCK = false → s.flag F.SMB_M_STAT_RECOVERING = true → 3 ≤ s.portM.tries → ∃ u : State,
      exec (.pmRecoveryRetry false) s = .next u.settle ∧ u.flag F.SMB_M_STAT_STUCK = true ∧ u.flag F.SMB_M_STAT_RECOVERING = false ∧
      u.portM.q = []) ∧
    (s.flag F.SMB_M_STAT_STUCK = true → s.portM.q = [] → s.portM.ara = false → s.portM.due = 0 → ∃ u : State,
      exec (.pmRecoveryRetry true) s = .next u.settle ∧ u.flag F.SMB_M_STAT_STUCK = false ∧ Reported s u 0x0F07 srcPortM 0 ∧
      u.portM = { s.portM with free := true, tries := 0 } ∧ Leaves [.SMB_M_STAT, .SLV_EVT] [.outs, .portM, .slv] s u)

/-! ### Port S (chapter 21) -/

/-- A Port S read answers `d`: the transaction is counted, its code is kept, and nothing else changes. -/
def psAnswersWith (s : State) (c : Instr) (code : Nat) (d : List Byte) : Prop :=
  ∃ u : State, exec c s = .next u ∧ u.outs = [.psRead d] ∧ u.rd F.SMB_S_STAT_LAST_CMD = code ∧
    u.rd F.SMB_S_CNT_XFERS = min (s.rd F.SMB_S_CNT_XFERS + 1) 65535 ∧
    u.reg .SMB_S_STAT 0 = F.SMB_S_STAT_LAST_CMD.set code (s.reg .SMB_S_STAT 0) ∧
    Leaves [.SMB_S_STAT, .SMB_S_CNT] [.outs] s u

/-- The constant reads and the status reads of a page (Tables 21-2, 21-3): what they answer, without PEC. -/
def Obligations.PortSStatusReads : Prop :=
  ∀ s : State, s.psAnswers = true → s.power.psWake = false →
    let l := s.rd F.SMB_S_STAT_PAGE
    psAnswersWith s (.capability false) 0x19 [0xD0] ∧ psAnswersWith s (.voutMode false) 0x20 [0x18] ∧
    psAnswersWith s (.pmbusRevision false) 0x98 [0x33] ∧ psAnswersWith s (.page none false) 0x00 (leBytes 1 l) ∧
    psAnswersWith s (.mfrSupResult false) 0xD2 (leBytes 2 (if s.supOut = 0 then s.supRes + 256 * s.supBad else 0xFFFF)) ∧
    (l < 48 →
      psAnswersWith s (.statusByte false) 0x78 (leBytes 1 (s.statusB l)) ∧
      psAnswersWith s (.statusWord false) 0x79 (leBytes 2 (s.statusW l)) ∧
      psAnswersWith s (.statusVout false) 0x7A (leBytes 1 (128 * (s.lane l).lat 0 + 64 * (s.lane l).lat 5)) ∧
      psAnswersWith s (.statusIout false) 0x7B (leBytes 1 (128 * (s.lane l).lat 1 + 32 * (s.lane l).lat 6)) ∧
      psAnswersWith s (.statusTemperature false) 0x7D (leBytes 1 (128 * (s.lane l).lat 7 + 64 * (s.lane l).lat 8)) ∧
      (s.statusB l).testBit 7 = decide (0 < s.supOut) ∧ (s.statusB l).testBit 6 = s.psOff l ∧
      (s.statusB l).testBit 5 = bitN (s.lane l).psLat 0 ∧ (s.statusB l).testBit 1 = bitN (s.lane l).psLat 3 ∧
      s.statusW l % 256 = s.statusB l ∧ (s.statusW l).testBit 11 = !(s.laneState l).running)

/-- The paged reads (R491, R492): a page's reading; with PAGE 0xFF every byte is 0xFF, the code counts as a fault with flags 7 and CML is
latched in every lane (R490). Model's readings: log entry 142. -/
def portSReadings : Prop :=
  ∀ s : State, s.psAnswers = true → s.power.psWake = false →
    let l := s.rd F.SMB_S_STAT_PAGE
    (l < 48 →
      psAnswersWith s (.readVin false) 0x88 (leBytes 2 (lin11 (if s.configured l then s.psBus l else 0))) ∧
      psAnswersWith s (.readVout false) 0x8B (leBytes 2 (lin16 (if s.configured l then (s.psVI l).1 else 0))) ∧
      psAnswersWith s (.readIout false) 0x8C (leBytes 2 (lin11 (if s.configured l then (s.psVI l).2 else 0))) ∧
      psAnswersWith s (.readTemperature1 false) 0x8D (leBytes 2 (lin11 (if s.configured l then s.psTemp l else 0))) ∧
      psAnswersWith s (.readPout false) 0x96
        (leBytes 2 (lin11 (if s.configured l then (s.psVI l).1 * (s.psVI l).2 / 1000 else 0))) ∧
      psAnswersWith s (.mfrLaneState false) 0xD1 (leBytes 1 (s.laneState l).code) ∧
      psAnswersWith s (.operationRead false) 0x01 (leBytes 1 (if s.flag F.LN_STATE_SUP_HOLD l then 0 else 0x80))) ∧
    (l = 0xFF → ∃ u : State, exec (.mfrLaneState false) s = .next u ∧ u.outs = [.psRead [0xFF]] ∧ u.flag F.SMB_S_EVT_CML_EVT = true ∧
      Reported s u 0x0F01 srcPortS 7 ∧ (∀ k < 48, bitN (u.lane k).psLat 3 = true))

/-- lin11 is an exponent of -16 to 15 and a mantissa of 11 bits, for every value; lin16 counts in 1/256 V (R498). -/
def portSFormats : Prop :=
  (∀ m : Int, ∃ e y : Int, -16 ≤ e ∧ e ≤ 15 ∧ -1024 ≤ y ∧ y ≤ 1023 ∧ lin11 m = ofS e 5 * 2048 + ofS y 11) ∧
  (∀ m : Int, 0 ≤ m → m ≤ 255000 → lin16 m = (rndDiv (m * 256) 1000).toNat) ∧ lin11 0 = 0x8000 ∧ (∀ m : Int, m ≤ 0 → lin16 m = 0)

/-- The writes of Port S (R489, R492 to R494): PAGE takes a lane or 0xFF; OPERATION 0x00 holds and parks the page's lane, 0x80 clears the
hold with 0x0F04 and starts nothing; CLEAR_FAULTS clears CML; MFR_SAFE_ALL holds every lane, with 0x0F03, and waits.
Model's readings: log entry 140. -/
def Obligations.PortSWrites : Prop :=
  ∀ (s : State) (p : PecByte), s.psAnswers = true → s.power.psWake = false →
    (p = .good ∨ p = .absent ∧ s.flag F.SMB_S_CFG_PEC_REQ = false) →
    let l := s.rd F.SMB_S_STAT_PAGE
    (∀ (v : Byte) (pec : Bool), (v.toNat < 48 ∨ v = 0xFF) → ∃ u : State, exec (.page (some (v, p)) pec) s = .next u ∧
      u.rd F.SMB_S_STAT_PAGE = v.toNat ∧ u.outs = [.psAck true] ∧ Leaves [.SMB_S_STAT, .SMB_S_CNT] [.outs] s u) ∧
    (l < 48 → s.supOut = 0 → ∃ u : State, exec (.operationOff p) s = .next u.settle ∧ u.flag F.LN_STATE_SUP_HOLD l = true ∧
      (∀ k, k ≠ l → u.reg .LN_STATE k = s.reg .LN_STATE k) ∧ OnlyLane l s u ∧
      ((s.laneState l).inService = true → (u.lane l).moves = (s.lane l).moves.filter (· ≠ .arm) ++ [.park 1] ∧
        ⟨supCmd 0x16, .parkingClear l⟩ ∈ u.waits) ∧
      Leaves ([.SMB_S_STAT, .SMB_S_CNT, .LN_STATE, .GLB_START] ++ endRegs) ([.lanes, .waits, .tokenQ, .served] ++ endParts) s u) ∧
    (l < 48 → s.supOut = 0 → ∃ u : State, exec (.operationOn p) s = .next u.settle ∧ u.flag F.LN_STATE_SUP_HOLD l = false ∧
      (s.flag F.LN_STATE_SUP_HOLD l = true → Reported s u 0x0F04 (srcLane l) 0) ∧
      (s.flag F.LN_STATE_SUP_HOLD l = false → Unreported s u) ∧ u.lanes = s.lanes ∧ OnlyAt .LN_STATE l s u ∧
      u.reg .LN_STATE l = F.LN_STATE_SUP_HOLD.set 0 (s.reg .LN_STATE l) ∧
      Leaves [.SMB_S_STAT, .SMB_S_CNT, .LN_STATE, .SLV_EVT] [.outs, .slv, .supOut, .supRes, .supBad, .served] s u) ∧
    (l < 48 → s.supOut = 0 → s.needsClear l = false → ∃ u : State, exec (.clearFaults p) s = .next u.settle ∧
      bitN (u.lane l).psLat 3 = false ∧ (∀ b, bitN (u.lane l).psLat b = true → bitN (s.lane l).psLat b = true) ∧ OnlyLane l s u ∧
      Leaves [.SMB_S_STAT, .SMB_S_CNT] [.outs, .lanes, .supOut, .supRes, .supBad, .served] s u) ∧
    (∃ u : State, exec (.mfrSafeAll p) s = .next u.settle ∧ (∀ k < 48, u.flag F.LN_STATE_SUP_HOLD k = true) ∧
      u.flag F.SMB_S_EVT_SAFE_EVT = true ∧ Reported s u 0x0F03 srcPortS 0 ∧ ⟨supCmd 0xD0, .safeAll⟩ ∈ u.waits ∧
      (∀ k < 48, (s.laneState k).inService = true → .park 3 ∈ (u.lane k).moves) ∧
      Leaves ([.SMB_S_STAT, .SMB_S_CNT, .SMB_S_EVT, .LN_STATE, .GLB_START] ++ endRegs) ([.lanes, .waits, .tokenQ, .served] ++ endParts) s u)

/-- A communication fault latches CML in the page's lanes and records 0x0F01; a clock-low time-out records 0x0F02; the address comes once
from the strap with 0x0F05; an alert response that is not lost answers the address and releases the alert (R486, R488, R490, R495).
Model's readings: log entries 103, 141. -/
def Obligations.PortSFaultsAndAlert : Prop :=
  ∀ s : State,
    (∀ (kind : Fin 8) (code : Byte), s.psAnswers = true → s.power.psWake = false → s.psFits kind.val code.toNat = true →
      ∃ u : State, exec (.psCommFault kind code) s = .next u ∧ u.flag F.SMB_S_EVT_CML_EVT = true ∧ Reported s u 0x0F01 srcPortS kind.val ∧
        (∀ k ∈ s.pageLanes, k < 48 → bitN (u.lane k).psLat 3 = true) ∧ (∀ k, k ∉ s.pageLanes → u.lane k = s.lane k) ∧
        (kind.val = 4 → u.rd F.SMB_S_CNT_PEC_ERR = min (s.rd F.SMB_S_CNT_PEC_ERR + 1) 255) ∧
        Leaves [.SMB_S_STAT, .SMB_S_CNT, .SMB_S_EVT, .SLV_EVT] [.outs, .lanes, .slv] s u) ∧
    (∃ u : State, exec .psTimeout s = .next u ∧ u.flag F.SMB_S_EVT_TMO_EVT = true ∧ Reported s u 0x0F02 srcPortS 0 ∧
      Leaves [.SMB_S_EVT, .SLV_EVT] [.outs, .slv] s u) ∧
    (∀ codes : Vector (BitVec 12) 8, s.flag F.SMB_S_STAT_ADDR_VALID = false → s.flag F.GLB_BAY_STAT_AN_ON 0 = true →
      ∃ (u : State) (k : Nat), exec (.psAddress codes) s = .next u ∧ k ≤ 15 ∧ u.rd F.SMB_S_STAT_STRAP = k ∧
        u.rd F.SMB_S_STAT_ADDR = 0x40 + k ∧ u.flag F.SMB_S_STAT_ADDR_VALID = true ∧ Reported s u 0x0F05 srcPortS k ∧
        Leaves [.SMB_S_STAT, .SLV_EVT] [.outs, .slv] s u) ∧
    (s.psAnswers = true → s.flag F.SMB_S_STAT_ALERT = true → ∃ u : State, exec (.alertResponse false) s = .next u ∧
      u.outs = [.psRead (leBytes 1 (2 * s.rd F.SMB_S_STAT_ADDR))] ∧ u.flag F.SMB_S_STAT_ALERT = false ∧
      Leaves [.SMB_S_STAT] [.outs] s u) ∧
    exec (.alertResponse true) s = .next s.begin

/-! ### The Treadle port (chapter 10) -/

/-- SET frames with right parity store their value in a segment they hold, and SET_VBUS claims a free one with 0x0705; each is answered
with status 0 and counted (R224, R236, R237). Model's readings: log entry 70. -/
def treadleSets : Prop :=
  ∀ (s : State) (sg : Seg) (value : BitVec 24), s.trdLive = true → s.rdBit F.TRD_CFG_SEG_EN sg.val = true →
    s.busForm sg.val = true →
    let g := sg.val
    let n := value.toNat
    let done := fun (c : Instr) (x : SegSt) => ∃ u : State, exec c s = .next u ∧ u.seg g = x ∧ OnlySeg g s u ∧ u.holder g = 1 ∧
      u.outs = [.treadle 0 n] ∧ u.rd F.TRD_CNT_OK_CNT = min (s.rd F.TRD_CNT_OK_CNT + 1) (2 ^ F.TRD_CNT_OK_CNT.width - 1) ∧
      (s.holder g = 0 → Reported s u 0x0705 (srcSeg g) 1) ∧
      Leaves [.TRD_LAST, .TRD_CNT, .TRD_STAT, .BUS_STAT, .SLV_EVT] [.outs, .segs, .slv] s u
    ((s.holder g = 0 ∨ s.holder g = 1) → s.rd F.BUS_WIN_LO_VMIN g ≤ 5 * n → 5 * n ≤ s.rd F.BUS_WIN_HI_VMAX g →
      done (.setVbus sg value true) { s.seg g with cmdV := 5 * n }) ∧
    (s.holder g = 1 → n ≤ 10000 → done (.setSlew sg value true) { s.seg g with slew := n }) ∧
    (s.holder g = 1 → n ≤ 65535 → done (.setDroop sg value true) { s.seg g with droop := n }) ∧
    (s.holder g = 1 → n ≤ 1000000 → done (.setPlimit sg value true) { s.seg g with plim := n })

/-- A frame with wrong parity answers 1 with 0x0703 and sets nothing; a SET frame is refused in the order of Table 10-4: disabled segment 6,
not in bus-form 5, held by the host 4, not held by the Treadle 7, out of range 3; an unknown code answers 2. -/
def treadleRefusals : Prop :=
  ∀ (s : State) (sg : Seg) (value : BitVec 24), s.trdLive = true →
    let g := sg.val
    let refused := fun (c : Instr) (st : Nat) => ∃ u : State, exec c s = .next u ∧ u.outs = [.treadle st 0] ∧
      u.flag F.TRD_STAT_REFUSE_EVT = true ∧ Reported s u 0x0704 (srcSeg g) st ∧
      Leaves [.TRD_LAST, .TRD_STAT, .SLV_EVT] [.outs, .slv] s u
    (∃ u : State, exec (.setVbus sg value false) s = .next u ∧ u.outs = [.treadle 1 0] ∧ u.flag F.TRD_STAT_PARITY_EVT = true ∧
      Reported s u 0x0703 0x140 0 ∧ Leaves [.TRD_LAST, .TRD_CNT, .TRD_STAT, .SLV_EVT] [.outs, .slv] s u) ∧
    (s.rdBit F.TRD_CFG_SEG_EN g = false → refused (.setVbus sg value true) 6 ∧ refused (.setSlew sg value true) 6) ∧
    (s.rdBit F.TRD_CFG_SEG_EN g = true → s.busForm g = false → refused (.setVbus sg value true) 5 ∧ refused (.setPlimit sg value true) 5) ∧
    (s.rdBit F.TRD_CFG_SEG_EN g = true → s.busForm g = true → s.holder g = 2 → ∃ u : State, exec (.setVbus sg value true) s = .next u ∧
      u.outs = [.treadle 4 0] ∧ Reported s u 0x0114 (srcSeg g) 0 ∧ Leaves [.TRD_LAST, .TRD_STAT, .SLV_EVT] [.outs, .slv] s u) ∧
    (s.rdBit F.TRD_CFG_SEG_EN g = true → s.busForm g = true → s.holder g = 0 → refused (.setDroop sg value true) 7) ∧
    (s.rdBit F.TRD_CFG_SEG_EN g = true → s.busForm g = true → s.holder g = 1 → 10000 < value.toNat → refused (.setSlew sg value true) 3) ∧
    (∀ code : BitVec 4, code.toNat ∉ [1, 2, 3, 4, 8, 9] → refused (.trdUnknown sg code value true) 2)

/-- GET frames answer with status 0: GET_STATUS the status word, and the pending alerts clear; GET_IBUS the published bus current; an
aborted frame counts and records 0x0702 (R234, R238, R239). -/
def treadleGets : Prop :=
  ∀ (s : State) (sg : Seg) (value : BitVec 24), s.trdLive = true →
    let g := sg.val
    (∃ (u : State) (d : Nat), exec (.getStatus sg value true) s = .next u ∧ u.outs = [.treadle 0 d] ∧ d.testBit 0 = s.busForm g ∧
      d / 2 % 4 = s.holder g ∧ d / 8 % 4 = s.policyOf g ∧ d / 256 % 32 = (s.seg g).alerts % 32 ∧
      u.seg g = { s.seg g with alerts := 0 } ∧ OnlySeg g s u ∧ Leaves [.TRD_LAST, .TRD_CNT] [.outs, .segs] s u) ∧
    (∃ u : State, exec (.getIbus sg value true) s = .next u ∧ u.outs = [.treadle 0 (ofS (s.seg g).iBus 24)] ∧
      Leaves [.TRD_LAST, .TRD_CNT] [.outs] s u) ∧
    (∀ r : Bool, ∃ u : State, exec (.trdAbort r) s = .next u ∧ u.flag F.TRD_STAT_ABORT_EVT = true ∧
      u.rd F.TRD_CNT_ABORTS = min (s.rd F.TRD_CNT_ABORTS + 1) (2 ^ F.TRD_CNT_ABORTS.width - 1) ∧ Reported s u 0x0702 0x140 r.toNat ∧
      Leaves [.TRD_CNT, .TRD_STAT, .SLV_EVT] [.outs, .slv] s u)

/-! ### Boundary scan and debug (R481 to R483) -/

/-- A JTAG instruction takes the instruction register, and EXTEST ends with any other; EXTEST is refused while sealed with SAFE_N high, with
0x0E0B flags 2; DBG enters and leaves debug freeze with its key, and is refused while sealed with 0x0E0B flags 1.
Model's readings: log entries 44, 139. -/
def Obligations.JtagInstructions : Prop :=
  ∀ s : State,
    (∃ u : State, exec .samplePreload s = .next u ∧ u.sec = { s.sec with jtagIr := 0x02, extest := false } ∧ Leaves [] [.outs, .sec] s u) ∧
    (∃ u : State, exec .idcode s = .next u ∧ u.sec = { s.sec with jtagIr := 0x03, extest := false } ∧ u.outs = [.jtag 0xB9248F3F 32] ∧
      Leaves [] [.outs, .sec] s u) ∧
    (∃ u : State, exec .bypass s = .next u ∧ u.sec = { s.sec with jtagIr := 0x3F, extest := false } ∧ u.outs = [.jtag 0 1] ∧
      Leaves [] [.outs, .sec] s u) ∧
    ((s.flag F.SEC_STAT_SEALED = false ∨ s.safeLow = true) → ∃ u : State, exec .extest s = .next u ∧
      u.sec = { s.sec with jtagIr := 0x00, extest := true } ∧ Leaves [] [.outs, .sec] s u) ∧
    (s.flag F.SEC_STAT_SEALED = true → s.safeLow = false → ∃ u : State, exec .extest s = .next u ∧
      u.sec = { s.sec with jtagIr := 0x3F, extest := false } ∧ Reported s u 0x0E0B srcDevice 2 ∧
      Leaves [.SLV_EVT] [.outs, .sec, .slv] s u) ∧
    (∀ v : BitVec 16, v.toNat / 256 = 0xD5 → s.flag F.SEC_STAT_SEALED = true → ∃ u : State, exec (.dbg v) s = .next u ∧
      Reported s u 0x0E0B srcDevice 1 ∧ u.flag F.GLB_PWM_STAT_FREEZE = s.flag F.GLB_PWM_STAT_FREEZE ∧
      Leaves [.SLV_EVT] [.outs, .sec, .slv] s u) ∧
    (∀ v : BitVec 16, v.toNat / 256 = 0xD5 → s.flag F.SEC_STAT_SEALED = false → v.getLsbD 0 = true →
      s.flag F.GLB_PWM_STAT_FREEZE = false → ∃ u : State, exec (.dbg v) s = .next u.settle ∧ u.flag F.GLB_PWM_STAT_FREEZE = true ∧
      (∀ p < 192, (u.ph p).on = false ∧ (u.ph p).begins = false) ∧ Leaves (.GLB_PWM_STAT :: settleRegs) (.sec :: settleParts) s u) ∧
    (∀ v : BitVec 16, v.toNat / 256 = 0xD5 → s.flag F.SEC_STAT_SEALED = false → v.getLsbD 0 = false →
      s.flag F.GLB_PWM_STAT_FREEZE = true → ∃ u : State, exec (.dbg v) s = .next u.settle ∧ u.flag F.GLB_PWM_STAT_FREEZE = false ∧
      Reported s u 0x010A srcDevice 0 ∧ (∀ p < 192, (u.ph p).frz = false) ∧ Leaves [.GLB_PWM_STAT, .SLV_EVT] [.outs, .sec, .slv, .phases] s u) ∧
    (∀ v : BitVec 16, v.toNat / 256 ≠ 0xD5 → ∃ u : State, exec (.dbg v) s = .next u ∧ Leaves [] [.outs, .sec] s u)

/-! ### The module link (chapter 11) -/

/-- A frame of lane `l`'s module answers the request `q` the Kuvin has outstanding: the link listens, SEQ and version agree. -/
structure Answering (s : State) (l : Nat) (f : JmlRx) (q : JFrame) : Prop where
  lane : s.laneState l ≠ .off ∧ s.laneState l ≠ .lost
  link : ∀ k, (s.jml l).link ≠ .hard k
  quiet : (s.jml l).wire = none
  asked : (s.jml l).out = some q
  version : f.ver = 0
  seq : q.seq = some (f.seq.toNat % 16)

/-- A keep-alive record stands in these values: no field of it is out of range under contract `c` (Table 11-5, R265). -/
structure InRange (c : Contract) (p : List Byte) : Prop where
  cnum : leAt p 0 2 = c.cnum
  ichg : leAt p 2 2 ≤ c.ichg
  idis : leAt p 4 2 ≤ c.idis
  vlo : c.vlo ≤ leAt p 6 2
  order : leAt p 6 2 < leAt p 8 2
  vhi : leAt p 8 2 ≤ c.vhi
  soc : leAt p 10 2 = 0xFFFF
  temp : leAt p 12 1 = 0x80
  use : bitN (leAt p 16 1) 0 = true

/-- Entry (R262 to R264): a CAPS in range is answered with a contract request of the next number, formed from the module's limits, the
bus and the phases; a CONTRACT_ACK that accepts it makes the link wait for the contactor. Model's readings: log entry 77. -/
def linkEntry : Prop :=
  ∀ (s : State) (l : Lane) (f : JmlRx) (q : JFrame), Answering s l.val f q →
    let k := l.val
    let j := s.jml k
    let p := f.payload
    (q.type = 0x01 → capsOk (s.rd F.LN_JML_CLASS k) p = true → j.reneg = false → s.rd F.LN_JML_AUX_PREF k = 0 →
      let bus := ((s.clamps k).2 * s.rd F.BUS_WIN_LO_VMIN (s.segOf k) / 65536 / 10).toNat
      let cap := s.rd F.LN_IPH_IPH_MAX k * s.rd F.LN_STATE_NFULL k / 10
      let c : Contract := ⟨if j.cnum = 65535 then 1 else j.cnum + 1, leAt p 2 2, min (leAt p 4 2) bus, min (leAt p 6 2) cap,
        min (leAt p 8 2) cap, 0, s.rd F.LN_JML_KA_INT k⟩
      leAt p 2 2 < min (leAt p 4 2) bus → ∃ u : State, exec (.caps l f) s = .next u.settle ∧
        u.jml k = { j with out := none, timing := false, tries := 0, caps := p, cnum := c.cnum, ask := some c,
                           due := j.due ++ [⟨0x03, c.bytes, none, false, false⟩] } ∧
        OnlyLane k s u ∧ Leaves [] [.outs, .lanes] s u) ∧
    (∀ c, q.type = 0x03 → j.ask = some c → j.reneg = false → p.length = 3 → leAt p 0 2 = c.cnum → leAt p 2 1 = 0 →
      ∃ u : State, exec (.contractAck l f) s = .next u.settle ∧
        u.jml k = { j with out := none, timing := false, tries := 0, link := .contactor } ∧
        u.reg .LN_JML k = F.LN_JML_AUX_USE.set c.aux (s.reg .LN_JML k) ∧ OnlyAt .LN_JML k s u ∧ OnlyLane k s u ∧
        Leaves [.LN_JML] [.outs, .lanes] s u) ∧
    (∀ c r, q.type = 0x03 → j.ask = some c → j.reneg = false → j.afterHard = false → p.length = 3 → leAt p 0 2 = c.cnum →
      leAt p 2 1 = r → 1 ≤ r → r ≤ 5 → s.laneState k = .negotiate →
      ∃ u : State, exec (.contractAck l f) s = .next u.settle ∧ (u.jml k).link = .idle ∧ (u.jml k).ask = none ∧
        (u.lane k).moves = (s.lane k).moves ++ [.entryFailed] ∧ Reported s u 0x0802 (srcLane k) r ∧ OnlyLane k s u ∧
        Leaves [.LN_JML, .SLV_EVT] [.outs, .lanes, .slv] s u)

/-- Keep-alives (R265): a record in range puts its values in force; whatever a record says, no value in force lies outside the contract.
ATTN_INFO carries such a record too, and ends the attention. Model's readings: log entry 79. -/
def Obligations.KeepAliveValues : Prop :=
  (∀ (c : Contract) (p : List Byte), c.vlo < c.vhi →
    let v := (kaValues c p).1
    v.ichg ≤ c.ichg ∧ v.idis ≤ c.idis ∧ c.vlo ≤ v.vlo ∧ v.vhi ≤ c.vhi ∧ v.vlo < v.vhi ∧ (∀ x, v.soc = some x → x ≤ 1000) ∧
      (∀ t, v.tmax = some t → -40 ≤ t ∧ t ≤ 125)) ∧
  (∀ (s : State) (l : Lane) (f : JmlRx) (q : JFrame) (c : Contract), Answering s l.val f q → (s.jml l.val).con = some c →
    let k := l.val
    let v := fun p : List Byte => (⟨leAt p 2 2, leAt p 4 2, leAt p 6 2, leAt p 8 2, none, none, leAt p 13 1, leAt p 14 2, leAt p 16 1⟩ : InForce)
    (q.type = 0x06 → s.swapped k = false → f.payload.length = 17 → InRange c f.payload → ∃ u : State,
      exec (.kaMod l f) s = .next u.settle ∧ (u.lane k).ka = some (v f.payload) ∧
        u.jml k = { s.jml k with out := none, timing := false, tries := 0, grace := false } ∧ OnlyLane k s u ∧
        Leaves [] [.outs, .lanes] s u) ∧
    (q.type = 0x06 → s.swapped k = false → f.payload.length ≠ 17 → (s.jml k).tries < 2 → ∃ u : State,
      exec (.kaMod l f) s = .next u.settle ∧ (u.lane k).ka = (s.lane k).ka ∧ (u.jml k).due = (s.jml k).due ++ [{ q with retry := true }] ∧
        u.flag F.LN_JML_VIOL_EVT k = true ∧ OnlyLane k s u ∧ Leaves [.LN_JML, .SLV_EVT] [.outs, .lanes, .slv] s u) ∧
    (q.type = 0x08 → f.payload.length = 18 → leAt f.payload 0 1 = 1 → InRange c (f.payload.drop 1) → ∃ u : State,
      exec (.attnInfo l f) s = .next u.settle ∧ (u.lane k).ka = some (v (f.payload.drop 1)) ∧ u.flag F.LN_JML_ATTN k = false ∧
        (u.jml k).out = none ∧ OnlyLane k s u ∧ OnlyAt .LN_JML k s u ∧ Leaves [.LN_JML] [.outs, .lanes] s u))

/-- The other answers of the module (R264, R266, R269, R272): an ACK of READY ends the request; SWAP_ACK that accepts makes the module
Initiator with 0x0807 flags 1; LINK_DATA and a NAK of it end the waiting LINK_SEND. Model's readings: log entry 77. -/
def linkAnswers : Prop :=
  ∀ (s : State) (l : Lane) (f : JmlRx) (q : JFrame), Answering s l.val f q →
    let k := l.val
    let j := s.jml k
    let p := f.payload
    (q.type = 0x05 → p = [0x05, 0x00] → ∃ u : State, exec (.ack l f) s = .next u ∧
      u.jml k = { j with out := none, timing := false, tries := 0 } ∧ OnlyLane k s u ∧ Leaves [] [.outs, .lanes] s u) ∧
    (q.type = 0x0A → p = [0x00, 0x00] → ∃ u : State, exec (.swapAck l f) s = .next u ∧ u.swapped k = true ∧ (u.jml k).swap = true ∧
      (u.jml k).out = none ∧ Reported s u 0x0807 (srcLane k) 1 ∧ (∀ w ∈ u.waits, w.wait ≠ .roles k ∧ w.wait ≠ .linkData k) ∧
      OnlyLane k s u ∧ OnlyAt .LN_JML k s u ∧ Leaves (.LN_JML :: endRegs) ([.lanes, .waits] ++ endParts) s u) ∧
    (q.type = 0x0A → p = [0x01, 0x00] → ∃ u : State, exec (.swapAck l f) s = .next u ∧ u.swapped k = s.swapped k ∧
      (∀ w ∈ u.waits, w.wait ≠ .roles k) ∧ u.jml k = { j with out := none, timing := false, tries := 0 } ∧
      Leaves endRegs ([.lanes, .waits] ++ endParts) s u) ∧
    (q.type = 0x0E → 1 ≤ p.length → p.length ≤ 33 → ∃ u : State, exec (.linkData l f) s = .next u ∧
      u.jml k = { j with out := none, timing := false, tries := 0 } ∧ (∀ w ∈ u.waits, w.wait ≠ .linkData k) ∧
      (∀ w ∈ s.waits, w.wait ≠ .linkData k → w ∈ u.waits) ∧ OnlyLane k s u ∧ Leaves endRegs ([.lanes, .waits] ++ endParts) s u) ∧
    (q.type = 0x0E → ∃ u : State, exec (.nak l f) s = .next u.settle ∧ u.jml k = { j with out := none, timing := false, tries := 0 } ∧
      (∀ w ∈ u.waits, w.wait ≠ .linkData k) ∧ OnlyLane k s u ∧ Leaves endRegs ([.lanes, .waits] ++ endParts) s u)

/-- Violations and failures (R266, R270): a bad frame, a truncated pilot, pilot noise and an unknown type record their event and set
VIOL_EVT; a response that does not come records 0x0803 and the request goes out again with RETRY, up to two times.
Model's readings: log entry 75. -/
def linkViolations : Prop :=
  ∀ (s : State) (l : Lane), s.laneState l.val ≠ .off →
    let k := l.val
    let j := s.jml k
    let noted := fun (c : Instr) (code flags : Nat) (settled : Bool) => ∃ u : State,
      exec c s = .next (if settled then u.settle else u) ∧ Reported s u code (srcLane k) flags ∧ u.flag F.LN_JML_VIOL_EVT k = true ∧
      OnlyAt .LN_JML k s u ∧ Leaves [.LN_JML, .SLV_EVT] [.outs, .slv] s u
    noted (.pilotNoise l) 0x0812 0 false ∧
    (j.out = none → (∀ kind : Fin 4, kind.val ≠ 0 → noted (.badFrame l kind) 0x080A kind.val true) ∧ noted (.pilotTrunc l) 0x0809 0 true) ∧
    (j.out = none → s.laneState k ≠ .lost → (∀ n, j.link ≠ .hard n) → s.swapped k = false →
      ∀ (type : Byte) (f : JmlRx), (knownType type.toNat = false ∨ f.ver ≠ 0) → noted (.unknownType l type f) 0x080C type.toNat true) ∧
    (s.laneState k ≠ .lost → (∀ n, j.link ≠ .hard n) → s.swapped k = false → ∀ f : JmlRx, ∃ u : State,
      exec (.swapReq l f) s = .next u ∧ Reported s u 0x080E (srcLane k) 0x0A ∧ u.flag F.LN_JML_VIOL_EVT k = true ∧
      u.jml k = { j with due := j.due ++ [⟨0x7E, [0x0A, 0x05], some (f.seq.toNat % 16), false, true⟩] } ∧ OnlyLane k s u ∧
      Leaves [.LN_JML, .SLV_EVT] [.outs, .lanes, .slv] s u) ∧
    (s.laneState k ≠ .lost → (∀ n, j.link ≠ .hard n) → s.swapped k = true → j.wire = none → ∀ f : JmlRx, f.ver = 0 → f.retry = false →
      f.payload = [] → f.seq.toNat % 16 = j.seqIn → ∃ u : State, exec (.swapReq l f) s = .next u ∧
      u.jml k = { j with seqIn := (j.seqIn + 1) % 16, due := j.due ++ [⟨0x0B, [0x00, 0x00], some j.seqIn, false, true⟩] } ∧
      OnlyLane k s u ∧ Leaves [] [.outs, .lanes] s u) ∧
    (∀ f, j.out = some f → j.timing = true → j.tries < 2 → ∃ u : State, exec (.responseTimeout l) s = .next u.settle ∧
      Reported s u 0x0803 (srcLane k) (j.tries + 1) ∧
      u.jml k = { j with out := none, timing := false, tries := j.tries + 1, due := j.due ++ [{ f with retry := true }] } ∧
      OnlyLane k s u ∧ Leaves [.SLV_EVT] [.outs, .lanes, .slv] s u)

/-- What the wire does (R253, R257 to R259, R265, R266): the frame of the highest priority that is due goes out when the line is free,
with the next SEQ; its end starts the response timer, a preamble stops it; an attention asks for STATUS_REQ. -/
def Obligations.LinkWire : Prop :=
  ∀ (s : State) (l : Lane),
    let k := l.val
    let j := s.jml k
    (∀ f, firstDue j.due = some f → j.wire = none → j.out = none → (∀ n, j.link ≠ .hard n) → f.seq = none → f.payload ≠ [] →
      ∃ u : State, exec (.idleGuard l) s = .next u ∧ (u.jml k).wire = some { f with seq := some j.seqOut } ∧
        (u.jml k).due = j.due.erase f ∧ (u.jml k).seqOut = (j.seqOut + 1) % 16 ∧
        u.outs = [.jml k (jmlBytes f.type j.seqOut f.retry f.payload)] ∧ (∀ g ∈ j.due, f.rank ≤ g.rank) ∧ OnlyLane k s u ∧
        Leaves [] [.outs, .lanes] s u) ∧
    (∀ f, j.wire = some f → f.response = false → ∃ u : State, exec (.frameReleased l) s = .next u ∧
      u.jml k = { j with wire := none, out := some f, timing := true } ∧ OnlyLane k s u ∧ Leaves [] [.outs, .lanes] s u) ∧
    (∃ u : State, exec (.preambleStart l) s = .next u ∧ u.jml k = { j with timing := false } ∧ OnlyLane k s u ∧
      Leaves [] [.outs, .lanes] s u) ∧
    (j.con ≠ none → s.swapped k = false → ∃ u : State, exec (.kaDev l) s = .next u ∧
      u.jml k = { j with due := j.due ++ [⟨0x06, [], none, false, false⟩] } ∧ OnlyLane k s u ∧ Leaves [] [.outs, .lanes] s u) ∧
    (∀ w, 14000 ≤ w → w ≤ 30000 → s.laneState k ≠ .off → s.laneState k ≠ .lost → j.link = .held → s.swapped k = false →
      j.has 0x08 = false → ∃ u : State, exec (.attentionPulse l w) s = .next u ∧ u.flag F.LN_JML_ATTN k = true ∧
      u.jml k = { j with due := j.due ++ [⟨0x08, [], none, false, false⟩] } ∧ OnlyLane k s u ∧ OnlyAt .LN_JML k s u ∧
      Leaves [.LN_JML] [.outs, .lanes] s u) ∧
    (∀ w, (w < 14000 ∨ 30000 < w) → exec (.attentionPulse l w) s = .next s.begin) ∧
    (∀ f, j.wire = some f → ∃ u : State, exec (.attnCollision l) s = .next u ∧ u.flag F.LN_JML_ATTN k = true ∧ (u.jml k).wire = none ∧
      (u.jml k).due.head? = some { f with retry := false } ∧ OnlyLane k s u ∧ OnlyAt .LN_JML k s u ∧ Leaves [.LN_JML] [.outs, .lanes] s u) ∧
    (s.swapped k = true → j.has 0x0C = false → ∃ u : State, exec (.swapTimeout l) s = .next u.settle ∧
      Reported s u 0x0804 (srcLane k) 2 ∧ (u.jml k).grace = (j.grace || j.con.isSome) ∧
      (∃ d, (u.jml k).due = d ++ [⟨0x0C, [0x02], none, false, false⟩]) ∧ OnlyLane k s u ∧ Leaves [.SLV_EVT] [.outs, .lanes, .slv] s u)

/-- Hard resets (R264, R266, R267, R271): the contract is dropped, the count rises, a lane in service parks with cause 2, PLT is driven low
and released; after the third decision without a partner the module is lost, with 0x0806. Model's readings: log entries 74, 82. -/
def Obligations.HardResets : Prop :=
  ∀ (s : State) (l : Lane),
    let k := l.val
    let j := s.jml k
    let decided := fun (c : Instr) => ∃ u : State, exec c s = .next u.settle ∧ (u.jml k).link = .hard 0 ∧ (u.jml k).con = none ∧
      (u.lane k).ka = none ∧ u.flag F.LN_STATE_CONTRACT k = false ∧ u.swapped k = false ∧ (u.jml k).due = [] ∧
      u.rd F.LN_JML_HRST k = min (s.rd F.LN_JML_HRST k + 1) (2 ^ F.LN_JML_HRST.width - 1) ∧
      ((s.laneState k).inService = true → (u.lane k).moves = (s.lane k).moves ++ [.park 2]) ∧
      (∀ w ∈ u.waits, w.wait ≠ .linkData k ∧ w.wait ≠ .contract k ∧ w.wait ≠ .roles k) ∧ OnlyLane k s u ∧
      OnlyAt .LN_JML k s u ∧ OnlyAt .LN_STATE k s u ∧ Leaves ([.LN_JML, .LN_STATE] ++ endRegs) ([.lanes, .waits] ++ endParts) s u
    (j.grace = true → j.leaving = none → decided (.graceExpiry l)) ∧
    (j.con ≠ none → ((s.lane k).brV = true ∨ (s.lane k).brI = true) → j.leaving = none → decided (.contractBreach l)) ∧
    (j.link = .hard 2 → s.rd F.LN_JML_HRST k < 3 → j.leaving = none → decided (.presenceTimeout l)) ∧
    (j.link = .hard 0 → ∃ u : State, exec (.hardResetDrive l) s = .next u ∧ u.jml k = { j with link := .hard 1 } ∧
      u.outs = [.pltLow k true] ∧ OnlyLane k s u ∧ Leaves [] [.outs, .lanes] s u) ∧
    (j.link = .hard 1 → ∃ u : State, exec (.hardResetRelease l) s = .next u ∧ u.jml k = { j with link := .hard 2 } ∧
      u.outs = [.pltLow k false] ∧ OnlyLane k s u ∧ Leaves [] [.outs, .lanes] s u) ∧
    (j.link = .hard 2 → 3 ≤ s.rd F.LN_JML_HRST k → ∃ u : State, exec (.presenceTimeout l) s = .next u.settle ∧ (u.jml k).link = .idle ∧
      Reported s u 0x0806 (srcLane k) 0 ∧ (u.lane k).moves = (s.lane k).moves ++ [.lostModule] ∧ OnlyLane k s u) ∧
    (j.link = .contactor → j.reneg = false → j.afterHard = false → s.laneState k = .negotiate → ∃ u : State,
      exec (.contactorTimeout l) s = .next u.settle ∧ (u.jml k).link = .idle ∧ (u.jml k).ask = none ∧
      (∃ p, (u.jml k).due = j.due ++ [⟨0x0D, p, none, false, false⟩]) ∧ Reported s u 0x0802 (srcLane k) 7 ∧
      (u.lane k).moves = (s.lane k).moves ++ [.entryFailed] ∧ OnlyLane k s u ∧ Leaves [.LN_JML, .SLV_EVT] [.outs, .lanes, .slv] s u)

/-- Identification (R247): the windows of Table 11-2 give the class; the fourth equal average of a class sets CLASS and lets the lane go on;
an open line starts over; a failed entry is taken up again after 1 s. -/
def identification : Prop :=
  (∀ mv : Nat, (1800 ≤ mv → mv ≤ 1834 → idClass mv = 1) ∧ (1617 ≤ mv → mv ≤ 1676 → idClass mv = 2) ∧
    (1328 ≤ mv → mv ≤ 1416 → idClass mv = 3) ∧ (947 ≤ mv → mv ≤ 1048 → idClass mv = 4) ∧ (594 ≤ mv → mv ≤ 682 → idClass mv = 5) ∧
    (330 ≤ mv → mv ≤ 390 → idClass mv = 6) ∧ (165 ≤ mv → mv ≤ 199 → idClass mv = 7) ∧ (1980 < mv → idClass mv = 0)) ∧
  (∀ (s : State) (l : Lane) (mv : BitVec 12),
    let k := l.val
    let j := s.jml k
    let c := idClass mv.toNat
    (j.link = .ident → j.idOff = false → 1 ≤ c → c ≤ 6 → j.idCls = c → 3 ≤ j.idRun → ∃ u : State, exec (.idAverage l mv) s = .next u ∧
      u.rd F.LN_JML_CLASS k = c ∧ (u.jml k).idOff = true ∧ (u.lane k).moves = (s.lane k).moves ++ [.identified] ∧
      u.reg .LN_JML k = F.LN_JML_CLASS.set c (s.reg .LN_JML k) ∧ OnlyAt .LN_JML k s u ∧ OnlyLane k s u ∧ Leaves [.LN_JML] [.outs, .lanes] s u) ∧
    (j.link = .ident → j.idOff = false → c = 0 → ∃ u : State, exec (.idAverage l mv) s = .next u ∧
      u.jml k = { j with idN := 0, idRun := 0, idCls := 0 } ∧ OnlyLane k s u ∧ Leaves [] [.outs, .lanes] s u) ∧
    (j.link = .ident → ∃ u : State, exec (.idRestart l) s = .next u ∧
      u.jml k = { j with idOff := false, idN := 0, idRun := 0, idCls := 0 } ∧ OnlyLane k s u ∧ Leaves [] [.outs, .lanes] s u))

/-! ### Segments, loops, the Shuttle, carriers, the Reed (chapters 4, 5, 6, 7, 10) -/

/-- SEGMENT_UPDATE: R234 forms I_bus; R99 moves the reference by at most the slew, applies a current inside the power limit and shows it;
R219 to R221: a waiting mode change takes effect in it. SEG_CAPACITY records 0x0308 after 1,000 limited updates (R100).
Model's readings: log entries 37, 39. -/
def segmentUpdates : Prop :=
  ∀ (s : State) (sg : Seg),
    let g := sg.val
    let x := s.seg g
    let iBus := if x.vBus < 1000 then 0
      else sat (-((s.lanesOfSeg g).map (fun l => (s.lane l).iSum * (s.lane l).vMod / x.vBus)).sum) 24
    (s.flag F.GLB_PWM_STAT_FREEZE = true → exec (.segmentUpdate sg) s = .next s.begin) ∧
    (s.flag F.GLB_PWM_STAT_FREEZE = false → x.pend = none → s.busForm g = false →
      ∃ u : State, exec (.segmentUpdate sg) s = .next u ∧
        u.seg g = { x with iBus := iBus, coefW := if x.coefPend then x.coefS else x.coefW, coefPend := false } ∧
        OnlySeg g s u ∧ Leaves [.BUS_COEF_SEL, .SLV_EVT] [.outs, .slv, .segs] s u) ∧
    (s.flag F.GLB_PWM_STAT_FREEZE = false → x.pend = none → s.busForm g = true →
      ∃ u : State, exec (.segmentUpdate sg) s = .next u.settle ∧ (u.seg g).iBus = iBus ∧
        (u.seg g).vTgt = (if x.slew = 0 then (x.cmdV : Int) else if x.vTgt < x.cmdV then min (x.cmdV : Int) (x.vTgt + x.slew)
          else max (x.cmdV : Int) (x.vTgt - x.slew)) ∧
        u.rdS F.BUS_LOOP_STAT_ISEG g = (u.seg g).iApp ∧ (x.vBus < 1000 → (u.seg g).iApp = 0) ∧
        ((∀ l ∈ s.lanesOfSeg g, 0 ≤ (s.lane l).vMod) → 1000 ≤ x.vBus → 0 < x.plim →
          ((u.seg g).iApp.natAbs : Int) ≤ (x.plim * 1000000 : Nat) / x.vBus) ∧
        (u.seg g).cap = (if u.flag F.BUS_LOOP_STAT_CAP_LIM g then (if x.cap < 1000 then x.cap + 1 else x.cap) else 0) ∧
        OnlySeg g s u ∧ OnlyAt .BUS_LOOP_STAT g s u ∧
        Leaves [.BUS_LOOP_STAT, .BUS_COEF_SEL, .SLV_EVT] [.outs, .slv, .segs] s u) ∧
    (∀ form, s.flag F.GLB_PWM_STAT_FREEZE = false → x.pend = some form →
      ∃ u : State, exec (.segmentUpdate sg) s = .next u.settle ∧ u.busForm g = form ∧ (u.seg g).pend = none ∧
        (form = true → (u.seg g).vTgt = x.vBus ∧ (u.seg g).cmdV = x.vBus.toNat ∧ (u.seg g).slew = 10 ∧ (u.seg g).droop = 0 ∧
          (u.seg g).plim = 0) ∧
        (form = false → u.holder g = 0 ∧ (u.seg g).iApp = 0 ∧ u.rd F.BUS_LOOP_STAT_ISEG g = 0 ∧
          ∀ l ∈ s.lanesOfSeg g, (u.lane l).target = some ⟨0, (s.lane l).segTgt⟩) ∧
        Recorded s u 0x0701 (srcSeg g) form.toNat ∧ (∀ w ∈ u.waits, w.wait ≠ .segMode g) ∧ OnlySeg g s u ∧
        Leaves ([.BUS_STAT, .BUS_LOOP_STAT, .BUS_COEF_SEL, .TRD_STAT] ++ endRegs) ([.waits, .segs, .lanes] ++ endParts) s u) ∧
    (x.cap = 1000 → ∃ u : State, exec (.segCapacity sg) s = .next u ∧ u.flag F.BUS_LOOP_STAT_CAP_EVT g = true ∧
      Reported s u 0x0308 (srcSeg g) 0 ∧
      u.seg g = { x with cap := 1001, alerts := if s.rdBit F.TRD_CFG_ALT_EN 0 then x.alerts ||| 1 else x.alerts } ∧
      OnlySeg g s u ∧ OnlyAt .BUS_LOOP_STAT g s u ∧ Leaves [.BUS_LOOP_STAT, .SLV_EVT] [.outs, .slv, .segs] s u) ∧
    (x.cap ≠ 1000 → exec (.segCapacity sg) s = .next s.begin)

/-- SHARING_COMPUTE (R225 to R228): a lane outside the sharing set weighs nothing, and the weights of a segment sum to 65536, or are all
zero, wherever no lane has a negative module voltage; nothing else changes. Model's readings: log entry 38. -/
def sharesSumToWhole : Prop :=
  ∀ (s : State) (sg : Seg), ∃ u : State, exec (.sharingCompute sg) s = .next u ∧
    (∀ l, u.lane l = { s.lane l with w := (u.lane l).w }) ∧
    (∀ l, l ∉ s.lanesOfSeg sg.val → u.lane l = s.lane l) ∧
    (∀ l ∈ s.lanesOfSeg sg.val, (s.inShare l = false ∨ (s.seg sg.val).vBus < 1000) → (u.lane l).w = 0) ∧
    ((∀ l ∈ s.lanesOfSeg sg.val, 0 ≤ (s.lane l).vMod) →
      ((s.lanesOfSeg sg.val).map (fun l => (u.lane l).w)).sum = 65536 ∨ ∀ l ∈ s.lanesOfSeg sg.val, (u.lane l).w = 0) ∧
    Leaves [] [.outs, .lanes] s u

/-- The sum of the references of a list of phases. -/
def refSum (s : State) (ps : List Nat) : Int := (ps.map (fun p => (s.ph p).iref)).sum

/-- The selection of R94: the reference a lane applies lies in the interval the ranks frame, which lies in the phase rating of rank 1;
and its division among phases loses nothing (R86). -/
def selectionIsFramed : Prop :=
  (∀ (s : State) (l n : Nat) (r : List (Option Int × Comp)) (t : Int),
    let k := s.pick l n r t
    k.frame.lo ≤ k.i ∧ k.i ≤ k.frame.hi ∧ k.i.natAbs ≤ s.rd F.LN_IPH_IPH_MAX l * n ∧
      (n ≤ 16 → k.win = 0 → k.i = t) ∧ k.win ≤ 7) ∧
  (∀ (i : Int) (p : Nat × Int) (ps : List (Nat × Int)),
    ((splitRef i (p :: ps)).map (fun q => q.2)).sum = i ∧ (splitRef i (p :: ps)).map (fun q => q.1) = (p :: ps).map (fun q => q.1))

/-- LANE_UPDATE (R88): none runs in debug freeze; a lane without loops applies nothing; a lane in RUN-FULL that the policy, the Shuttle and
the waiting state changes leave alone applies a reference inside its phase rating, shows it, and divides it among its phases. -/
def laneUpdates : Prop :=
  ∀ (s : State) (ln : Lane),
    let l := ln.val
    let x := s.lane l
    let quiet : Prop := s.flag F.GLB_PWM_STAT_FREEZE = false ∧ x.moves = [] ∧ x.lose = [] ∧ x.reform = false ∧ x.coefPend = []
    (s.flag F.GLB_PWM_STAT_FREEZE = true → exec (.laneUpdate ln) s = .next s.begin) ∧
    (quiet → s.laneState l = .ready ∨ s.laneState l = .detect ∨ s.laneState l = .negotiate ∨ s.laneState l = .faulted ∨ s.laneState l = .lost →
      ∃ u : State, exec (.laneUpdate ln) s = .next u.settle ∧ u.rd F.LN_LOOP_STAT_IREF l = 0 ∧ u.rd F.LN_LOOP_STAT_WIN l = 0 ∧
        (u.lane l).lo = 0 ∧ (u.lane l).hi = 0 ∧ (u.lane l).vBus = (s.seg (s.segOf l)).vBus ∧ (u.lane l).vLat = x.vMod ∧
        OnlyLane l s u ∧ OnlyAt .LN_LOOP_STAT l s u ∧ Leaves [.LN_LOOP_STAT, .SLV_EVT] [.outs, .slv, .lanes, .phases] s u) ∧
    (quiet → s.laneState l = .runFull → s.drivenOf l = x.order → x.order ≠ [] → x.order.Nodup → (∀ p ∈ x.order, p < 192) →
      s.flag F.LN_CTL_POLICY_EN l = false → (s.bay (bayOfLane l)).shuttle = none → s.flag F.BAY_SHTL_CFG_EN (bayOfLane l) = false →
      ∃ u : State, exec (.laneUpdate ln) s = .next u.settle ∧ u.laneState l = .runFull ∧
        (u.rdS F.LN_LOOP_STAT_IREF l).natAbs ≤ s.rd F.LN_IPH_IPH_MAX l * x.order.length ∧
        refSum u x.order = u.rdS F.LN_LOOP_STAT_IREF l ∧ (u.lane l).lo ≤ u.rdS F.LN_LOOP_STAT_IREF l ∧
        u.rdS F.LN_LOOP_STAT_IREF l ≤ (u.lane l).hi ∧ (u.lane l).vBus = (s.seg (s.segOf l)).vBus ∧
        OnlyLane l s u ∧ OnlyAt .LN_LOOP_STAT l s u ∧ Leaves [.LN_LOOP_STAT, .SLV_EVT] [.outs, .slv, .lanes, .phases] s u)

/-- PHASE_UPDATE (R54, R77 to R80), DUTY_SATURATED (R84), HEADROOM_LOST (R83). Model's readings: log entries 41, 148. -/
def phaseUpdates : Prop :=
  (∀ (s : State) (ph : Phase) (code : BitVec 12),
    let p := ph.val
    let x := s.ph p
    (s.laneOf p = none ∨ x.on = false ∨ s.flag F.GLB_PWM_STAT_FREEZE = true → exec (.phaseUpdate ph code) s = .next s.begin) ∧
    (∀ l, s.laneOf p = some l → x.on = true → s.flag F.GLB_PWM_STAT_FREEZE = false →
      let i := s.phaseCurrent code.toInt p
      (s.shuttled p = true → ∃ u : State, exec (.phaseUpdate ph code) s = .next u ∧ (u.ph p).i = i ∧ (u.ph p).duty = x.duty ∧
        (u.ph p).acc = x.acc ∧ OnlyPhase p s u ∧ Leaves [.SLV_EVT] [.outs, .slv, .phases] s u) ∧
      (s.shuttled p = false → ∃ u : State, exec (.phaseUpdate ph code) s = .next u ∧ (u.ph p).i = i ∧
        (s.clamps l).1 ≤ (u.ph p).duty ∧ ((u.ph p).duty : Int) ≤ max 0 (s.clamps l).2 ∧
        (u.flag F.PH_LOOP_DSAT p = false → (u.ph p).clamped = 0 ∧ ((u.ph p).duty : Int) =
          max 0 ((((s.lane l).ff : Int) * 65536 + x.kp * sat (x.iref - i) 24 + (u.ph p).acc) / 65536)) ∧
        (u.flag F.PH_LOOP_DSAT p = true → (u.ph p).clamped = if x.clamped < 256 then x.clamped + 1 else x.clamped) ∧
        OnlyPhase p s u ∧ OnlyAt .PH_LOOP p s u ∧ OnlyAt .LN_LOOP_STAT l s u ∧
        Leaves [.PH_LOOP, .LN_LOOP_STAT, .SLV_EVT] [.outs, .slv, .phases] s u)) ∧
    (x.clamped = 256 → ∃ u : State, exec (.dutySaturated ph) s = .next u ∧ Reported s u 0x0303 p 0 ∧
      u.ph p = { x with clamped := 257 } ∧ OnlyPhase p s u ∧ Leaves [.SLV_EVT] [.outs, .slv, .phases] s u) ∧
    (x.clamped ≠ 256 → exec (.dutySaturated ph) s = .next s.begin)) ∧
  (∀ (s : State) (ln : Lane),
    let l := ln.val
    (16 ≤ (s.lane l).head → s.flag F.LN_LOOP_STAT_HEADROOM l = false → (s.laneState l).inService = true → s.lnLatch l = false →
      ∃ u : State, exec (.headroomLost ln) s = .next u.settle ∧ u.lnLatch l = true ∧ u.flag F.LN_TRIP_RTR_SRC l = true ∧
        u.laneState l = .faulted ∧ Recorded s u 0x0304 (srcLane l) 0 ∧ Recorded s u 0x0102 (srcLane l) 1 ∧
        Recorded s u 0x0601 (srcLane l) 1 ∧ (∀ p ∈ s.phasesOf l, (u.ph p).on = false) ∧ OnlyAt .LN_TRIP l s u ∧
        Leaves (.LN_LOOP_STAT :: settleRegs) (.outs :: settleParts) s u) ∧
    ((s.lane l).head < 16 ∨ s.flag F.LN_LOOP_STAT_HEADROOM l = true → exec (.headroomLost ln) s = .next s.begin))

/-- The Shuttle: a granted sequence starts; at its landing the lane is handed back at the landing current, its completion shown against its
bound (R112, R116); a pending abort hands it back at I_now (R113). -/
def Obligations.ShuttleSequences : Prop :=
  ∀ (s : State) (bb : Bay),
    let b := bb.val
    (∃ u : State, exec (.shuttleSequenceStart bb) s = .next u ∧
      u.bay b = { s.bay b with shuttle := (s.bay b).shuttle.map (fun r => { r with started := true }) } ∧ OnlyBay b s u ∧
      Leaves [] [.outs, .bays] s u) ∧
    ((s.bay b).shuttle = none → exec (.shuttleHandback bb) s = .next s.begin ∧ exec (.shuttleAbort bb) s = .next s.begin) ∧
    (∀ r, (s.bay b).shuttle = some r → r.lane < 48 → s.drivenOf r.lane ≠ [] → (s.drivenOf r.lane).Nodup →
      (∀ p ∈ s.drivenOf r.lane, p < 192) → (s.drivenOf r.lane).length ≤ 16 →
      (r.started = true → r.aborts = none → ∃ u : State, exec (.shuttleHandback bb) s = .next u.settle ∧ (u.bay b).shuttle = none ∧
        u.flag F.BAY_SHTL_STAT_ACTIVE b = false ∧ refSum u (s.drivenOf r.lane) = r.iLand ∧
        u.rd F.LN_SHTL_STAT_TC r.lane = min r.tc 65535 ∧ u.rd F.LN_SHTL_STAT_TB r.lane = min r.tb 65535 ∧
        (∀ why, r.overWhy = some why → u.flag F.BAY_SHTL_STAT_OVER_EVT b = true ∧ Recorded s u 0x0310 (srcLane r.lane) why) ∧
        (r.overWhy = none → u.flag F.BAY_SHTL_STAT_OVER_EVT b = s.flag F.BAY_SHTL_STAT_OVER_EVT b) ∧
        (∀ p, (u.ph p).iref ≠ (s.ph p).iref → p ∈ s.drivenOf r.lane) ∧ OnlyBay b s u ∧
        Leaves [.LN_SHTL_STAT, .LN_LOOP_STAT, .BAY_SHTL_STAT, .SLV_EVT] [.outs, .slv, .bays, .phases] s u) ∧
      (∀ ta cause, r.aborts = some (ta, cause) → exec (.shuttleHandback bb) s = .next s.begin ∧
        ∃ u : State, exec (.shuttleAbort bb) s = .next u.settle ∧ (u.bay b).shuttle = none ∧ u.flag F.BAY_SHTL_STAT_ACTIVE b = false ∧
        u.flag F.BAY_SHTL_STAT_ABORT_EVT b = true ∧ refSum u (s.drivenOf r.lane) = r.iNow ta ∧
        (u.lane r.lane).iNow = some (r.iNow ta) ∧ Recorded s u 0x0312 (srcLane r.lane) cause ∧ OnlyLane r.lane s u ∧ OnlyBay b s u ∧
        Leaves [.LN_LOOP_STAT, .BAY_SHTL_STAT, .SLV_EVT] [.outs, .slv, .bays, .phases, .lanes] s u) ∧
      (r.aborts = none → exec (.shuttleAbort bb) s = .next s.begin))

/-- REF_BOUNDARY (R122, R124, R134): a cycle lasts PERIOD, or with dithering a period that differs from it by no more than the amplitude (and
one count, by the rounding of R134); a waiting PERIOD is taken up. CARRIER_START, GLIDE_STEP and PULSE_PERIOD act on their phase (R122,
R142, R154, R203, R215). Model's readings: log entries 42, 43, 64. -/
def Obligations.CarriersTurn : Prop :=
  (∀ s : State, ∃ u : State, exec .refBoundary s = .next u ∧ u.pwm.perPend = none ∧ u.pwm.refTb = s.tb ∧
    (s.flag F.GLB_PWM_SS_EN = false → s.flag F.GLB_PWM_SS_ACTIVE = false → u.rd F.GLB_PWM_STAT_TCUR = s.period) ∧
    (s.period ≤ 8000 → s.rd F.GLB_PWM_SS_DEPTH ≤ 8 →
      s.period ≤ u.rd F.GLB_PWM_STAT_TCUR + s.dither + 1 ∧ u.rd F.GLB_PWM_STAT_TCUR ≤ s.period + s.dither + 1) ∧
    (s.pwm.perPend = none → Leaves [.GLB_PWM_STAT, .GLB_PWM_SS] [.outs, .pwm] s u)) ∧
  (∀ (s : State) (ph : Phase),
    let p := ph.val
    let x := s.ph p
    let b := bayOfPhase p
    let y : PhaseSt := { x with ofs := (x.ofs + x.glide) % max 1 s.period, glide := 0, per := s.rd F.GLB_PWM_STAT_TCUR }
    let go : Prop := x.begins = true ∧ s.covered p = false ∧ s.flag F.BAY_PWM_CTL_PWM_EN b = true ∧ s.flag F.BAY_DL_STAT_DL_LOCK b = true ∧
      s.flag F.GLB_PWM_STAT_FREEZE = false
    (x.stops = true → ∃ u : State, exec (.carrierStart ph) s = .next u.settle ∧ (u.ph p).on = false ∧ (u.ph p).stops = false ∧
      (u.ph p).per = s.rd F.GLB_PWM_STAT_TCUR ∧ Leaves settleRegs settleParts s u) ∧
    (x.stops = false → go → ∃ u : State, exec (.carrierStart ph) s = .next u ∧ u.ph p = { y with on := true, begins := false } ∧
      OnlyPhase p s u ∧ Leaves [] [.outs, .phases] s u) ∧
    (x.stops = false → ¬go → ∃ u : State, exec (.carrierStart ph) s = .next u ∧ u.ph p = y ∧ OnlyPhase p s u ∧
      Leaves [] [.outs, .phases] s u) ∧
    (let move : Prop := x.on = true ∧ x.ofs ≠ x.ofsT ∧ (∀ l, s.laneOf p = some l → s.held l = false) ∧ x.glide = 0 ∧
        s.flag F.GLB_PWM_STAT_FREEZE = false
     let d := min ((x.ofsT + s.period - x.ofs) % max 1 s.period) (max 1 (s.period / 2 ^ s.rd F.REED_CFG_GSHIFT))
     (move → ∃ u : State, exec (.glideStep ph) s = .next u ∧ u.ph p = { x with glide := d, per := x.per + d } ∧ OnlyPhase p s u ∧
      Leaves [] [.outs, .phases] s u) ∧
     (¬move → exec (.glideStep ph) s = .next s.begin))) ∧
  (∀ (s : State) (ln : Lane) (p : Nat) (rest : List Nat),
    let l := ln.val
    let x := s.lane l
    let q := x.q + x.iSel
    let pi : Int := s.rd F.LN_PULSE_PULSE_I l * 250
    let n := s.rd F.LN_PULSE_BURST_ON l
    let start : Prop := x.burst = 0 ∧ (n : Int) * pi ≤ q.natAbs
    (s.laneState l ≠ .runPulse → exec (.pulsePeriod ln) s = .next s.begin) ∧
    (x.order = p :: rest → p < 192 → s.laneState l = .runPulse → s.flag F.GLB_PWM_STAT_FREEZE = false →
      ∃ u : State, exec (.pulsePeriod ln) s = .next u ∧
        (start → u.lane l = { x with ib := sgn1 q * pi, q := q - n * (sgn1 q * pi), burst := n - 1 }) ∧
        (¬start → x.burst = 0 → u.lane l = { x with ib := 0, q := q, burst := 0 }) ∧
        (¬start → x.burst ≠ 0 → u.lane l = { x with q := q, burst := x.burst - 1 }) ∧
        ((u.lane l).ib = 0 → (u.ph p).on = false ∧ (u.ph p).begins = false) ∧
        ((u.lane l).ib ≠ 0 → s.covered p = false → s.flag F.BAY_PWM_CTL_PWM_EN (bayOfPhase p) = true →
          (u.ph p).on = true ∧ (u.ph p).stops = false) ∧
        OnlyLane l s u ∧ OnlyPhase p s u ∧ Leaves [] [.outs, .lanes, .phases] s u))

/-- The Reed (R156, R160 to R162): requests wait per segment, the free engine takes the lowest and latches its inputs, and a plan that is
adopted places each pinned lane at its pin and every other lane at one of its candidates, and records 0x0401. -/
def Obligations.ReedPlans : Prop :=
  (∀ s : State,
    (s.rd F.REED_CFG_REPLAN = 0 → exec .reedReplan s = .next s.begin) ∧
    (s.rd F.REED_CFG_REPLAN ≠ 0 → ∃ u : State, exec .reedReplan s = .next u ∧
      (∀ g < 4, vget u.pwm.reedPend g 0 = if s.rdBit F.REED_CFG_PLAN_EN g then vget s.pwm.reedPend g 0 ||| 8 else vget s.pwm.reedPend g 0) ∧
      u.pwm.reed = s.pwm.reed ∧ Leaves [] [.outs, .pwm] s u) ∧
    (s.pwm.reed ≠ none ∨ s.flag F.GLB_PWM_STAT_FREEZE = true ∨ (∀ g < 4, vget s.pwm.reedPend g 0 = 0) →
      exec .reedPlanStart s = .next s.begin) ∧
    (∀ g < 4, s.pwm.reed = none → s.flag F.GLB_PWM_STAT_FREEZE = false → vget s.pwm.reedPend g 0 ≠ 0 → (∀ k < g, vget s.pwm.reedPend k 0 = 0) →
      ∃ u : State, exec .reedPlanStart s = .next u ∧
        (∃ r, u.pwm.reed = some r ∧ r.seg = g ∧ r.causes = vget s.pwm.reedPend g 0 ∧ r.vb = (s.seg g).vBus ∧
          ∀ a, a ∈ r.lanes ↔ a.l ∈ s.lanesOfSeg g ∧ (s.laneState a.l).planned = true ∧ a.nl = s.rd F.LN_STATE_N a.l ∧ a.nl ≠ 0 ∧
            a.il = s.rdS F.LN_LOOP_STAT_IREF a.l ∧ a.vm = (s.lane a.l).vMod) ∧
        (∀ k < 4, vget u.pwm.reedPend k 0 = if k = g then 0 else vget s.pwm.reedPend k 0) ∧ u.rd F.REED_STAT_CUR_SEG = g ∧
        Leaves [.REED_STAT] [.outs, .pwm] s u)) ∧
  (∀ (s : State) (r : ReedRun), s.pwm.reed = some r → r.seg < 4 → (∀ a ∈ r.lanes, a.l < 48) → (r.lanes.map (·.l)).Nodup →
    (r.causes ≠ 8 → ∃ u : State, exec .planAdopted s = .next u.settle ∧ u.pwm = { s.pwm with reed := none } ∧
      (∀ a ∈ r.lanes, s.flag F.LN_REED_PIN_EN a.l = true → u.rd F.LN_REED_BASE a.l = s.rd F.LN_REED_PIN_BASE a.l) ∧
      (∀ a ∈ r.lanes, s.flag F.LN_REED_PIN_EN a.l = false → u.rd F.LN_REED_BASE a.l < (64 + max 1 a.nl - 1) / max 1 a.nl) ∧
      (∀ l, (∀ a ∈ r.lanes, a.l ≠ l) → u.reg .LN_REED l = s.reg .LN_REED l) ∧
      Recorded s u 0x0401 (srcSeg r.seg) r.causes ∧ Leaves [.LN_REED, .REED_RIP, .REED_STAT, .SLV_EVT] [.outs, .slv, .phases, .pwm] s u) ∧
    (r.causes = 8 → s.reedPresent r * (1024 - s.rd F.REED_CFG_HYST) ≤ (s.reedPlan r).2 * 1024 →
      ∃ u : State, exec .planAdopted s = .next u ∧ u.pwm = { s.pwm with reed := none } ∧ Leaves [] [.outs, .pwm] s u)) ∧
  (∀ s : State, s.pwm.reed = none → exec .planAdopted s = .next s.begin)

/-! ### Samples (chapters 3 and 12) -/

/-- The converters (R57 to R60): a control-tap sample gives the module voltage and current of R288 and marks a saturated tap, with 0x020A
when a tap becomes so; a segment conversion gives the bus voltage of R60; a watch sample above its threshold quarantines and parks. -/
def convertersSample : Prop :=
  (∀ (s : State) (ln : Lane) (v i : BitVec 16),
    let l := ln.val
    let x := s.lane l
    let sv := decide (32767 ≤ v.toInt.natAbs)
    let si := decide (32767 ≤ i.toInt.natAbs)
    ∃ u : State, exec (.controlTapSample ln v i) s = .next u ∧ (u.lane l).vMod = s.tapVolt l v.toInt ∧
      (u.lane l).iShunt = s.tapAmp l i.toInt ∧ (u.lane l).vSat = sv ∧ (u.lane l).iSat = si ∧
      u.flag F.LN_SNS_STAT_TAP_V_SAT l = (s.flag F.LN_SNS_STAT_TAP_V_SAT l || sv) ∧
      u.flag F.LN_SNS_STAT_TAP_I_SAT l = (s.flag F.LN_SNS_STAT_TAP_I_SAT l || si) ∧
      (sv = true ∧ x.vSat = false ∨ si = true ∧ x.iSat = false → Reported s u 0x020A (srcLane l) 0) ∧
      (¬(sv = true ∧ x.vSat = false ∨ si = true ∧ x.iSat = false) → Unreported s u) ∧
      ((s.laneState l).running = true → s.flag F.BAY_XCHK_EN (bayOfLane l) = true → (u.lane l).xN = x.xN + 1 ∧
        (u.lane l).xSum = x.xSum + s.sumI l ∧ (u.lane l).xShunt = x.xShunt + s.tapAmp l i.toInt) ∧
      ((s.laneState l).running = false ∨ s.flag F.BAY_XCHK_EN (bayOfLane l) = false → (u.lane l).xN = 0 ∧ (u.lane l).xSum = 0) ∧
      OnlyLane l s u ∧ OnlyAt .LN_SNS_STAT l s u ∧ Leaves [.LN_SNS_STAT, .SLV_EVT] [.outs, .slv, .lanes, .tenants] s u) ∧
  (∀ (s : State) (sg : Seg) (code : BitVec 12),
    let g := sg.val
    let c := code.toNat
    ∃ u : State, exec (.segmentSarConversion sg code) s = .next u ∧
      (u.seg g).vBus = (c * s.rd F.BUS_VSCALE_SCALE g / 65536 : Nat) ∧ (u.seg g).code = c ∧
      u.flag F.BUS_VSCALE_SAR_SAT g = (s.flag F.BUS_VSCALE_SAR_SAT g || c == 0 || c == 4095) ∧
      ((c = 0 ∨ c = 4095) → (s.seg g).sat = false → Reported s u 0x0209 (srcSeg g) 0) ∧
      (c ≠ 0 ∧ c ≠ 4095 ∨ (s.seg g).sat = true → Unreported s u) ∧ OnlySeg g s u ∧ OnlyAt .BUS_VSCALE g s u ∧
      Leaves [.BUS_VSCALE, .SLV_EVT] [.outs, .slv, .segs, .lanes, .tenants] s u) ∧
  (∀ (s : State) (ph : Phase) (code : BitVec 12),
    let p := ph.val
    let isOver : Prop := s.watchedPh p = true ∧ s.rd F.BAY_WATCH_WATCH_THR (bayOfPhase p) < (s.phaseCurrent code.toInt p).natAbs
    (¬isOver → exec (.watchSample ph code) s = .next s.begin) ∧
    (isOver → ∃ u : State, exec (.watchSample ph code) s = .next u.settle ∧ u.quarPh p = true ∧
      Recorded s u (if s.quarPh p then 0x0206 else 0x0207) p 0 ∧
      (∀ l, s.laneOf p = some l → s.laneState l ≠ .faulted → u.laneState l = .park) ∧ Leaves settleRegs settleParts s u))

/-- METER_SAMPLE (R284 to R296): a sample of the filter that supplies, in range, adds its energy, charge and time to the counters of the
lane and of its segment, each saturating; an over-range one adds its energy to the unaccounted counter and records it.
Model's readings: log entry 85. -/
def meterSamples : Prop :=
  ∀ (s : State) (ln : Lane) (cv ci : BitVec 24) (ovrV ovrI : Bool) (elapsed : Nat),
    let l := ln.val
    let g := s.segOf l
    let m := s.meter l
    let (v, i, p) := s.scale l cv.toInt ci.toInt
    let isOver := ovrV || ovrI || clipped cv.toInt || clipped ci.toInt
    let d := if m.counted then min elapsed (s.rd F.MTR_TAP_OSR_N l) else s.rd F.MTR_TAP_OSR_N l
    let e := p.natAbs * d
    let adds := fun (u : State) (c n : Nat) (on : Bool) =>
      (u.ctr c).acc = if on then min ((s.ctr c).acc + n) (2 ^ 96 - 1) else (s.ctr c).acc
    (s.configured l = false → ∀ alt, exec (.meterSample ln alt cv ci ovrV ovrI elapsed) s = .next s.begin) ∧
    (s.rd F.MTR_STAT_MODE_NOW l = 0 → exec (.meterSample ln true cv ci ovrV ovrI elapsed) s = .next s.begin) ∧
    (s.configured l = true → s.acct l = true → m.calib = none → s.rd F.MTR_STAT_MODE_NOW l = 0 → isOver = false →
      ∃ u : State, exec (.meterSample ln false cv ci ovrV ovrI elapsed) s = .next u.settle ∧
        adds u (6 * l) e (decide (0 < p)) ∧ adds u (6 * l + 1) e (decide (p < 0)) ∧ adds u (6 * l + 2) (i.natAbs * d) (decide (0 < i)) ∧
        adds u (6 * l + 3) (i.natAbs * d) (decide (i < 0)) ∧ adds u (6 * l + 4) 0 false ∧ adds u (6 * l + 5) d (s.laneState l).inService ∧
        adds u (290 + 2 * g) e (decide (0 < p)) ∧ adds u (291 + 2 * g) e (decide (p < 0)) ∧
        (∀ c, c / 6 ≠ l → c ≠ 290 + 2 * g → c ≠ 291 + 2 * g → u.ctr c = s.ctr c) ∧
        (u.meter l).counted = true ∧ (u.meter l).trkEmpty = false ∧
        (u.meter l).vMax = (if m.trkEmpty then v / 256 else max m.vMax (v / 256)) ∧
        (u.meter l).vMin = (if m.trkEmpty then v / 256 else min m.vMin (v / 256)) ∧ OnlyMeter l s u ∧
        Leaves [.MTR_STAT, .SLV_EVT, .HST_LINK_A, .HST_LINK_B, .HST_CQ_STAT] [.outs, .slv, .nvm, .meters, .tenants] s u) ∧
    (s.configured l = true → s.acct l = true → m.calib = none → s.rd F.MTR_STAT_MODE_NOW l = 0 → isOver = true → m.isOver = false →
      ∃ u : State, exec (.meterSample ln false cv ci ovrV ovrI elapsed) s = .next u.settle ∧
        adds u (6 * l + 4) e true ∧ adds u (6 * l) 0 false ∧ adds u (6 * l + 1) 0 false ∧
        u.flag F.MTR_STAT_OVR_EVT l = true ∧ (u.meter l).trkOver = true ∧ (u.meter l).isOver = true ∧
        Recorded s u 0x0903 (srcLane l) ((ovrV || clipped cv.toInt).toNat + 2 * (ovrI || clipped ci.toInt).toNat) ∧
        (s.flag F.MTR_CFG_REC_EN l = true → u.rd F.MTR_STAT_MODE_NOW l = 3) ∧ OnlyMeter l s u ∧
        Leaves [.MTR_STAT, .MTR_TAP, .SLV_EVT, .HST_LINK_A, .HST_LINK_B, .HST_CQ_STAT] [.outs, .slv, .nvm, .meters, .tenants] s u) ∧
    (s.configured l = true → m.calib = none → (s.rd F.MTR_STAT_MODE_NOW l = 1 ∨ s.rd F.MTR_STAT_MODE_NOW l = 3) → isOver = false →
      ∃ u : State, exec (.meterSample ln false cv ci ovrV ovrI elapsed) s = .next u.settle ∧ u.rd F.MTR_STAT_MODE_NOW l = 0 ∧
        OnlyMeter l s u)

/-- XCHK_WINDOW (R71, R72): the difference of the mean sensed and metered currents is shown in units of 10 mA; COUNT failing windows in a
row set XMIS with 0x0203 and 0x0505, COUNT passing ones clear it; a window a state change or the Shuttle spoiled is left out.
Model's readings: log entry 30. -/
def crossChecks : Prop :=
  ∀ (s : State) (ln : Lane),
    let l := ln.val
    let b := bayOfLane l
    let x := s.lane l
    let ih := x.xShunt / x.xN
    let d := x.xSum / x.xN - ih
    let lim := max (s.rd F.BAY_XCHK_ABS b) (s.rd F.BAY_XCHK_REL b * ih.natAbs / 256)
    let ready : Prop := (s.laneState l).running = true ∧ s.flag F.BAY_XCHK_EN b = true ∧ 1024 ≤ x.xN
    let clean : Prop := x.xBad = false ∧ s.held l = false
    (¬ready → exec (.xchkWindow ln) s = .next s.begin) ∧
    (ready → ¬clean → ∃ u : State, exec (.xchkWindow ln) s = .next u ∧
      u.lane l = { x with xSum := 0, xShunt := 0, xN := 0, xBad := false } ∧ OnlyLane l s u ∧ Leaves [] [.outs, .lanes] s u) ∧
    (ready → clean → d.natAbs ≤ lim → s.flag F.LN_SNS_STAT_XMIS l = false → ∃ u : State, exec (.xchkWindow ln) s = .next u ∧
      u.lane l = { x with xSum := 0, xShunt := 0, xN := 0, xBad := false, xFail := 0, xPass := min (x.xPass + 1) 255 } ∧
      u.rdS F.LN_SNS_STAT_XDIFF l = sat (d / 10) 16 ∧ OnlyLane l s u ∧ OnlyAt .LN_SNS_STAT l s u ∧
      Leaves [.LN_SNS_STAT] [.outs, .lanes] s u) ∧
    (ready → clean → d.natAbs ≤ lim → s.flag F.LN_SNS_STAT_XMIS l = true → s.rd F.BAY_XCHK_COUNT b ≤ x.xPass + 1 →
      s.rd F.BAY_XCHK_COUNT b ≤ 255 → ∃ u : State, exec (.xchkWindow ln) s = .next u.settle ∧ u.flag F.LN_SNS_STAT_XMIS l = false ∧
      u.flag F.LN_WARP_STAT_SUSP l = false ∧ OnlyLane l s u ∧ Leaves [.LN_SNS_STAT, .LN_WARP_STAT] [.outs, .lanes] s u) ∧
    (ready → clean → lim < d.natAbs → s.flag F.LN_SNS_STAT_XMIS l = false → s.rd F.BAY_XCHK_COUNT b ≤ x.xFail + 1 →
      s.rd F.BAY_XCHK_COUNT b ≤ 255 → s.flag F.BAY_XCHK_TRIP b = false → ∃ u : State, exec (.xchkWindow ln) s = .next u.settle ∧
      u.flag F.LN_SNS_STAT_XMIS l = true ∧ u.flag F.LN_SNS_STAT_XMIS_EVT l = true ∧ u.flag F.LN_WARP_STAT_SUSP l = true ∧
      Recorded s u 0x0203 (srcLane l) 0 ∧ Recorded s u 0x0505 (srcLane l) 0 ∧ OnlyLane l s u ∧
      Leaves [.LN_SNS_STAT, .LN_WARP_STAT, .SLV_EVT] [.outs, .slv, .lanes] s u) ∧
    (ready → clean → lim < d.natAbs → s.flag F.LN_SNS_STAT_XMIS l = false → s.rd F.BAY_XCHK_COUNT b ≤ x.xFail + 1 →
      s.rd F.BAY_XCHK_COUNT b ≤ 255 → s.flag F.BAY_XCHK_TRIP b = true → ∃ u : State, exec (.xchkWindow ln) s = .next u.settle ∧
      u.flag F.LN_SNS_STAT_XMIS l = true ∧ u.lnLatch l = true ∧ Recorded s u 0x0203 (srcLane l) 0)

/-! ### The lane machine (chapter 9) -/

/-- PRESTART_END (R200): a check that fails ends the start with 0x0603; one that passes queues the lane for the token.
Model's readings: log entry 55. -/
def prestartEnds : Prop :=
  ∀ (s : State) (ln : Lane),
    let l := ln.val
    ((s.lane l).prestart = none → exec (.prestartEnd ln) s = .next s.begin) ∧
    (∀ q, (s.lane l).prestart = some q →
      (q.n ≠ 0 → 500 * q.n < q.sumI.natAbs → s.checkFails l q = some 1) ∧
      (s.checkFails l q = none → q.n ≠ 0 → q.sumI.natAbs ≤ 500 * q.n ∧ ∀ p ∈ (s.lane l).order, s.phLatch p = false) ∧
      (∀ k, s.checkFails l q = some k → ∃ u : State, exec (.prestartEnd ln) s = .next u ∧ u.flag F.LN_STATE_PRESTART l = false ∧
        u.flag F.LN_STATE_PARK_SRC l = false ∧ u.laneState l = s.laneState l ∧ (u.lane l).prestart = none ∧
        Recorded s u 0x0603 (srcLane l) k ∧ (∀ w ∈ u.waits, w.wait ≠ .rampEntered l) ∧ OnlyLane l s u ∧ OnlyAt .LN_STATE l s u ∧
        Leaves (.LN_STATE :: endRegs) ([.waits, .lanes, .pwm] ++ endParts) s u) ∧
      (s.checkFails l q = none → s.tokenQ.length < 48 → ∃ u : State, exec (.prestartEnd ln) s = .next u ∧
        u.tokenQ = (if s.tokenQ.contains l then s.tokenQ else s.tokenQ ++ [l]) ∧ u.flag F.LN_STATE_TOKEN_WAIT l = true ∧
        u.flag F.LN_STATE_PRESTART l = false ∧ u.rd F.GLB_START_QLEN = u.tokenQ.length ∧
        u.lane l = { s.lane l with prestart := none } ∧ OnlyLane l s u ∧ OnlyAt .LN_STATE l s u ∧
        Leaves [.LN_STATE, .GLB_START] [.outs, .lanes, .tokenQ] s u))

/-- START_TOKEN_GRANT (R201, R202): no grant comes within START_GAP of the last; the first lane of the queue that may start enters RAMP,
its whole driving order begins, and its LANE_ARM completes. PARK_RAMP_END stops the phases of a park ramp (R203).
Model's readings: log entries 44, 46. -/
def startsAndParks : Prop :=
  (∀ s : State,
    ((∃ t, s.lastGrant = some t ∧ s.tb < t + 200 * s.rd F.GLB_START_START_GAP) ∨ s.flag F.GLB_PWM_STAT_FREEZE = true ∨
      s.tokenQ.find? s.mayGrant = none → exec .startTokenGrant s = .next s.begin) ∧
    (∀ l < 48, (∀ t, s.lastGrant = some t → t + 200 * s.rd F.GLB_START_START_GAP ≤ s.tb) → s.flag F.GLB_PWM_STAT_FREEZE = false →
      s.tokenQ.find? s.mayGrant = some l → ∃ u : State, exec .startTokenGrant s = .next u.settle ∧ u.laneState l = .ramp ∧
        u.tokenQ = s.tokenQ.filter (· != l) ∧ u.lastGrant = some s.tb ∧ u.rd F.GLB_START_LAST = l ∧
        u.flag F.LN_STATE_TOKEN_WAIT l = false ∧ u.rd F.LN_LOOP_STAT_IREF l = 0 ∧
        (∀ p ∈ (s.lane l).order, p < 192 → (u.ph p).on = true ∨ (u.ph p).begins = true) ∧ (∀ w ∈ u.waits, w.wait ≠ .rampEntered l) ∧
        OnlyAt .LN_STATE l s u ∧ OnlyLane l s u ∧ Leaves settleRegs (.lastGrant :: settleParts) s u)) ∧
  (∀ (s : State) (ln : Lane),
    let l := ln.val
    (s.flag F.LN_STATE_PARKING l = false ∨ s.laneState l ≠ .park → exec (.parkRampEnd ln) s = .next s.begin) ∧
    (s.flag F.LN_STATE_PARKING l = true → s.laneState l = .park → ∃ u : State, exec (.parkRampEnd ln) s = .next u.settle ∧
      u.laneState l = .park ∧ (∀ p ∈ s.phasesOf l, (u.ph p).begins = false ∧ (u.ph p).stops = (s.ph p).on ∧ (u.ph p).on = (s.ph p).on) ∧
      ((∀ p ∈ s.phasesOf l, (s.ph p).on = false) → u.flag F.LN_STATE_PARKING l = false) ∧
      ((∃ p ∈ s.phasesOf l, (s.ph p).on = true) → u.flag F.LN_STATE_PARKING l = true) ∧ Leaves settleRegs settleParts s u))

/-- POLICY_MOVE (R213, R214): a lane whose dwell has been reached moves to the candidate, unless a move is barred; a candidate that leaves
PARK begins the pre-start check. Model's readings: log entry 59. -/
def policyMoves : Prop :=
  ∀ (s : State) (ln : Lane),
    let l := ln.val
    let st := s.laneState l
    ((s.lane l).due = none ∨ s.moveBarred l false = true → exec (.policyMove ln) s = .next s.begin) ∧
    (∀ c, (s.lane l).due = some c → s.moveBarred l false = false → ∃ u : State, exec (.policyMove ln) s = .next u.settle ∧
      (u.lane l).due = none ∧ (u.lane l).dwell = 0 ∧
      (st ≠ .park → u.laneState l = (match c with
        | .run m => if (s.lane l).order.length ≤ m then .runFull else .runShed
        | .pulse => .runPulse
        | .hold => .hold
        | .park => .park)) ∧
      (st ≠ .park → c = .park → u.flag F.LN_STATE_PARK_SRC l = true) ∧
      (st = .park → u.laneState l = .park) ∧
      (st = .park → c ≠ .park → s.flag F.LN_STATE_PRESTART l = false → s.flag F.LN_STATE_TOKEN_WAIT l = false →
        u.flag F.LN_STATE_PRESTART l = true ∧ (u.lane l).prestart = some ⟨0, 0, 0, 0, 0⟩) ∧
      OnlyAt .LN_STATE l s u ∧ Leaves settleRegs settleParts s u)

/-- HEARTBEAT_LAPSED (R469, R208): a tenant that owns lanes and has not been seen lapses, with 0x0E04, and each of its lanes in service takes
its fallback: it holds, it goes to 0, or it parks. Model's readings: log entries 58, 63. -/
def heartbeatsLapse : Prop :=
  ∀ (s : State) (t : HostT),
    let own := (List.range 48).filter (fun l => (s.lane l).owner = some t.val)
    ((s.tenant t.val).hbStart = none ∨ own = [] ∨ s.rdBit F.SEC_TFLAGS_LAPSED t.val = true → exec (.heartbeatLapsed t) s = .next s.begin) ∧
    ((s.tenant t.val).hbStart ≠ none → own ≠ [] → s.rdBit F.SEC_TFLAGS_LAPSED t.val = false →
      ∃ u : State, exec (.heartbeatLapsed t) s = .next u.settle ∧ u.rdBit F.SEC_TFLAGS_LAPSED t.val = true ∧
        Recorded s u 0x0E04 (srcTenant t.val) own.length ∧
        (∀ l ∈ own, (s.laneState l).inService = true →
          (s.rd F.LN_CTL_FALLBACK l = 0 → u.flag F.LN_STATE_FB_ACTIVE l = true ∧ u.laneState l = s.laneState l ∧
            (u.lane l).target = (s.lane l).target) ∧
          (s.rd F.LN_CTL_FALLBACK l = 1 → u.flag F.LN_STATE_FB_ACTIVE l = true ∧ (u.lane l).fbRamp = true) ∧
          (s.rd F.LN_CTL_FALLBACK l = 2 → u.laneState l = .park)) ∧
        (∀ l, l ∉ own → (u.lane l).target = (s.lane l).target ∧ u.laneState l = s.laneState l) ∧
        Leaves settleRegs settleParts s u)

/-! ### Warping (chapter 8), the Heddle (chapter 2), coefficient commits -/

/-- SURVEY_START and SURVEY_STEP (R170 to R178, R188): the first survey whose conditions hold leaves its bay's queue; a step whose checks
fail ends the survey, one that passes goes on; a survey that has ended, or falls to zero, takes no step.
Model's readings: log entries 48, 50, 51. -/
def surveysStep : Prop :=
  (∀ (s : State) (bb : Bay),
    let b := bb.val
    ((s.bay b).survey ≠ none ∨ (s.bay b).warpQ.find? (fun r => s.mayStart r.lane) = none → exec (.surveyStart bb) s = .next s.begin) ∧
    (∀ r, (s.bay b).survey = none → (s.bay b).warpQ.find? (fun r => s.mayStart r.lane) = some r → r.lane < 48 →
      (r.kind = .loaded → s.flag F.LN_SNS_STAT_XMIS r.lane = false) →
      ∃ u : State, exec (.surveyStart bb) s = .next u ∧ (u.bay b).survey = some (s.newSurvey r.lane r.kind) ∧
        (u.bay b).warpQ = (s.bay b).warpQ.erase r ∧ u.rd F.LN_WARP_STAT_STEP r.lane = (if r.kind = .loaded then 5 else 1) ∧
        OnlyBay b s u ∧ OnlyAt .LN_WARP_STAT r.lane s u ∧
        Leaves [.LN_WARP_STAT, .LN_STATE, .HST_LINK_A, .HST_LINK_B, .HST_CQ_STAT] [.outs, .tenants, .lanes, .bays, .pwm] s u)) ∧
  (∀ (s : State) (bb : Bay) (vals : List Int),
    let b := bb.val
    ((s.bay b).survey = none → exec (.surveyStep bb vals) s = .next s.begin) ∧
    (∀ v, (s.bay b).survey = some v → v.ended = true ∨ v.ramp = true → exec (.surveyStep bb vals) s = .next s.begin) ∧
    (∀ v, (s.bay b).survey = some v → v.ended = false → v.ramp = false → v.lane < 48 →
      (v.kind ≠ .loaded → v.step = 0 → 500 < (vals.getD 0 0).natAbs → ∃ (u : State) (w : Survey),
        exec (.surveyStep bb vals) s = .next u ∧ (u.bay b).survey = some w ∧ w.ended = true ∧ (1, 0) ∈ w.fails ∧
        u.rd F.LN_WARP_STAT_STEP v.lane = 4 ∧ OnlyBay b s u) ∧
      (v.kind = .entry ∨ v.kind = .re → v.step = 0 → v.phases ≠ [] → (vals.getD 0 0).natAbs ≤ 500 →
        1000 ≤ vals.getD 1 0 → vals.getD 1 0 + 1000 ≤ vals.getD 2 0 → vals.getD 1 0 * 65536 ≤ (s.clamps v.lane).2 * vals.getD 2 0 →
        s.vLo v.lane = none → s.vHi v.lane = none → ∃ (u : State) (w : Survey),
        exec (.surveyStep bb vals) s = .next u ∧ (u.bay b).survey = some w ∧ w.step = 1 ∧ w.ended = false ∧ w.fails = [] ∧
        w.vm = vals.getD 1 0 ∧ w.vb = vals.getD 2 0 ∧ w.up = true ∧ w.phases.length = v.phases.length ∧
        u.rd F.LN_WARP_STAT_STEP v.lane = 2 ∧ OnlyBay b s u ∧
        Leaves [.LN_WARP_STAT, .LN_STATE, .HST_LINK_A, .HST_LINK_B, .HST_CQ_STAT] [.outs, .tenants, .lanes, .bays, .pwm] s u) ∧
      (∀ x, v.kind ≠ .loaded → 1 ≤ v.step → v.step < v.pulses * v.phases.length → v.phases[(v.step - 1) / v.pulses]? = some x →
        x.pulses + 1 ≠ v.pulses → ∃ (u : State) (w : Survey) (y : SvPhase), exec (.surveyStep bb vals) s = .next u ∧
        (u.bay b).survey = some w ∧ w.step = v.step + 1 ∧ w.phases[(v.step - 1) / v.pulses]? = some y ∧ y.p = x.p ∧
        y.pulses = x.pulses + 1 ∧
        (y.wired = true ↔ x.wired = true ∧ 0 < vals.getD 4 0 * vals.getD 5 0 ∧ (vals.getD 4 0).natAbs ≤ 2 * (vals.getD 5 0).natAbs) ∧
        OnlyBay b s u ∧ Leaves [] [.free, .outs, .bays] s u) ∧
      (v.kind = .loaded → v.step ≠ 0 → ∃ (u : State) (w : Survey), exec (.surveyStep bb vals) s = .next u ∧
        (u.bay b).survey = some w ∧ w.ended = true ∧ w.level = 0 ∧ u.rd F.LN_WARP_STAT_STEP v.lane = 4 ∧ OnlyBay b s u)))

/-- SURVEY_DONE (R185, R186): an entry survey that passes gives its coefficients, ratios and trims, sets VALID and takes its lane to READY;
one that fails writes its least failure and nothing else, and a full survey's lane enters FAULTED. -/
def surveysEnd : Prop :=
  ∀ (s : State) (bb : Bay),
    let b := bb.val
    ((s.bay b).survey = none → exec (.surveyDone bb) s = .next s.begin) ∧
    (∀ v, (s.bay b).survey = some v → (v.ended = false ∨ ∃ p, v.kind = .readmit p) → exec (.surveyDone bb) s = .next s.begin) ∧
    (∀ v w, (s.bay b).survey = some v → v.ended = true → v.kind = .entry → v.lane < 48 → bayOfLane v.lane = b →
      v.fails = [] → v.lnom ≠ 0 → v.lnom < 65536 → v.phaseFails (s.lane v.lane).order v.lnom = [] → s.synthesise v v.lnom = some w →
      (v.phases.map (·.p)).Nodup → (∀ x ∈ v.phases, x.p < 192) →
      ∃ u : State, exec (.surveyDone bb) s = .next u.settle ∧ u.flag F.LN_WARP_STAT_VALID v.lane = true ∧
        u.rd F.LN_WARP_STAT_RESULT v.lane = 0 ∧ u.rd F.LN_WARP_STAT_STEP v.lane = 0 ∧ u.flag F.LN_WARP_STAT_RUNNING v.lane = false ∧
        u.rd F.LN_SHTL_CFG_LNOM v.lane = v.lnom ∧ (u.lane v.lane).kp = w.kp ∧ (u.lane v.lane).ki = w.ki ∧
        (∀ x ∈ v.phases, u.rd F.PH_LOOP_LRATIO x.p = ratioClamp (ratioOf x.l v.lnom) ∧ u.rd F.PH_WARP_LSURV x.p = x.l.toNat ∧
          u.rdS F.PH_ISNCAL_OFS x.p = x.ofs ∧ u.rdS F.PH_ISNCAL_GAIN x.p = x.gain) ∧
        u.laneState v.lane = .ready ∧ (∀ e ∈ u.waits, e.wait ≠ .surveyEnd v.lane) ∧
        (∀ p, (∀ x ∈ v.phases, x.p ≠ p) → u.reg .PH_ISNCAL p = s.reg .PH_ISNCAL p ∧ u.reg .PH_LOOP p = s.reg .PH_LOOP p) ∧
        Leaves ([.PH_ISNCAL, .PH_LOOP, .PH_WARP, .LN_SHTL_CFG] ++ settleRegs) settleParts s u) ∧
    (∀ v, (s.bay b).survey = some v → v.ended = true → (v.kind = .entry ∨ v.kind = .re) → v.lane < 48 → bayOfLane v.lane = b →
      v.fails = [(1, 0)] → s.laneState v.lane = .warping →
      ∃ u : State, exec (.surveyDone bb) s = .next u.settle ∧ u.rd F.LN_WARP_STAT_RESULT v.lane = 1 ∧
        u.flag F.LN_WARP_STAT_VALID v.lane = false ∧ Recorded s u 0x0503 (srcLane v.lane) 1 ∧ u.laneState v.lane = .faulted ∧
        u.rd F.LN_STATE_FCAUSE v.lane = 4 ∧ (u.lane v.lane).coefW = (s.lane v.lane).coefW ∧
        (∀ e ∈ u.waits, e.wait ≠ .surveyEnd v.lane) ∧ Leaves settleRegs settleParts s u)

/-- READMIT_PASSED (R193): a check that passes clears the quarantine of its phase; one that fails leaves it, and each ends its command.
ADAPT_ESTIMATE (R189 to R191): LTRACK takes a sixteenth of the estimate's distance, and freezes past a quarter of LSURV.
Model's readings: log entry 49. -/
def checksAndAdaptation : Prop :=
  (∀ (s : State) (bb : Bay) (v : Survey) (p : Nat) (x : SvPhase) (rest : List SvPhase), (s.bay bb.val).survey = some v →
    v.kind = .readmit p → v.phases = x :: rest → v.ended = true → v.lane < 48 → p < 192 →
    (s.readmitCode v ≠ 0 → ∃ u : State, exec (.readmitPassed bb) s = .next u ∧ u.quarPh p = s.quarPh p ∧
      Recorded s u 0x0508 p (s.readmitCode v) ∧ u.flag F.LN_WARP_STAT_RUNNING v.lane = false ∧
      (∀ e ∈ u.waits, e.wait ≠ .readmitEnd p) ∧ OnlyAt .LN_WARP_STAT v.lane s u ∧
      Leaves (.LN_WARP_STAT :: endRegs) ([.waits, .lanes, .bays] ++ endParts) s u) ∧
    (s.readmitCode v = 0 → x.p = p → ∃ u : State, exec (.readmitPassed bb) s = .next u.settle ∧ u.quarPh p = false ∧
      Recorded s u 0x0507 p 0 ∧ u.flag F.LN_WARP_STAT_RUNNING v.lane = false ∧ (u.ph p).surveyed = true ∧
      (s.laneState v.lane ≠ .faulted → (u.lane v.lane).reform = true) ∧ (∀ e ∈ u.waits, e.wait ≠ .readmitEnd p) ∧
      OnlyAt .PH_LOOP p s u ∧ OnlyAt .PH_ISNCAL p s u ∧ OnlyAt .PH_WARP p s u ∧
      Leaves ([.LN_WARP_STAT, .PH_ISNCAL, .PH_LOOP, .PH_WARP, .BAY_PHASE_SVC] ++ endRegs) ([.waits, .lanes, .bays, .phases] ++ endParts) s u)) ∧
  (∀ (s : State) (ph : Phase) (high : Bool) (dt : Nat) (di : Int),
    let p := ph.val
    let tracked : Nat → Prop := fun l => s.laneOf p = some l ∧ s.flag F.BAY_WARP_CFG_TRACK_EN (bayOfLane l) = true ∧ s.driven p = true ∧
      (s.laneState l = .runFull ∨ s.laneState l = .runShed) ∧ s.held l = false ∧ s.flag F.LN_WARP_STAT_SUSP l = false
    ((∀ l, ¬tracked l) → exec (.adaptEstimate ph high dt di) s = .next s.begin) ∧
    (∀ l, tracked l → di ≠ 0 →
      let x := s.lane l
      let m : Int := 5 * (if high then x.vBus - x.vLat else x.vLat) * dt / (2 * di.natAbs)
      let lf0 : Int := s.rd F.PH_WARP_LTRACK p
      let lf := clampI (lf0 + (m - lf0) / 16) 0 65535
      let ls : Int := s.rd F.PH_WARP_LSURV p
      (s.rdBit F.LN_WARP_STAT_FROZEN (p % 16) l = true → ∃ u : State, exec (.adaptEstimate ph high dt di) s = .next u ∧
        u.rd F.PH_WARP_LTRACK p = lf.toNat ∧ OnlyAt .PH_WARP p s u ∧ Leaves [.PH_WARP] [.outs] s u) ∧
      (s.rdBit F.LN_WARP_STAT_FROZEN (p % 16) l = false → ls < 4 * ((lf - ls).natAbs : Int) → ∃ u : State,
        exec (.adaptEstimate ph high dt di) s = .next u.settle ∧ u.rd F.PH_WARP_LTRACK p = lf.toNat ∧
        u.rdBit F.LN_WARP_STAT_FROZEN (p % 16) l = true ∧ Reported s u 0x0504 p 0 ∧ OnlyAt .PH_WARP p s u ∧ OnlyAt .LN_WARP_STAT l s u ∧
        Leaves [.PH_WARP, .LN_WARP_STAT, .SLV_EVT] [.outs, .slv] s u) ∧
      (s.rdBit F.LN_WARP_STAT_FROZEN (p % 16) l = false → 4 * ((lf - ls).natAbs : Int) ≤ ls →
        ∃ u : State, exec (.adaptEstimate ph high dt di) s = .next u ∧ u.rd F.PH_WARP_LTRACK p = lf.toNat ∧ OnlyAt .PH_WARP p s u ∧
        OnlyAt .PH_LOOP p s u ∧ OnlyPhase p s u ∧ Leaves [.PH_WARP, .PH_LOOP, .SLV_EVT] [.outs, .slv, .phases] s u)))

/-- The Heddle (R45 to R48): COMMIT takes the shadow's snapshot, or is refused while one runs; a commit that fails a condition of Table 2-1
changes no entry; one that passes makes the snapshot active and leaves every lane outside OFF its phases.
Model's readings: log entries 28, 29. -/
def Obligations.HeddleCommits : Prop :=
  (∀ (s : State) (bb : Bay) (w : BusWrite), s.MayWrite w →
    let b := bb.val
    let o := s.opened w.tenant.val
    (w.value.getLsbD 0 = false → exec (.heddleCommit bb w) s = .next o) ∧
    (w.value.getLsbD 0 = true → s.flag F.BAY_HEDDLE_STAT_BUSY b = false → ∃ u : State, exec (.heddleCommit bb w) s = .next u ∧
      (u.bay b).snap = some ⟨s.rd F.BAY_HEDDLE_LO_PH0_7 b, s.rd F.BAY_HEDDLE_HI_PH8_15 b, (s.reg .BAY_LANE_SEG b).toNat % 256,
        s.rd F.BAY_PHASE_SVC_QUAR b⟩ ∧ u.flag F.BAY_HEDDLE_STAT_BUSY b = true ∧ OnlyBay b s u ∧ OnlyAt .BAY_HEDDLE_STAT b s u ∧
      Leaves [.BAY_HEDDLE_STAT] [.bays] o u) ∧
    (w.value.getLsbD 0 = true → s.flag F.BAY_HEDDLE_STAT_BUSY b = true → ∃ u : State, exec (.heddleCommit bb w) s = .next u ∧
      u.flag F.BAY_HEDDLE_STAT_REFUSED b = true ∧ u.rd F.BAY_HEDDLE_STAT_ERR b = 6 ∧ u.flag F.BAY_HEDDLE_STAT_BUSY b = true ∧
      OnlyAt .BAY_HEDDLE_STAT b s u ∧ Leaves [.BAY_HEDDLE_STAT] [] o u)) ∧
  (∀ (s : State) (bb : Bay),
    let b := bb.val
    ((s.bay b).snap = none → exec (.heddleCommitDone bb) s = .next s.begin) ∧
    (∀ q, (s.bay b).snap = some q →
      ((∃ k < 16, mapEntry q.lo q.hi k / 4 = 3) → ∃ k < 16, s.commitCheck b q = some (1, k, 0)) ∧
      (∀ code ph slot, s.commitCheck b q = some (code, ph, slot) → ∃ u : State, exec (.heddleCommitDone bb) s = .next u ∧
        (u.bay b).snap = none ∧ u.flag F.BAY_HEDDLE_STAT_BUSY b = false ∧ u.flag F.BAY_HEDDLE_STAT_REFUSED b = true ∧
        u.rd F.BAY_HEDDLE_STAT_ERR b = code ∧ u.rd F.BAY_HEDDLE_STAT_ERR_PHASE b = ph ∧ u.rd F.BAY_HEDDLE_STAT_ERR_SLOT b = slot ∧
        OnlyBay b s u ∧ OnlyAt .BAY_HEDDLE_STAT b s u ∧ Leaves [.BAY_HEDDLE_STAT] [.outs, .bays] s u) ∧
      (s.commitCheck b q = none → q.lo < 2 ^ 32 → q.hi < 2 ^ 32 → q.seg < 256 → ∃ u : State,
        exec (.heddleCommitDone bb) s = .next u.settle ∧ (u.bay b).snap = none ∧ u.flag F.BAY_HEDDLE_STAT_BUSY b = false ∧
        u.rd F.BAY_HEDDLE_ACT_LO_PH0_7 b = q.lo ∧ u.rd F.BAY_HEDDLE_ACT_HI_PH8_15 b = q.hi ∧ u.rd F.BAY_HEDDLE_STAT_ACT_SEG b = q.seg ∧
        (∀ l < 48, bayOfLane l = b → s.laneState l ≠ .off → ∀ p, u.laneOf p = some l ↔ s.laneOf p = some l) ∧
        (∀ l < 48, bayOfLane l ≠ b → ∀ p, u.laneOf p = some l ↔ s.laneOf p = some l) ∧
        (∀ p, p / 16 = b → s.laneOf p ≠ none → u.laneOf p ≠ s.laneOf p → u.rd F.PH_LOOP_LRATIO p = 0x4000 ∧ u.rd F.PH_WARP_LSURV p = 0) ∧
        OnlyAt .BAY_HEDDLE_ACT_LO b s u ∧ OnlyAt .BAY_HEDDLE_ACT_HI b s u ∧ OnlyAt .BAY_HEDDLE_STAT b s u ∧
        Leaves ([.BAY_HEDDLE_STAT, .BAY_HEDDLE_ACT_LO, .BAY_HEDDLE_ACT_HI, .LN_REED, .PH_ISNCAL, .PH_LOOP, .PH_WARP, .MTR_TAP] ++
          settleRegs) settleParts s u)))

/-- Coefficient commits (R96, R97): COMMIT marks the selected set pending, and is refused with 0x0307 in WARPING; a segment's is marked the
same way. Model's readings: log entry 40. -/
def coefficientCommits : Prop :=
  ∀ (s : State) (w : BusWrite), s.MayWrite w →
    let o := s.opened w.tenant.val
    (∀ ln : Lane,
      let l := ln.val
      (w.value.getLsbD 8 = false → ∃ u : State, exec (.lnCoefCommit ln w) s = .next u ∧ u.flag F.LN_COEF_SEL_PENDING l =
        s.flag F.LN_COEF_SEL_PENDING l ∧ OnlyAt .LN_COEF_SEL l s u ∧ Leaves [.LN_COEF_SEL] [] o u) ∧
      (w.value.getLsbD 8 = true → s.laneState l = .warping → ∃ u : State, exec (.lnCoefCommit ln w) s = .next u ∧
        u.flag F.LN_COEF_SEL_REFUSED l = true ∧ Reported s u 0x0307 (srcLane l) (u.rd F.LN_COEF_SEL_SET l) ∧
        OnlyAt .LN_COEF_SEL l s u ∧ Leaves [.LN_COEF_SEL, .SLV_EVT] [.slv] o u) ∧
      (w.value.getLsbD 8 = true → s.laneState l ≠ .warping → ∃ u : State, exec (.lnCoefCommit ln w) s = .next u ∧
        u.flag F.LN_COEF_SEL_PENDING l = true ∧ u.rd F.LN_COEF_SEL_SET l ∈ (u.lane l).coefPend ∧
        (u.lane l).coefW = (s.lane l).coefW ∧ OnlyLane l s u ∧ OnlyAt .LN_COEF_SEL l s u ∧ Leaves [.LN_COEF_SEL] [.lanes] o u)) ∧
    (w.value.getLsbD 8 = true → ∃ u : State, exec (.busCoefCommit w) s = .next u ∧ u.flag F.BUS_COEF_SEL_PENDING = true ∧
      (u.seg (u.rd F.BUS_COEF_SEL_SEG)).coefPend = true ∧ OnlySeg (u.rd F.BUS_COEF_SEL_SEG) s u ∧ Leaves [.BUS_COEF_SEL] [.segs] o u) ∧
    (w.value.getLsbD 8 = false → ∃ u : State, exec (.busCoefCommit w) s = .next u ∧
      u.flag F.BUS_COEF_SEL_PENDING = s.flag F.BUS_COEF_SEL_PENDING ∧ Leaves [.BUS_COEF_SEL] [] o u)

/-! ### Trips, pins and power (chapters 6, 15, 16) -/

/-- Every lane that has left OFF and is not LOST is FAULTED, and no phase of the device drives: what the global latch does (R143, R197). -/
structure AllStopped (s u : State) : Prop where
  latch : u.glbLatch = true
  phases : ∀ p < 192, (u.ph p).on = false
  lanes : ∀ l < 48, s.laneState l ≠ .off → s.laneState l ≠ .lost → u.laneState l = .faulted
  others : ∀ l < 48, s.laneState l = .off ∨ s.laneState l = .lost → u.laneState l = s.laneState l

/-- A comparator that asserts sets the latch of an assigned phase, which stops at once, with 0x0101; a phase in service takes the action of
PTRIP_ACT (R140, R205). Comparator levels are shown (R62). Model's readings: log entry 33. -/
def phaseTrips : Prop :=
  (∀ (s : State) (ph : Phase) (low : Bool),
    let p := ph.val
    let live := if low then F.PH_OCTHR_OCL_LIVE else F.PH_OCTHR_OCH_LIVE
    (s.laneOf p = none → ∃ u : State, exec (.phaseTrip ph low) s = .next u.settle ∧ u.flag live p = true ∧ u.phLatch p = s.phLatch p ∧
      OnlyAt .PH_OCTHR p s u ∧ OnlyPhase p s u ∧ Leaves [.PH_OCTHR] [.outs, .phases] s u) ∧
    (∀ l, s.laneOf p = some l → s.phLatch p = false → ∃ u : State, exec (.phaseTrip ph low) s = .next u.settle ∧ u.flag live p = true ∧
      u.phLatch p = true ∧ (u.ph p).on = false ∧ (u.ph p).acc = 0 ∧ Recorded s u 0x0101 p low.toNat ∧
      ((s.laneState l).inService = true → p ∈ (s.lane l).order →
        (s.rd F.LN_CTL_PTRIP_ACT l = 0 → u.quarPh p = true ∧ u.laneState l = s.laneState l ∧ p ∈ (u.lane l).lose ∧ Recorded s u 0x0604 p 0) ∧
        (s.rd F.LN_CTL_PTRIP_ACT l = 1 → u.laneState l = .park ∧ Recorded s u 0x0602 (srcLane l) 6) ∧
        (2 ≤ s.rd F.LN_CTL_PTRIP_ACT l → u.lnLatch l = true)) ∧
      OnlyAt .PH_OCTHR p s u ∧ OnlyAt .BAY_PH_TRIP (bayOfPhase p) s u ∧ Leaves (.PH_OCTHR :: settleRegs) settleParts s u)) ∧
  (∀ (s : State) (idx : Fin 192) (high : Bool),
    let i := idx.val
    (i < 48 → (∃ u : State, exec (.comparator 2 idx high) s = .next u.settle ∧ u.flag F.LN_CMPTHR_BOV_LIVE i = high ∧
        OnlyAt .LN_CMPTHR i s u ∧ Leaves [.LN_CMPTHR] [.outs] s u) ∧
      (∃ u : State, exec (.comparator 3 idx high) s = .next u.settle ∧ u.flag F.LN_CMPTHR_SHC_LIVE i = high ∧
        OnlyAt .LN_CMPTHR i s u ∧ Leaves [.LN_CMPTHR] [.outs] s u)) ∧
    (i < 4 → (∃ u : State, exec (.comparator 4 idx high) s = .next u.settle ∧ u.flag F.BUS_CMPTHR_BUSOV_LIVE i = high ∧
        OnlyAt .BUS_CMPTHR i s u ∧ Leaves [.BUS_CMPTHR] [.outs] s u) ∧
      (∃ u : State, exec (.comparator 5 idx high) s = .next u.settle ∧ u.flag F.BUS_CMPTHR_BUSUV_LIVE i = high ∧
        OnlyAt .BUS_CMPTHR i s u ∧ Leaves [.BUS_CMPTHR] [.outs] s u)) ∧
    (∃ u : State, exec (.comparator 0 idx false) s = .next u.settle ∧ u.flag F.PH_OCTHR_OCH_LIVE i = false ∧
      u.phLatch i = s.phLatch i ∧ OnlyAt .PH_OCTHR i s u ∧ OnlyPhase i s u ∧ Leaves [.PH_OCTHR] [.outs, .phases] s u))

/-- LFLTnn_N of a configured lane sets the lane latch and starts the attribution (R140, R372); the attribution names a phase and its basis,
or none (R373, R374). Model's readings: log entry 33. -/
def laneTrips : Prop :=
  ∀ (s : State) (ln : Lane),
    let l := ln.val
    (s.configured l = true → s.lnLatch l = false → ∃ u : State, exec (.laneTrip ln true) s = .next u.settle ∧
      u.flag F.LN_TRIP_LFLT_LIVE l = true ∧ u.lnLatch l = true ∧ u.flag F.LN_TRIP_LFLT_SRC l = true ∧
      (∃ r, (u.lane l).attrRun = some r ∧ r.c0 = s.tb) ∧ (∀ p ∈ s.phasesOf l, (u.ph p).on = false) ∧
      Recorded s u 0x0102 (srcLane l) 0 ∧
      (s.laneState l ≠ .off → s.laneState l ≠ .lost → u.laneState l = .faulted) ∧ OnlyAt .LN_TRIP l s u ∧
      Leaves settleRegs settleParts s u) ∧
    (∀ low, low = false ∨ s.configured l = false ∨ s.lnLatch l = true → ∃ u : State, exec (.laneTrip ln low) s = .next u.settle ∧
      u.flag F.LN_TRIP_LFLT_LIVE l = low ∧ u.lnLatch l = s.lnLatch l ∧ OnlyAt .LN_TRIP l s u ∧ Leaves [.LN_TRIP] [.outs] s u) ∧
    ((s.lane l).attrRun = none → exec (.lfltAttributed ln) s = .next s.begin) ∧
    (∀ r, (s.lane l).attrRun = some r →
      let a := attributeLane (s.rd F.GLB_ATTR_ATTR_THR) (r.phases.map (fun a => (a, firstHit r.c0 (s.ph a.p).hits)))
      (a.1 = none → ∃ u : State, exec (.lfltAttributed ln) s = .next u.settle ∧ (u.lane l).attr = ⟨15, 0⟩ ∧ (u.lane l).attrRun = none ∧
        Reported s u 0x0C0A (srcLane l) 0 ∧ u.flag F.GLB_FLT_EVT_ATTR_EVT = true ∧ OnlyLane l s u ∧
        Leaves [.GLB_FLT_EVT, .SLV_EVT] [.outs, .slv, .lanes] s u) ∧
      (∀ p, a.1 = some p → p < 192 → ∃ u : State, exec (.lfltAttributed ln) s = .next u.settle ∧ (u.lane l).attr = ⟨p % 16, a.2⟩ ∧
        (u.lane l).attrRun = none ∧ Recorded s u 0x0C0A p a.2 ∧ u.flag F.GLB_FLT_EVT_ATTR_EVT = true ∧
        (s.flag F.GLB_ATTR_ATTR_QUAR = true → u.quarPh p = true) ∧
        Leaves [.GLB_FLT_EVT, .SLV_EVT, .BAY_PHASE_SVC] [.outs, .slv, .lanes] s u))

/-- SAFE_N and an enabled FAULT_IN_N that fall set the global latch, and each edge is recorded (R143, R359, R360).
Model's readings: log entry 104. -/
def pinEdges : Prop :=
  ∀ s : State,
    (∀ n : Fin 4,
      (∀ high, high = true ∨ s.rdBit F.GLB_TRIP_CFG_FIN_EN n.val = false → ∃ u : State, exec (.faultInEdge n high) s = .next u.settle ∧
        u.rdBit F.GLB_TRIP_FIN_LIVE n.val = !high ∧ u.glbLatch = s.glbLatch ∧ Reported s u 0x0C02 (0x150 + n.val) (!high).toNat ∧
        u.flag F.GLB_FLT_EVT_FIN_EVT = true ∧ Leaves [.GLB_TRIP, .GLB_FLT_EVT, .SLV_EVT] [.outs, .slv] s u) ∧
      (s.rdBit F.GLB_TRIP_CFG_FIN_EN n.val = true → s.glbLatch = false → ∃ u : State, exec (.faultInEdge n false) s = .next u.settle ∧
        AllStopped s u ∧ u.rdBit F.GLB_TRIP_FIN_LIVE n.val = true ∧ u.rdBit F.GLB_TRIP_FIN_SRC n.val = true ∧
        Recorded s u 0x0104 srcDevice (2 ^ n.val) ∧ Recorded s u 0x0C02 (0x150 + n.val) 1 ∧
        Leaves (.GLB_FLT_EVT :: settleRegs) settleParts s u)) ∧
    (∃ u : State, exec (.safeNEdge true) s = .next u.settle ∧ u.safeLow = false ∧ u.glbLatch = s.glbLatch ∧
      Reported s u 0x0C01 srcDevice 0 ∧ u.flag F.GLB_FLT_EVT_SAFE_EVT = true ∧ (s.flag F.SEC_STAT_SEALED = true → u.sec.extest = false) ∧
      Leaves [.GLB_TRIP, .GLB_FLT_EVT, .SLV_EVT] [.outs, .slv, .sec] s u) ∧
    (s.glbLatch = false → ∃ u : State, exec (.safeNEdge false) s = .next u.settle ∧ AllStopped s u ∧ u.safeLow = true ∧
      u.flag F.GLB_TRIP_SAFE_SRC = true ∧ Recorded s u 0x0104 srcDevice 0x10 ∧ Recorded s u 0x0C01 srcDevice 1 ∧
      (∀ l < 48, s.laneState l ≠ .off → s.laneState l ≠ .lost → s.laneState l ≠ .faulted → u.rd F.LN_STATE_FCAUSE l = 3) ∧
      Leaves (.GLB_FLT_EVT :: settleRegs) settleParts s u)

/-- The writes that clear latches (R144): a latch clears, with 0x0105, only where SAFE_N is high, no covering latch is set and its source is
inactive; else CLEAR_REFUSED and 0x0103 with the reason; a latch whose bit is not written stays. Model's readings: log entry 31. -/
def latchesClear : Prop :=
  ∀ (s : State) (w : BusWrite), s.MayWrite w →
    let o := s.opened w.tenant.val
    (∀ bb : Bay,
      let b := bb.val
      ∃ u : State, exec (.bayPhTrip bb w) s = .next u.settle ∧
        (∀ k < 16, w.value.getLsbD k = false → u.phLatch (16 * b + k) = s.phLatch (16 * b + k)) ∧
        (∀ k < 16, w.value.toNat % 2 ^ 16 = 2 ^ k → s.phLatch (16 * b + k) = true →
          (∀ c, s.phaseRefusal (16 * b + k) = some c → u.phLatch (16 * b + k) = true ∧ u.flag F.BAY_PH_TRIP_CLEAR_REFUSED b = true ∧
            Recorded s u 0x0103 (16 * b + k) c) ∧
          (s.phaseRefusal (16 * b + k) = none → u.phLatch (16 * b + k) = false ∧ Recorded s u 0x0105 (16 * b + k) 0)) ∧
        OnlyAt .BAY_PH_TRIP b s u ∧ Leaves [.BAY_PH_TRIP, .SLV_EVT] [.slv, .phases] o u) ∧
    (∀ ln : Lane,
      let l := ln.val
      ∃ u : State, exec (.lnTrip ln w) s = .next u.settle ∧ (w.value.getLsbD 0 = false → u.lnLatch l = s.lnLatch l) ∧
        (w.value.getLsbD 0 = true → s.lnLatch l = true →
          (∀ c, s.laneRefusal l = some c → u.lnLatch l = true ∧ u.flag F.LN_TRIP_CLEAR_REFUSED l = true ∧ Reported s u 0x0103 (srcLane l) c) ∧
          (s.laneRefusal l = none → u.lnLatch l = false ∧ u.flag F.LN_TRIP_LFLT_SRC l = false ∧ Reported s u 0x0105 (srcLane l) 0)) ∧
        OnlyAt .LN_TRIP l s u ∧ Leaves [.LN_TRIP, .SLV_EVT] [.slv] o u) ∧
    (∃ u : State, exec (.glbTrip w) s = .next u.settle ∧ (w.value.getLsbD 0 = false → u.glbLatch = s.glbLatch) ∧
      (w.value.getLsbD 0 = true → s.glbLatch = true →
        (s.safeLow = true ∨ s.flag F.GLB_PF_PFI_LIVE = true ∨ s.flag F.GLB_CLK_STAT_PLL_LOCK = false →
          u.glbLatch = true ∧ u.flag F.GLB_TRIP_CLEAR_REFUSED = true ∧ Reported s u 0x0103 srcDevice (if s.safeLow then 3 else 1)) ∧
        (s.safeLow = false → s.clockLost = false → s.flag F.GLB_PF_PFI_LIVE = false → s.rd F.GLB_TRIP_FIN_LIVE = 0 → s.routed 3 0 = false →
          u.glbLatch = false ∧ u.rd F.GLB_TRIP_FIN_SRC = 0 ∧ Reported s u 0x0105 srcDevice 0)) ∧
      Leaves [.GLB_TRIP, .SLV_EVT] [.slv] o u) ∧
    (∀ p, s.safeLow = true → s.phaseRefusal p = some 3) ∧
    (∀ p, s.safeLow = false → s.glbLatch = true → s.phaseRefusal p = some 2) ∧
    (∀ l, s.safeLow = false → s.glbLatch = true → s.laneRefusal l = some 2)

/-- Power-fail (R368, R369): it stops every lane, drops the fetched commands and begins the closing save; with CLK_CORE stopped, or a second
time, only the pin's level is shown. PF_RESTART (R371) resets the device with cause 4 once the save is complete.
Model's readings: log entries 102, 106, 107. -/
def powerFails : Prop :=
  ∀ s : State,
    (s.coreRuns = false ∨ s.flag F.GLB_PF_PF_STATE = true → ∃ u : State, exec .powerFail s = .next u ∧ u.flag F.GLB_PF_PFI_LIVE = true ∧
      u.flag F.GLB_PF_PF_STATE = s.flag F.GLB_PF_PF_STATE ∧ Leaves [.GLB_PF] [.outs] s u) ∧
    (s.coreRuns = true → s.flag F.GLB_PF_PF_STATE = false → s.glbLatch = false → ∃ u : State,
      exec .powerFail s = .next u.settle.powerFailSave.settle ∧ AllStopped s u ∧ u.flag F.GLB_PF_PFI_LIVE = true ∧
      u.flag F.GLB_PF_PF_STATE = true ∧ u.flag F.GLB_TRIP_PFI_SRC = true ∧ Recorded s u 0x0104 srcDevice 0x20 ∧
      Recorded s u 0x0C03 srcDevice 0 ∧ (∀ t, (u.tenant t).fetched = []) ∧ u.power.intakeOff = true ∧
      Leaves (.GLB_PF :: .SMB_M_STAT :: settleRegs) (.power :: .portM :: settleParts) s u) ∧
    (s.flag F.NVM_STAT_RECOVERED = false → s.powerFailSave.nvm.closing = some .powerFail) ∧
    (¬(s.flag F.GLB_PF_PF_STATE = true ∧ s.flag F.GLB_PF_PF_RESTART = true ∧
        (s.flag F.NVM_STAT_FLUSHED = true ∨ s.flag F.NVM_STAT_RECOVERED = false)) →
      ∃ u : State, exec .pfRestart s = .next u ∧ u.flag F.GLB_PF_PFI_LIVE = false ∧
        u.flag F.GLB_PF_PF_STATE = s.flag F.GLB_PF_PF_STATE ∧ Leaves [.GLB_PF] [.outs] s u) ∧
    (s.flag F.GLB_PF_PF_STATE = true → s.flag F.GLB_PF_PF_RESTART = true →
      s.flag F.NVM_STAT_FLUSHED = true ∨ s.flag F.NVM_STAT_RECOVERED = false →
      ∃ u : State, exec .pfRestart s = .next u ∧ u.rd F.GLB_BOOT_CAUSE = 4 ∧ u.power.boot = .waitXin ∧
        u.flag F.GLB_PF_PF_STATE = false ∧ (∀ l < 48, u.laneState l = .off ∧ (u.lane l).owner = none) ∧ u.pending = s.pending ∧ u.tb = s.tb)

/-- Clock supervision (R21) and the ECC of the contexts (R24): a lost reference or lock sets the global latch with 0x0C10, a lost lock halts
metering; a double-bit error trips its phase or lane, or quarantines its tenant. Model's readings: log entries 105, 108. -/
def clocksAndEcc : Prop :=
  ∀ s : State,
    (s.coreRuns = false → ∃ u : State, exec .xinLost s = .next u ∧ u.power = { s.power with xinAbsent := true } ∧
      Leaves [] [.outs, .power] s u) ∧
    (s.coreRuns = true → s.glbLatch = false → ∃ u : State, exec .xinLost s = .next u.settle ∧ AllStopped s u ∧
      u.flag F.GLB_CLK_STAT_XIN_LOST = true ∧ u.flag F.GLB_TRIP_CLK_SRC = true ∧ Recorded s u 0x0C10 srcDevice 1 ∧
      Recorded s u 0x0104 srcDevice 0x40 ∧ u.power = { s.power with xinAbsent := true } ∧
      Leaves (.GLB_CLK_STAT :: settleRegs) (.power :: settleParts) s u) ∧
    (s.coreRuns = false ∨ s.flag F.GLB_CLK_STAT_PLL_LOCK = false → exec .pllUnlocked s = .next s.begin) ∧
    (s.coreRuns = true → s.flag F.GLB_CLK_STAT_PLL_LOCK = true → s.glbLatch = false → ∃ u : State, exec .pllUnlocked s = .next u.settle ∧
      AllStopped s u ∧ u.flag F.GLB_CLK_STAT_PLL_LOCK = false ∧ u.flag F.GLB_CLK_STAT_PLL_UNLOCKED = true ∧
      (∀ l < 48, s.configured l = true → u.flag F.MTR_STAT_UNMET l = true ∧ (u.meter l).counted = false) ∧
      Recorded s u 0x0C10 srcDevice 2 ∧ Leaves (.GLB_CLK_STAT :: settleRegs) settleParts s u) ∧
    (s.coreRuns = true → s.flag F.GLB_CLK_STAT_PLL_LOCK = false → s.flag F.GLB_CLK_CFG_PLL_RELOCK_AUTO = true →
      ∃ u : State, exec .pllRelock s = .next u.settle ∧ u.flag F.GLB_CLK_STAT_PLL_LOCK = true ∧ u.glbLatch = s.glbLatch ∧
        (∀ l < 48, (u.meter l).counted = false) ∧
        Leaves [.GLB_CLK_STAT, .MTR_STAT, .MTR_TAP] [.outs, .power, .meters] s u) ∧
    (s.coreRuns = false ∨ s.flag F.GLB_CLK_STAT_PLL_LOCK = true ∨ s.flag F.GLB_CLK_CFG_PLL_RELOCK_AUTO = false →
      exec .pllRelock s = .next s.begin) ∧
    (s.rd F.GLB_CLK_CFG_SLOW_SRC = 0 → s.flag F.GLB_CLK_STAT_SLOW_ON_XTAL = true → ∃ u : State, exec .xtalFail s = .next u.settle ∧
      u.flag F.GLB_CLK_STAT_SLOW_ON_XTAL = false ∧ u.flag F.GLB_CLK_STAT_XTAL_FAIL = true ∧ Leaves [.GLB_CLK_STAT] [.outs] s u) ∧
    (s.rd F.GLB_CLK_CFG_SLOW_SRC = 0 → ∃ u : State, exec .slowOnXtal s = .next u ∧ u.flag F.GLB_CLK_STAT_SLOW_ON_XTAL = true ∧
      Leaves [.GLB_CLK_STAT] [.outs] s u) ∧
    (s.rd F.GLB_CLK_CFG_SLOW_SRC ≠ 0 → exec .slowOnXtal s = .next s.begin ∧ exec .xtalFail s = .next s.begin) ∧
    (∀ ctx : Fin 256,
      let n := ctx.val
      ∃ u : State, exec (.contextEcc ctx) s = .next u.settle ∧ Recorded s u 0x0C11 n 0 ∧
        (n < 192 → u.phLatch n = true) ∧ (192 ≤ n → n < 240 → u.lnLatch (n - 192) = true) ∧
        (240 ≤ n → u.rdBit F.SEC_TFLAGS_QUAR (n % 8) = true) ∧ Leaves settleRegs settleParts s u)

/-! ### Monitors, replicas and read-backs (chapters 3, 6, 12, 15, 16) -/

/-- ISREF and supply monitors (R70, R364): four conversions in a row outside a window raise the condition with its event and, for ISREF, the
latches of the bay's lanes; four inside clear it. -/
def windowsWatch : Prop :=
  (∀ (s : State) (bb : Bay) (code : BitVec 12),
    let b := bb.val
    let out : Prop := code.toNat < 2800 ∨ 3200 < code.toNat
    let x := s.bay b
    let was := s.flag F.BAY_ISREF_STAT_ISREF_BAD b
    (out → 3 ≤ x.isOut → was = false → ∃ u : State, exec (.isrefWindow bb code) s = .next u.settle ∧
      u.flag F.BAY_ISREF_STAT_ISREF_BAD b = true ∧ u.flag F.BAY_ISREF_STAT_ISREF_EVT b = true ∧
      u.rd F.BAY_ISREF_STAT_CODE b = code.toNat ∧ Recorded s u 0x0205 (srcBay b) 0 ∧
      (∀ l < 48, bayOfLane l = b → s.configured l = true → u.lnLatch l = true) ∧
      (∀ l < 48, bayOfLane l ≠ b ∨ s.configured l = false → u.lnLatch l = s.lnLatch l) ∧
      Leaves (.BAY_ISREF_STAT :: settleRegs) settleParts s u) ∧
    (out → x.isOut < 3 ∨ was = true → ∃ u : State, exec (.isrefWindow bb code) s = .next u ∧
      u.bay b = { x with isOut := min (x.isOut + 1) 4, isIn := 0 } ∧ u.flag F.BAY_ISREF_STAT_ISREF_BAD b = was ∧
      u.rd F.BAY_ISREF_STAT_CODE b = code.toNat ∧ OnlyBay b s u ∧ OnlyAt .BAY_ISREF_STAT b s u ∧ Leaves [.BAY_ISREF_STAT] [.outs, .bays] s u) ∧
    (¬out → 3 ≤ x.isIn → ∃ u : State, exec (.isrefWindow bb code) s = .next u.settle ∧ u.flag F.BAY_ISREF_STAT_ISREF_BAD b = false ∧
      u.rd F.BAY_ISREF_STAT_CODE b = code.toNat ∧ OnlyBay b s u ∧ OnlyAt .BAY_ISREF_STAT b s u ∧ Leaves [.BAY_ISREF_STAT] [.outs, .bays] s u) ∧
    (¬out → x.isIn < 3 → ∃ u : State, exec (.isrefWindow bb code) s = .next u ∧ u.bay b = { x with isIn := x.isIn + 1, isOut := 0 } ∧
      u.flag F.BAY_ISREF_STAT_ISREF_BAD b = was ∧ u.rd F.BAY_ISREF_STAT_CODE b = code.toNat ∧ OnlyBay b s u ∧
      Leaves [.BAY_ISREF_STAT] [.outs, .bays] s u)) ∧
  (∀ (s : State) (bb : Bay) (tap : Fin 4) (mv : BitVec 12),
    let b := bb.val
    let t := tap.val
    let v : Int := if t = 3 then mv.toInt else mv.toNat
    let x := s.bay b
    (t = 0 → (supplyInside t v = true ↔ 776 ≤ v ∧ v ≤ 824)) ∧ (t = 1 → (supplyInside t v = true ↔ 1710 ≤ v ∧ v ≤ 1890)) ∧
    (t = 2 → (supplyInside t v = true ↔ 3135 ≤ v ∧ v ≤ 3465)) ∧ (t = 3 → (supplyInside t v = true ↔ -5 ≤ v ∧ v ≤ 5)) ∧
    (∃ u : State, exec (.supplyWindow bb tap mv) s = .next u.settle ∧ vget (u.bay b).supMv t 0 = v ∧
      vget (u.bay b).supBad t false = (if supplyInside t v then vget x.supBad t false && decide (vget x.supIn t 0 < 3)
        else vget x.supBad t false || decide (3 ≤ vget x.supOut t 0)) ∧
      u.rdBit F.GLB_SUP_STAT_OUT b = (u.bay b).supBad.toList.any id ∧
      (supplyInside t v = false → 3 ≤ vget x.supOut t 0 → vget x.supBad t false = false →
        Reported s u 0x0C05 (srcBay b) (t + 1) ∧ u.flag F.GLB_SUP_STAT_SUP_EVT = true) ∧
      (supplyInside t v = true ∨ vget x.supOut t 0 < 3 ∨ vget x.supBad t false = true → Unreported s u) ∧
      OnlyBay b s u ∧ Leaves [.GLB_SUP_STAT, .SLV_EVT] [.outs, .slv, .bays] s u))

/-- Temperatures and interlocks (R246, R365 to R367): four readings in a row at or above a threshold raise the warning or the trip of a bay,
four 5 degrees below it clear it; a thermistor that opens, shorts or passes TOVER, and an interlock that opens, are recorded.
Model's readings: log entry 35. -/
def temperaturesWatch : Prop :=
  (∀ (s : State) (bb : Bay) (q : BitVec 12),
    let b := bb.val
    let x := s.bay b
    let w := 4 * s.rdS F.GLB_TEMP_CFG_TWARN
    let t := 4 * s.rdS F.GLB_TEMP_CFG_TTRIP
    (w ≤ q.toInt → 3 ≤ x.warnHi → s.rdBit F.GLB_TEMP_STAT_WARN b = false → ∃ u : State, exec (.dieTempWarn bb q) s = .next u.settle ∧
      u.rdBit F.GLB_TEMP_STAT_WARN b = true ∧ u.flag F.GLB_TEMP_STAT_WARN_EVT = true ∧ Reported s u 0x0C06 (srcBay b) 0 ∧
      (u.bay b).die = q.toInt ∧ OnlyBay b s u ∧ Leaves [.GLB_TEMP_STAT, .SLV_EVT] [.outs, .slv, .bays] s u) ∧
    (q.toInt < w - 20 → 3 ≤ x.warnLo → ∃ u : State, exec (.dieTempWarn bb q) s = .next u.settle ∧
      u.rdBit F.GLB_TEMP_STAT_WARN b = false ∧ (u.bay b).die = q.toInt ∧ OnlyBay b s u ∧ Leaves [.GLB_TEMP_STAT] [.outs, .bays] s u) ∧
    (x.warnHi < 3 → x.warnLo < 3 → ∃ u : State, exec (.dieTempWarn bb q) s = .next u ∧
      u.bay b = { x with die := q.toInt, warnHi := if w ≤ q.toInt then x.warnHi + 1 else 0,
                         warnLo := if q.toInt < w - 20 then x.warnLo + 1 else 0 } ∧ OnlyBay b s u ∧ Leaves [] [.outs, .bays] s u) ∧
    (t ≤ q.toInt → 3 ≤ x.tripHi → s.rdBit F.GLB_TEMP_STAT_TRIP b = false → ∃ u : State, exec (.dieTempTrip bb q) s = .next u.settle ∧
      u.rdBit F.GLB_TEMP_STAT_TRIP b = true ∧ u.flag F.GLB_TEMP_STAT_TRIP_EVT = true ∧ Reported s u 0x0C07 (srcBay b) 0 ∧
      OnlyBay b s u ∧ Leaves [.GLB_TEMP_STAT, .SLV_EVT] [.outs, .slv, .bays] s u) ∧
    (q.toInt < t - 20 → 3 ≤ x.tripLo → ∃ u : State, exec (.dieTempTrip bb q) s = .next u.settle ∧
      u.rdBit F.GLB_TEMP_STAT_TRIP b = false ∧ OnlyBay b s u ∧ Leaves [.GLB_TEMP_STAT] [.outs, .bays] s u)) ∧
  (∀ (s : State) (ln : Lane) (mv : Fin 2049),
    let l := ln.val
    let x := s.lane l
    let t := Config.auxTemperature mv.val (100 * s.rd F.GLB_THM_CFG_R25) (s.rd F.GLB_THM_CFG_BETA)
    (s.thermHeld l = false → exec (.auxTempAverage ln mv) s = .next s.begin) ∧
    (s.thermHeld l = true → ∃ u : State, exec (.auxTempAverage ln mv) s = .next u.settle ∧ (u.lane l).auxSeen = true ∧
      (u.lane l).thOpen = decide (1980 < mv.val) ∧ (u.lane l).thShort = decide (mv.val < 20) ∧
      (u.lane l).auxT = (if 1980 < mv.val ∨ mv.val < 20 then 125 else t) ∧
      (u.lane l).thOver = (decide (20 ≤ mv.val) && decide (mv.val ≤ 1980) && decide (s.rdS F.GLB_THM_CFG_TOVER ≤ t)) ∧
      (1980 < mv.val → x.thOpen = false → x.thShort = false → Reported s u 0x0C09 (srcLane l) 1) ∧
      (mv.val < 20 → x.thOpen = false → x.thShort = false → Reported s u 0x0C09 (srcLane l) 2) ∧
      (20 ≤ mv.val → mv.val ≤ 1980 → s.rdS F.GLB_THM_CFG_TOVER ≤ t → x.thOver = false →
        Reported s u 0x0C08 (srcLane l) 0 ∧ u.flag F.GLB_FLT_EVT_THM_EVT = true) ∧
      OnlyLane l s u ∧ Leaves [.GLB_FLT_EVT, .SLV_EVT] [.outs, .slv, .lanes] s u) ∧
    ((s.lane l).aux ≠ .jml ∨ s.rd F.LN_JML_AUX_USE l ≠ 3 → exec (.interlockOpen ln mv) s = .next s.begin) ∧
    ((s.lane l).aux = .jml → s.rd F.LN_JML_AUX_USE l = 3 → 1980 < mv.val → 3 ≤ x.ilkHi → x.ilkOpen = false →
      ∃ u : State, exec (.interlockOpen ln mv) s = .next u.settle ∧ (u.lane l).ilkOpen = true ∧ Reported s u 0x0C0B (srcLane l) 0 ∧
        u.flag F.GLB_FLT_EVT_ILK_EVT = true ∧ OnlyLane l s u ∧ Leaves [.GLB_FLT_EVT, .SLV_EVT] [.outs, .slv, .lanes] s u) ∧
    ((s.lane l).aux = .jml → s.rd F.LN_JML_AUX_USE l = 3 → mv.val < 20 → 3 ≤ x.ilkLo →
      ∃ u : State, exec (.interlockOpen ln mv) s = .next u.settle ∧ (u.lane l).ilkOpen = false ∧ OnlyLane l s u ∧
        Leaves [] [.outs, .lanes] s u))

/-- REF_CHECK (R280, R281): 200 checks in a row inside the window settle the reference, with 0x0902 and a start of accounting; four outside
unsettle it, with 0x0901 and UNMET on every configured lane. Model's readings: log entry 86. -/
def referenceChecks : Prop :=
  ∀ (s : State) (mv : BitVec 12),
    let sel := s.rd F.GLB_REF_REF_SEL
    (s.refOn = false → exec (.refCheck mv) s = .next s.begin) ∧
    ((refInside 0 mv.toNat = true ↔ 1225 ≤ mv.toNat ∧ mv.toNat ≤ 1275) ∧ (refInside 1 mv.toNat = true ↔ 1200 ≤ mv.toNat ∧ mv.toNat ≤ 1300)) ∧
    (s.refOn = true → refInside sel mv.toNat = true → s.refRun = some 199 → s.flag F.GLB_REF_REF_SETTLED = false →
      ∃ u : State, exec (.refCheck mv) s = .next u.settle ∧ u.flag F.GLB_REF_REF_SETTLED = true ∧ u.flag F.GLB_REF_REF_IN_WIN = true ∧
        u.refSeen = true ∧ Reported s u 0x0902 srcDevice 0 ∧ (∀ l < 48, (u.meter l).counted = false) ∧
        Leaves [.GLB_REF, .MTR_STAT, .MTR_TAP, .SLV_EVT] [.outs, .slv, .meters, .refRun, .refOut, .refSeen] s u) ∧
    (s.refOn = true → refInside sel mv.toNat = true → (s.flag F.GLB_REF_REF_SETTLED = true ∨ ∃ k, s.refRun = some k ∧ k < 199) →
      ∃ u : State, exec (.refCheck mv) s = .next u ∧ u.flag F.GLB_REF_REF_SETTLED = s.flag F.GLB_REF_REF_SETTLED ∧ u.refOut = 0 ∧
        (∀ k, s.refRun = some k → u.refRun = some (min (k + 1) 200)) ∧ Leaves [.GLB_REF] [.outs, .refRun, .refOut] s u) ∧
    (s.refOn = true → refInside sel mv.toNat = false → s.flag F.GLB_REF_REF_SETTLED = true → 3 ≤ s.refOut →
      ∃ u : State, exec (.refCheck mv) s = .next u.settle ∧ u.flag F.GLB_REF_REF_SETTLED = false ∧ u.flag F.GLB_REF_REF_LOST_EVT = true ∧
        Reported s u 0x0901 srcDevice (if sel = 1 then 2 else 1) ∧ u.refRun = none ∧
        (∀ l < 48, s.configured l = true → u.flag F.MTR_STAT_UNMET l = true) ∧
        Leaves [.GLB_REF, .MTR_STAT, .SLV_EVT] [.outs, .slv, .meters, .refRun, .refOut] s u) ∧
    (s.refOn = true → refInside sel mv.toNat = false → s.flag F.GLB_REF_REF_SETTLED = true → s.refOut < 3 →
      ∃ u : State, exec (.refCheck mv) s = .next u ∧ u.flag F.GLB_REF_REF_SETTLED = true ∧ u.flag F.GLB_REF_REF_IN_WIN = false ∧
        u.refOut = s.refOut + 1 ∧ Leaves [.GLB_REF] [.outs, .refOut] s u)

/-- DL_LOCK and DL_COMPARE (R131 to R133): a comparison moves TRIM by at most one step, and not for an error of at most 8; eight in a row above
64 raise DL_FAULT with 0x0108, eight within 16 clear it. Model's readings: log entry 15. -/
def replicasTrim : Prop :=
  ∀ (s : State) (bb : Bay) (err : Int),
    let b := bb.val
    let x := s.bay b
    let e := clampI err (-128) 127
    let trim := s.rd F.BAY_DL_STAT_TRIM b
    (s.flag F.GLB_BAY_STAT_AN_ON b = false → exec (.dlLock bb) s = .next s.begin) ∧
    (s.flag F.GLB_BAY_STAT_AN_ON b = true → ∃ u : State, exec (.dlLock bb) s = .next u ∧ u.flag F.BAY_DL_STAT_DL_LOCK b = true ∧
      OnlyAt .BAY_DL_STAT b s u ∧ Leaves [.BAY_DL_STAT] [.outs] s u) ∧
    (s.flag F.BAY_DL_STAT_DL_LOCK b = false → exec (.dlCompare bb err) s = .next s.begin) ∧
    (s.flag F.BAY_DL_STAT_DL_LOCK b = true → ∃ u : State, exec (.dlCompare bb err) s = .next u ∧
      u.rdS F.BAY_DL_STAT_ERR b = e ∧ u.rd F.BAY_DL_STAT_TRIM b ≤ trim + 1 ∧ trim ≤ u.rd F.BAY_DL_STAT_TRIM b + 1 ∧
      (e.natAbs ≤ 8 → u.rd F.BAY_DL_STAT_TRIM b = trim) ∧
      (64 < e.natAbs → 7 ≤ x.dlBad → u.flag F.BAY_DL_STAT_DL_FAULT b = true ∧
        (s.flag F.BAY_DL_STAT_DL_FAULT b = false → Reported s u 0x0108 (srcBay b) 0 ∧ u.flag F.BAY_DL_STAT_DL_FAULT_EVT b = true)) ∧
      (e.natAbs ≤ 8 → u.flag F.BAY_DL_STAT_DL_FAULT b = (s.flag F.BAY_DL_STAT_DL_FAULT b && decide (x.dlGood < 7)) ∧ Unreported s u) ∧
      OnlyBay b s u ∧ OnlyAt .BAY_DL_STAT b s u ∧ Leaves [.BAY_DL_STAT, .SLV_EVT] [.outs, .slv, .bays] s u)

/-- Threshold read-backs (R65 to R68): AUTO queues every DAC of the bay, GO one, each converter serves its queue in order, and a code further
from its expected value than the tolerance sets MISMATCH with 0x0204. Model's readings: log entry 32. -/
def readbacksCompare : Prop :=
  ∀ (s : State) (bb : Bay),
    let b := bb.val
    let q := (s.bay b).rbQ
    (s.flag F.BAY_RB_CTL_AUTO b = false → exec (.autoReadback bb) s = .next s.begin) ∧
    (s.flag F.BAY_RB_CTL_AUTO b = true → ∃ (u : State) (more : List (Nat × Bool)), exec (.autoReadback bb) s = .next u ∧
      (u.bay b).rbQ = q ++ more ∧ (∀ k, k < (if b < 4 then 42 else 40) → (k, false) ∈ q ++ more) ∧ OnlyBay b s u ∧
      Leaves [] [.outs, .bays] s u) ∧
    (∀ w, s.MayWrite w → w.value.getLsbD 8 = true → s.flag F.BAY_RB_STAT_PENDING b = false → ∃ u : State, exec (.go bb w) s = .next u ∧
      (u.bay b).rbQ = q ++ [(u.rd F.BAY_RB_CTL_SEL b, true)] ∧ u.flag F.BAY_RB_STAT_PENDING b = true ∧ u.flag F.BAY_RB_STAT_DONE b = false ∧
      OnlyBay b s u ∧ OnlyAt .BAY_RB_STAT b s u ∧ OnlyAt .BAY_RB_CTL b s u ∧
      Leaves [.BAY_RB_CTL, .BAY_RB_STAT] [.bays] (s.opened w.tenant.val) u) ∧
    (∀ w, s.MayWrite w → w.value.getLsbD 8 = false ∨ s.flag F.BAY_RB_STAT_PENDING b = true → ∃ u : State, exec (.go bb w) s = .next u ∧
      OnlyAt .BAY_RB_CTL b s u ∧ Leaves [.BAY_RB_CTL] [] (s.opened w.tenant.val) u) ∧
    (∀ (sel : Fin 42) (code : BitVec 12),
      let c : Int := if sel.val < 32 then code.toInt else code.toNat
      let (want, tol, flags, src) := s.rbExpect b sel.val
      ((∀ e, q.find? (fun e => rbConverter e.1 == rbConverter sel.val) = some e → e.1 ≠ sel.val) →
        exec (.readbackDone bb sel code) s = .next s.begin) ∧
      (∀ asked, q.find? (fun e => rbConverter e.1 == rbConverter sel.val) = some (sel.val, asked) → ∃ u : State,
        exec (.readbackDone bb sel code) s = .next u.settle ∧ (u.bay b).rbQ = q.erase (sel.val, asked) ∧
        (asked = true → u.rd F.BAY_RB_STAT_CODE b = code.toNat ∧ u.rd F.BAY_RB_STAT_SEL b = sel.val ∧
          u.flag F.BAY_RB_STAT_PENDING b = false ∧ u.flag F.BAY_RB_STAT_DONE b = true) ∧
        (tol < (c - want).natAbs → u.flag F.BAY_RB_STAT_MISMATCH b = true ∧ Reported s u 0x0204 src flags) ∧
        (((c - want).natAbs : Int) ≤ tol → u.flag F.BAY_RB_STAT_MISMATCH b = s.flag F.BAY_RB_STAT_MISMATCH b ∧ Unreported s u) ∧
        OnlyBay b s u ∧ OnlyAt .BAY_RB_STAT b s u ∧
        Leaves [.BAY_RB_STAT, .SLV_EVT] [.outs, .slv, .bays, .lanes, .phases, .segs] s u))

/-! ### Register writes of bays and of the device (chapters 2, 6, 7, 12, 16) -/

/-- BAY_PWM_CTL (R138, R146): clearing PWM_EN stops the bay's phases, trips its lanes in service and records 0x0106; the two keys within 64
cycles set UNLOCKED, which 1 ms, or the next BAY_SAFE write, ends. -/
def bayControlWrites : Prop :=
  (∀ (s : State) (bb : Bay) (w : BusWrite), s.MayWrite w →
    let b := bb.val
    let o := s.opened w.tenant.val
    let x := s.bay b
    let key := F.BAY_PWM_CTL_UNLOCK.of w.value.toNat
    let open2 : Bool := match x.key1 with | some t => decide (key = 0x5A ∧ s.tb ≤ t + 64) | none => false
    ∀ c : Instr, c = .pwmEn bb w ∨ c = .unlock bb w →
      (s.flag F.BAY_PWM_CTL_PWM_EN b = false ∨ w.value.getLsbD 0 = true → ∃ u : State, exec c s = .next u.settle ∧
        u.flag F.BAY_PWM_CTL_PWM_EN b = w.value.getLsbD 0 ∧ u.bay b = { x with key1 := if key = 0xA5 then some s.tb else none } ∧
        u.flag F.BAY_PWM_CTL_UNLOCKED b = (s.flag F.BAY_PWM_CTL_UNLOCKED b || open2) ∧ OnlyBay b s u ∧ OnlyAt .BAY_PWM_CTL b s u ∧
        Leaves [.BAY_PWM_CTL] [.bays] o u) ∧
      (s.flag F.BAY_PWM_CTL_PWM_EN b = true → w.value.getLsbD 0 = false → ∃ u : State, exec c s = .next u.settle ∧
        u.flag F.BAY_PWM_CTL_PWM_EN b = false ∧ (∀ p ∈ bayPhases b, (u.ph p).on = false) ∧
        (∀ l < 48, bayOfLane l = b → (s.laneState l).inService = true ∨ s.laneState l = .warping →
          u.lnLatch l = true ∧ (s.lnLatch l = false → u.laneState l = .faulted)) ∧
        (∀ l < 48, bayOfLane l ≠ b → u.laneState l = s.laneState l ∧ u.lnLatch l = s.lnLatch l) ∧
        (s.waits = [] → Recorded s u 0x0106 (srcBay b) 0) ∧ OnlyAt .BAY_PWM_CTL b s u ∧
        Leaves (.BAY_PWM_CTL :: settleRegs) settleParts o u)) ∧
  (∀ (s : State) (bb : Bay), ∃ u : State, exec (.unlockExpiry bb) s = .next u ∧ u.flag F.BAY_PWM_CTL_UNLOCKED bb.val = false ∧
    u.flag F.BAY_PWM_CTL_PWM_EN bb.val = s.flag F.BAY_PWM_CTL_PWM_EN bb.val ∧ OnlyAt .BAY_PWM_CTL bb.val s u ∧
    Leaves [.BAY_PWM_CTL] [.outs] s u) ∧
  (∀ (s : State) (bb : Bay) (w : BusWrite), s.MayWrite w →
    let b := bb.val
    let old := fun k : Nat => bitsN (s.rd F.BAY_SAFE_LEVELS b) (2 * k) 2
    let new := fun k : Nat => bitsN w.value.toNat (2 * k) 2
    let refused := fun k : Nat => new k = 2 ∧ old k ≠ 2 ∧ s.flag F.BAY_PWM_CTL_UNLOCKED b = false
    ∃ u : State, exec (.baySafe bb w) s = .next u ∧
      (∀ k < 16, (new k = 3 ∨ refused k → bitsN (u.rd F.BAY_SAFE_LEVELS b) (2 * k) 2 = old k) ∧
        (new k ≠ 3 → ¬refused k → bitsN (u.rd F.BAY_SAFE_LEVELS b) (2 * k) 2 = new k)) ∧
      u.flag F.BAY_PWM_CTL_UNLOCKED b = false ∧
      ((∃ k < 16, refused k) → u.flag F.BAY_PWM_CTL_SAFE_REFUSED b = true ∧ Reported s u 0x0107 (srcBay b) 0) ∧
      ((∀ k < 16, ¬refused k) → u.flag F.BAY_PWM_CTL_SAFE_REFUSED b = s.flag F.BAY_PWM_CTL_SAFE_REFUSED b ∧ Unreported s u) ∧
      OnlyAt .BAY_SAFE b s u ∧ OnlyAt .BAY_PWM_CTL b s u ∧ Leaves [.BAY_SAFE, .BAY_PWM_CTL, .SLV_EVT] [.slv] (s.opened w.tenant.val) u)

/-- The lane states in which PERIOD and the reference may change (R124, R282). -/
def parkedState (x : LaneState) : Prop := x = .off ∨ x = .detect ∨ x = .negotiate ∨ x = .lost

/-- GLB_PWM_PER, GLB_PWM_SS and GLB_REF (R124, R136, R282): a change of PERIOD or of REF_SEL is taken with every lane in OFF, DETECT, NEGOTIATE
or LOST, and refused with its flag and event otherwise. -/
def deviceWrites : Prop :=
  ∀ (s : State) (w : BusWrite), s.MayWrite w →
    let o := s.opened w.tenant.val
    let per := F.GLB_PWM_PER_PERIOD.of w.value.toNat
    let sel := F.GLB_REF_REF_SEL.of w.value.toNat
    let idle : Prop := ∀ l < 48, parkedState (s.laneState l)
    (per < 400 ∨ 8000 < per ∨ per = s.period → ∃ u : State, exec (.glbPwmPer w) s = .next u ∧ u.period = s.period ∧
      u.pwm.perPend = s.pwm.perPend ∧ Leaves [.GLB_PWM_PER] [] o u) ∧
    (400 ≤ per → per ≤ 8000 → per ≠ s.period → idle → ∃ u : State, exec (.glbPwmPer w) s = .next u ∧ u.period = per ∧
      u.pwm = { s.pwm with perPend := some per } ∧ Leaves [.GLB_PWM_PER] [.pwm] o u) ∧
    (400 ≤ per → per ≤ 8000 → per ≠ s.period → ¬idle → ∃ u : State, exec (.glbPwmPer w) s = .next u ∧ u.period = s.period ∧
      u.flag F.GLB_PWM_PER_PER_REFUSED = true ∧ Reported s u 0x0109 srcDevice 0 ∧ Leaves [.GLB_PWM_PER, .SLV_EVT] [.slv] o u) ∧
    (∃ u : State, exec (.glbPwmSs w) s = .next u ∧ u.flag F.GLB_PWM_SS_EN = w.value.getLsbD 24 ∧
      u.flag F.GLB_PWM_SS_ACTIVE = s.flag F.GLB_PWM_SS_ACTIVE ∧
      (s.flag F.GLB_PWM_SS_ACTIVE = false → 1000 ≤ F.GLB_PWM_SS_FREQ.of w.value.toNat → F.GLB_PWM_SS_FREQ.of w.value.toNat ≤ 10000 →
        u.rd F.GLB_PWM_SS_FREQ = F.GLB_PWM_SS_FREQ.of w.value.toNat) ∧
      (s.flag F.GLB_PWM_SS_ACTIVE = true → u.rd F.GLB_PWM_SS_FREQ = s.rd F.GLB_PWM_SS_FREQ ∧
        u.rd F.GLB_PWM_SS_DEPTH = s.rd F.GLB_PWM_SS_DEPTH) ∧ Leaves [.GLB_PWM_SS] [] o u) ∧
    (s.flag F.SEC_STAT_SEALED = true ∨ sel = s.rd F.GLB_REF_REF_SEL ∨ sel = 3 → ∃ u : State, exec (.glbRef w) s = .next u.settle ∧
      u.rd F.GLB_REF_REF_SEL = s.rd F.GLB_REF_REF_SEL ∧ u.flag F.GLB_REF_REF_SETTLED = s.flag F.GLB_REF_REF_SETTLED ∧
      Leaves [.GLB_REF] [] o u) ∧
    (s.flag F.SEC_STAT_SEALED = false → sel ≠ s.rd F.GLB_REF_REF_SEL → sel ≠ 3 → ¬idle → ∃ u : State, exec (.glbRef w) s = .next u.settle ∧
      u.rd F.GLB_REF_REF_SEL = s.rd F.GLB_REF_REF_SEL ∧ u.flag F.GLB_REF_REF_REFUSED = true ∧ Reported s u 0x0909 srcDevice 1 ∧
      Leaves [.GLB_REF, .SLV_EVT] [.slv] o u) ∧
    (s.flag F.SEC_STAT_SEALED = false → sel ≠ s.rd F.GLB_REF_REF_SEL → sel ≠ 3 → idle → ∃ u : State, exec (.glbRef w) s = .next u.settle ∧
      u.rd F.GLB_REF_REF_SEL = sel ∧ u.flag F.GLB_REF_REF_SETTLED = false ∧ u.refOut = 0 ∧ (s.refOn = true → u.refRun = some 0) ∧
      Leaves [.GLB_REF, .MTR_STAT, .SLV_EVT] [.slv, .meters, .refRun, .refOut] o u)

/-- MTR_CFG (R291): MODE takes TEST only in a state that allows it, with 0x0905 and UNMET, and nothing of it while sealed; leaving TEST starts
accounting anew. -/
def meterModeWrites : Prop :=
  ∀ (s : State) (ln : Lane) (w : BusWrite), s.MayWrite w →
    let l := ln.val
    let o := s.opened w.tenant.val
    let mode := F.MTR_CFG_MODE.of w.value.toNat
    let old := s.rd F.MTR_CFG_MODE l
    (s.flag F.SEC_STAT_SEALED = true ∨ mode = old ∨ mode % 2 = 1 → ∃ u : State, exec (.mtrCfg ln w) s = .next u.settle ∧
      u.rd F.MTR_CFG_MODE l = old ∧ OnlyAt .MTR_CFG l s u ∧ Leaves [.MTR_CFG] [] o u) ∧
    (s.flag F.SEC_STAT_SEALED = false → mode = 2 → old ≠ 2 → (s.laneState l = .warping ∨ (s.laneState l).inService = true) →
      ∃ u : State, exec (.mtrCfg ln w) s = .next u.settle ∧ u.rd F.MTR_CFG_MODE l = old ∧ Reported s u 0x0909 (srcLane l) 2 ∧
        OnlyAt .MTR_CFG l s u ∧ Leaves [.MTR_CFG, .SLV_EVT] [.slv] o u) ∧
    (s.flag F.SEC_STAT_SEALED = false → mode = 2 → old ≠ 2 → s.laneState l ≠ .warping → (s.laneState l).inService = false →
      ∃ u : State, exec (.mtrCfg ln w) s = .next u.settle ∧ u.rd F.MTR_CFG_MODE l = 2 ∧ u.rd F.MTR_STAT_MODE_NOW l = 2 ∧
        u.flag F.MTR_STAT_UNMET l = true ∧ (u.meter l).counted = false ∧ Reported s u 0x0905 (srcLane l) 1 ∧ OnlyMeter l s u ∧
        OnlyAt .MTR_CFG l s u ∧ OnlyAt .MTR_STAT l s u ∧ Leaves [.MTR_CFG, .MTR_STAT, .MTR_TAP, .SLV_EVT] [.slv, .meters] o u) ∧
    (s.flag F.SEC_STAT_SEALED = false → mode = 0 → old = 2 → ∃ u : State, exec (.mtrCfg ln w) s = .next u.settle ∧
      u.rd F.MTR_CFG_MODE l = 0 ∧ u.rd F.MTR_STAT_MODE_NOW l = (if w.value.getLsbD 4 then 1 else 0) ∧ (u.meter l).counted = false ∧
      Reported s u 0x0905 (srcLane l) 0 ∧ OnlyMeter l s u ∧ OnlyAt .MTR_CFG l s u ∧
      Leaves [.MTR_CFG, .MTR_STAT, .MTR_TAP, .SLV_EVT] [.slv, .meters] o u)

/-- REED_CFG and LN_REED (R160, R164): PLAN asks for a plan of cause 5; a lane of a segment that is not planned takes its pin at once. -/
def reedWrites : Prop :=
  ∀ (s : State) (w : BusWrite), s.MayWrite w →
    let o := s.opened w.tenant.val
    (∀ c : Instr, c = .plan w ∨ c = .planEn w → ∃ u : State, exec c s = .next u.settle ∧
      (∀ g < 4, u.rdBit F.REED_CFG_PLAN_EN g = w.value.getLsbD g) ∧
      (∀ g < 4, vget u.pwm.reedPend g 0 = if w.value.getLsbD (4 + g) && w.value.getLsbD g then vget s.pwm.reedPend g 0 ||| 16
        else vget s.pwm.reedPend g 0) ∧
      (∀ l < 48, s.configured l = true → s.flag F.LN_REED_PIN_EN l = true → s.rdBit F.REED_CFG_PLAN_EN (s.segOf l) = true →
        w.value.getLsbD (s.segOf l) = false → u.rd F.LN_REED_BASE l = s.rd F.LN_REED_PIN_BASE l) ∧
      (∀ l < 48, s.rdBit F.REED_CFG_PLAN_EN (s.segOf l) = false ∨ w.value.getLsbD (s.segOf l) = true →
        u.rd F.LN_REED_BASE l = s.rd F.LN_REED_BASE l) ∧
      Leaves [.REED_CFG, .LN_REED] [.phases, .pwm] o u) ∧
    (∀ ln : Lane,
      let l := ln.val
      ∃ u : State, exec (.lnReed ln w) s = .next u.settle ∧ u.flag F.LN_REED_PIN_EN l = w.value.getLsbD 8 ∧
        u.rd F.LN_REED_PIN_BASE l = F.LN_REED_PIN_BASE.of w.value.toNat ∧
        (s.rdBit F.REED_CFG_PLAN_EN (s.segOf l) = true → u.rd F.LN_REED_BASE l = s.rd F.LN_REED_BASE l ∧
          (w.value.getLsbD 8 ≠ s.flag F.LN_REED_PIN_EN l ∨ F.LN_REED_PIN_BASE.of w.value.toNat ≠ s.rd F.LN_REED_PIN_BASE l →
            vget u.pwm.reedPend (s.segOf l) 0 = vget s.pwm.reedPend (s.segOf l) 0 ||| 16)) ∧
        (s.rdBit F.REED_CFG_PLAN_EN (s.segOf l) = false → w.value.getLsbD 8 = true → s.configured l = true →
          s.flag F.LN_REED_PIN_EN l = false → u.rd F.LN_REED_BASE l = F.LN_REED_PIN_BASE.of w.value.toNat) ∧
        OnlyAt .LN_REED l s u ∧ Leaves [.LN_REED] [.phases, .pwm] o u)

/-- GLB_THM_EN (R25, R366): a lane whose AUX is free takes it for its thermistor; one whose AUX another use holds is refused with 0x0114 and its
bit reads 0; a cleared bit releases AUX. Model's readings: log entry 34. -/
def thermistorEnables : Prop :=
  ∀ (s : State) (hi : Bool) (w : BusWrite), s.MayWrite w →
    ∃ u : State, exec (.glbThmEn hi w) s = .next u.settle ∧
      (∀ k < (if hi then 16 else 32),
        let l := (if hi then 32 else 0) + k
        let a := (s.lane l).aux
        (w.value.getLsbD k = true → a = .none → (u.lane l).aux = .thermistor ∧ u.thermEn l = true ∧ (u.lane l).auxSeen = false) ∧
        (w.value.getLsbD k = true → a ≠ .none → a ≠ .thermistor → (u.lane l).aux = a ∧ u.thermEn l = false ∧
          Recorded s u 0x0114 (srcLane l) 0) ∧
        (w.value.getLsbD k = true → a = .thermistor → u.lane l = s.lane l) ∧
        (w.value.getLsbD k = false → a = .thermistor → (u.lane l).aux = .none ∧ u.thermEn l = false) ∧
        (w.value.getLsbD k = false → a ≠ .thermistor → u.lane l = s.lane l ∧ u.thermEn l = false)) ∧
      (∀ l < 48, decide (32 ≤ l) ≠ hi → u.lane l = s.lane l) ∧
      Leaves [.GLB_THM_EN_LO, .GLB_THM_EN_HI, .SLV_EVT] [.slv, .lanes] (s.opened w.tenant.val) u

/-! ### Timers (chapter 16) -/

/-- The writes of TMR_CFG, TMR_CNT and TMR_CV (R380, R381, R383, R387): the prescaler starts anew, POP takes the oldest capture, a value arms
a one-shot and is ignored for a capture channel. Model's readings: log entry 110. -/
def timerWrites : Prop :=
  ∀ (s : State) (gg : TimerIx) (w : BusWrite), s.MayWrite w →
    let g := gg.val
    let o := s.opened w.tenant.val
    let t := s.timer g
    let v := w.value.toNat
    (∀ c : Instr, c = .tmrCfg gg w ∨ c = .pop w gg → ∃ u : State, exec c s = .next u ∧
      u.flag F.TMR_CFG_EN g = w.value.getLsbD 5 ∧ u.rd F.TMR_CFG_CSEL g = F.TMR_CFG_CSEL.of v ∧
      (F.TMR_CFG_PSC.of v ≤ 16 → s.flag F.TMR_CFG_EN g = false → u.rd F.TMR_CFG_PSC g = F.TMR_CFG_PSC.of v) ∧
      (16 < F.TMR_CFG_PSC.of v ∨ s.flag F.TMR_CFG_EN g = true → u.rd F.TMR_CFG_PSC g = s.rd F.TMR_CFG_PSC g) ∧
      u.timer g = { t with
        ph := if s.flag F.TMR_CFG_EN g = false ∧ w.value.getLsbD 5 = true then 0 else t.ph
        q := if w.value.getLsbD 12 then vupd t.q (F.TMR_CFG_CSEL.of v) (·.drop 1) else t.q } ∧
      OnlyTimer g s u ∧ OnlyAt .TMR_CFG g s u ∧ Leaves [.TMR_CFG] [.timers] o u) ∧
    (∃ u : State, exec (.tmrCnt gg w) s = .next u ∧ u.timer g = { t with count := v, ph := 0 } ∧ OnlyTimer g s u ∧ Leaves [] [.timers] o u) ∧
    (let k := s.rd F.TMR_CFG_CSEL g
     ∃ u : State, exec (.tmrCv gg w) s = .next u ∧
      (s.chMode g k = 3 → u.timer g = t) ∧
      (s.chMode g k ≠ 3 → vget (u.timer g).val k 0 = v ∧ vget (u.timer g).armed k false = (decide (s.chMode g k = 1) || vget t.armed k false) ∧
        (∀ j, j ≠ k → vget (u.timer g).val j 0 = vget t.val j 0 ∧ vget (u.timer g).armed j false = vget t.armed j false)) ∧
      (u.timer g).count = t.count ∧ (u.timer g).ph = t.ph ∧ (u.timer g).q = t.q ∧ (u.timer g).drops = t.drops ∧
      OnlyTimer g s u ∧ Leaves [] [.timers] o u)

/-- A write of TMR_CCFG (R382): a channel that newly takes a free pin drives it low; one whose pin is taken reads back ACT 0, with 0x0114; a
change of MODE empties the queue and disarms. Model's readings: log entry 110. -/
def channelWrites : Prop :=
  ∀ (s : State) (gg : TimerIx) (w : BusWrite), s.MayWrite w →
    let g := gg.val
    let byte := fun c : Nat => bitsN w.value.toNat (8 * c) 8
    let mode := fun c : Nat => bitsN (byte c) 0 2
    let act := fun c : Nat => bitsN (byte c) 2 2
    let pin := fun c : Nat => bitsN (byte c) 4 3
    ∃ u : State, exec (.tmrCcfg gg w) s = .next u.settle ∧
      (∀ c < 4, u.chPin g c = pin c ∧
        (mode c = 3 → act c = 3 → u.chMode g c = s.chMode g c ∧ (u.chAct g c = s.chAct g c ∨ u.chAct g c = 0)) ∧
        (mode c = 3 → act c ≠ 3 → u.chMode g c = 3 ∧ u.chAct g c = act c) ∧
        (mode c = 0 → u.chMode g c = 0 ∧ u.chAct g c = act c) ∧
        (mode c = 1 ∨ mode c = 2 → u.chMode g c = mode c ∧ (u.chAct g c = act c ∨ u.chAct g c = 0)) ∧
        (u.chMode g c ≠ s.chMode g c → vget (u.timer g).q c [] = [] ∧ vget (u.timer g).drops c 0 = 0 ∧ vget (u.timer g).armed c false = false) ∧
        (u.chMode g c = s.chMode g c → vget (u.timer g).q c [] = vget (s.timer g).q c [])) ∧
      ((∀ c < 4, mode c = 0 ∨ mode c = 3 ∧ act c ≠ 3 ∨ mode c ≠ 3 ∧ act c = 0) → u.tioDrv = s.tioDrv ∧ Unreported s u) ∧
      (∀ c < 4, (∀ d < 4, d ≠ c → mode d = s.chMode g d ∧ act d = s.chAct g d ∧ pin d = s.chPin g d) →
        (mode c = 1 ∨ mode c = 2) → act c ≠ 0 → s.chHolds g c = false →
        (s.pinTaken g c (pin c) = true → u.chAct g c = 0 ∧ Recorded s u 0x0114 (srcTio (pin c)) 0) ∧
        (s.pinTaken g c (pin c) = false → u.chAct g c = act c ∧ bitN u.tioDrv (pin c) = false)) ∧
      (u.timer g).count = (s.timer g).count ∧ (u.timer g).val = (s.timer g).val ∧ OnlyTimer g s u ∧ OnlyAt .TMR_CCFG g s u ∧
      Leaves [.TMR_CCFG, .SLV_EVT] [.outs, .slv, .timers, .tioDrv] (s.opened w.tenant.val) u

/-- A write of TMR_CTL (R385, R394): ARM loads the periodic channels of each named timer at staggered values; DROP_CLR clears the counts of
every timer. -/
def timerControl : Prop :=
  ∀ (s : State) (w : BusWrite), s.MayWrite w →
    ∀ c : Instr, c = .arm w ∨ c = .dropClr w → ∃ u : State, exec c s = .next u ∧
      (∀ g < 8,
        let per := (List.range 4).filter (fun k => s.chMode g k == 2)
        (w.value.getLsbD g = true → ∀ j < per.length, vget (u.timer g).val (per.getD j 0) 0 =
          ((s.timer g).count + s.rd F.TMR_STEP_STEP g + j * s.rd F.TMR_STEP_STEP g / per.length) % 2 ^ 32) ∧
        (∀ k < 4, w.value.getLsbD g = false ∨ s.chMode g k ≠ 2 → vget (u.timer g).val k 0 = vget (s.timer g).val k 0) ∧
        (w.value.getLsbD 16 = true → ∀ k < 4, vget (u.timer g).drops k 0 = 0) ∧
        (w.value.getLsbD 16 = false → (u.timer g).drops = (s.timer g).drops) ∧
        (u.timer g).count = (s.timer g).count ∧ (u.timer g).ph = (s.timer g).ph ∧ (u.timer g).armed = (s.timer g).armed ∧
        (u.timer g).q = (s.timer g).q) ∧
      Leaves [] [.timers] (s.opened w.tenant.val) u

/-- A write of 0 to STEP is out of range, and leaves it as it was (R385, R12). -/
def zeroStepIsIgnored : Prop :=
  ∀ (s : State) (w : BusWrite) (gg : TimerIx), s.MayWrite w → (s.tenant w.tenant.val).exists' = true → w.tenant.val % 4 = 0 → w.value = 0 →
    let off := Reg.TMR_STEP.info.addr + Reg.TMR_STEP.info.stride * gg.val
    ∃ u : State, exec (.registerWrite w.tenant (BitVec.ofNat 32 off) 4 [⟨0xF, w.value⟩]) s = .next u.settle ∧
      u.rd F.TMR_STEP_STEP gg.val = s.rd F.TMR_STEP_STEP gg.val ∧ Leaves [.TMR_STEP] [] (s.opened w.tenant.val) u

/-- Matches, overflows and captures (R380, R384, R386). Model's readings: log entry 111. -/
def timerEvents : Prop :=
  ∀ (s : State) (gg : TimerIx) (cc : Fin 4),
    let g := gg.val
    let c := cc.val
    let t := s.timer g
    let fl := 4 * g + c
    (s.flag F.TMR_CFG_EN g = false ∨ s.chWaits g c = false → exec (.timerMatch gg cc) s = .next s.begin) ∧
    (s.flag F.TMR_CFG_EN g = true → s.chWaits g c = true → ∃ u : State, exec (.timerMatch gg cc) s = .next u.settle ∧
      (u.timer g).count = vget t.val c 0 ∧ (u.timer g).ph = 0 ∧ u.rdBit F.TMR_CHF_FLAG fl = true ∧
      (s.chMode g c = 2 → vget (u.timer g).val c 0 = (vget t.val c 0 + s.rd F.TMR_STEP_STEP g) % 2 ^ 32) ∧
      (s.chMode g c = 1 → vget (u.timer g).armed c false = false ∧ vget (u.timer g).val c 0 = vget t.val c 0) ∧
      (s.rdBit F.TMR_CHF_FLAG fl = true → vget (u.timer g).drops c 0 = min (vget t.drops c 0 + 1) 31 ∧
        u.rdBit F.TMR_OVF_DROP_EVT g = true ∧ Reported s u 0x0D02 (srcTimer g) c) ∧
      (s.rdBit F.TMR_CHF_FLAG fl = false → (u.timer g).drops = t.drops ∧ Unreported s u) ∧
      (s.chAct g c = 0 → u.tioDrv = s.tioDrv) ∧
      (s.chAct g c ≠ 0 → bitN u.tioDrv (s.chPin g c) =
        (if s.chAct g c = 1 then true else if s.chAct g c = 2 then false else !bitN s.tioDrv (s.chPin g c))) ∧
      OnlyTimer g s u ∧ Leaves [.TMR_CHF, .TMR_OVF, .SLV_EVT] [.outs, .slv, .timers, .tioDrv] s u) ∧
    (s.flag F.TMR_CFG_EN g = false → exec (.timerOverflow gg) s = .next s.begin) ∧
    (s.flag F.TMR_CFG_EN g = true → ∃ u : State, exec (.timerOverflow gg) s = .next u.settle ∧ u.timer g = { t with count := 0, ph := 0 } ∧
      u.rdBit F.TMR_OVF_OVF g = true ∧ OnlyTimer g s u ∧ Leaves [.TMR_OVF] [.outs, .timers] s u) ∧
    (∀ rising : Bool,
      let sel := s.chAct g c = 2 ∨ s.chAct g c = (if rising then 0 else 1)
      (s.chMode g c ≠ 3 ∨ ¬sel → exec (.timerCapture gg cc rising) s = .next s.begin) ∧
      (s.chMode g c = 3 → sel → (vget t.q c []).length < 4 → ∃ u : State, exec (.timerCapture gg cc rising) s = .next u.settle ∧
        vget (u.timer g).q c [] = vget t.q c [] ++ [t.count] ∧ (u.timer g).count = t.count ∧ (u.timer g).drops = t.drops ∧
        u.rdBit F.TMR_CHF_FLAG fl = true ∧ OnlyTimer g s u ∧ Leaves [.TMR_CHF] [.outs, .timers] s u) ∧
      (s.chMode g c = 3 → sel → 4 ≤ (vget t.q c []).length → ∃ u : State, exec (.timerCapture gg cc rising) s = .next u ∧
        (u.timer g).q = t.q ∧ vget (u.timer g).drops c 0 = min (vget t.drops c 0 + 1) 31 ∧ u.rdBit F.TMR_OVF_DROP_EVT g = true ∧
        Reported s u 0x0D01 (srcTimer g) c ∧ OnlyTimer g s u ∧ Leaves [.TMR_OVF, .SLV_EVT] [.outs, .slv, .timers] s u))

/-! ### Writes with an effect of their own (chapters 8, 13 to 17) -/

/-- RTR_ROUTE, RTR_TIO, HIT_CLR, CKPT_NOW, CNT_CLR and the other control writes (R118, R240, R314, R336, R342, R355, R362).
Model's readings: log entries 71, 98. -/
def controlWrites : Prop :=
  ∀ (s : State) (w : BusWrite), s.MayWrite w →
    let o := s.opened w.tenant.val
    let v := w.value.toNat
    (∀ n : Fin 128,
      (∀ k, routeRefusal v = some k → ∃ u : State, exec (.rtrRoute n w) s = .next u.settle ∧ u.rd F.RTR_ERR_ENTRY = n.val ∧
        u.rd F.RTR_ERR_REASON = k ∧ u.flag F.RTR_ERR_ERR = true ∧ Leaves [.RTR_ERR] [] o u) ∧
      (routeRefusal v = none → ∃ u : State, exec (.rtrRoute n w) s = .next u.settle ∧ u.rd F.RTR_ROUTE_SRC n.val = F.RTR_ROUTE_SRC.of v ∧
        u.rd F.RTR_ROUTE_SIDX n.val = F.RTR_ROUTE_SIDX.of v ∧ u.rd F.RTR_ROUTE_TGT n.val = F.RTR_ROUTE_TGT.of v ∧
        u.flag F.RTR_ROUTE_EN n.val = w.value.getLsbD 31 ∧ OnlyAt .RTR_ROUTE n.val s u ∧ Leaves [.RTR_ROUTE] [.rtrLive] o u)) ∧
    (routeRefusal v = some 1 ↔ F.RTR_ROUTE_SRC.of v ≠ 0 ∧ srcCount (F.RTR_ROUTE_SRC.of v) = 0) ∧
    (∃ u : State, exec (.rtrTio w) s = .next u.settle ∧
      (∀ n < 8,
        let mode := bitsN v (2 * n) 2
        let mine := bitsN (u.rd F.RTR_TIO_MODE) (2 * n) 2
        (mode = 3 → mine = bitsN (s.rd F.RTR_TIO_MODE) (2 * n) 2 ∧ u.rdBit F.RTR_TIO_CLAIMED n = s.rdBit F.RTR_TIO_CLAIMED n) ∧
        (mode = 0 → mine = 0 ∧ u.rdBit F.RTR_TIO_CLAIMED n = false) ∧
        (mode = 1 ∨ mode = 2 → s.timerHolds n = false → mine = mode ∧ u.rdBit F.RTR_TIO_CLAIMED n = true) ∧
        (mode = 1 ∨ mode = 2 → s.timerHolds n = true → mine = 0 ∧ u.rdBit F.RTR_TIO_CLAIMED n = false ∧
          Recorded s u 0x0114 (srcTio n) 0)) ∧ Leaves [.RTR_TIO, .SLV_EVT] [.slv] o u) ∧
    (∃ u : State, exec (.hitClr w) s = .next u ∧ (∀ i < 4, u.rd F.RTR_HIT_HIT i = if w.value.getLsbD 0 then 0 else s.rd F.RTR_HIT_HIT i) ∧
      Leaves [.RTR_HIT] [] o u) ∧
    (∀ c : Instr, c = .ckptNow w ∨ c = .nvmCntClr w → ∃ u : State, exec c s = .next u ∧
      (w.value.getLsbD 1 = true → u.reg .NVM_ECC 0 = 0 ∧ u.reg .NVM_FOLDS 0 = 0) ∧
      (w.value.getLsbD 1 = false → u.reg .NVM_ECC 0 = s.reg .NVM_ECC 0 ∧ u.reg .NVM_FOLDS 0 = s.reg .NVM_FOLDS 0) ∧
      (w.value.getLsbD 0 = true → s.flag F.NVM_STAT_RECOVERED = true → s.nvm.closing = none → s.nvm.save = none →
        (s.ctr 288).stored < s.reading 288 → (s.ctr 288).canWrite = true → (s.ctr 288).st ≠ .void →
        u.nvm.save.isSome = true ∧ u.flag F.NVM_STAT_SAVING = true) ∧
      (w.value.getLsbD 0 = false → u.nvm = s.nvm ∧ u.reg .NVM_STAT 0 = s.reg .NVM_STAT 0) ∧
      Leaves [.NVM_STAT, .NVM_PF, .NVM_ECC, .NVM_FOLDS, .SLV_EVT] [.slv, .nvm] o u) ∧
    (∀ c : Instr, c = .flushNow w ∨ c = .slvCntClr w → ∃ u : State, exec c s = .next u ∧
      (w.value.getLsbD 1 = true → u.rd F.SLV_EVT_DROPS = 0 ∧ ∀ n < 16, u.reg .SLV_CCNT n = 0) ∧
      (w.value.getLsbD 1 = false → u.reg .SLV_EVT 0 = s.reg .SLV_EVT 0 ∧ ∀ n < 16, u.reg .SLV_CCNT n = s.reg .SLV_CCNT n) ∧
      (w.value.getLsbD 0 = true → s.flag F.NVM_STAT_RECOVERED = true → u.slv.opened = [] ∧
        (s.slv.pend ≠ [] → s.slv.flush = none → u.slv.flush = some .all ∧ u.slv.flushQ = s.slv.pend) ∧
        (s.slv.flush.isSome = true → u.slv.again = some .all)) ∧
      (w.value.getLsbD 0 = false ∨ s.flag F.NVM_STAT_RECOVERED = false → u.slv = s.slv ∧ u.nvm = s.nvm) ∧
      Leaves [.SLV_EVT, .SLV_CCNT] [.slv, .nvm] o u) ∧
    (∃ u : State, exec (.slvSnapAddr w) s = .next u ∧
      u.slv.sel = s.slv.sel.set (8 * s.rd F.SLV_SNAP_SEL_K + s.rd F.SLV_SNAP_SEL_N) w.value ∧ Leaves [] [.slv] o u) ∧
    (∀ bb : Bay, ∃ u : State, exec (.shtlCntClr bb w) s = .next u ∧
      u.rd F.BAY_SHTL_STAT_BUSY_CNT bb.val = (if w.value.getLsbD 16 then 0 else s.rd F.BAY_SHTL_STAT_BUSY_CNT bb.val) ∧
      u.flag F.BAY_SHTL_STAT_ACTIVE bb.val = s.flag F.BAY_SHTL_STAT_ACTIVE bb.val ∧ OnlyAt .BAY_SHTL_STAT bb.val s u ∧
      Leaves [.BAY_SHTL_STAT] [] o u) ∧
    (∀ c : Instr, c = .trdCfg w ∨ c = .trdCntClr w → ∃ u : State, exec c s = .next u ∧
      (∀ g < 4, u.rdBit F.TRD_CFG_SEG_EN g = w.value.getLsbD g ∧
        (s.holder g = 1 → w.value.getLsbD g = false → u.holder g = 0) ∧ (s.holder g ≠ 1 ∨ w.value.getLsbD g = true → u.holder g = s.holder g)) ∧
      u.flag F.TRD_CFG_PORT_EN = w.value.getLsbD 4 ∧ u.rd F.TRD_CFG_ALT_EN = F.TRD_CFG_ALT_EN.of v ∧
      (c = .trdCntClr w ∨ w.value.getLsbD 31 = true → u.reg .TRD_CNT 0 = 0) ∧
      (c = .trdCfg w → w.value.getLsbD 31 = false → u.reg .TRD_CNT 0 = s.reg .TRD_CNT 0) ∧
      Leaves [.SLV_EVT, .TRD_CFG, .TRD_STAT, .TRD_CNT, .BUS_STAT] [.slv, .segs] o u)

/-- The Dormant request (R405, R406): ignored without its key, refused with the first condition that fails, accepted otherwise.
Model's readings: log entry 124. -/
def dormantRequests : Prop :=
  ∀ (s : State) (w : BusWrite), s.MayWrite w →
    let o := s.opened w.tenant.val
    (w.value.toNat % 256 ≠ 0x3C ∨ s.power.stage ≠ .run → exec (.dorm w) s = .next o) ∧
    (w.value.toNat % 256 = 0x3C → s.power.stage = .run →
      (∀ k, o.dormRefusal = some k → ∃ u : State, exec (.dorm w) s = .next u ∧ u.flag F.GLB_PWR_STAT_DORM_REFUSED = true ∧
        u.rd F.GLB_PWR_STAT_RCAUSE = k ∧ Reported s u 0x1004 srcDevice k ∧ u.power = s.power ∧
        Leaves [.GLB_PWR_STAT, .SLV_EVT] [.slv] o u) ∧
      (o.dormRefusal = none → ∃ u : State, exec (.dorm w) s = .next u ∧ u.power = { s.power with stage := .entering, intakeOff := true } ∧
        u.nvm.closing = some .dormant ∧ u.flag F.GLB_PWR_STAT_DORM_REFUSED = s.flag F.GLB_PWR_STAT_DORM_REFUSED ∧
        (∀ l < 48, u.laneState l = .off))) ∧
    ((∃ l < 48, s.laneState l ≠ .off) → o.dormRefusal = some 1)

/-- A read of a low register returns the low word and latches the high word of the same value for its tenant (R515, R378, R322); a tenant
without the register aperture reads nothing there. Model's readings: log entry 20. -/
def latchingReads : Prop :=
  ∀ (s : State) (t : HostT),
    let n := t.val
    let c := s.ctr (s.rd F.NVM_TSEL_ID)
    let rows : List (Instr × Nat × Nat) :=
      [(.nvmTvalLo t, 0, s.reading (s.rd F.NVM_TSEL_ID)), (.nvmTstoLo t, 1, c.stored), (.nvmTaltLo t, 2, if c.st = .disputed then c.alt else 0),
       (.glbOptimeLo t, 3, if s.flag F.NVM_STAT_RECOVERED then s.opTime else 0)]
    ∀ row ∈ rows,
      (n % 4 ≠ 0 ∨ (s.tenant n).exists' = false → exec row.1 s = .next s.begin) ∧
      (n % 4 = 0 → (s.tenant n).exists' = true → ∃ u : State, exec row.1 s = .next u ∧
        Out.readData n (BitVec.ofNat 32 row.2.2) ∈ u.outs ∧
        u.tenant n = { s.tenant n with latch := vupd (s.tenant n).latch row.2.1 (fun _ => BitVec.ofNat 32 (row.2.2 / 2 ^ 32)) } ∧
        OnlyTenant n s u ∧ Leaves [.HST_LINK_A, .HST_LINK_B] [.outs, .tenants] s u)

/-! ### Rings and doorbells (chapter 18, R423 to R431) -/

/-- SQ_TAIL_DB (R425): the tail moves and the ring is fetched from; a doorbell of a disabled ring, beyond the ring or over its free entries
leaves the tail and counts a violation. -/
def tailDoorbells : Prop :=
  ∀ (s : State) (w : BusWrite),
    let t := w.tenant.val
    let o := s.opened t
    let v := F.HST_SQ_TAIL_DB_TAIL.of w.value.toNat
    let n := 2 ^ s.rd F.HST_SQ_CFG_SIZE t
    let head := s.rd F.HST_SQ_STAT_HEAD t
    let tail := s.rd F.HST_SQ_STAT_TAIL t
    let isOver : Prop := n - 1 < (tail + n - head) % n + (v + n - tail) % n
    (s.power.stage = .dormant → exec (.sqTailDb w) s = .next o.settle) ∧
    (s.power.stage ≠ .dormant → s.flag F.HST_SQ_CFG_EN t = false → exec (.sqTailDb w) s = .next (o.violation t 5).settle) ∧
    (s.power.stage ≠ .dormant → s.flag F.HST_SQ_CFG_EN t = true →
      (n ≤ v → ∃ u : State, exec (.sqTailDb w) s = .next (u.violation t 5).settle ∧ u.flag F.HST_T_ERR_DB_RANGE t = true ∧
        OnlyAt .HST_T_ERR t s u ∧ Leaves [.HST_T_ERR] [] o u) ∧
      (v < n → isOver → ∃ u : State, exec (.sqTailDb w) s = .next (u.violation t 6).settle ∧ u.flag F.HST_T_ERR_OVERRUN t = true ∧
        OnlyAt .HST_T_ERR t s u ∧ OnlyAt .HST_CQ_STAT t s u ∧ OnlyTenant t s u ∧
        Leaves [.HST_T_ERR, .HST_CQ_STAT, .HST_LINK_A, .HST_LINK_B] [.outs, .tenants] o u) ∧
      (v < n → ¬isOver → ∃ u : State, exec (.sqTailDb w) s = .next u.settle ∧ u.rd F.HST_SQ_STAT_TAIL t = v ∧
        u.rd F.HST_SQ_STAT_HEAD t = head ∧
        ((s.tenant t).fetching = none → s.flag F.HST_SQ_STAT_STOPPED t = false → s.quarT t = false → s.power.intakeOff = false →
          s.ringsDead = false → (s.tenant t).bme = true → (s.tenant t).exists' = true → v ≠ head → head < n →
          s.rd F.HST_T_ERR_OUTST t < 64 → s.rd F.HST_T_ERR_OUTST t + s.unreleased t + 1 < 2 ^ s.rd F.HST_CQ_CFG_SIZE t →
          ∃ m, 0 < m ∧ m ≤ 8 ∧ head + m ≤ n ∧ (u.tenant t).fetching = some m ∧
            Out.hostRead t (s.rd F.HST_SQ_BASE_LO_ADDR t * 2 ^ 12 + s.rd F.HST_SQ_BASE_HI_ADDR_HI t * 2 ^ 32 + 64 * head) (64 * m) ∈ u.outs) ∧
        OnlyAt .HST_SQ_STAT t s u ∧ OnlyTenant t s u ∧
        Leaves [.HST_SQ_STAT, .HST_LINK_A, .HST_LINK_B] [.outs, .tenants] o u))

/-- CQ_HEAD_DB (R430): the head moves over written entries only; those not yet signalled are signalled (R431). COAL_T ends the wait of an
unsignalled entry. Model's readings: log entry 129. -/
def headDoorbells : Prop :=
  (∀ (s : State) (w : BusWrite),
    let t := w.tenant.val
    let o := s.opened t
    let v := F.HST_CQ_HEAD_DB_HEAD.of w.value.toNat
    let n := 2 ^ s.rd F.HST_CQ_CFG_SIZE t
    let head := (s.tenant t).cqHead
    let bad : Prop := n ≤ v ∨ (s.rd F.HST_CQ_STAT_TAIL t + n - head) % n < (v + n - head) % n
    (s.power.stage = .dormant → exec (.cqHeadDb w) s = .next o.settle) ∧
    (s.power.stage ≠ .dormant → bad → ∃ u : State, exec (.cqHeadDb w) s = .next (u.violation t 5).settle ∧
      u.flag F.HST_T_ERR_DB_RANGE t = true ∧ OnlyAt .HST_T_ERR t s u ∧ Leaves [.HST_T_ERR] [] o u) ∧
    (s.power.stage ≠ .dormant → ¬bad → ∃ u : State, exec (.cqHeadDb w) s = .next u.settle ∧ (u.tenant t).cqHead = v ∧
      (u.tenant t).unsig = 0 ∧ OnlyTenant t s u ∧ Leaves [.HST_LINK_A, .HST_LINK_B] [.outs, .tenants] o u)) ∧
  (∀ (s : State) (ht : HostT),
    let t := ht.val
    let x := s.tenant t
    let k := s.rd F.HST_CQ_CFG_VEC t
    let idle : Prop := s.rd F.HST_CQ_CFG_COAL_T t = 0 ∨ x.unsig = 0 ∨ s.ringsDead = true ∨ x.bme = false
    (idle → exec (.msixCoalTimeout ht) s = .next s.begin) ∧
    (¬idle → ∃ u : State, exec (.msixCoalTimeout ht) s = .next u ∧ (u.tenant t).unsig = 0 ∧
      (x.msixEn = true → x.msixMask = false → (vget x.msix k ⟨0, 0, true⟩).masked = false → Out.msix t k ∈ u.outs) ∧
      (x.msixEn = true → x.msixMask = true → (u.tenant t).pba.getLsbD k = true ∧ u.outs = []) ∧
      OnlyTenant t s u ∧ Leaves [.HST_LINK_A, .HST_LINK_B] [.outs, .tenants] s u))

/-- HST_SQ_CFG and HST_CQ_CFG (R423): SIZE holds while the ring is enabled; the submission ring needs the completion ring, which stays enabled
while it is used; enabling starts a ring anew. Model's readings: log entry 126. -/
def ringEnables : Prop :=
  ∀ (s : State) (w : BusWrite),
    let t := w.tenant.val
    let o := s.opened t
    let v := w.value.toNat
    let sq := s.flag F.HST_SQ_CFG_EN t
    let cq := s.flag F.HST_CQ_CFG_EN t
    let want := w.value.getLsbD 8
    let used : Prop := sq = true ∨ s.rd F.HST_T_ERR_OUTST t ≠ 0
    (∃ u : State, exec (.hstSqCfg w) s = .next u ∧
      (want = true → cq = false → u.flag F.HST_SQ_CFG_EN t = sq) ∧ (want = false ∨ cq = true → u.flag F.HST_SQ_CFG_EN t = want) ∧
      u.rd F.HST_SQ_CFG_SIZE t = (if sq = false ∧ 4 ≤ F.HST_SQ_CFG_SIZE.of v ∧ F.HST_SQ_CFG_SIZE.of v ≤ 12 then F.HST_SQ_CFG_SIZE.of v
        else s.rd F.HST_SQ_CFG_SIZE t) ∧
      (sq = false → want = true → cq = true → u.rd F.HST_SQ_STAT_HEAD t = 0 ∧ u.rd F.HST_SQ_STAT_TAIL t = 0 ∧
        u.flag F.HST_SQ_STAT_STOPPED t = false ∧ u.tenants = s.tenants) ∧
      (sq = true ∨ want = false ∨ cq = false → u.reg .HST_SQ_STAT t = s.reg .HST_SQ_STAT t) ∧
      (sq = true → want = false → u.tenant t = { s.tenant t with fetching := none }) ∧
      OnlyAt .HST_SQ_CFG t s u ∧ OnlyAt .HST_SQ_STAT t s u ∧ OnlyTenant t s u ∧ Leaves [.HST_SQ_CFG, .HST_SQ_STAT] [.tenants] o u) ∧
    (∃ u : State, exec (.hstCqCfg w) s = .next u ∧
      (want = false → used → u.flag F.HST_CQ_CFG_EN t = cq) ∧ (want = true ∨ ¬used → u.flag F.HST_CQ_CFG_EN t = want) ∧
      u.rd F.HST_CQ_CFG_SIZE t = (if cq = false ∧ 4 ≤ F.HST_CQ_CFG_SIZE.of v ∧ F.HST_CQ_CFG_SIZE.of v ≤ 14 then F.HST_CQ_CFG_SIZE.of v
        else s.rd F.HST_CQ_CFG_SIZE t) ∧
      u.rd F.HST_CQ_CFG_VEC t = F.HST_CQ_CFG_VEC.of v ∧ u.rd F.HST_CQ_CFG_COAL_N t = F.HST_CQ_CFG_COAL_N.of v ∧
      u.rd F.HST_CQ_CFG_COAL_T t = F.HST_CQ_CFG_COAL_T.of v ∧
      (cq = false → want = true → u.rd F.HST_CQ_STAT_TAIL t = 0 ∧ u.rd F.HST_CQ_STAT_PHASE t = 1 ∧ (u.tenant t).cqHead = 0) ∧
      (cq = true ∨ want = false → u.reg .HST_CQ_STAT t = s.reg .HST_CQ_STAT t ∧ u.tenants = s.tenants) ∧
      OnlyAt .HST_CQ_CFG t s u ∧ OnlyAt .HST_CQ_STAT t s u ∧ OnlyTenant t s u ∧ Leaves [.HST_CQ_CFG, .HST_CQ_STAT] [.tenants] o u)

/-- SQ_FETCH_DONE (R426, R438): the entries join the tenant's fetched commands, the head passes them and OUTST counts them; a failed read
stops the ring. Model's readings: log entry 127. -/
def fetchesEnd : Prop :=
  ∀ (s : State) (ht : HostT) (es : List Fetched) (err : Option (Fin 5)),
    let t := ht.val
    let x := s.tenant t
    let c := Instr.sqFetchDone ht es err
    (x.fetching = none → exec c s = .next s.begin) ∧
    (∀ n, x.fetching = some n →
      let off : Prop := s.ringsDead = true ∨ s.power.intakeOff = true ∨ x.bme = false
      (off → ∃ u : State, exec c s = .next u ∧ u.tenant t = { x with fetching := none } ∧ OnlyTenant t s u ∧
        Leaves [] [.outs, .tenants] s u) ∧
      (¬off → err = none → es.length ≠ n → exec c s = .next s.begin) ∧
      (¬off → err = none → es.length = n → s.rd F.HST_SQ_CFG_SIZE t ≤ 12 → s.rd F.HST_T_ERR_OUTST t + n < 128 →
        ∃ u : State, exec c s = .next u ∧ u.rd F.HST_SQ_STAT_HEAD t = (s.rd F.HST_SQ_STAT_HEAD t + n) % 2 ^ s.rd F.HST_SQ_CFG_SIZE t ∧
          u.rd F.HST_T_ERR_OUTST t = s.rd F.HST_T_ERR_OUTST t + n ∧ (u.tenant t).fetched = x.fetched ++ es ∧ OnlyTenant t s u ∧
          OnlyAt .HST_SQ_STAT t s u ∧ OnlyAt .HST_T_ERR t s u ∧
          Leaves [.HST_SQ_STAT, .HST_T_ERR, .HST_LINK_A, .HST_LINK_B] [.outs, .tenants] s u) ∧
      (¬off → ∀ k, err = some k → ∃ u : State, exec c s = .next (u.violation t 4).settle ∧ u.rd F.HST_DMA_ERR_KIND = k.val ∧
        u.rd F.HST_DMA_ERR_TENANT = t ∧ u.flag F.HST_DMA_ERR_ERR = true ∧ u.flag F.HST_SQ_STAT_STOPPED t = true ∧
        u.flag F.HST_T_ERR_FAULT t = true ∧ (u.tenant t).fetching = none ∧ u.rd F.HST_SQ_STAT_HEAD t = s.rd F.HST_SQ_STAT_HEAD t ∧
        OnlyTenant t s u ∧ Leaves [.HST_DMA_ERR, .HST_DMA_ADDR_LO, .HST_DMA_ADDR_HI, .HST_SQ_STAT, .HST_T_ERR, .HST_CQ_STAT, .HST_LINK_A,
          .HST_LINK_B] [.outs, .tenants] s u))

/-- Memory writes to an aperture (R418 to R420, R516): one or two naturally aligned DWs; a DW without all its bytes is discarded; register
space is written by the Manager only, once the bank is loaded. Model's readings: log entries 21, 22. -/
def apertureWrites : Prop :=
  ∀ (s : State) (ht : HostT) (off : BitVec 32),
    let t := ht.val
    let o := s.opened t
    let a := off.toNat
    (∀ n ds, (s.tenant t).exists' = false → exec (.registerWrite ht off n ds) s = .next s.begin) ∧
    ((s.tenant t).exists' = true →
      (∀ n ds, ¬((n = 4 ∨ n = 8) ∧ a % n = 0 ∧ 4 * ds.length = n) → ∃ u : State, exec (.registerWrite ht off n ds) s = .next (u.violation t 8) ∧
        u.flag F.HST_T_ERR_BAD_ACCESS t = true ∧ OnlyAt .HST_T_ERR t s u ∧ Leaves [.HST_T_ERR] [] o u) ∧
      (∀ d : WriteDw, a % 4 = 0 → d.be ≠ 0xF#4 → exec (.registerWrite ht off 4 [d]) s = .next o.settle) ∧
      (∀ v : Word, a % 4 = 0 → t % 4 = 0 → a < 0x50000 →
        (s.flag F.NVM_STAT_PLOADED = false → ∃ u : State, exec (.registerWrite ht off 4 [⟨0xF, v⟩]) s = .next u.settle ∧
          u.flag F.HST_T_ERR_WR_DENIED t = true ∧ OnlyAt .HST_T_ERR t s u ∧ Leaves [.HST_T_ERR] [] o u) ∧
        (s.flag F.NVM_STAT_PLOADED = true → s.roleOf t ≠ 3 → ∃ u : State,
          exec (.registerWrite ht off 4 [⟨0xF, v⟩]) s = .next (u.violation t 7).settle ∧ u.flag F.HST_T_ERR_WR_DENIED t = true ∧
          OnlyAt .HST_T_ERR t s u ∧ Leaves [.HST_T_ERR] [] o u) ∧
        (s.flag F.NVM_STAT_PLOADED = true → s.roleOf t = 3 → decodeAddr a = none →
          exec (.registerWrite ht off 4 [⟨0xF, v⟩]) s = .next o.settle)) ∧
      (∀ v : Word, a % 4 = 0 → t % 4 ≠ 0 → 0x4000 ≤ a → exec (.registerWrite ht off 4 [⟨0xF, v⟩]) s = .next o.settle))

/-! ### Ports, functions, links (R403, R412 to R415, R439) -/

/-- A function has been reset (R415, R467): its registers hold their reset words, its rings, streams and messages are empty, and it is
Observer unless it is Manager or the sealing tenant. -/
structure FunctionWasReset (s u : State) (t : Nat) : Prop where
  regs : ∀ r ∈ tenantRegs, u.reg r t = BitVec.ofNat 32 r.info.reset
  rings : (u.tenant t).fetched = [] ∧ (u.tenant t).fetching = none ∧ (u.tenant t).cqHead = 0 ∧ (u.tenant t).unsig = 0
  config : (u.tenant t).bme = false ∧ (u.tenant t).d3hot = false ∧ (u.tenant t).msixEn = false ∧ (u.tenant t).pba = 0
  streams : ∀ k < 4, vget (u.tenant t).streams k none = none
  beat : (u.tenant t).hbInt = 1000
  role : u.roleOf t = if s.roleOf t = 3 ∨ s.flag F.SEC_STAT_SEALED = true ∧ s.rd F.SEC_STAT_SEALER = t then s.roleOf t else 0
  waits : ∀ w ∈ u.waits, w.cmd.tenant ≠ t

/-- PORT_RESET, FUNCTION_LEVEL_RESET and the links (R403, R413 to R415, R439). Model's readings: log entries 23, 132, 133. -/
def Obligations.PortsAndLinks : Prop :=
  ∀ s : State,
    (∀ (port : Fin 2) (kind : Fin 3), (∀ k < 4, s.quarT (4 * port.val + k) = false) →
      let x := port.val
      let perst := if kind = 0 then true else s.perst x
      ∃ u : State, exec (.portReset port kind) s = .next u.settle ∧ Reported s u 0x1006 srcDevice x ∧
        u.flag (if x = 0 then F.GLB_PORT_STAT_A_EVT else F.GLB_PORT_STAT_B_EVT) = true ∧ u.perst x = perst ∧ (u.linkOf x).1 = false ∧
        (u.port x).training = ((s.port x).started && !perst) ∧ (∀ k < 4, FunctionWasReset s u (4 * x + k)) ∧
        (∀ k < 4, (u.tenant (4 * x + k)).exists' = (decide (k = 0) || bitN (s.rd (if x = 0 then F.HST_CTL_FN_EN_A else F.HST_CTL_FN_EN_B)) k)) ∧
        (∀ t < 8, portOf t ≠ x → u.tenant t = s.tenant t ∧ u.roleOf t = s.roleOf t ∧ ∀ r ∈ tenantRegs, u.reg r t = s.reg r t) ∧
        Leaves (.GLB_PORT_STAT :: .SLV_EVT :: .SEC_ROLE :: .HST_BUDGET :: (if x = 0 then .HST_LINK_A else .HST_LINK_B) :: tenantRegs)
          [.outs, .slv, .tenants, .ports, .waits, .sec, .portM] s u) ∧
    (∀ ht : HostT,
      let t := ht.val
      ((s.tenant t).exists' = false → exec (.functionLevelReset ht) s = .next s.begin) ∧
      ((s.tenant t).exists' = true → s.quarT t = false → ∃ u : State, exec (.functionLevelReset ht) s = .next u.settle ∧
        FunctionWasReset s u t ∧ Unreported s u ∧ OnlyTenant t s u ∧ (∀ r ∈ tenantRegs, OnlyAt r t s u) ∧
        (∀ k < 8, k ≠ t → u.roleOf k = s.roleOf k) ∧
        Leaves (.SEC_ROLE :: .HST_BUDGET :: tenantRegs) [.outs, .tenants, .waits, .sec, .portM] s u) ∧
      (∀ enable, ∃ u : State, exec (.busMasterDisable ht enable) s = .next u ∧ (u.tenant t).bme = enable ∧
        (enable = false → u.flag F.HST_SQ_STAT_STOPPED t = true ∧ (u.tenant t).fetching = none) ∧
        (enable = true → u.reg .HST_SQ_STAT t = s.reg .HST_SQ_STAT t ∧ (u.tenant t).fetching = (s.tenant t).fetching) ∧
        OnlyTenant t s u ∧ OnlyAt .HST_SQ_STAT t s u ∧ Leaves [.HST_SQ_STAT] [.outs, .tenants] s u) ∧
      (∀ enter, s.sec.promoDue = false → ∃ u : State, exec (.pciPmD3hot ht enter) s = .next u ∧
        u.tenant t = { s.tenant t with d3hot := enter } ∧ OnlyTenant t s u ∧ Leaves [] [.outs, .tenants] s u)) ∧
    (∀ port : Fin 2,
      let x := port.val
      let lnk : Reg := if x = 0 then .HST_LINK_A else .HST_LINK_B
      let pm := if x = 0 then F.HST_LINK_A_PM else F.HST_LINK_B_PM
      let en := if x = 0 then F.HST_LINK_A_LTR_EN else F.HST_LINK_B_LTR_EN
      let idle := if x = 0 then F.HST_LINK_A_LTR_IDLE else F.HST_LINK_B_LTR_IDLE
      (∃ u : State, exec (.linkTraining port) s = .next u ∧ u.perst x = false ∧ (u.port x).wakeLow = false ∧
        ((s.port x).started = true → (s.linkOf x).1 = false → (u.port x).training = true) ∧
        Leaves [.GLB_PORT_STAT] [.outs, .ports] s u) ∧
      (∀ (gen width : Fin 4) ltr aspm fns,
        let can : Prop := (s.port x).training = true ∧ gen ≠ 0 ∧ (width = 1 ∨ width = 2)
        (¬can → exec (.linkUp port gen width ltr aspm fns) s = .next s.begin) ∧
        (can → s.sec.promoDue = false → ∃ u : State, exec (.linkUp port gen width ltr aspm fns) s = .next u ∧
          u.linkOf x = (true, gen.val, width.val) ∧ u.rd pm = 0 ∧ u.flag en = ltr ∧ (u.port x).training = false ∧ (u.port x).aspmEn = aspm ∧
          (∀ k < 4, ∀ f, fns.toList[k]? = some f → u.tenant (4 * x + k) =
            { s.tenant (4 * x + k) with bme := f.bme, msixEn := f.msixEn, msixMask := f.msixMask }) ∧
          (∀ t, portOf t ≠ x → u.tenant t = s.tenant t) ∧ Leaves [lnk] [.outs, .tenants, .ports] s u)) ∧
      (∀ sub : Fin 3,
        let can : Prop := (s.linkOf x).1 = true ∧ (s.port x).aspmEn = true ∧ s.rd pm = 0
        (¬can → exec (.aspmL1Entry port sub) s = .next s.begin) ∧
        (can → ∃ u : State, exec (.aspmL1Entry port sub) s = .next u ∧ u.rd pm = sub.val + 1 ∧ u.outs = [.l1 x] ∧ Leaves [lnk] [.outs] s u)) ∧
      (s.flag en = false ∨ s.flag idle = true ∨ s.portActive x = true → exec (.ltrIdle port) s = .next s.begin) ∧
      (s.flag en = true → s.flag idle = false → s.portActive x = false → ∃ u : State, exec (.ltrIdle port) s = .next u ∧
        u.flag idle = true ∧ u.outs = [.ltr x true] ∧ Leaves [lnk] [.outs] s u))

/-! ### The event recorder and the flash (chapters 13, 14) -/

/-- A report becomes a new record or a repeat of an open one, or is lost when no record can be opened (R337, R338, R341, R347).
Model's readings: log entry 100. -/
def reportsOpenRecords : Prop :=
  ∀ s : State,
    (s.slv.intake = [] ∨ s.flag F.NVM_STAT_RECOVERED = false ∨ s.slv.sealedOff = true → exec .selvedgeReport s = .next s.begin) ∧
    (∀ r rest, s.slv.intake = r :: rest → s.flag F.NVM_STAT_RECOVERED = true → s.slv.sealedOff = false →
      (∀ x, s.repeats r = some x → x.rept + 1 < 0xFFFFFF → x.code = r.code ∧ x.src = r.src ∧ x.flags = r.flags ∧ x.seq ∈ s.slv.opened ∧
        ∃ u : State, exec .selvedgeReport s = .next u ∧ u.slv.intake = rest ∧ u.slv.opened = s.slv.opened ∧ u.slv.pend = s.slv.pend ∧
          (∃ t, u.ramRec x.seq = some { x with rept := x.rept + 1, tLast := t }) ∧ Leaves [] [.outs, .slv] s u) ∧
      (s.repeats r = none → s.canOpen = true → s.slv.lost = 0 → ownContent r.code = false → s.rd F.SLV_CFG_COAL ≠ 0 →
        s.slv.opened.length < 64 → s.slv.pend.length < 383 →
        let q := s.rd F.SLV_NEXT_NEXT
        ∃ u : State, exec .selvedgeReport s = .next u ∧ u.slv.intake = rest ∧ u.rd F.SLV_NEXT_NEXT = (q + 1) % 2 ^ 32 ∧
          u.slv.pend = s.slv.pend ++ [q] ∧ u.slv.opened = s.slv.opened ++ [q] ∧ u.nvm = s.nvm ∧
          (∃ x, u.ramRec q = some x ∧ x.code = r.code ∧ x.src = r.src ∧ x.flags = r.flags ∧ x.rept = 0 ∧ x.tb = r.tb % 2 ^ 32 ∧
            x.snap = r.snap) ∧
          Leaves [.SLV_EVT, .SLV_NEXT, .SLV_CCNT, .HST_LINK_A, .HST_LINK_B, .HST_CQ_STAT] [.outs, .tenants, .slv] s u) ∧
      (s.repeats r = none → s.canOpen = false → ∃ u : State, exec .selvedgeReport s = .next u ∧ u.slv.intake = rest ∧
        u.slv.lost = s.slv.lost + 1 ∧ u.rd F.SLV_EVT_DROPS = min (s.rd F.SLV_EVT_DROPS + 1) 0xFFFF ∧ u.slv.pend = s.slv.pend ∧
        Leaves [.SLV_EVT] [.outs, .slv] s u)) ∧
    (∀ r, s.rd F.SLV_CFG_COAL = 0 → s.repeats r = none) ∧
    (∀ slot : Fin 64,
      (s.slv.opened[slot.val]? = none → exec (.recordClose slot) s = .next s.begin) ∧
      (∀ q, s.slv.opened[slot.val]? = some q → ∃ u : State, exec (.recordClose slot) s = .next u ∧
        u.slv.opened = s.slv.opened.filter (· != q) ∧ u.slv.pend = s.slv.pend ∧
        (∀ x, s.ramRec q = some x → s.rdBit F.SLV_CFG_FLUSH_MASK (x.code / 256 - 1) = true → q ∈ s.slv.pend → s.slv.flush = none →
          u.slv.flush = some .closed ∧ q ∈ u.slv.flushQ) ∧
        (∀ x, s.ramRec q = some x → s.rdBit F.SLV_CFG_FLUSH_MASK (x.code / 256 - 1) = false → u.slv.flush = s.slv.flush ∧ u.nvm = s.nvm) ∧
        Leaves [] [.outs, .slv, .nvm] s u))

/-- What follows a completed flash operation: idle banks take up work, a save goes on. -/
def afterFlash (u : State) : State := (u.kickAll.saveStep).closeIfDone.softAdvance

/-- The flash (R304, R306, R312, R314, R330, R345): cells, log rows and erases complete or fail; a due checkpoint starts, or follows the save
in progress. Model's readings: log entry 93. -/
def flashOperations : Prop :=
  ∀ s : State,
    (s.flag F.NVM_STAT_RECOVERED = false ∨ s.nvm.closing.isSome = true → exec .checkpoint s = .next s.begin) ∧
    (s.flag F.NVM_STAT_RECOVERED = true → s.nvm.closing = none →
      (s.nvm.save.isSome = true → ∃ u : State, exec .checkpoint s = .next u ∧ u.nvm = { s.nvm with ckptDue := true } ∧
        Leaves [] [.outs, .nvm] s u) ∧
      (s.nvm.save = none → (s.ctr 288).stored < s.reading 288 → (s.ctr 288).canWrite = true → (s.ctr 288).st ≠ .void →
        ∃ u : State, exec .checkpoint s = .next u ∧ u.nvm.save.isSome = true ∧ u.flag F.NVM_STAT_SAVING = true ∧
          u.rd F.NVM_PF_CKPT_CNT = s.rd F.NVM_PF_CKPT_CNT ∧ Leaves [.NVM_STAT, .NVM_PF, .SLV_EVT] [.outs, .slv, .nvm] s u)) ∧
    (∀ bk : Fin 4,
      let n := bk.val
      let b := s.bank n
      (∀ ok, b.prog = none → exec (.flashProgramDone bk ok) s = .next s.begin) ∧
      (∀ c inc save, b.prog = some (.cell c inc save 0) → c < 304 → c ≠ 288 → c ≠ 299 → (s.ctr c).sector.used + 1 < slotsPerSector →
        (∃ u : State, exec (.flashProgramDone bk true) s = .next (afterFlash u) ∧ u.ctr c = (s.ctr c).push (.ok inc save) ∧
          (∀ k, k ≠ c → u.ctr k = s.ctr k) ∧ u.bank n = { b with prog := none } ∧ Leaves [] [.outs, .nvm] s u) ∧
        (ctrBank c = n → inc ≤ 0xFFFFFFFF → ∃ u : State, exec (.flashProgramDone bk false) s = .next (afterFlash u) ∧
          u.ctr c = (s.ctr c).push .torn ∧ (∀ k, k ≠ c → u.ctr k = s.ctr k) ∧
          u.bank n = { b with prog := none, progQ := .cell c inc save 0 :: b.progQ } ∧ Reported s u 0x0A10 srcDevice 1 ∧
          u.flag F.NVM_STAT_NVM_FAIL = true ∧ Leaves [.NVM_STAT, .NVM_EVT, .NVM_ELAST, .SLV_EVT] [.outs, .slv, .nvm] s u)) ∧
      (∀ q cause x, b.prog = some (.slv q) → s.slv.sealedOff = true → s.waits = [] → s.slv.flush = some (.marker cause) →
        s.slv.flushQ = [q] → s.ramRec q = some x →
        ∃ u : State, exec (.flashProgramDone bk true) s = .next (afterFlash u) ∧ u.slv.log = tabSet s.slv.log (q % 8192) (.held x) ∧
          u.slv.pend = s.slv.pend.filter (· != q) ∧ u.slv.flush = none ∧ u.slv.opened = [] ∧ Leaves [] [.outs, .slv, .nvm] s u) ∧
      (∀ ok, b.erase = none → exec (.flashEraseDone bk ok) s = .next s.begin ∧ exec (.eraseSuspendDone bk) s = .next s.begin) ∧
      (∀ e, b.erase = some e →
        (b.tries < 3 → ∃ u : State, exec (.flashEraseDone bk false) s = .next u ∧ u.bank n = { b with tries := b.tries + 1 } ∧
          Leaves [] [.outs, .nvm] s u) ∧
        (∀ k, e = .slv k → 3 ≤ b.tries → ∃ u : State, exec (.flashEraseDone bk false) s = .next (u.kickAll.softAdvance) ∧
          (u.bank n).erase = none ∧ Reported s u 0x0A10 srcDevice 2 ∧ u.flag F.NVM_STAT_NVM_FAIL = true ∧
          Leaves [.NVM_STAT, .NVM_EVT, .NVM_ELAST, .SLV_EVT] [.outs, .slv, .nvm] s u) ∧
        (∀ k, e = .slv k → ∃ u : State, exec (.flashEraseDone bk true) s = .next (afterFlash u) ∧
          (∀ j, j / 32 = k → tabGet? u.slv.log j = none) ∧ (∀ j, j / 32 ≠ k → (tabGet? u.slv.log j).isSome = (tabGet? s.slv.log j).isSome) ∧
          Leaves [] [.outs, .slv, .nvm] s u) ∧
        (∀ c x, e = .tally c x false → c < 304 → (s.ctr c).active < 2 → x = 1 - (s.ctr c).active → (s.ctr c).st = .normal →
          (s.ctr c).full = false → s.nvm.resolve = none →
          ∃ u : State, exec (.flashEraseDone bk true) s = .next (afterFlash u) ∧
            u.ctr c = { (s.ctr c).setSector x .erased with held := false } ∧ (∀ k, k ≠ c → u.ctr k = s.ctr k) ∧
            u.rd F.NVM_FOLDS_ERASES = min (s.rd F.NVM_FOLDS_ERASES + 1) 0xFFFF ∧ Leaves [.NVM_FOLDS] [.outs, .nvm] s u) ∧
        (s.nvm.closing.isSome = false → e.isTally = true ∨ b.progQ = [] → exec (.eraseSuspendDone bk) s = .next s.begin) ∧
        (s.nvm.closing.isSome = false → e.isTally = false → b.progQ ≠ [] → ∃ u : State, exec (.eraseSuspendDone bk) s = .next (u.kick n) ∧
          u.bank n = { b with suspended := true } ∧ Leaves [] [.outs, .nvm] s u) ∧
        (s.nvm.closing.isSome = true → ∃ u : State, exec (.eraseSuspendDone bk) s = .next u.kickAll ∧
          u.bank n = { b with erase := none, suspended := false, eraseQ := e :: b.eraseQ } ∧ Leaves [] [.outs, .nvm] s u)))

/-! ### Start-up, resets, Dormant (chapter 17) -/

/-- A device reset of a cause of Table 17-2 that is no soft reset has taken place (R395, R400, R402): the registers hold their reset words, but
for what shows pins, the fields no reset but power-on changes, and the cause; the flash keeps what it holds. -/
structure DeviceWasReset (s u : State) (cause : Nat) : Prop where
  queue : u.pending = s.pending
  why : u.rd F.GLB_BOOT_CAUSE = cause
  regs : ∀ r i, i < r.info.count →
    r ∉ [.GLB_BOOT, .GLB_TRIP, .LN_TRIP, .GLB_PF, .GLB_PORT_STAT, .GLB_CLK_CFG, .GLB_CLK_STAT, .HST_CTL, .GLB_SCRATCH] →
    u.reg r i = BitVec.ofNat 32 r.info.reset
  pins : u.safeLow = s.safeLow ∧ u.rd F.GLB_TRIP_FIN_LIVE = s.rd F.GLB_TRIP_FIN_LIVE ∧ u.flag F.GLB_PF_PFI_LIVE = s.flag F.GLB_PF_PFI_LIVE
  scratch : ∀ i < 8, u.rd F.GLB_SCRATCH_DATA i = if cause = 1 then 0 else s.rd F.GLB_SCRATCH_DATA i
  latch : u.glbLatch = false ∧ u.flag F.GLB_PF_PF_STATE = false ∧ u.flag F.GLB_CLK_STAT_PLL_LOCK = false
  lanes : ∀ l < 48, u.laneState l = .off ∧ (u.lane l).owner = none
  boot : u.power.boot = .waitXin ∧ u.power.stage = .run ∧ u.power.pump = false
  time : u.tb = if cause = 1 then 0 else s.tb
  jtag : cause = 1 → u.sec.jtagIr = 3
  flash : (∀ n < 4, (s.bank n).prog = none) → u.slv.log = s.slv.log ∧ u.nvm.bank0 = s.nvm.bank0 ∧ u.nvm.bank1 = s.nvm.bank1 ∧
    ∀ c < 304, (u.ctr c).s0 = (s.ctr c).s0 ∧ (u.ctr c).s1 = (s.ctr c).s1

/-- Power-on reset, RESET_N, and the soft reset's own reset (R395, R400, R401, R402). A RESET_N pulse between 100 ns and 1 us resets or not, as a
free value says (the model's choice, log entry 10: the spec states neither). Model's readings: log entries 114, 115, 117, 121. -/
def deviceResets : Prop :=
  ∀ s : State,
    (∃ u : State, exec .powerOnReset s = .next u ∧ DeviceWasReset s u 1) ∧
    (∀ ns, (ns < 100 → exec (.resetN ns) s = .next s.begin) ∧
      (1000 ≤ ns → ∃ u : State, exec (.resetN ns) s = .next u ∧ DeviceWasReset s u 2) ∧
      (100 ≤ ns → ns < 1000 → ∃ u : State, exec (.resetN ns) s = .next u ∧
        (DeviceWasReset s u 2 ∨ Leaves [] [.outs, .free] s u))) ∧
    (¬(s.power.stage = .softReset ∧ s.closingDone = true ∧ s.nvm.closing = some .softReset) → exec .softResetCycle s = .next s.begin) ∧
    (s.power.stage = .softReset → s.closingDone = true → s.nvm.closing = some .softReset → ∃ u : State,
      exec .softResetCycle s = .next u.pinTrips.settle ∧ u.pending = s.pending ∧ u.rd F.GLB_BOOT_CAUSE = 3 ∧ u.power.boot = .recovery ∧
      u.power.stage = .run ∧ u.tb = s.tb ∧ u.glbLatch = false ∧ u.waits = [] ∧
      u.flag F.GLB_CLK_STAT_PLL_LOCK = s.flag F.GLB_CLK_STAT_PLL_LOCK ∧ (∀ p < 2, (u.linkOf p).1 = (s.linkOf p).1) ∧
      u.flag F.NVM_STAT_RECOVERED = false ∧ u.flag F.NVM_STAT_PLOADED = false ∧
      (∀ l < 48, u.laneState l = .off ∧ (u.lane l).owner = none) ∧ (∀ i < 8, u.rd F.GLB_SCRATCH_DATA i = s.rd F.GLB_SCRATCH_DATA i))

/-- Table 17-1 (R395 to R399): XIN, the PLL with its three retries, the bays one by one, the charge pump; then recovery and the bank load, and
STARTED once everything is ready. Model's readings: log entries 113, 119. -/
def startUpSteps : Prop :=
  ∀ s : State,
    let x := s.power
    (∃ u : State, exec .xinReady s = .next u ∧
      u.power = { x with xinAbsent := false, boot := if x.boot = .waitXin then .pllEnabled else x.boot } ∧ Leaves [] [.outs, .power] s u) ∧
    (x.boot ≠ .pllEnabled → exec .pllLock s = .next s.begin ∧ exec .pllRetry s = .next s.begin) ∧
    (x.boot = .pllEnabled →
      (x.stage ≠ .waking → ∃ u : State, exec .pllLock s = .next u.pinTrips.settle ∧ u.flag F.GLB_CLK_STAT_PLL_LOCK = true ∧
        u.flag F.GLB_BAY_STAT_AN_ON 0 = true ∧ u.power = { x with boot := .bays 1 } ∧ u.refOn = true ∧ u.refRun = some 0 ∧
        Leaves [.GLB_CLK_STAT, .GLB_BAY_STAT] [.outs, .power, .refOn, .refRun, .refOut] s u) ∧
      (x.stage = .waking → ∃ u : State, exec .pllLock s = .next u.pinTrips.settle ∧ u.flag F.GLB_CLK_STAT_PLL_LOCK = true ∧
        u.tb = (s.tb + (x.ticks * 390625 + s.rd F.TMR_MKFR_FRAC) / 64) % 2 ^ 64 ∧
        u.rd F.TMR_MKFR_FRAC = (x.ticks * 390625 + s.rd F.TMR_MKFR_FRAC) % 64 ∧ u.flag F.GLB_PWR_STAT_WOKE = true ∧
        u.rd F.GLB_PWR_STAT_WSRC = x.wakeSrc % 16 ∧ u.power.boot = .bays 1 ∧ u.power.intakeOff = false ∧ u.slv.sealedOff = false) ∧
      (x.tries < 3 → ∃ u : State, exec .pllRetry s = .next u ∧ u.power = { x with tries := x.tries + 1 } ∧
        u.rd F.GLB_BOOT_PLL_TRIES = x.tries + 1 ∧ Reported s u 0x1007 srcDevice (x.tries + 1) ∧
        Leaves [.GLB_BOOT, .SLV_EVT] [.outs, .slv, .power] s u) ∧
      (3 ≤ x.tries → ∃ u : State, exec .pllRetry s = .next u ∧ u.power = { x with boot := .halted } ∧ Leaves [] [.outs, .power] s u)) ∧
    (∀ bb : Bay,
      let b := bb.val
      (x.boot ≠ .bays b → exec (.bayAnalogueEnable bb) s = .next s.begin) ∧
      (x.boot = .bays b → ∃ u : State, exec (.bayAnalogueEnable bb) s = .next u ∧ u.flag F.GLB_BAY_STAT_AN_ON b = true ∧
        u.power = { x with boot := if b = 11 then .pump else .bays (b + 1) } ∧ OnlyAt .GLB_BAY_STAT b s u ∧
        Leaves [.GLB_BAY_STAT] [.outs, .power] s u)) ∧
    (x.boot ≠ .pump → exec .chargePumpReady s = .next s.begin) ∧
    (x.boot = .pump → x.stage ≠ .waking → ∃ u : State, exec .chargePumpReady s = .next u ∧
      u.power = { x with pump := true, boot := .recovery } ∧
      (∀ p < 2, (u.port p).started = true ∧ (s.perst p = false → (s.linkOf p).1 = false → (u.port p).training = true)) ∧
      Leaves [] [.outs, .power, .ports] s u) ∧
    (x.boot = .pump → x.stage = .waking → ∃ u : State, exec .chargePumpReady s = .next u.settle ∧
      u.power = { x with pump := true, boot := .done, stage := .run } ∧ u.nvm.closing = none ∧ u.nvm.closed = false ∧
      (∀ p < 2, (u.port p).started = true) ∧ Leaves [.SLV_EVT] [.outs, .power, .ports, .slv, .nvm] s u)

/-- Recovery, the bank load and the end of start-up (R318, R326, R346, R398, Table 17-1 steps 6 to 11). An event is reported, or counted lost.
Model's readings: log entries 26, 122, 123. -/
def recoveryAndLoad : Prop :=
  ∀ s : State,
    let x := s.power
    let told := fun (u : State) (code flags : Nat) =>
      (∃ r ∈ u.slv.intake, r.code = code ∧ r.src = srcDevice ∧ r.flags = flags % 256) ∨ s.slv.lost < u.slv.lost
    let all : Prop := x.boot = .recovery ∧ s.flag F.NVM_STAT_RECOVERED = true ∧ s.flag F.NVM_STAT_PLOADED = true ∧
      s.flag F.GLB_REF_REF_SETTLED = true ∧ x.pump = true ∧
      ∀ b < 12, s.flag F.GLB_BAY_STAT_AN_ON b = true ∧ s.flag F.BAY_DL_STAT_DL_LOCK b = true
    (∀ ecc, x.boot ≠ .recovery ∨ s.flag F.NVM_STAT_RECOVERED = true ∨ s.ringsDead = true → exec (.recoveryDone ecc) s = .next s.begin) ∧
    (∀ ecc, x.boot = .recovery → s.flag F.NVM_STAT_RECOVERED = false → s.ringsDead = false → ∃ u : State,
      exec (.recoveryDone ecc) s = .next u.settle ∧ u.flag F.NVM_STAT_RECOVERED = true ∧ told u 0x1001 (s.rd F.GLB_BOOT_CAUSE) ∧
      u.power = x ∧ Leaves (.NVM_EVT :: .NVM_UM_LO :: .NVM_UM_HI :: .NVM_ECC :: .NVM_ELAST :: .NVM_FOLDS :: .SEC_STAT :: .SEC_ROLE :: .MTR_TAP ::
        settleRegs) (.sec :: settleParts) s u) ∧
    (x.boot ≠ .recovery ∨ s.flag F.NVM_STAT_PLOADED = true ∨ s.ringsDead = true → exec .paramLoaded s = .next s.begin) ∧
    (x.boot = .recovery → s.flag F.NVM_STAT_PLOADED = false → s.ringsDead = false →
      (s.nvm.activeBank = none → ∃ u : State, exec .paramLoaded s = .next u.pinTrips.settle ∧ u.flag F.NVM_STAT_PLOADED = true ∧
        Reported s u 0x0A0B srcDevice 0 ∧ Leaves [.NVM_STAT, .NVM_PBANK, .NVM_PCNT, .SLV_EVT] [.outs, .slv] s u) ∧
      (∀ n b, s.nvm.activeBank = some (n, b) → ∃ u : State, exec .paramLoaded s = .next u.pinTrips.settle ∧
        u.flag F.NVM_STAT_PLOADED = true ∧ u.nvm.staging = b.entries ∧ told u 0x0A0A n)) ∧
    (¬all → exec .startupComplete s = .next s.begin) ∧
    (all → ∃ u : State, exec .startupComplete s = .next u ∧ u.flag F.GLB_BOOT_STARTED = true ∧ u.power = { x with boot := .done } ∧
      Reported s u 0x1002 srcDevice (s.rd F.GLB_BOOT_CAUSE) ∧ Leaves [.GLB_BOOT, .SLV_EVT] [.outs, .slv, .power] s u)

/-- Dormant (R406 to R408): once the closing save is complete everything is off; a wake enables XIN and start-up runs from its second step.
Model's readings: log entry 125. -/
def dormantAndWake : Prop :=
  ∀ s : State,
    let x := s.power
    (¬(x.stage = .entering ∧ s.closingDone = true ∧ s.nvm.closing = some .dormant) → exec .dormantEntered s = .next s.begin) ∧
    (x.stage = .entering → s.closingDone = true → s.nvm.closing = some .dormant → ∃ u : State, exec .dormantEntered s = .next u.settle ∧
      u.flag F.GLB_CLK_STAT_PLL_LOCK = false ∧ (∀ b < 12, u.flag F.GLB_BAY_STAT_AN_ON b = false ∧ u.flag F.BAY_DL_STAT_DL_LOCK b = false) ∧
      (∀ p < 192, (u.ph p).on = false) ∧ u.flag F.GLB_REF_REF_SETTLED = false ∧ u.refOn = false ∧ u.nvm.closed = true ∧
      u.power.pump = false ∧ (x.wakeSrc = 0 → u.power.stage = .dormant ∧ u.coreRuns = false) ∧
      (x.wakeSrc ≠ 0 → u.power.stage = .waking ∧ u.power.boot = .waitXin)) ∧
    (∀ src ticks,
      let m := src.toNat &&& s.rd F.GLB_WAKE_EN_SRC
      (x.stage = .run ∨ x.stage = .softReset ∨ x.stage = .waking → exec (.wake src ticks) s = .next s.begin) ∧
      (x.stage = .entering → ∃ u : State, exec (.wake src ticks) s = .next u ∧ u.power = { x with wakeSrc := x.wakeSrc ||| m } ∧
        Leaves [] [.outs, .power] s u) ∧
      (x.stage = .dormant → m = 0 → exec (.wake src ticks) s = .next s.begin) ∧
      (x.stage = .dormant → m ≠ 0 → ∃ u : State, exec (.wake src ticks) s = .next u ∧
        u.power = { x with stage := .waking, boot := .waitXin, wakeSrc := m, ticks := ticks.toNat, tries := 0, psWake := bitN m 3 } ∧
        u.rd F.GLB_BOOT_PLL_TRIES = 0 ∧ u.nvm = { s.nvm with wakeMark := true } ∧
        (∀ p < 2, s.rdBit F.GLB_WAKE_EN_WAKEN_EN p = true → s.perst p = true → bitN m 2 = false → (u.port p).wakeLow = true ∧
          Out.wakeN p true ∈ u.outs) ∧ Leaves [.GLB_BOOT] [.outs, .ports, .nvm, .power] s u))

/-! ### Register space as a whole (R10 to R12, R513, R517) -/

/-- The registers whose write has an effect of its own: stated with their commands. -/
def ownEffect : List Reg :=
  [.GLB_CLK_CFG, .GLB_CLK_STAT, .GLB_PWR_CTL, .GLB_PWM_PER, .GLB_TRIP, .GLB_TRIP_CFG, .GLB_REF, .GLB_THM_EN_LO, .GLB_THM_EN_HI, .BUS_COEF_SEL,
   .BUS_COEF_DATA, .REED_CFG, .TRD_CFG, .NVM_CTL, .SLV_CTL, .SLV_SNAP_ADDR, .RTR_ROUTE, .RTR_CTL, .RTR_TIO, .TMR_CTL, .TMR_CFG, .TMR_CNT,
   .TMR_CCFG, .TMR_CV, .HST_CTL, .SEC_TSEL, .SMB_M_CFG, .SMB_POLL_CFG, .BAY_HEDDLE_CMT, .BAY_RB_CTL, .BAY_SHTL_STAT, .BAY_PWM_CTL, .BAY_SAFE,
   .BAY_PH_TRIP, .PH_SAMP, .PH_LOOP, .LN_SHTL_CFG, .LN_COEF_SEL, .LN_COEF_DATA, .LN_TRIP, .LN_REED, .LN_WARP_DATA, .MTR_CFG, .MTR_STAT,
   .MTR_DATA]

/-- A write of the Manager to any other register of register space, bit by bit (R10, R12, R517): a writable field takes the written value unless
it is out of range; one that the seal locks takes nothing while sealed; a flag clears where 1 is written; no other bit, no other register and
nothing else changes. Model's readings: log entry 18. -/
def Obligations.FieldAccess : Prop :=
  ∀ (s : State) (t : HostT) (r : Reg) (i : Nat) (v : Word), r ∉ ownEffect → r ∉ tenantRegs → i < r.info.count → (s.tenant t.val).exists' = true →
    t.val % 4 = 0 → s.flag F.NVM_STAT_PLOADED = true → s.roleOf t.val = 3 →
    let o := s.opened t.val
    let off := r.info.addr + r.info.stride * i
    let locked := fun b : Nat => bitN r.info.rwl b && s.flag F.SEC_STAT_SEALED
    ∃ u : State, exec (.registerWrite t (BitVec.ofNat 32 off) 4 [⟨0xF, v⟩]) s = .next u.settle ∧
      (∀ b < 32,
        let old := (o.reg r i).getLsbD b
        let new := (u.reg r i).getLsbD b
        (bitN r.info.rw b = true ∨ bitN r.info.rwl b = true →
          (locked b = false → bitN (o.outOf r i v.toNat) b = false → new = v.getLsbD b) ∧
          (locked b = true ∨ bitN (o.outOf r i v.toNat) b = true → new = old)) ∧
        (bitN r.info.w1c b = true → new = (old && !v.getLsbD b)) ∧
        (bitN r.info.rw b = false → bitN r.info.rwl b = false → bitN r.info.w1c b = false → new = old)) ∧
      OnlyAt r i o u ∧ Leaves [r] [] o u

/-- What the end of a command evaluates, the router, the level-sensitive conditions and what they set off (R353 to R358), changes only what
`settleRegs` and `settleParts` name: no configuration, counter, ring setting, timer or clock. Model's readings: log entry 17. -/
def Obligations.SettleFrame : Prop := ∀ s : State, Leaves settleRegs settleParts s s.settle

/-! ### The statements made of parts above -/

/-- Right after power-on reset (Table 17-2, R402): the state is sound, every register reads its reset word, and nothing waits, is owned or runs. -/
def Obligations.ResetState : Prop := resetIsSound ∧ resetValues

/-- A step runs the front command, or is one CLK_CORE cycle on an empty queue (the model's choice, log entry 2). -/
def Obligations.StepIsExec : Prop := stepRunsFrontCommand ∧ emptyQueueTicks

/-- How a command completes (R424, R426, R428, R496). -/
def Obligations.Completions : Prop := completionTakesOneEntry ∧ quietCompletionsWriteNothing

/-- The lane commands that wait for their event, and LANE_CLEAR_TRIP (R198 to R204). -/
def Obligations.LaneMoves : Prop := laneMovesAreQueued ∧ clearTripOnNoLatch

/-- The lane commands that store a setting (R92, R93, R208, R209). -/
def Obligations.LaneSettings : Prop := laneSettingsAreStored ∧ limitsAreReplacedOrCleared

/-- Heartbeats, the release of a quarantine, and promotion (R466, R469, R471, R472). -/
def Obligations.Presence : Prop := heartbeatAndRelease ∧ standbyIsPromoted

/-- SEAL and the unseal challenge (R474 to R476). -/
def Obligations.SealAndUnseal : Prop := sealActsAtOnce ∧ unsealByChallenge

/-- The meter commands and the calibration (R298 to R302, R453, R454). -/
def Obligations.MeterCommands : Prop := meterCommandsBegin ∧ offsetCalibration

/-- The transactions of Port M and its recovery (R499 to R506). -/
def Obligations.PortMBus : Prop := portMQueues ∧ portMTransactions ∧ portMRecovers

/-- What Port S reads return (R491, R492). -/
def Obligations.PortSReads : Prop := portSReadings ∧ portSFormats

/-- The frames of the Treadle port (R231 to R240). -/
def Obligations.TreadleFrames : Prop := treadleSets ∧ treadleGets ∧ treadleRefusals

/-- Roles and the seal move only by the commands that name them (R460, R465, R474). -/
def Obligations.SecurityStands : Prop := rolesMoveOnlyByName ∧ sealStands

/-- Identification and the entry to a contract (R247, R261 to R265). -/
def Obligations.LinkEntries : Prop := linkEntry ∧ identification

/-- The segment loop and the sharing of a segment (R99, R220 to R231). -/
def Obligations.Segments : Prop := segmentUpdates ∧ sharesSumToWhole

/-- The control update of a lane and of a phase (R71 to R98). -/
def Obligations.Loops : Prop := selectionIsFramed ∧ laneUpdates ∧ phaseUpdates

/-- The converters, the meters and the cross-check (chapters 3 and 12). -/
def Obligations.Samples : Prop := convertersSample ∧ meterSamples ∧ crossChecks

/-- The lane state machine's own moves (R201, R203, R209 to R217, R469). -/
def Obligations.LaneMachine : Prop := prestartEnds ∧ startsAndParks ∧ policyMoves ∧ heartbeatsLapse

/-- Warping: surveys, readmit checks, adaptation (R169 to R193). -/
def Obligations.Surveys : Prop := surveysStep ∧ surveysEnd ∧ checksAndAdaptation

/-- Trips of phases and lanes, and the safety pins (R140 to R143, R205, R359, R360, R372 to R374). -/
def Obligations.Trips : Prop := phaseTrips ∧ laneTrips ∧ pinEdges

/-- Power-fail, the loss of a clock, ECC of the contexts (R21, R24, R368 to R371). -/
def Obligations.PowerAndClocks : Prop := powerFails ∧ clocksAndEcc

/-- The monitors (chapters 2, 3, 15): windows, temperatures, the reference, replicas, read-backs. -/
def Obligations.Watchers : Prop := windowsWatch ∧ temperaturesWatch ∧ referenceChecks ∧ replicasTrim ∧ readbacksCompare

/-- The writes of a bay's PWM control, and the writes that clear latches (R138, R144, R146). -/
def Obligations.BayWrites : Prop := bayControlWrites ∧ latchesClear

/-- Writes of the device's own registers (R25, R124, R136, R160, R164, R282, R291, R366). -/
def Obligations.DeviceWrites : Prop := deviceWrites ∧ meterModeWrites ∧ reedWrites ∧ thermistorEnables ∧ coefficientCommits

/-- The timers (R380 to R394). -/
def Obligations.Timers : Prop := timerWrites ∧ channelWrites ∧ timerEvents

/-- ARM staggers the periodic channels of a timer (R385), and STEP does not take 0. -/
def Obligations.ArmStaggersTimers : Prop := timerControl ∧ zeroStepIsIgnored

/-- The answers and the violations of the module (R264, R266, R269, R270, R272). -/
def Obligations.LinkPartner : Prop := linkAnswers ∧ linkViolations

/-- Control writes, the Dormant request, the latching reads (R118, R240, R314, R336, R342, R355, R362, R405, R515). -/
def Obligations.ControlWrites : Prop := controlWrites ∧ dormantRequests ∧ latchingReads

/-- Doorbells, ring enables, fetches and aperture writes (R418 to R431, R438). -/
def Obligations.Rings : Prop := tailDoorbells ∧ headDoorbells ∧ ringEnables ∧ fetchesEnd ∧ apertureWrites

/-- The event recorder and the flash (chapters 13 and 14). -/
def Obligations.LogAndFlash : Prop := reportsOpenRecords ∧ flashOperations

/-- Resets, start-up and Dormant (R395 to R408). -/
def Obligations.StartUp : Prop := deviceResets ∧ startUpSteps ∧ recoveryAndLoad ∧ dormantAndWake
end

