-- ==== Sys2Proof/Laws/Regs.lean ====
section
/-!
SUPPORT. Sys2Proof/Laws/Regs.lean: the register table: a read after a write, writes that leave other registers, other instances and
other fields alone, and that every write keeps the table canonical.
-/
namespace Sys2Proof.Machine

/-! ### Sparse tables -/

theorem tabGet?_tabSet {α : Type} (l : List (Nat × α)) (i : Nat) (x : α) (j : Nat) :
    tabGet? (tabSet l i x) j = if i = j then some x else tabGet? l j := by
  induction l with
  | nil => simp [tabSet, tabGet?]
  | cons e t ih =>
    obtain ⟨k, v⟩ := e
    simp only [tabSet]
    split
    · simp [tabGet?]
    · split
      · subst k; by_cases h : i = j <;> simp [tabGet?, h]
      · by_cases h : k = j
        · simp [tabGet?, h]; intro h'; omega
        · simp [tabGet?, h, ih]

theorem tabGet?_tabDel {α : Type} (l : List (Nat × α)) (i j : Nat) :
    tabGet? (tabDel l i) j = if i = j then none else tabGet? l j := by
  induction l with
  | nil => simp [tabDel, tabGet?]
  | cons e t ih =>
    obtain ⟨k, v⟩ := e
    simp only [tabDel]
    split
    · subst k; rw [ih]; by_cases h : i = j <;> simp [tabGet?, h]
    · by_cases h : k = j
      · simp [tabGet?, h]; intro h'; omega
      · simp [tabGet?, h, ih]

theorem tabSorted_weaken {α : Type} {l : List (Nat × α)} {j k : Nat} (hjk : j ≤ k)
    (h : tabSorted (some k) l = true) : tabSorted (some j) l = true := by
  cases l with
  | nil => rfl
  | cons e t => obtain ⟨n, v⟩ := e; simp [tabSorted] at h ⊢; exact ⟨by omega, h.2⟩

theorem tabSorted_tabSet_some {α : Type} (l : List (Nat × α)) (i : Nat) (x : α) (j : Nat) (hj : j < i)
    (h : tabSorted (some j) l = true) : tabSorted (some j) (tabSet l i x) = true := by
  induction l generalizing j with
  | nil => simpa [tabSet, tabSorted] using hj
  | cons e t ih =>
    obtain ⟨k, v⟩ := e
    simp [tabSorted] at h
    simp only [tabSet]
    split
    · rename_i hk; simp [tabSorted, hj, hk, h.2]
    · split
      · subst k; simp [tabSorted, hj, h.2]
      · simp [tabSorted, h.1]; exact ih k (by omega) h.2

theorem tabSorted_tabSet {α : Type} (l : List (Nat × α)) (i : Nat) (x : α)
    (h : tabSorted none l = true) : tabSorted none (tabSet l i x) = true := by
  cases l with
  | nil => rfl
  | cons e t =>
    obtain ⟨k, v⟩ := e
    simp [tabSorted] at h
    simp only [tabSet]
    split
    · rename_i hk; simp [tabSorted, hk, h]
    · split
      · subst k; simpa [tabSorted] using h
      · simp [tabSorted]; exact tabSorted_tabSet_some t i x k (by omega) h

theorem tabSorted_tabDel_some {α : Type} (l : List (Nat × α)) (i j : Nat)
    (h : tabSorted (some j) l = true) : tabSorted (some j) (tabDel l i) = true := by
  induction l generalizing j with
  | nil => rfl
  | cons e t ih =>
    obtain ⟨k, v⟩ := e
    simp [tabSorted] at h
    simp only [tabDel]
    split
    · exact ih j (tabSorted_weaken (by omega) h.2)
    · simp [tabSorted, h.1]; exact ih k h.2

theorem tabSorted_tabDel {α : Type} (l : List (Nat × α)) (i : Nat)
    (h : tabSorted none l = true) : tabSorted none (tabDel l i) = true := by
  induction l with
  | nil => rfl
  | cons e t ih =>
    obtain ⟨k, v⟩ := e
    simp [tabSorted] at h
    simp only [tabDel]
    split
    · apply ih
      cases t with
      | nil => rfl
      | cons e' t' => obtain ⟨k', v'⟩ := e'; simp [tabSorted] at h ⊢; exact h.2
    · simp [tabSorted]; exact tabSorted_tabDel_some t i k h

theorem mem_tabSet {α : Type} {l : List (Nat × α)} {i : Nat} {x : α} {e : Nat × α} (h : e ∈ tabSet l i x) :
    e = (i, x) ∨ e ∈ l := by
  induction l with
  | nil => simpa [tabSet] using h
  | cons d t ih =>
    obtain ⟨k, v⟩ := d
    simp only [tabSet] at h
    split at h
    · simpa using h
    · split at h
      · simp at h ⊢; rcases h with h | h <;> simp [h]
      · simp at h ⊢; rcases h with h | h
        · simp [h]
        · rcases ih h with h | h <;> simp [h]

theorem mem_tabDel {α : Type} {l : List (Nat × α)} {i : Nat} {e : Nat × α} (h : e ∈ tabDel l i) : e ∈ l := by
  induction l with
  | nil => simp [tabDel] at h
  | cons d t ih =>
    obtain ⟨k, v⟩ := d
    simp only [tabDel] at h
    split at h
    · exact List.mem_cons_of_mem _ (ih h)
    · simp at h ⊢; rcases h with h | h <;> simp [h, ih]

/-! ### Addresses -/

/-- Every register name, once. -/
def allRegs : List Reg := regsG0 ++ regsG1 ++ regsG2 ++ regsG3 ++ regsG4 ++ regsG5 ++ regsG6 ++ regsG7 ++ regsBAY ++ regsLN ++
  regsPH ++ regsMTR

/-- The address of every instance of a register decodes to that instance. -/
def decodesAll (r : Reg) : Bool := (List.range r.info.count).all (fun i => decodeAddr (r.addrOf i) == some (r, i))

theorem decodesAll_true (r : Reg) : decodesAll r = true := by cases r <;> decide +kernel

/-- R509, R518: the address of an instance of a register decodes to it. -/
theorem decodeAddr_addrOf (r : Reg) (i : Nat) (h : i < r.info.count) : decodeAddr (r.addrOf i) = some (r, i) := by
  have := decodesAll_true r
  simp only [decodesAll, List.all_eq_true, List.mem_range, beq_iff_eq] at this
  exact this i h

/-- Two instances that the map has stand at one address only if they are the same. -/
theorem addrOf_inj {r r' : Reg} {i i' : Nat} (h : i < r.info.count) (h' : i' < r'.info.count)
    (ha : r.addrOf i = r'.addrOf i') : r = r' ∧ i = i' := by
  have h1 := decodeAddr_addrOf r i h
  rw [ha, decodeAddr_addrOf r' i' h'] at h1
  simp at h1
  exact ⟨h1.1.symm, h1.2.symm⟩

/-! ### Stored words -/

/-- A read of an instance the map has, after a write of it, gives the word written. -/
theorem reg_setReg_same (s : State) (r : Reg) (i : Nat) (w : Word) (h : i < r.info.count) :
    (s.setReg r i w).reg r i = w := by
  simp only [State.setReg, State.reg]
  have : ¬ r.info.count ≤ i := by omega
  simp only [this, if_false]
  split
  · next hw => simp [tabGet?_tabDel, hw]
  · simp [tabGet?_tabSet]

/-- A write of one instance leaves every other instance the map has. -/
theorem reg_setReg_ne (s : State) {r r' : Reg} {i i' : Nat} (w : Word) (h' : i' < r'.info.count)
    (hne : r ≠ r' ∨ i ≠ i') : (s.setReg r i w).reg r' i' = s.reg r' i' := by
  simp only [State.setReg, State.reg]
  split
  · rfl
  · next hc =>
    have ha : r.addrOf i ≠ r'.addrOf i' := fun ha => by
      have := addrOf_inj (by omega) h' ha
      rcases hne with h | h
      · exact h this.1
      · exact h this.2
    split
    · simp [tabGet?_tabDel, ha]
    · simp [tabGet?_tabSet, ha]

/-- A write of an instance the map does not have changes nothing. -/
theorem setReg_absent (s : State) (r : Reg) (i : Nat) (w : Word) (h : r.info.count ≤ i) : s.setReg r i w = s := by
  simp [State.setReg, h]

/-- A register write keeps the table canonical. -/
theorem setReg_regsWf (s : State) (r : Reg) (i : Nat) (w : Word) (h : s.regsWf = true) : (s.setReg r i w).regsWf = true := by
  simp only [State.regsWf, Bool.and_eq_true, List.all_eq_true] at h ⊢
  simp only [State.setReg]
  split
  · exact h
  · next hc =>
    split
    · exact ⟨tabSorted_tabDel _ _ h.1, fun e he => h.2 e (mem_tabDel he)⟩
    · next hw =>
      refine ⟨tabSorted_tabSet _ _ _ h.1, fun e he => ?_⟩
      rcases mem_tabSet he with rfl | he
      · simp only [entryOk, decodeAddr_addrOf r i (by omega)]; simpa using hw
      · exact h.2 e he

/-! ### Bit fields -/

theorem bitsN_lt (x lo w : Nat) : bitsN x lo w < 2 ^ w := Nat.mod_lt _ (Nat.two_pow_pos w)

theorem testBit_bitsN (x lo w k : Nat) : (bitsN x lo w).testBit k = (decide (k < w) && x.testBit (lo + k)) := by
  simp [bitsN, Nat.testBit_mod_two_pow, Nat.testBit_shiftRight]

theorem testBit_putBits (x lo w v k : Nat) :
    (putBits x lo w v).testBit k =
      if k < lo then x.testBit k else if k < lo + w then v.testBit (k - lo) else x.testBit k := by
  have e : putBits x lo w v = 2 ^ lo * (2 ^ w * (x >>> (lo + w)) + v % 2 ^ w) + x % 2 ^ lo := by
    simp only [putBits, Nat.pow_add, Nat.mul_add]
    rw [Nat.mul_comm (v % 2 ^ w), Nat.mul_comm (x >>> (lo + w)), Nat.mul_assoc, Nat.mul_comm (2 ^ w)]
    rw [Nat.mul_comm (x >>> (lo + w))]
    omega
  rw [e, Nat.testBit_two_pow_mul_add _ (Nat.mod_lt _ (Nat.two_pow_pos lo))]
  split
  · next h => simp [Nat.testBit_mod_two_pow, h]
  · next h =>
    rw [Nat.testBit_two_pow_mul_add _ (Nat.mod_lt _ (Nat.two_pow_pos w))]
    by_cases h2 : k < lo + w
    · have : k - lo < w := by omega
      simp [h2, this, Nat.testBit_mod_two_pow]
    · have : ¬ k - lo < w := by omega
      simp only [this, h2, if_false, Nat.testBit_shiftRight]
      congr 1; omega

/-- A field reads back the low bits of what was put there. -/
theorem bitsN_putBits_same (x lo w v : Nat) : bitsN (putBits x lo w v) lo w = v % 2 ^ w := by
  apply Nat.eq_of_testBit_eq; intro k
  rw [testBit_bitsN, testBit_putBits, Nat.testBit_mod_two_pow]
  by_cases h : k < w
  · simp [h, show ¬ lo + k < lo by omega]
  · simp [h]

/-- A field reads what it did when a field beside it is put. -/
theorem bitsN_putBits_ne (x lo w v lo' w' : Nat) (h : lo' + w' ≤ lo ∨ lo + w ≤ lo') :
    bitsN (putBits x lo w v) lo' w' = bitsN x lo' w' := by
  apply Nat.eq_of_testBit_eq; intro k
  simp only [testBit_bitsN, testBit_putBits]
  by_cases hk : k < w'
  · rcases h with h | h
    · simp [hk, show lo' + k < lo by omega]
    · simp [hk, show ¬ lo' + k < lo by omega, show ¬ lo' + k < lo + w by omega]
  · simp [hk]

/-- A field inside a word is unchanged by keeping only the word's bits. -/
theorem bitsN_mod (x lo w n : Nat) (h : lo + w ≤ n) : bitsN (x % 2 ^ n) lo w = bitsN x lo w := by
  apply Nat.eq_of_testBit_eq; intro k
  simp only [testBit_bitsN, Nat.testBit_mod_two_pow]
  by_cases hk : k < w
  · simp [hk, show lo + k < n by omega]
  · simp [hk]

/-! ### Fields -/

/-- A field read after a write of it. -/
theorem rd_wr_same (s : State) (f : Field) (v i : Nat) (h : i < f.reg.info.count) (hb : f.lo + f.width ≤ 32) :
    (s.wr f v i).rd f i = v % 2 ^ f.width := by
  simp only [State.rd, State.wr, reg_setReg_same _ _ _ _ h, BitVec.toNat_ofNat]
  rw [bitsN_mod _ _ _ _ hb, bitsN_putBits_same]

/-- A field of another instance, or of another register, after a write. -/
theorem rd_wr_ne (s : State) (f g : Field) (v i j : Nat) (h : j < g.reg.info.count) (hne : f.reg ≠ g.reg ∨ i ≠ j) :
    (s.wr f v i).rd g j = s.rd g j := by
  simp only [State.rd, State.wr, reg_setReg_ne _ _ h hne]

/-- A field beside the written one in the same register. -/
theorem rd_wr_beside (s : State) (f g : Field) (v i j : Nat) (h : j < g.reg.info.count) (hr : f.reg = g.reg) (hb : g.lo + g.width ≤ 32)
    (hd : g.lo + g.width ≤ f.lo ∨ f.lo + f.width ≤ g.lo) : (s.wr f v i).rd g j = s.rd g j := by
  by_cases hij : i = j
  · subst hij
    simp only [State.rd, State.wr, hr, reg_setReg_same _ _ _ _ h, BitVec.toNat_ofNat]
    rw [bitsN_mod _ _ _ _ hb, bitsN_putBits_ne _ _ _ _ _ _ hd]
  · exact rd_wr_ne s f g v i j h (.inr hij)

/-- A flag read after it was put. -/
theorem flag_put_same (s : State) (f : Field) (b : Bool) (i : Nat) (h : i < f.reg.info.count) (hb : f.lo + f.width ≤ 32)
    (hw : f.width = 1) : (s.put f b i).flag f i = b := by
  simp only [State.flag, State.put, rd_wr_same _ _ _ _ h hb, hw]
  cases b <;> rfl

/-- A bit of a bit field after it was put. -/
theorem testBit_putBit (x i k : Nat) (b : Bool) : (Machine.putBit x i b).testBit k = if k = i then b else x.testBit k := by
  simp only [Machine.putBit, testBit_putBits]
  by_cases h : k = i
  · subst h; cases b <;> simp
  · by_cases h2 : k < i
    · simp [h, h2]
    · simp [h, h2, show ¬ k < i + 1 by omega]

theorem rdBit_putBit (s : State) (f : Field) (b k : Nat) (v : Bool) (i : Nat) (h : i < f.reg.info.count) (hb : f.lo + f.width ≤ 32)
    (hk : k < f.width) : (s.putBit f b v i).rdBit f k i = if k = b then v else s.rdBit f k i := by
  simp only [State.rdBit, State.putBit, rd_wr_same _ _ _ _ h hb, bitN, Nat.testBit_mod_two_pow, hk, decide_true, Bool.true_and,
    testBit_putBit]

theorem rdS_wrS_same (s : State) (f : Field) (v : Int) (i : Nat) (h : i < f.reg.info.count) (hb : f.lo + f.width ≤ 32) :
    (s.wrS f v i).rd f i = ofS v f.width := by
  simp only [State.wrS, rd_wr_same _ _ _ _ h hb]
  refine Nat.mod_eq_of_lt ?_
  have hpos : (0 : Int) < ((2 ^ f.width : Nat) : Int) := by exact_mod_cast Nat.two_pow_pos f.width
  have h2 := Int.emod_lt_of_pos v hpos
  have h1 := Int.emod_nonneg v (Int.ne_of_gt hpos)
  simp only [ofS]; omega

theorem rd_put_same (s : State) (f : Field) (b : Bool) (i : Nat) (h : i < f.reg.info.count) (hb : f.lo + f.width ≤ 32)
    (hw : f.width = 1) : (s.put f b i).rd f i = b.toNat := by
  simp only [State.put, rd_wr_same _ _ _ _ h hb, hw]; cases b <;> rfl

end Sys2Proof.Machine
end

