-- ==== Sys2Proof/Laws/Keeps.lean ====
section
/-!
SUPPORT. Sys2Proof/Laws/Keeps.lean: what a function of State leaves alone, as one relation with a set of registers and parts that may
change, and its closure properties. The files Laws/Keeps<Module>.lean say it once of every function of the model.
-/
namespace Sys2Proof.Machine

/-- The number of a part in a touch set: registers come first. -/
def Part.bit (p : Part) : Nat := 256 + p.ctorIdx

/-- Every member of the touch set `a` is one of `b`. -/
def Sub (a b : Nat) : Prop := ∀ k, a.testBit k = true → b.testBit k = true

theorem Sub.of {a b : Nat} (h : Nat.land a b = a) : Sub a b := by
  intro k hk
  have : (a &&& b).testBit k = true := by rw [show a &&& b = a from h]; exact hk
  rw [Nat.testBit_and] at this
  simp at this; exact this.2

theorem Sub.bit {a b k : Nat} (h : Sub a b) (hk : a.testBit k = true) : b.testBit k = true := h k hk

theorem Sub.trans {a b c : Nat} (h : Sub a b) (h' : Sub b c) : Sub a c := fun k hk => h' k (h k hk)

/-- From `s` to `t` only registers and parts of the touch set `m` may differ, the queue is as it was, and a sound state
stays sound. -/
structure Keeps (m : Nat) (s t : State) : Prop where
  queue : t.pending = s.pending
  regs : ∀ r i, i < r.info.count → m.testBit r.ctorIdx = false → t.reg r i = s.reg r i
  parts : ∀ p, m.testBit (Part.bit p) = false → p.same s t
  sound : s.Sound → t.Sound

theorem Part.same_rfl (p : Part) (s : State) : p.same s s := by cases p <;> rfl

theorem Part.same_trans (p : Part) {s t u : State} (h : p.same s t) (h' : p.same t u) : p.same s u := by
  cases p <;> exact Eq.trans h' h

theorem Keeps.refl (m : Nat) (s : State) : Keeps m s s :=
  ⟨rfl, fun _ _ _ _ => rfl, fun p _ => p.same_rfl s, id⟩

theorem Keeps.trans {m : Nat} {s t u : State} (h : Keeps m s t) (h' : Keeps m t u) : Keeps m s u :=
  ⟨h'.queue.trans h.queue, fun r i hi hm => (h'.regs r i hi hm).trans (h.regs r i hi hm),
    fun p hm => p.same_trans (h.parts p hm) (h'.parts p hm), fun w => h'.sound (h.sound w)⟩

theorem Keeps.ite {m : Nat} {s0 : State} {c : Prop} [Decidable c] {a b : State} (ha : Keeps m s0 a) (hb : Keeps m s0 b) :
    Keeps m s0 (if c then a else b) := by
  split
  · exact ha
  · exact hb

theorem Keeps.idState {m : Nat} {s0 s : State} (h : Keeps m s0 s) : Keeps m s0 (id s) := h

/-- A state bound by a `let` is proved once. -/
theorem Keeps.cut {m : Nat} {s0 x : State} {P : Prop} (h : Keeps m s0 x) (k : Keeps m s0 x → P) : P := k h

theorem false_of_touch {m k : Nat} {P : Prop} (h : m.testBit k = true) (h' : m.testBit k = false) : P := by
  rw [h] at h'; cases h'

/-- A change of hidden state alone. -/
theorem Keeps.hidden {m : Nat} {s0 s t : State} (hs : Keeps m s0 s) (hq : t.pending = s.pending) (hr : t.regs = s.regs)
    (hp : ∀ p, m.testBit (Part.bit p) = false → p.same s t) : Keeps m s0 t :=
  hs.trans ⟨hq, fun r i _ _ => by simp only [State.reg, hr], hp,
    fun h => ⟨by simpa only [State.regsWf, hr] using h.table, fun r i hi => by simpa only [State.reg, hr] using h.words r i hi⟩⟩

theorem setReg_sound {s : State} {r : Reg} {i : Nat} {w : Word} (hw : s.Sound → wordOk r w = true) (h : s.Sound) :
    (s.setReg r i w).Sound := by
  refine ⟨setReg_regsWf s r i w h.table, fun r' i' hi => ?_⟩
  by_cases e : r = r' ∧ i = i'
  · obtain ⟨rfl, rfl⟩ := e
    rw [reg_setReg_same _ _ _ _ hi]; exact hw h
  · have hne : r ≠ r' ∨ i ≠ i' := by
      by_cases h : r = r'
      · exact .inr fun h' => e ⟨h, h'⟩
      · exact .inl h
    rw [reg_setReg_ne s w hi hne]
    exact h.words r' i' hi

theorem setReg_keeps' {m : Nat} {s0 s : State} {r : Reg} {w : Word} (hm : m.testBit r.ctorIdx = true)
    (hw : s.Sound → wordOk r w = true) (hs : Keeps m s0 s) (i : Nat) : Keeps m s0 (s.setReg r i w) := by
  refine hs.trans ⟨?_, fun r' i' hi h => ?_, fun p _ => ?_, setReg_sound hw⟩
  · simp only [State.setReg]; split
    · rfl
    · split <;> rfl
  · refine reg_setReg_ne s w hi (.inl fun e => ?_)
    subst e; exact false_of_touch hm h
  · simp only [State.setReg]; split
    · exact p.same_rfl s
    · split <;> (cases p <;> rfl)

/-- A register whose words are not constrained. -/
def freeReg (r : Reg) : Bool :=
  match r with
  | .LN_STATE | .GLB_ID | .GLB_FEAT => false
  | _ => true

theorem wordOk_free {r : Reg} (h : freeReg r = true) (w : Word) : wordOk r w = true := by
  cases r <;> first | rfl | simp [freeReg] at h

theorem setReg_keeps {m : Nat} {s0 s : State} {r : Reg} (hm : m.testBit r.ctorIdx = true) (hf : freeReg r = true) (hs : Keeps m s0 s)
    (i : Nat) (w : Word) : Keeps m s0 (s.setReg r i w) := setReg_keeps' hm (fun _ => wordOk_free hf w) hs i

/-- Every register may be set to its reset word. -/
theorem wordOk_reset (r : Reg) : wordOk r (BitVec.ofNat 32 r.info.reset) = true := by
  cases r <;> first | rfl | decide

/-- A write of this field keeps every word one its register can hold. -/
def fieldOk (f : Field) : Bool := freeReg f.reg || (f.reg == .LN_STATE && decide (8 ≤ f.lo))

/-- A word kept in its first eight bits. -/
theorem wordOk_low8 {w : Word} {x : Nat} (hw : wordOk .LN_STATE w = true) (h0 : bitsN x 0 4 = bitsN w.toNat 0 4)
    (h4 : bitsN x 4 4 = bitsN w.toNat 4 4) : wordOk .LN_STATE (BitVec.ofNat 32 x) = true := by
  simp only [wordOk, BitVec.toNat_ofNat] at hw ⊢
  rw [bitsN_mod _ _ _ _ (by decide), bitsN_mod _ _ _ _ (by decide), h0, h4]; exact hw

theorem wr_keeps {m : Nat} {s0 s : State} {f : Field} (hm : m.testBit f.reg.ctorIdx = true) (hf : fieldOk f = true) (hs : Keeps m s0 s)
    (v i : Nat) : Keeps m s0 (s.wr f v i) := by
  by_cases hc : f.reg.info.count ≤ i
  · simp only [State.wr, setReg_absent s _ _ _ hc]; exact hs
  refine setReg_keeps' hm (fun h => ?_) hs i
  simp only [fieldOk, Bool.or_eq_true, Bool.and_eq_true, beq_iff_eq, decide_eq_true_eq] at hf
  rcases hf with hf | ⟨hr, hl⟩
  · exact wordOk_free hf _
  · have hw := h.words f.reg i (by omega)
    rw [hr] at hw ⊢
    exact wordOk_low8 hw (bitsN_putBits_ne _ _ _ _ _ _ (by omega)) (bitsN_putBits_ne _ _ _ _ _ _ (by omega))

theorem code_le (x : LaneState) : x.code ≤ 12 := by cases x <;> decide

theorem wrState_keeps {m : Nat} {s0 s : State} (hm : m.testBit Reg.LN_STATE.ctorIdx = true) (hs : Keeps m s0 s)
    (x : LaneState) (i : Nat) : Keeps m s0 (s.wr F.LN_STATE_STATE x.code i) := by
  by_cases hc : Reg.LN_STATE.info.count ≤ i
  · simp only [State.wr, setReg_absent s _ _ _ hc]; exact hs
  refine setReg_keeps' hm (fun h => ?_) hs i
  have hw := h.words .LN_STATE i (by omega)
  simp only [wordOk, BitVec.toNat_ofNat, Bool.and_eq_true, decide_eq_true_eq] at hw ⊢
  rw [bitsN_mod _ _ _ _ (by decide), bitsN_mod _ _ _ _ (by decide), bitsN_putBits_same, bitsN_putBits_ne _ _ _ _ _ _ (by decide)]
  have := code_le x
  exact ⟨by omega, hw.2⟩

theorem wrPrev_keeps {m : Nat} {s0 s : State} (hm : m.testBit Reg.LN_STATE.ctorIdx = true) (hs : Keeps m s0 s)
    (x : LaneState) (i : Nat) : Keeps m s0 (s.wr F.LN_STATE_PREV x.code i) := by
  by_cases hc : Reg.LN_STATE.info.count ≤ i
  · simp only [State.wr, setReg_absent s _ _ _ hc]; exact hs
  refine setReg_keeps' hm (fun h => ?_) hs i
  have hw := h.words .LN_STATE i (by omega)
  simp only [wordOk, BitVec.toNat_ofNat, Bool.and_eq_true, decide_eq_true_eq] at hw ⊢
  rw [bitsN_mod _ _ _ _ (by decide), bitsN_mod _ _ _ _ (by decide), bitsN_putBits_same, bitsN_putBits_ne _ _ _ _ _ _ (by decide)]
  have := code_le x
  exact ⟨hw.1, by omega⟩

theorem wrS_keeps {m : Nat} {s0 s : State} {f : Field} (hm : m.testBit f.reg.ctorIdx = true) (hf : fieldOk f = true)
    (hs : Keeps m s0 s) (v : Int) (i : Nat) : Keeps m s0 (s.wrS f v i) := wr_keeps hm hf hs _ _

theorem put_keeps {m : Nat} {s0 s : State} {f : Field} (hm : m.testBit f.reg.ctorIdx = true) (hf : fieldOk f = true)
    (hs : Keeps m s0 s) (b : Bool) (i : Nat) : Keeps m s0 (s.put f b i) := wr_keeps hm hf hs _ _

theorem putBit_keeps {m : Nat} {s0 s : State} {f : Field} (hm : m.testBit f.reg.ctorIdx = true) (hf : fieldOk f = true)
    (hs : Keeps m s0 s) (b : Nat) (v : Bool) (i : Nat) : Keeps m s0 (s.putBit f b v i) := wr_keeps hm hf hs _ _

theorem bump_keeps {m : Nat} {s0 s : State} {f : Field} (hm : m.testBit f.reg.ctorIdx = true) (hf : fieldOk f = true)
    (hs : Keeps m s0 s) (n i : Nat) : Keeps m s0 (s.bump f n i) := wr_keeps hm hf hs _ _

/-- Registers with constrained words have no bit a register write stores or clears. -/
theorem readOnly_of_constrained {r : Reg} (h : freeReg r = false) : r.info.rw = 0 ∧ r.info.rwl = 0 ∧ r.info.w1c = 0 := by
  cases r <;> first | (simp [freeReg] at h; done) | decide

/-- A merge of no bits leaves a state as it is. -/
theorem merge_zero_sound {s : State} {r : Reg} {i : Nat} (w : Nat) (h : s.Sound) (hi : i < r.info.count) :
    wordOk r (BitVec.ofNat 32 (((s.reg r i).toNat &&& (0xFFFFFFFF ^^^ 0)) ||| (w &&& 0))) = true := by
  have e : ((s.reg r i).toNat &&& (0xFFFFFFFF ^^^ 0)) ||| (w &&& 0) = (s.reg r i).toNat := by
    have hlt := (s.reg r i).isLt
    have : (0xFFFFFFFF ^^^ 0 : Nat) = 2 ^ 32 - 1 := by decide
    rw [this, Nat.and_two_pow_sub_one_eq_mod, Nat.mod_eq_of_lt hlt]; simp
  rw [e, BitVec.ofNat_toNat, BitVec.setWidth_eq]
  exact h.words r i hi

theorem merge_keeps {m : Nat} {s0 s : State} {r : Reg} {k : Nat} (hm : m.testBit r.ctorIdx = true) (hk : freeReg r = false → k = 0)
    (hs : Keeps m s0 s) (i w : Nat) : Keeps m s0 (s.merge r i w k) := by
  by_cases hc : r.info.count ≤ i
  · simp only [State.merge, setReg_absent s _ _ _ hc]; exact hs
  cases hr : freeReg r with
  | true => exact setReg_keeps hm hr hs _ _
  | false =>
    obtain rfl := hk hr
    exact setReg_keeps' hm (fun h => merge_zero_sound w h (by omega)) hs i

theorem storeBut_keeps {m : Nat} {s0 s : State} {r : Reg} (hm : m.testBit r.ctorIdx = true) (hs : Keeps m s0 s) (i w not : Nat) :
    Keeps m s0 (s.storeBut r i w not) := by
  refine merge_keeps hm (fun hr => ?_) hs _ _
  have h := readOnly_of_constrained hr
  simp [State.stored, h.1, h.2.1]

theorem w1cBut_keeps {m : Nat} {s0 s : State} {r : Reg} (hm : m.testBit r.ctorIdx = true) (hs : Keeps m s0 s) (i w not : Nat) :
    Keeps m s0 (s.w1cBut r i w not) := by
  refine merge_keeps hm (fun hr => ?_) hs _ _
  have h := readOnly_of_constrained hr
  simp [h.2.2]

theorem foldl_mem_keeps {α : Type} {m : Nat} {s0 s : State} (hs : Keeps m s0 s) (l : List α) {f : State → α → State}
    (hf : ∀ s a, a ∈ l → Keeps m s0 s → Keeps m s0 (f s a)) : Keeps m s0 (l.foldl f s) := by
  induction l generalizing s with
  | nil => exact hs
  | cons a t ih => exact ih (hf s a (List.mem_cons_self ..) hs) (fun s b hb => hf s b (List.mem_cons_of_mem _ hb))

theorem foldl_keeps {α : Type} {m : Nat} {s0 s : State} (hs : Keeps m s0 s) (l : List α) {f : State → α → State}
    (hf : ∀ s a, Keeps m s0 s → Keeps m s0 (f s a)) : Keeps m s0 (l.foldl f s) := by
  induction l generalizing s with
  | nil => exact hs
  | cons a t ih => exact ih (hf s a hs)

/-- A fold whose accumulator carries a state. -/
theorem foldl_proj_keeps {α β : Type} {m : Nat} {s0 : State} (π : β → State) {b : β} (hb : Keeps m s0 (π b)) (l : List α) {f : β → α → β}
    (hf : ∀ b a, Keeps m s0 (π b) → Keeps m s0 (π (f b a))) : Keeps m s0 (π (l.foldl f b)) := by
  induction l generalizing b with
  | nil => exact hb
  | cons a t ih => exact ih (hf b a hb)

theorem forEach_keeps {m : Nat} {s0 s : State} (hs : Keeps m s0 s) (l : List Nat) {f : State → Nat → State}
    (hf : ∀ s a, Keeps m s0 s → Keeps m s0 (f s a)) : Keeps m s0 (s.forEach l f) := foldl_keeps hs l hf

/-- A meaning answers a next state that keeps all but the touch set. -/
def KeepsO (m : Nat) (s0 : State) (o : Host.Outcome State Fault Refusal) : Prop := ∃ t, o = .next t ∧ Keeps m s0 t

theorem KeepsO.next {m : Nat} {s0 t : State} (h : Keeps m s0 t) : KeepsO m s0 (.next t) := ⟨t, rfl, h⟩

theorem KeepsO.ite {m : Nat} {s0 : State} {c : Prop} [Decidable c] {a b : Host.Outcome State Fault Refusal} (ha : KeepsO m s0 a)
    (hb : KeepsO m s0 b) : KeepsO m s0 (if c then a else b) := by
  split
  · exact ha
  · exact hb

/-- The touch set of every register. -/
def allTouch : Nat := 2 ^ 214 - 1

theorem touch_reg {m : Nat} (h : Sub allTouch m) (r : Reg) : m.testBit r.ctorIdx = true := by
  refine h _ ?_
  cases r <;> rfl

/-! ### One lemma per field of State that an update writes -/

theorem upd_tb_keeps {m : Nat} {s0 s : State} (hm : m.testBit (Part.bit .tb) = true) (hs : Keeps m s0 s) (v) :
    Keeps m s0 { s with tb := v } :=
  hs.hidden rfl rfl fun p h => by cases p <;> first | rfl | exact false_of_touch hm h

theorem upd_free_keeps {m : Nat} {s0 s : State} (hm : m.testBit (Part.bit .free) = true) (hs : Keeps m s0 s) (v) :
    Keeps m s0 { s with free := v } :=
  hs.hidden rfl rfl fun p h => by cases p <;> first | rfl | exact false_of_touch hm h

theorem upd_outs_keeps {m : Nat} {s0 s : State} (hm : m.testBit (Part.bit .outs) = true) (hs : Keeps m s0 s) (v) :
    Keeps m s0 { s with outs := v } :=
  hs.hidden rfl rfl fun p h => by cases p <;> first | rfl | exact false_of_touch hm h

theorem upd_waits_keeps {m : Nat} {s0 s : State} (hm : m.testBit (Part.bit .waits) = true) (hs : Keeps m s0 s) (v) :
    Keeps m s0 { s with waits := v } :=
  hs.hidden rfl rfl fun p h => by cases p <;> first | rfl | exact false_of_touch hm h

theorem upd_supOut_keeps {m : Nat} {s0 s : State} (hm : m.testBit (Part.bit .supOut) = true) (hs : Keeps m s0 s) (v) :
    Keeps m s0 { s with supOut := v } :=
  hs.hidden rfl rfl fun p h => by cases p <;> first | rfl | exact false_of_touch hm h

theorem upd_supRes_keeps {m : Nat} {s0 s : State} (hm : m.testBit (Part.bit .supRes) = true) (hs : Keeps m s0 s) (v) :
    Keeps m s0 { s with supRes := v } :=
  hs.hidden rfl rfl fun p h => by cases p <;> first | rfl | exact false_of_touch hm h

theorem upd_supBad_keeps {m : Nat} {s0 s : State} (hm : m.testBit (Part.bit .supBad) = true) (hs : Keeps m s0 s) (v) :
    Keeps m s0 { s with supBad := v } :=
  hs.hidden rfl rfl fun p h => by cases p <;> first | rfl | exact false_of_touch hm h

theorem upd_served_keeps {m : Nat} {s0 s : State} (hm : m.testBit (Part.bit .served) = true) (hs : Keeps m s0 s) (v) :
    Keeps m s0 { s with served := v } :=
  hs.hidden rfl rfl fun p h => by cases p <;> first | rfl | exact false_of_touch hm h

theorem upd_tenants_keeps {m : Nat} {s0 s : State} (hm : m.testBit (Part.bit .tenants) = true) (hs : Keeps m s0 s) (v) :
    Keeps m s0 { s with tenants := v } :=
  hs.hidden rfl rfl fun p h => by cases p <;> first | rfl | exact false_of_touch hm h

theorem upd_ports_keeps {m : Nat} {s0 s : State} (hm : m.testBit (Part.bit .ports) = true) (hs : Keeps m s0 s) (v) :
    Keeps m s0 { s with ports := v } :=
  hs.hidden rfl rfl fun p h => by cases p <;> first | rfl | exact false_of_touch hm h

theorem upd_sec_keeps {m : Nat} {s0 s : State} (hm : m.testBit (Part.bit .sec) = true) (hs : Keeps m s0 s) (v) :
    Keeps m s0 { s with sec := v } :=
  hs.hidden rfl rfl fun p h => by cases p <;> first | rfl | exact false_of_touch hm h

theorem upd_slv_keeps {m : Nat} {s0 s : State} (hm : m.testBit (Part.bit .slv) = true) (hs : Keeps m s0 s) (v) :
    Keeps m s0 { s with slv := v } :=
  hs.hidden rfl rfl fun p h => by cases p <;> first | rfl | exact false_of_touch hm h

theorem upd_nvm_keeps {m : Nat} {s0 s : State} (hm : m.testBit (Part.bit .nvm) = true) (hs : Keeps m s0 s) (v) :
    Keeps m s0 { s with nvm := v } :=
  hs.hidden rfl rfl fun p h => by cases p <;> first | rfl | exact false_of_touch hm h

theorem upd_meters_keeps {m : Nat} {s0 s : State} (hm : m.testBit (Part.bit .meters) = true) (hs : Keeps m s0 s) (v) :
    Keeps m s0 { s with meters := v } :=
  hs.hidden rfl rfl fun p h => by cases p <;> first | rfl | exact false_of_touch hm h

theorem upd_lanes_keeps {m : Nat} {s0 s : State} (hm : m.testBit (Part.bit .lanes) = true) (hs : Keeps m s0 s) (v) :
    Keeps m s0 { s with lanes := v } :=
  hs.hidden rfl rfl fun p h => by cases p <;> first | rfl | exact false_of_touch hm h

theorem upd_phases_keeps {m : Nat} {s0 s : State} (hm : m.testBit (Part.bit .phases) = true) (hs : Keeps m s0 s) (v) :
    Keeps m s0 { s with phases := v } :=
  hs.hidden rfl rfl fun p h => by cases p <;> first | rfl | exact false_of_touch hm h

theorem upd_bays_keeps {m : Nat} {s0 s : State} (hm : m.testBit (Part.bit .bays) = true) (hs : Keeps m s0 s) (v) :
    Keeps m s0 { s with bays := v } :=
  hs.hidden rfl rfl fun p h => by cases p <;> first | rfl | exact false_of_touch hm h

theorem upd_segs_keeps {m : Nat} {s0 s : State} (hm : m.testBit (Part.bit .segs) = true) (hs : Keeps m s0 s) (v) :
    Keeps m s0 { s with segs := v } :=
  hs.hidden rfl rfl fun p h => by cases p <;> first | rfl | exact false_of_touch hm h

theorem upd_pwm_keeps {m : Nat} {s0 s : State} (hm : m.testBit (Part.bit .pwm) = true) (hs : Keeps m s0 s) (v) :
    Keeps m s0 { s with pwm := v } :=
  hs.hidden rfl rfl fun p h => by cases p <;> first | rfl | exact false_of_touch hm h

theorem upd_power_keeps {m : Nat} {s0 s : State} (hm : m.testBit (Part.bit .power) = true) (hs : Keeps m s0 s) (v) :
    Keeps m s0 { s with power := v } :=
  hs.hidden rfl rfl fun p h => by cases p <;> first | rfl | exact false_of_touch hm h

theorem upd_rtrLive_keeps {m : Nat} {s0 s : State} (hm : m.testBit (Part.bit .rtrLive) = true) (hs : Keeps m s0 s) (v) :
    Keeps m s0 { s with rtrLive := v } :=
  hs.hidden rfl rfl fun p h => by cases p <;> first | rfl | exact false_of_touch hm h

theorem upd_refSeen_keeps {m : Nat} {s0 s : State} (hm : m.testBit (Part.bit .refSeen) = true) (hs : Keeps m s0 s) (v) :
    Keeps m s0 { s with refSeen := v } :=
  hs.hidden rfl rfl fun p h => by cases p <;> first | rfl | exact false_of_touch hm h

theorem upd_refRun_keeps {m : Nat} {s0 s : State} (hm : m.testBit (Part.bit .refRun) = true) (hs : Keeps m s0 s) (v) :
    Keeps m s0 { s with refRun := v } :=
  hs.hidden rfl rfl fun p h => by cases p <;> first | rfl | exact false_of_touch hm h

theorem upd_refOut_keeps {m : Nat} {s0 s : State} (hm : m.testBit (Part.bit .refOut) = true) (hs : Keeps m s0 s) (v) :
    Keeps m s0 { s with refOut := v } :=
  hs.hidden rfl rfl fun p h => by cases p <;> first | rfl | exact false_of_touch hm h

theorem upd_refOn_keeps {m : Nat} {s0 s : State} (hm : m.testBit (Part.bit .refOn) = true) (hs : Keeps m s0 s) (v) :
    Keeps m s0 { s with refOn := v } :=
  hs.hidden rfl rfl fun p h => by cases p <;> first | rfl | exact false_of_touch hm h

theorem upd_timers_keeps {m : Nat} {s0 s : State} (hm : m.testBit (Part.bit .timers) = true) (hs : Keeps m s0 s) (v) :
    Keeps m s0 { s with timers := v } :=
  hs.hidden rfl rfl fun p h => by cases p <;> first | rfl | exact false_of_touch hm h

theorem upd_tioDrv_keeps {m : Nat} {s0 s : State} (hm : m.testBit (Part.bit .tioDrv) = true) (hs : Keeps m s0 s) (v) :
    Keeps m s0 { s with tioDrv := v } :=
  hs.hidden rfl rfl fun p h => by cases p <;> first | rfl | exact false_of_touch hm h

theorem upd_portM_keeps {m : Nat} {s0 s : State} (hm : m.testBit (Part.bit .portM) = true) (hs : Keeps m s0 s) (v) :
    Keeps m s0 { s with portM := v } :=
  hs.hidden rfl rfl fun p h => by cases p <;> first | rfl | exact false_of_touch hm h

theorem upd_tokenQ_keeps {m : Nat} {s0 s : State} (hm : m.testBit (Part.bit .tokenQ) = true) (hs : Keeps m s0 s) (v) :
    Keeps m s0 { s with tokenQ := v } :=
  hs.hidden rfl rfl fun p h => by cases p <;> first | rfl | exact false_of_touch hm h

theorem upd_lastGrant_keeps {m : Nat} {s0 s : State} (hm : m.testBit (Part.bit .lastGrant) = true) (hs : Keeps m s0 s) (v) :
    Keeps m s0 { s with lastGrant := v } :=
  hs.hidden rfl rfl fun p h => by cases p <;> first | rfl | exact false_of_touch hm h

theorem upd_tokenQ_lastGrant_keeps {m : Nat} {s0 s : State} (hs : Keeps m s0 s)
    (h0 : m.testBit (Part.bit .tokenQ) = true) (h1 : m.testBit (Part.bit .lastGrant) = true)
    (v0) (v1) : Keeps m s0 { s with tokenQ := v0, lastGrant := v1 } :=
  hs.hidden rfl rfl fun p h => by cases p <;> first | rfl | with_reducible exact false_of_touch h0 h | with_reducible exact false_of_touch h1 h

theorem upd_refRun_refOut_refOn_keeps {m : Nat} {s0 s : State} (hs : Keeps m s0 s)
    (h0 : m.testBit (Part.bit .refRun) = true) (h1 : m.testBit (Part.bit .refOut) = true) (h2 : m.testBit (Part.bit .refOn) = true)
    (v0) (v1) (v2) : Keeps m s0 { s with refRun := v0, refOut := v1, refOn := v2 } :=
  hs.hidden rfl rfl fun p h => by cases p <;> first | rfl | with_reducible exact false_of_touch h0 h | with_reducible exact false_of_touch h1 h | with_reducible exact false_of_touch h2 h

theorem upd_supOut_supRes_supBad_keeps {m : Nat} {s0 s : State} (hs : Keeps m s0 s)
    (h0 : m.testBit (Part.bit .supOut) = true) (h1 : m.testBit (Part.bit .supRes) = true) (h2 : m.testBit (Part.bit .supBad) = true)
    (v0) (v1) (v2) : Keeps m s0 { s with supOut := v0, supRes := v1, supBad := v2 } :=
  hs.hidden rfl rfl fun p h => by cases p <;> first | rfl | with_reducible exact false_of_touch h0 h | with_reducible exact false_of_touch h1 h | with_reducible exact false_of_touch h2 h

theorem upd_supOut_supRes_supBad_served_keeps {m : Nat} {s0 s : State} (hs : Keeps m s0 s)
    (h0 : m.testBit (Part.bit .supOut) = true) (h1 : m.testBit (Part.bit .supRes) = true) (h2 : m.testBit (Part.bit .supBad) = true) (h3 : m.testBit (Part.bit .served) = true)
    (v0) (v1) (v2) (v3) : Keeps m s0 { s with supOut := v0, supRes := v1, supBad := v2, served := v3 } :=
  hs.hidden rfl rfl fun p h => by cases p <;> first | rfl | with_reducible exact false_of_touch h0 h | with_reducible exact false_of_touch h1 h | with_reducible exact false_of_touch h2 h | with_reducible exact false_of_touch h3 h

theorem upd_refRun_refOut_keeps {m : Nat} {s0 s : State} (hs : Keeps m s0 s)
    (h0 : m.testBit (Part.bit .refRun) = true) (h1 : m.testBit (Part.bit .refOut) = true)
    (v0) (v1) : Keeps m s0 { s with refRun := v0, refOut := v1 } :=
  hs.hidden rfl rfl fun p h => by cases p <;> first | rfl | with_reducible exact false_of_touch h0 h | with_reducible exact false_of_touch h1 h

theorem upd_refSeen_refRun_refOut_keeps {m : Nat} {s0 s : State} (hs : Keeps m s0 s)
    (h0 : m.testBit (Part.bit .refSeen) = true) (h1 : m.testBit (Part.bit .refRun) = true) (h2 : m.testBit (Part.bit .refOut) = true)
    (v0) (v1) (v2) : Keeps m s0 { s with refSeen := v0, refRun := v1, refOut := v2 } :=
  hs.hidden rfl rfl fun p h => by cases p <;> first | rfl | with_reducible exact false_of_touch h0 h | with_reducible exact false_of_touch h1 h | with_reducible exact false_of_touch h2 h

end Sys2Proof.Machine
end

