-- ==== Sys2Proof/Laws/KeepsOperands.lean ====
section
/-!
SUPPORT. Sys2Proof/Laws/KeepsOperands.lean: what each function of Machine/Operands.lean may change: its touch set, and one lemma per function.
-/
namespace Sys2Proof.Machine

open Sys2Proof

def onBay_touch : Nat := 0x100000000000000000000000000000000000000000000000000000000000000000000
theorem onBay_keeps {tm : Nat} {z s : State} (hm : Sub onBay_touch tm) (hs : Keeps tm z s) (b : Nat) (f : Sys2Proof.Machine.BaySt → Sys2Proof.Machine.BaySt) :
    Keeps tm z (State.onBay s b f) := by
  delta State.onBay
  repeat' first
    | with_reducible assumption
    | (refine Sub.bit hm ?_; exact rfl)
    | (refine Sub.trans (Sub.of ?_) hm; exact rfl)
    | with_reducible refine Keeps.ite ?_ ?_
    | (refine (?_ : (_ : Bool) = true); exact rfl)
    | with_reducible refine Keeps.idState ?_
    | with_reducible refine foldl_keeps ?_ _ (fun s a hs => ?_)
    | (extract_lets +onlyGivenNames x; refine Keeps.cut (x := x) (m := tm) (s0 := z) ?_ ?_; unfold x; clear x; rotate_left; intro hx; clear_value x; rotate_right)
    | (extract_lets +onlyGivenNames x; clear_value x)
    | split
    | with_reducible refine upd_bays_keeps ?_ ?_ _

def onLane_touch : Nat := 0x40000000000000000000000000000000000000000000000000000000000000000000
theorem onLane_keeps {tm : Nat} {z s : State} (hm : Sub onLane_touch tm) (hs : Keeps tm z s) (l : Nat) (f : Sys2Proof.Machine.LaneSt → Sys2Proof.Machine.LaneSt) :
    Keeps tm z (State.onLane s l f) := by
  delta State.onLane
  repeat' first
    | with_reducible assumption
    | (refine Sub.bit hm ?_; exact rfl)
    | (refine Sub.trans (Sub.of ?_) hm; exact rfl)
    | with_reducible refine Keeps.ite ?_ ?_
    | (refine (?_ : (_ : Bool) = true); exact rfl)
    | with_reducible refine Keeps.idState ?_
    | with_reducible refine foldl_keeps ?_ _ (fun s a hs => ?_)
    | (extract_lets +onlyGivenNames x; refine Keeps.cut (x := x) (m := tm) (s0 := z) ?_ ?_; unfold x; clear x; rotate_left; intro hx; clear_value x; rotate_right)
    | (extract_lets +onlyGivenNames x; clear_value x)
    | split
    | with_reducible refine upd_lanes_keeps ?_ ?_ _

def onTenant_touch : Nat := 0x1000000000000000000000000000000000000000000000000000000000000000000
theorem onTenant_keeps {tm : Nat} {z s : State} (hm : Sub onTenant_touch tm) (hs : Keeps tm z s) (t : Nat) (f : Sys2Proof.Machine.TenantSt → Sys2Proof.Machine.TenantSt) :
    Keeps tm z (State.onTenant s t f) := by
  delta State.onTenant
  repeat' first
    | with_reducible assumption
    | (refine Sub.bit hm ?_; exact rfl)
    | (refine Sub.trans (Sub.of ?_) hm; exact rfl)
    | with_reducible refine Keeps.ite ?_ ?_
    | (refine (?_ : (_ : Bool) = true); exact rfl)
    | with_reducible refine Keeps.idState ?_
    | with_reducible refine foldl_keeps ?_ _ (fun s a hs => ?_)
    | (extract_lets +onlyGivenNames x; refine Keeps.cut (x := x) (m := tm) (s0 := z) ?_ ?_; unfold x; clear x; rotate_left; intro hx; clear_value x; rotate_right)
    | (extract_lets +onlyGivenNames x; clear_value x)
    | split
    | with_reducible refine upd_tenants_keeps ?_ ?_ _

def onMeter_touch : Nat := 0x20000000000000000000000000000000000000000000000000000000000000000000
theorem onMeter_keeps {tm : Nat} {z s : State} (hm : Sub onMeter_touch tm) (hs : Keeps tm z s) (l : Nat) (f : Sys2Proof.Machine.Meter → Sys2Proof.Machine.Meter) :
    Keeps tm z (State.onMeter s l f) := by
  delta State.onMeter
  repeat' first
    | with_reducible assumption
    | (refine Sub.bit hm ?_; exact rfl)
    | (refine Sub.trans (Sub.of ?_) hm; exact rfl)
    | with_reducible refine Keeps.ite ?_ ?_
    | (refine (?_ : (_ : Bool) = true); exact rfl)
    | with_reducible refine Keeps.idState ?_
    | with_reducible refine foldl_keeps ?_ _ (fun s a hs => ?_)
    | (extract_lets +onlyGivenNames x; refine Keeps.cut (x := x) (m := tm) (s0 := z) ?_ ?_; unfold x; clear x; rotate_left; intro hx; clear_value x; rotate_right)
    | (extract_lets +onlyGivenNames x; clear_value x)
    | split
    | with_reducible refine upd_meters_keeps ?_ ?_ _

def onCtr_touch : Nat := 0x10000000000000000000000000000000000000000000000000000000000000000000
theorem onCtr_keeps {tm : Nat} {z s : State} (hm : Sub onCtr_touch tm) (hs : Keeps tm z s) (c : Nat) (f : Sys2Proof.Machine.Counter → Sys2Proof.Machine.Counter) :
    Keeps tm z (State.onCtr s c f) := by
  delta State.onCtr
  repeat' first
    | with_reducible assumption
    | (refine Sub.bit hm ?_; exact rfl)
    | (refine Sub.trans (Sub.of ?_) hm; exact rfl)
    | with_reducible refine Keeps.ite ?_ ?_
    | (refine (?_ : (_ : Bool) = true); exact rfl)
    | with_reducible refine Keeps.idState ?_
    | with_reducible refine foldl_keeps ?_ _ (fun s a hs => ?_)
    | (extract_lets +onlyGivenNames x; refine Keeps.cut (x := x) (m := tm) (s0 := z) ?_ ?_; unfold x; clear x; rotate_left; intro hx; clear_value x; rotate_right)
    | (extract_lets +onlyGivenNames x; clear_value x)
    | split
    | with_reducible refine upd_nvm_keeps ?_ ?_ _

end Sys2Proof.Machine
end

