-- ==== Sys2Proof/Laws/KeepsOps.lean ====
section
/-!
SUPPORT. Sys2Proof/Laws/KeepsOps.lean: what each function of Machine/Ops.lean may change: its touch set, and one lemma per function.
-/
namespace Sys2Proof.Machine

open Sys2Proof

def loseReport_touch : Nat := 0x8000000000000000000000000000000000000010000000000000000000000000000
theorem loseReport_keeps {tm : Nat} {z s : State} (hm : Sub loseReport_touch tm) (hs : Keeps tm z s)  :
    Keeps tm z (State.loseReport s) := by
  delta State.loseReport
  repeat' first
    | with_reducible assumption
    | (refine Sub.bit hm ?_; exact rfl)
    | (refine Sub.trans (Sub.of ?_) hm; exact rfl)
    | with_reducible refine Keeps.ite ?_ ?_
    | (refine (?_ : (_ : Bool) = true); exact rfl)
    | with_reducible refine bump_keeps ?_ ?_ ?_ _ _
    | with_reducible refine Keeps.idState ?_
    | with_reducible refine foldl_keeps ?_ _ (fun s a hs => ?_)
    | (extract_lets +onlyGivenNames x; refine Keeps.cut (x := x) (m := tm) (s0 := z) ?_ ?_; unfold x; clear x; rotate_left; intro hx; clear_value x; rotate_right)
    | (extract_lets +onlyGivenNames x; clear_value x)
    | split
    | with_reducible refine upd_slv_keeps ?_ ?_ _

def record_touch : Nat := 0x8000000000000000000000000000000000000010000000000000000000000000000
theorem record_keeps {tm : Nat} {z s : State} (hm : Sub record_touch tm) (hs : Keeps tm z s) (code : Nat) (src : Nat) (flags : Nat) (own : optParam (Option (List Sys2Proof.Word)) none) :
    Keeps tm z (State.record s code src flags own) := by
  delta State.record
  repeat' first
    | with_reducible assumption
    | (refine Sub.bit hm ?_; exact rfl)
    | (refine Sub.trans (Sub.of ?_) hm; exact rfl)
    | with_reducible refine Keeps.ite ?_ ?_
    | (refine (?_ : (_ : Bool) = true); exact rfl)
    | with_reducible refine loseReport_keeps ?_ ?_
    | with_reducible refine Keeps.idState ?_
    | with_reducible refine foldl_keeps ?_ _ (fun s a hs => ?_)
    | (extract_lets +onlyGivenNames x; refine Keeps.cut (x := x) (m := tm) (s0 := z) ?_ ?_; unfold x; clear x; rotate_left; intro hx; clear_value x; rotate_right)
    | (extract_lets +onlyGivenNames x; clear_value x)
    | split
    | with_reducible refine upd_slv_keeps ?_ ?_ _

def toL0_touch : Nat := 0x600000000000000000000000000000000000000000
theorem toL0_keeps {tm : Nat} {z s : State} (hm : Sub toL0_touch tm) (hs : Keeps tm z s) (t : Nat) :
    Keeps tm z (State.toL0 s t) := by
  delta State.toL0
  repeat' first
    | with_reducible assumption
    | (refine Sub.bit hm ?_; exact rfl)
    | (refine Sub.trans (Sub.of ?_) hm; exact rfl)
    | with_reducible refine Keeps.ite ?_ ?_
    | (refine (?_ : (_ : Bool) = true); exact rfl)
    | with_reducible refine wr_keeps ?_ ?_ ?_ _ _
    | with_reducible refine Keeps.idState ?_
    | with_reducible refine foldl_keeps ?_ _ (fun s a hs => ?_)
    | (extract_lets +onlyGivenNames x; refine Keeps.cut (x := x) (m := tm) (s0 := z) ?_ ?_; unfold x; clear x; rotate_left; intro hx; clear_value x; rotate_right)
    | (extract_lets +onlyGivenNames x; clear_value x)
    | split

def emit_touch : Nat := 0x40000000000000000000000600000000000000000000000000000000000000000
theorem emit_keeps {tm : Nat} {z s : State} (hm : Sub emit_touch tm) (hs : Keeps tm z s) (o : Sys2Proof.Machine.Out) :
    Keeps tm z (State.emit s o) := by
  delta State.emit
  repeat' first
    | with_reducible assumption
    | (refine Sub.bit hm ?_; exact rfl)
    | (refine Sub.trans (Sub.of ?_) hm; exact rfl)
    | with_reducible refine Keeps.ite ?_ ?_
    | (refine (?_ : (_ : Bool) = true); exact rfl)
    | with_reducible refine toL0_keeps ?_ ?_ _
    | with_reducible refine Keeps.idState ?_
    | with_reducible refine foldl_keeps ?_ _ (fun s a hs => ?_)
    | (extract_lets +onlyGivenNames x; refine Keeps.cut (x := x) (m := tm) (s0 := z) ?_ ?_; unfold x; clear x; rotate_left; intro hx; clear_value x; rotate_right)
    | (extract_lets +onlyGivenNames x; clear_value x)
    | split
    | with_reducible refine upd_outs_keeps ?_ ?_ _

def postVec_touch : Nat := 0x1040000000000000000000000600000000000000000000000000000000000000000
theorem postVec_keeps {tm : Nat} {z s : State} (hm : Sub postVec_touch tm) (hs : Keeps tm z s) (t : Nat) (v : Nat) :
    Keeps tm z (State.postVec s t v) := by
  delta State.postVec
  repeat' first
    | with_reducible assumption
    | (refine Sub.bit hm ?_; exact rfl)
    | (refine Sub.trans (Sub.of ?_) hm; exact rfl)
    | with_reducible refine Keeps.ite ?_ ?_
    | (refine (?_ : (_ : Bool) = true); exact rfl)
    | with_reducible refine onTenant_keeps ?_ ?_ _ _
    | with_reducible refine emit_keeps ?_ ?_ _
    | with_reducible refine Keeps.idState ?_
    | with_reducible refine foldl_keeps ?_ _ (fun s a hs => ?_)
    | (extract_lets +onlyGivenNames x; refine Keeps.cut (x := x) (m := tm) (s0 := z) ?_ ?_; unfold x; clear x; rotate_left; intro hx; clear_value x; rotate_right)
    | (extract_lets +onlyGivenNames x; clear_value x)
    | split

def signalRing_touch : Nat := 0x1040000000000000000000000600000000000000000000000000000000000000000
theorem signalRing_keeps {tm : Nat} {z s : State} (hm : Sub signalRing_touch tm) (hs : Keeps tm z s) (t : Nat) :
    Keeps tm z (State.signalRing s t) := by
  delta State.signalRing
  repeat' first
    | with_reducible assumption
    | (refine Sub.bit hm ?_; exact rfl)
    | (refine Sub.trans (Sub.of ?_) hm; exact rfl)
    | with_reducible refine Keeps.ite ?_ ?_
    | (refine (?_ : (_ : Bool) = true); exact rfl)
    | with_reducible refine onTenant_keeps ?_ ?_ _ _
    | with_reducible refine postVec_keeps ?_ ?_ _ _
    | with_reducible refine Keeps.idState ?_
    | with_reducible refine foldl_keeps ?_ _ (fun s a hs => ?_)
    | (extract_lets +onlyGivenNames x; refine Keeps.cut (x := x) (m := tm) (s0 := z) ?_ ?_; unfold x; clear x; rotate_left; intro hx; clear_value x; rotate_right)
    | (extract_lets +onlyGivenNames x; clear_value x)
    | split

def pushEntry_touch : Nat := 0x1040000000000000000002000600000000000000000000000000000000000000000
theorem pushEntry_keeps {tm : Nat} {z s : State} (hm : Sub pushEntry_touch tm) (hs : Keeps tm z s) (t : Nat) (body : List Sys2Proof.Byte) (cid : Nat) (opcode : Nat) (status : Nat) (type : Nat) :
    Keeps tm z (State.pushEntry s t body cid opcode status type) := by
  delta State.pushEntry
  repeat' first
    | with_reducible assumption
    | (refine Sub.bit hm ?_; exact rfl)
    | (refine Sub.trans (Sub.of ?_) hm; exact rfl)
    | with_reducible refine Keeps.ite ?_ ?_
    | (refine (?_ : (_ : Bool) = true); exact rfl)
    | with_reducible refine wr_keeps ?_ ?_ ?_ _ _
    | with_reducible refine onTenant_keeps ?_ ?_ _ _
    | with_reducible refine signalRing_keeps ?_ ?_ _
    | with_reducible refine emit_keeps ?_ ?_ _
    | with_reducible refine Keeps.idState ?_
    | with_reducible refine foldl_keeps ?_ _ (fun s a hs => ?_)
    | (extract_lets +onlyGivenNames x; refine Keeps.cut (x := x) (m := tm) (s0 := z) ?_ ?_; unfold x; clear x; rotate_left; intro hx; clear_value x; rotate_right)
    | (extract_lets +onlyGivenNames x; clear_value x)
    | split

def pushEvent_touch : Nat := 0x1040000000000000000002000600000000000000000000000000000000000000000
theorem pushEvent_keeps {tm : Nat} {z s : State} (hm : Sub pushEvent_touch tm) (hs : Keeps tm z s) (t : Nat) (body : List Sys2Proof.Byte) (status : Nat) (type : Nat) :
    Keeps tm z (State.pushEvent s t body status type) := by
  delta State.pushEvent
  repeat' first
    | with_reducible assumption
    | (refine Sub.bit hm ?_; exact rfl)
    | (refine Sub.trans (Sub.of ?_) hm; exact rfl)
    | with_reducible refine Keeps.ite ?_ ?_
    | (refine (?_ : (_ : Bool) = true); exact rfl)
    | with_reducible refine bump_keeps ?_ ?_ ?_ _ _
    | with_reducible refine onTenant_keeps ?_ ?_ _ _
    | with_reducible refine pushEntry_keeps ?_ ?_ _ _ _ _ _ _
    | with_reducible refine Keeps.idState ?_
    | with_reducible refine foldl_keeps ?_ _ (fun s a hs => ?_)
    | (extract_lets +onlyGivenNames x; refine Keeps.cut (x := x) (m := tm) (s0 := z) ?_ ?_; unfold x; clear x; rotate_left; intro hx; clear_value x; rotate_right)
    | (extract_lets +onlyGivenNames x; clear_value x)
    | split

def notify_touch : Nat := 0x1040000000000000000002000600000000000000000000000000000000000000000
theorem notify_keeps {tm : Nat} {z s : State} (hm : Sub notify_touch tm) (hs : Keeps tm z s) (ts : List Nat) (body : List Sys2Proof.Byte) (type : Nat) :
    Keeps tm z (State.notify s ts body type) := by
  delta State.notify
  repeat' first
    | with_reducible assumption
    | (refine Sub.bit hm ?_; exact rfl)
    | (refine Sub.trans (Sub.of ?_) hm; exact rfl)
    | with_reducible refine Keeps.ite ?_ ?_
    | (refine (?_ : (_ : Bool) = true); exact rfl)
    | with_reducible refine forEach_keeps ?_ _ (fun s a hs => ?_)
    | with_reducible refine pushEvent_keeps ?_ ?_ _ _ _ _
    | with_reducible refine Keeps.idState ?_
    | with_reducible refine foldl_keeps ?_ _ (fun s a hs => ?_)
    | (extract_lets +onlyGivenNames x; refine Keeps.cut (x := x) (m := tm) (s0 := z) ?_ ?_; unfold x; clear x; rotate_left; intro hx; clear_value x; rotate_right)
    | (extract_lets +onlyGivenNames x; clear_value x)
    | split

def notice_touch : Nat := 0x1040000000000000000002000600000000000000000000000000000000000000000
theorem notice_keeps {tm : Nat} {z s : State} (hm : Sub notice_touch tm) (hs : Keeps tm z s) (ts : List Nat) (kind : Nat) (b : List Sys2Proof.Byte) :
    Keeps tm z (State.notice s ts kind b) := by
  delta State.notice
  repeat' first
    | with_reducible assumption
    | (refine Sub.bit hm ?_; exact rfl)
    | (refine Sub.trans (Sub.of ?_) hm; exact rfl)
    | with_reducible refine Keeps.ite ?_ ?_
    | (refine (?_ : (_ : Bool) = true); exact rfl)
    | with_reducible refine notify_keeps ?_ ?_ _ _ _
    | with_reducible refine Keeps.idState ?_
    | with_reducible refine foldl_keeps ?_ _ (fun s a hs => ?_)
    | (extract_lets +onlyGivenNames x; refine Keeps.cut (x := x) (m := tm) (s0 := z) ?_ ?_; unfold x; clear x; rotate_left; intro hx; clear_value x; rotate_right)
    | (extract_lets +onlyGivenNames x; clear_value x)
    | split

def quarantine_touch : Nat := 0x9040000000000000000042000600000000000010000000000000000000000000000
theorem quarantine_keeps {tm : Nat} {z s : State} (hm : Sub quarantine_touch tm) (hs : Keeps tm z s) (t : Nat) (cause : Nat) :
    Keeps tm z (State.quarantine s t cause) := by
  delta State.quarantine
  repeat' first
    | with_reducible assumption
    | (refine Sub.bit hm ?_; exact rfl)
    | (refine Sub.trans (Sub.of ?_) hm; exact rfl)
    | with_reducible refine Keeps.ite ?_ ?_
    | (refine (?_ : (_ : Bool) = true); exact rfl)
    | with_reducible refine putBit_keeps ?_ ?_ ?_ _ _ _
    | with_reducible refine onTenant_keeps ?_ ?_ _ _
    | with_reducible refine record_keeps ?_ ?_ _ _ _ _
    | with_reducible refine notice_keeps ?_ ?_ _ _ _
    | with_reducible refine Keeps.idState ?_
    | with_reducible refine foldl_keeps ?_ _ (fun s a hs => ?_)
    | (extract_lets +onlyGivenNames x; refine Keeps.cut (x := x) (m := tm) (s0 := z) ?_ ?_; unfold x; clear x; rotate_left; intro hx; clear_value x; rotate_right)
    | (extract_lets +onlyGivenNames x; clear_value x)
    | split

def violation_touch : Nat := 0x9040000000000000000042000600000000000010000000000000000000000000000
theorem violation_keeps {tm : Nat} {z s : State} (hm : Sub violation_touch tm) (hs : Keeps tm z s) (t : Nat) (kind : Nat) :
    Keeps tm z (State.violation s t kind) := by
  delta State.violation
  repeat' first
    | with_reducible assumption
    | (refine Sub.bit hm ?_; exact rfl)
    | (refine Sub.trans (Sub.of ?_) hm; exact rfl)
    | with_reducible refine Keeps.ite ?_ ?_
    | (refine (?_ : (_ : Bool) = true); exact rfl)
    | with_reducible refine onTenant_keeps ?_ ?_ _ _
    | with_reducible refine record_keeps ?_ ?_ _ _ _ _
    | with_reducible refine quarantine_keeps ?_ ?_ _ _
    | with_reducible refine Keeps.idState ?_
    | with_reducible refine foldl_keeps ?_ _ (fun s a hs => ?_)
    | (extract_lets +onlyGivenNames x; refine Keeps.cut (x := x) (m := tm) (s0 := z) ?_ ?_; unfold x; clear x; rotate_left; intro hx; clear_value x; rotate_right)
    | (extract_lets +onlyGivenNames x; clear_value x)
    | split

def supResult_touch : Nat := 0x700000000000000000000000000000000000000000000000000000000000000000
theorem supResult_keeps {tm : Nat} {z s : State} (hm : Sub supResult_touch tm) (hs : Keeps tm z s) (status : Nat) :
    Keeps tm z (State.supResult s status) := by
  delta State.supResult
  repeat' first
    | with_reducible assumption
    | (refine Sub.bit hm ?_; exact rfl)
    | (refine Sub.trans (Sub.of ?_) hm; exact rfl)
    | with_reducible refine Keeps.ite ?_ ?_
    | (refine (?_ : (_ : Bool) = true); exact rfl)
    | with_reducible refine Keeps.idState ?_
    | with_reducible refine foldl_keeps ?_ _ (fun s a hs => ?_)
    | (extract_lets +onlyGivenNames x; refine Keeps.cut (x := x) (m := tm) (s0 := z) ?_ ?_; unfold x; clear x; rotate_left; intro hx; clear_value x; rotate_right)
    | (extract_lets +onlyGivenNames x; clear_value x)
    | split
    | with_reducible refine upd_supOut_keeps ?_ ?_ _
    | with_reducible refine upd_supRes_keeps ?_ ?_ _
    | with_reducible refine upd_supBad_keeps ?_ ?_ _
    | with_reducible refine upd_supOut_supRes_supBad_keeps ?_ ?_ ?_ ?_ _ _ _ 

def kickFetch_touch : Nat := 0x1040000000000000000000000600000000000000000000000000000000000000000
theorem kickFetch_keeps {tm : Nat} {z s : State} (hm : Sub kickFetch_touch tm) (hs : Keeps tm z s) (t : Nat) :
    Keeps tm z (State.kickFetch s t) := by
  delta State.kickFetch
  repeat' first
    | with_reducible assumption
    | (refine Sub.bit hm ?_; exact rfl)
    | (refine Sub.trans (Sub.of ?_) hm; exact rfl)
    | with_reducible refine Keeps.ite ?_ ?_
    | (refine (?_ : (_ : Bool) = true); exact rfl)
    | with_reducible refine onTenant_keeps ?_ ?_ _ _
    | with_reducible refine emit_keeps ?_ ?_ _
    | with_reducible refine Keeps.idState ?_
    | with_reducible refine foldl_keeps ?_ _ (fun s a hs => ?_)
    | (extract_lets +onlyGivenNames x; refine Keeps.cut (x := x) (m := tm) (s0 := z) ?_ ?_; unfold x; clear x; rotate_left; intro hx; clear_value x; rotate_right)
    | (extract_lets +onlyGivenNames x; clear_value x)
    | split

def complete_touch : Nat := 0x974000000000000000004a000600000000000010000000000000000000000000000
theorem complete_keeps {tm : Nat} {z s : State} (hm : Sub complete_touch tm) (hs : Keeps tm z s) (c : Sys2Proof.Machine.CmdRef) (status : Nat) (res : optParam (List Sys2Proof.Byte) []) :
    Keeps tm z (State.complete s c status res) := by
  delta State.complete
  repeat' first
    | with_reducible assumption
    | (refine Sub.bit hm ?_; exact rfl)
    | (refine Sub.trans (Sub.of ?_) hm; exact rfl)
    | with_reducible refine Keeps.ite ?_ ?_
    | (refine (?_ : (_ : Bool) = true); exact rfl)
    | with_reducible refine wr_keeps ?_ ?_ ?_ _ _
    | with_reducible refine pushEntry_keeps ?_ ?_ _ _ _ _ _ _
    | with_reducible refine violation_keeps ?_ ?_ _ _
    | with_reducible refine supResult_keeps ?_ ?_ _
    | with_reducible refine kickFetch_keeps ?_ ?_ _
    | with_reducible refine Keeps.idState ?_
    | with_reducible refine foldl_keeps ?_ _ (fun s a hs => ?_)
    | (extract_lets +onlyGivenNames x; refine Keeps.cut (x := x) (m := tm) (s0 := z) ?_ ?_; unfold x; clear x; rotate_left; intro hx; clear_value x; rotate_right)
    | (extract_lets +onlyGivenNames x; clear_value x)
    | split

def finish_touch : Nat := 0x97c000000000000000004a000600000000000010000000000000000000000000000
theorem finish_keeps {tm : Nat} {z s : State} (hm : Sub finish_touch tm) (hs : Keeps tm z s) (p : Sys2Proof.Machine.WaitFor → Bool) (status : Nat) (res : optParam (List Sys2Proof.Byte) []) :
    Keeps tm z (State.finish s p status res) := by
  delta State.finish
  repeat' first
    | with_reducible assumption
    | (refine Sub.bit hm ?_; exact rfl)
    | (refine Sub.trans (Sub.of ?_) hm; exact rfl)
    | with_reducible refine Keeps.ite ?_ ?_
    | (refine (?_ : (_ : Bool) = true); exact rfl)
    | with_reducible refine complete_keeps ?_ ?_ _ _ _
    | with_reducible refine Keeps.idState ?_
    | with_reducible refine foldl_keeps ?_ _ (fun s a hs => ?_)
    | (extract_lets +onlyGivenNames x; refine Keeps.cut (x := x) (m := tm) (s0 := z) ?_ ?_; unfold x; clear x; rotate_left; intro hx; clear_value x; rotate_right)
    | (extract_lets +onlyGivenNames x; clear_value x)
    | split
    | with_reducible refine upd_waits_keeps ?_ ?_ _

def recordCtr_touch : Nat := 0x8000000000000000000000000000000000000010000000000000000000000000000
theorem recordCtr_keeps {tm : Nat} {z s : State} (hm : Sub recordCtr_touch tm) (hs : Keeps tm z s) (code : Nat) (c : Nat) (bit7 : optParam Bool false) :
    Keeps tm z (State.recordCtr s code c bit7) := by
  delta State.recordCtr
  repeat' first
    | with_reducible assumption
    | (refine Sub.bit hm ?_; exact rfl)
    | (refine Sub.trans (Sub.of ?_) hm; exact rfl)
    | with_reducible refine Keeps.ite ?_ ?_
    | (refine (?_ : (_ : Bool) = true); exact rfl)
    | with_reducible refine record_keeps ?_ ?_ _ _ _ _
    | with_reducible refine Keeps.idState ?_
    | with_reducible refine foldl_keeps ?_ _ (fun s a hs => ?_)
    | (extract_lets +onlyGivenNames x; refine Keeps.cut (x := x) (m := tm) (s0 := z) ?_ ?_; unfold x; clear x; rotate_left; intro hx; clear_value x; rotate_right)
    | (extract_lets +onlyGivenNames x; clear_value x)
    | split

def laneEvent_touch : Nat := 0x1040000000000000000002000600000000000000000000000000000000000000000
theorem laneEvent_keeps {tm : Nat} {z s : State} (hm : Sub laneEvent_touch tm) (hs : Keeps tm z s) (l : Nat) :
    Keeps tm z (State.laneEvent s l) := by
  delta State.laneEvent
  repeat' first
    | with_reducible assumption
    | (refine Sub.bit hm ?_; exact rfl)
    | (refine Sub.trans (Sub.of ?_) hm; exact rfl)
    | with_reducible refine Keeps.ite ?_ ?_
    | (refine (?_ : (_ : Bool) = true); exact rfl)
    | with_reducible refine notify_keeps ?_ ?_ _ _ _
    | with_reducible refine Keeps.idState ?_
    | with_reducible refine foldl_keeps ?_ _ (fun s a hs => ?_)
    | (extract_lets +onlyGivenNames x; refine Keeps.cut (x := x) (m := tm) (s0 := z) ?_ ?_; unfold x; clear x; rotate_left; intro hx; clear_value x; rotate_right)
    | (extract_lets +onlyGivenNames x; clear_value x)
    | split

def begin_touch : Nat := 0x40000000000000000000000000000000000000000000000000000000000000000
theorem begin_keeps {tm : Nat} {z s : State} (hm : Sub begin_touch tm) (hs : Keeps tm z s)  :
    Keeps tm z (State.begin s) := by
  delta State.begin
  repeat' first
    | with_reducible assumption
    | (refine Sub.bit hm ?_; exact rfl)
    | (refine Sub.trans (Sub.of ?_) hm; exact rfl)
    | with_reducible refine Keeps.ite ?_ ?_
    | (refine (?_ : (_ : Bool) = true); exact rfl)
    | with_reducible refine Keeps.idState ?_
    | with_reducible refine foldl_keeps ?_ _ (fun s a hs => ?_)
    | (extract_lets +onlyGivenNames x; refine Keeps.cut (x := x) (m := tm) (s0 := z) ?_ ?_; unfold x; clear x; rotate_left; intro hx; clear_value x; rotate_right)
    | (extract_lets +onlyGivenNames x; clear_value x)
    | split
    | with_reducible refine upd_outs_keeps ?_ ?_ _

def draw_touch : Nat := 0x20000000000000000000000000000000000000000000000000000000000000000
theorem draw_keeps {tm : Nat} {z s : State} (hm : Sub draw_touch tm) (hs : Keeps tm z s)  :
    Keeps tm z (State.draw s).2 := by
  delta State.draw
  repeat' first
    | with_reducible assumption
    | (dsimp only; with_reducible assumption)
    | (refine Sub.bit hm ?_; exact rfl)
    | (refine Sub.trans (Sub.of ?_) hm; exact rfl)
    | with_reducible refine Keeps.ite ?_ ?_
    | (refine (?_ : (_ : Bool) = true); exact rfl)
    | with_reducible refine Keeps.idState ?_
    | with_reducible refine foldl_keeps ?_ _ (fun s a hs => ?_)
    | (extract_lets +onlyGivenNames x; refine Keeps.cut (x := x) (m := tm) (s0 := z) ?_ ?_; unfold x; clear x; rotate_left; intro hx; clear_value x; rotate_right)
    | (extract_lets +onlyGivenNames x; clear_value x)
    | split
    | dsimp only
    | with_reducible refine upd_free_keeps ?_ ?_ _

def take_touch : Nat := 0x1800000000000000000000000000000000000000000000000000000000000000000
theorem take_keeps {tm : Nat} {z s : State} (hm : Sub take_touch tm) (hs : Keeps tm z s) (t : Nat) :
    Keeps tm z (State.take s t) := by
  delta State.take
  repeat' first
    | with_reducible assumption
    | (refine Sub.bit hm ?_; exact rfl)
    | (refine Sub.trans (Sub.of ?_) hm; exact rfl)
    | with_reducible refine Keeps.ite ?_ ?_
    | (refine (?_ : (_ : Bool) = true); exact rfl)
    | with_reducible refine onTenant_keeps ?_ ?_ _ _
    | with_reducible refine Keeps.idState ?_
    | with_reducible refine foldl_keeps ?_ _ (fun s a hs => ?_)
    | (extract_lets +onlyGivenNames x; refine Keeps.cut (x := x) (m := tm) (s0 := z) ?_ ?_; unfold x; clear x; rotate_left; intro hx; clear_value x; rotate_right)
    | (extract_lets +onlyGivenNames x; clear_value x)
    | split
    | with_reducible refine upd_served_keeps ?_ ?_ _

def dispatch_touch : Nat := 0x9f4000000000000000004a000600000000000010000000000000000000000000000
theorem dispatch_keeps {tm : Nat} {z s : State} (hm : Sub dispatch_touch tm) (hs : Keeps tm z s) (r : Sys2Proof.Machine.OpRow) (h : Sys2Proof.CmdHdr) (f : Sys2Proof.Machine.State → Sys2Proof.Machine.CmdRef → Sys2Proof.Machine.State) (hf : ∀ s a0, Keeps tm z s → Keeps tm z (f s a0)) :
    Keeps tm z (State.dispatch s r h f) := by
  delta State.dispatch
  repeat' first
    | with_reducible assumption
    | (refine Sub.bit hm ?_; exact rfl)
    | (refine Sub.trans (Sub.of ?_) hm; exact rfl)
    | with_reducible refine Keeps.ite ?_ ?_
    | (refine (?_ : (_ : Bool) = true); exact rfl)
    | with_reducible refine hf _ _ ?_
    | with_reducible refine complete_keeps ?_ ?_ _ _ _
    | with_reducible refine take_keeps ?_ ?_ _
    | with_reducible refine begin_keeps ?_ ?_
    | with_reducible refine Keeps.idState ?_
    | with_reducible refine foldl_keeps ?_ _ (fun s a hs => ?_)
    | (extract_lets +onlyGivenNames x; refine Keeps.cut (x := x) (m := tm) (s0 := z) ?_ ?_; unfold x; clear x; rotate_left; intro hx; clear_value x; rotate_right)
    | (extract_lets +onlyGivenNames x; clear_value x)
    | split

def dmaError_touch : Nat := 0xe000000000000000000000000000000000000000000
theorem dmaError_keeps {tm : Nat} {z s : State} (hm : Sub dmaError_touch tm) (hs : Keeps tm z s) (t : Nat) (kind : Nat) (what : Nat) (addr : Nat) :
    Keeps tm z (State.dmaError s t kind what addr) := by
  delta State.dmaError
  repeat' first
    | with_reducible assumption
    | (refine Sub.bit hm ?_; exact rfl)
    | (refine Sub.trans (Sub.of ?_) hm; exact rfl)
    | with_reducible refine Keeps.ite ?_ ?_
    | (refine (?_ : (_ : Bool) = true); exact rfl)
    | with_reducible refine wr_keeps ?_ ?_ ?_ _ _
    | with_reducible refine put_keeps ?_ ?_ ?_ _ _
    | with_reducible refine bump_keeps ?_ ?_ ?_ _ _
    | with_reducible refine Keeps.idState ?_
    | with_reducible refine foldl_keeps ?_ _ (fun s a hs => ?_)
    | (extract_lets +onlyGivenNames x; refine Keeps.cut (x := x) (m := tm) (s0 := z) ?_ ?_; unfold x; clear x; rotate_left; intro hx; clear_value x; rotate_right)
    | (extract_lets +onlyGivenNames x; clear_value x)
    | split

def hold_touch : Nat := 0x80000000000000000000000000000000000000000000000000000000000000000
theorem hold_keeps {tm : Nat} {z s : State} (hm : Sub hold_touch tm) (hs : Keeps tm z s) (c : Sys2Proof.Machine.CmdRef) (w : Sys2Proof.Machine.WaitFor) :
    Keeps tm z (State.hold s c w) := by
  delta State.hold
  repeat' first
    | with_reducible assumption
    | (refine Sub.bit hm ?_; exact rfl)
    | (refine Sub.trans (Sub.of ?_) hm; exact rfl)
    | with_reducible refine Keeps.ite ?_ ?_
    | (refine (?_ : (_ : Bool) = true); exact rfl)
    | with_reducible refine Keeps.idState ?_
    | with_reducible refine foldl_keeps ?_ _ (fun s a hs => ?_)
    | (extract_lets +onlyGivenNames x; refine Keeps.cut (x := x) (m := tm) (s0 := z) ?_ ?_; unfold x; clear x; rotate_left; intro hx; clear_value x; rotate_right)
    | (extract_lets +onlyGivenNames x; clear_value x)
    | split
    | with_reducible refine upd_waits_keeps ?_ ?_ _

def writeBuf_touch : Nat := 0x40000000000000000000000600000000000000000000000000000000000000000
theorem writeBuf_keeps {tm : Nat} {z s : State} (hm : Sub writeBuf_touch tm) (hs : Keeps tm z s) (c : Sys2Proof.Machine.CmdRef) (b : List Sys2Proof.Byte) :
    Keeps tm z (State.writeBuf s c b) := by
  delta State.writeBuf
  repeat' first
    | with_reducible assumption
    | (refine Sub.bit hm ?_; exact rfl)
    | (refine Sub.trans (Sub.of ?_) hm; exact rfl)
    | with_reducible refine Keeps.ite ?_ ?_
    | (refine (?_ : (_ : Bool) = true); exact rfl)
    | with_reducible refine emit_keeps ?_ ?_ _
    | with_reducible refine Keeps.idState ?_
    | with_reducible refine foldl_keeps ?_ _ (fun s a hs => ?_)
    | (extract_lets +onlyGivenNames x; refine Keeps.cut (x := x) (m := tm) (s0 := z) ?_ ?_; unfold x; clear x; rotate_left; intro hx; clear_value x; rotate_right)
    | (extract_lets +onlyGivenNames x; clear_value x)
    | split

def withBuf_touch : Nat := 0x974000000000000000004a00e600000000000010000000000000000000000000000
theorem withBuf_keeps {tm : Nat} {z s : State} (hm : Sub withBuf_touch tm) (hs : Keeps tm z s) (c : Sys2Proof.Machine.CmdRef) (d : Sys2Proof.Dma) (f : Sys2Proof.Machine.State → List Sys2Proof.Byte → Sys2Proof.Machine.State) (hf : ∀ s a0, Keeps tm z s → Keeps tm z (f s a0)) :
    Keeps tm z (State.withBuf s c d f) := by
  delta State.withBuf
  repeat' first
    | with_reducible assumption
    | (refine Sub.bit hm ?_; exact rfl)
    | (refine Sub.trans (Sub.of ?_) hm; exact rfl)
    | with_reducible refine Keeps.ite ?_ ?_
    | (refine (?_ : (_ : Bool) = true); exact rfl)
    | with_reducible refine hf _ _ ?_
    | with_reducible refine dmaError_keeps ?_ ?_ _ _ _ _
    | with_reducible refine complete_keeps ?_ ?_ _ _ _
    | with_reducible refine Keeps.idState ?_
    | with_reducible refine foldl_keeps ?_ _ (fun s a hs => ?_)
    | (extract_lets +onlyGivenNames x; refine Keeps.cut (x := x) (m := tm) (s0 := z) ?_ ?_; unfold x; clear x; rotate_left; intro hx; clear_value x; rotate_right)
    | (extract_lets +onlyGivenNames x; clear_value x)
    | split

end Sys2Proof.Machine
end

