-- ==== Sys2Proof/Laws/KeepsLaneOps.lean ====
section
/-!
SUPPORT. Sys2Proof/Laws/KeepsLaneOps.lean: what each function of Machine/LaneOps.lean may change: its touch set, and one lemma per function.
-/
namespace Sys2Proof.Machine

open Sys2Proof

def abortShuttle_touch : Nat := 0x100000000000000000000000000000000000000000000000000000000000000000000
theorem abortShuttle_keeps {tm : Nat} {z s : State} (hm : Sub abortShuttle_touch tm) (hs : Keeps tm z s) (l : Nat) (cause : Nat) (after : Nat) :
    Keeps tm z (State.abortShuttle s l cause after) := by
  delta State.abortShuttle
  repeat' first
    | with_reducible assumption
    | (refine Sub.bit hm ?_; exact rfl)
    | (refine Sub.trans (Sub.of ?_) hm; exact rfl)
    | with_reducible refine Keeps.ite ?_ ?_
    | (refine (?_ : (_ : Bool) = true); exact rfl)
    | with_reducible refine onBay_keeps ?_ ?_ _ _
    | with_reducible refine Keeps.idState ?_
    | with_reducible refine foldl_keeps ?_ _ (fun s a hs => ?_)
    | (extract_lets +onlyGivenNames x; refine Keeps.cut (x := x) (m := tm) (s0 := z) ?_ ?_; unfold x; clear x; rotate_left; intro hx; clear_value x; rotate_right)
    | (extract_lets +onlyGivenNames x; clear_value x)
    | split

def setAux_touch : Nat := 0x40000000000000000000000000000000000000000000000000000000000000000000
theorem setAux_keeps {tm : Nat} {z s : State} (hm : Sub setAux_touch tm) (hs : Keeps tm z s) (l : Nat) (a : Sys2Proof.Machine.AuxClaim) :
    Keeps tm z (State.setAux s l a) := by
  delta State.setAux
  repeat' first
    | with_reducible assumption
    | (refine Sub.bit hm ?_; exact rfl)
    | (refine Sub.trans (Sub.of ?_) hm; exact rfl)
    | with_reducible refine Keeps.ite ?_ ?_
    | (refine (?_ : (_ : Bool) = true); exact rfl)
    | with_reducible refine onLane_keeps ?_ ?_ _ _
    | with_reducible refine Keeps.idState ?_
    | with_reducible refine foldl_keeps ?_ _ (fun s a hs => ?_)
    | (extract_lets +onlyGivenNames x; refine Keeps.cut (x := x) (m := tm) (s0 := z) ?_ ?_; unfold x; clear x; rotate_left; intro hx; clear_value x; rotate_right)
    | (extract_lets +onlyGivenNames x; clear_value x)
    | split

def dropWarpAux_touch : Nat := 0x40000000000000000000000000000000000000000000000000000000000000000000
theorem dropWarpAux_keeps {tm : Nat} {z s : State} (hm : Sub dropWarpAux_touch tm) (hs : Keeps tm z s) (l : Nat) :
    Keeps tm z (State.dropWarpAux s l) := by
  delta State.dropWarpAux
  repeat' first
    | with_reducible assumption
    | (refine Sub.bit hm ?_; exact rfl)
    | (refine Sub.trans (Sub.of ?_) hm; exact rfl)
    | with_reducible refine Keeps.ite ?_ ?_
    | (refine (?_ : (_ : Bool) = true); exact rfl)
    | with_reducible refine setAux_keeps ?_ ?_ _ _
    | with_reducible refine Keeps.idState ?_
    | with_reducible refine foldl_keeps ?_ _ (fun s a hs => ?_)
    | (extract_lets +onlyGivenNames x; refine Keeps.cut (x := x) (m := tm) (s0 := z) ?_ ?_; unfold x; clear x; rotate_left; intro hx; clear_value x; rotate_right)
    | (extract_lets +onlyGivenNames x; clear_value x)
    | split

def endSurvey_touch : Nat := 0x140000000000000000000000000000000000000000000000000002000000000000000
theorem endSurvey_keeps {tm : Nat} {z s : State} (hm : Sub endSurvey_touch tm) (hs : Keeps tm z s) (l : Nat) :
    Keeps tm z (State.endSurvey s l) := by
  delta State.endSurvey
  repeat' first
    | with_reducible assumption
    | (refine Sub.bit hm ?_; exact rfl)
    | (refine Sub.trans (Sub.of ?_) hm; exact rfl)
    | with_reducible refine Keeps.ite ?_ ?_
    | (refine (?_ : (_ : Bool) = true); exact rfl)
    | with_reducible refine wr_keeps ?_ ?_ ?_ _ _
    | with_reducible refine put_keeps ?_ ?_ ?_ _ _
    | with_reducible refine dropWarpAux_keeps ?_ ?_ _
    | with_reducible refine onBay_keeps ?_ ?_ _ _
    | with_reducible refine Keeps.idState ?_
    | with_reducible refine foldl_keeps ?_ _ (fun s a hs => ?_)
    | (extract_lets +onlyGivenNames x; refine Keeps.cut (x := x) (m := tm) (s0 := z) ?_ ?_; unfold x; clear x; rotate_left; intro hx; clear_value x; rotate_right)
    | (extract_lets +onlyGivenNames x; clear_value x)
    | split

def abortSurvey_touch : Nat := 0x1497c000000000000000004a000600000000000010000000000002000000000000000
theorem abortSurvey_keeps {tm : Nat} {z s : State} (hm : Sub abortSurvey_touch tm) (hs : Keeps tm z s) (l : Nat) (cause : Nat) :
    Keeps tm z (State.abortSurvey s l cause) := by
  delta State.abortSurvey
  repeat' first
    | with_reducible assumption
    | (refine Sub.bit hm ?_; exact rfl)
    | (refine Sub.trans (Sub.of ?_) hm; exact rfl)
    | with_reducible refine Keeps.ite ?_ ?_
    | (refine (?_ : (_ : Bool) = true); exact rfl)
    | with_reducible refine endSurvey_keeps ?_ ?_ _
    | with_reducible refine record_keeps ?_ ?_ _ _ _ _
    | with_reducible refine finish_keeps ?_ ?_ _ _ _
    | with_reducible refine Keeps.idState ?_
    | with_reducible refine foldl_keeps ?_ _ (fun s a hs => ?_)
    | (extract_lets +onlyGivenNames x; refine Keeps.cut (x := x) (m := tm) (s0 := z) ?_ ?_; unfold x; clear x; rotate_left; intro hx; clear_value x; rotate_right)
    | (extract_lets +onlyGivenNames x; clear_value x)
    | split

def onPh_touch : Nat := 0x80000000000000000000000000000000000000000000000000000000000000000000
theorem onPh_keeps {tm : Nat} {z s : State} (hm : Sub onPh_touch tm) (hs : Keeps tm z s) (p : Nat) (f : Sys2Proof.Machine.PhaseSt → Sys2Proof.Machine.PhaseSt) :
    Keeps tm z (State.onPh s p f) := by
  delta State.onPh
  repeat' first
    | with_reducible assumption
    | (refine Sub.bit hm ?_; exact rfl)
    | (refine Sub.trans (Sub.of ?_) hm; exact rfl)
    | with_reducible refine Keeps.ite ?_ ?_
    | (refine (?_ : (_ : Bool) = true); exact rfl)
    | with_reducible refine Keeps.idState ?_
    | with_reducible refine foldl_keeps ?_ _ (fun s a hs => ?_)
    | (extract_lets +onlyGivenNames x; refine Keeps.cut (x := x) (m := tm) (s0 := z) ?_ ?_; unfold x; clear x; rotate_left; intro hx; clear_value x; rotate_right)
    | (extract_lets +onlyGivenNames x; clear_value x)
    | split
    | with_reducible refine upd_phases_keeps ?_ ?_ _

def aim_touch : Nat := 0x80000000000000000000000000000000000000000000000000000000000000000000
theorem aim_keeps {tm : Nat} {z s : State} (hm : Sub aim_touch tm) (hs : Keeps tm z s) (l n j : Nat) (ps : List Nat) :
    Keeps tm z (State.aim s l n j ps) := by
  induction ps generalizing s j with
  | nil => exact hs
  | cons p ps ih => exact ih (onPh_keeps (Sub.trans (Sub.of rfl) hm) hs _ _) _

def retarget_touch : Nat := 0x80000000000000000000000000000000000000000000000000000000000000000000
theorem retarget_keeps {tm : Nat} {z s : State} (hm : Sub retarget_touch tm) (hs : Keeps tm z s) (l : Nat) :
    Keeps tm z (State.retarget s l) := by
  delta State.retarget
  repeat' first
    | with_reducible assumption
    | (refine Sub.bit hm ?_; exact rfl)
    | (refine Sub.trans (Sub.of ?_) hm; exact rfl)
    | with_reducible refine Keeps.ite ?_ ?_
    | (refine (?_ : (_ : Bool) = true); exact rfl)
    | with_reducible refine aim_keeps ?_ ?_ _ _ _ _
    | with_reducible refine Keeps.idState ?_
    | with_reducible refine foldl_keeps ?_ _ (fun s a hs => ?_)
    | (extract_lets +onlyGivenNames x; refine Keeps.cut (x := x) (m := tm) (s0 := z) ?_ ?_; unfold x; clear x; rotate_left; intro hx; clear_value x; rotate_right)
    | (extract_lets +onlyGivenNames x; clear_value x)
    | split

def linkFor_touch : Nat := 0x40000000000000000000000000000000000000000000000020000000000000000000
theorem linkFor_keeps {tm : Nat} {z s : State} (hm : Sub linkFor_touch tm) (hs : Keeps tm z s) (l : Nat) (st : Sys2Proof.Machine.LaneState) :
    Keeps tm z (State.linkFor s l st) := by
  delta State.linkFor
  repeat' first
    | with_reducible assumption
    | (refine Sub.bit hm ?_; exact rfl)
    | (refine Sub.trans (Sub.of ?_) hm; exact rfl)
    | with_reducible refine Keeps.ite ?_ ?_
    | (refine (?_ : (_ : Bool) = true); exact rfl)
    | with_reducible refine put_keeps ?_ ?_ ?_ _ _
    | with_reducible refine onLane_keeps ?_ ?_ _ _
    | with_reducible refine Keeps.idState ?_
    | with_reducible refine foldl_keeps ?_ _ (fun s a hs => ?_)
    | (extract_lets +onlyGivenNames x; refine Keeps.cut (x := x) (m := tm) (s0 := z) ?_ ?_; unfold x; clear x; rotate_left; intro hx; clear_value x; rotate_right)
    | (extract_lets +onlyGivenNames x; clear_value x)
    | split

def onPwm_touch : Nat := 0x400000000000000000000000000000000000000000000000000000000000000000000
theorem onPwm_keeps {tm : Nat} {z s : State} (hm : Sub onPwm_touch tm) (hs : Keeps tm z s) (f : Sys2Proof.Machine.Pwm → Sys2Proof.Machine.Pwm) :
    Keeps tm z (State.onPwm s f) := by
  delta State.onPwm
  repeat' first
    | with_reducible assumption
    | (refine Sub.bit hm ?_; exact rfl)
    | (refine Sub.trans (Sub.of ?_) hm; exact rfl)
    | with_reducible refine Keeps.ite ?_ ?_
    | (refine (?_ : (_ : Bool) = true); exact rfl)
    | with_reducible refine Keeps.idState ?_
    | with_reducible refine foldl_keeps ?_ _ (fun s a hs => ?_)
    | (extract_lets +onlyGivenNames x; refine Keeps.cut (x := x) (m := tm) (s0 := z) ?_ ?_; unfold x; clear x; rotate_left; intro hx; clear_value x; rotate_right)
    | (extract_lets +onlyGivenNames x; clear_value x)
    | split
    | with_reducible refine upd_pwm_keeps ?_ ?_ _

def askReed_touch : Nat := 0x400000000000000000000000000000000000000000000000000000000000000000000
theorem askReed_keeps {tm : Nat} {z s : State} (hm : Sub askReed_touch tm) (hs : Keeps tm z s) (g : Nat) (cause : Nat) :
    Keeps tm z (State.askReed s g cause) := by
  delta State.askReed
  repeat' first
    | with_reducible assumption
    | (refine Sub.bit hm ?_; exact rfl)
    | (refine Sub.trans (Sub.of ?_) hm; exact rfl)
    | with_reducible refine Keeps.ite ?_ ?_
    | (refine (?_ : (_ : Bool) = true); exact rfl)
    | with_reducible refine onPwm_keeps ?_ ?_ _
    | with_reducible refine Keeps.idState ?_
    | with_reducible refine foldl_keeps ?_ _ (fun s a hs => ?_)
    | (extract_lets +onlyGivenNames x; refine Keeps.cut (x := x) (m := tm) (s0 := z) ?_ ?_; unfold x; clear x; rotate_left; intro hx; clear_value x; rotate_right)
    | (extract_lets +onlyGivenNames x; clear_value x)
    | split

def show_touch : Nat := 0x441040000000000000000002000600000000000000000000000008000000000000000
theorem show_keeps {tm : Nat} {z s : State} (hm : Sub show_touch tm) (hs : Keeps tm z s) (s0 : State) (l : Nat) :
    Keeps tm z (State.show s0 s l) := by
  delta State.show
  repeat' first
    | with_reducible assumption
    | (refine Sub.bit hm ?_; exact rfl)
    | (refine Sub.trans (Sub.of ?_) hm; exact rfl)
    | with_reducible refine Keeps.ite ?_ ?_
    | (refine (?_ : (_ : Bool) = true); exact rfl)
    | with_reducible refine wr_keeps ?_ ?_ ?_ _ _
    | with_reducible refine askReed_keeps ?_ ?_ _ _
    | with_reducible refine onLane_keeps ?_ ?_ _ _
    | with_reducible refine laneEvent_keeps ?_ ?_ _
    | with_reducible refine Keeps.idState ?_
    | with_reducible refine foldl_keeps ?_ _ (fun s a hs => ?_)
    | (extract_lets +onlyGivenNames x; refine Keeps.cut (x := x) (m := tm) (s0 := z) ?_ ?_; unfold x; clear x; rotate_left; intro hx; clear_value x; rotate_right)
    | (extract_lets +onlyGivenNames x; clear_value x)
    | split

def noStart_touch : Nat := 0x1000497c000000000000000004a000600000000000010000000000088000000000000000
theorem noStart_keeps {tm : Nat} {z s : State} (hm : Sub noStart_touch tm) (hs : Keeps tm z s) (l : Nat) :
    Keeps tm z (State.noStart s l) := by
  delta State.noStart
  repeat' first
    | with_reducible assumption
    | (refine Sub.bit hm ?_; exact rfl)
    | (refine Sub.trans (Sub.of ?_) hm; exact rfl)
    | with_reducible refine Keeps.ite ?_ ?_
    | (refine (?_ : (_ : Bool) = true); exact rfl)
    | with_reducible refine wr_keeps ?_ ?_ ?_ _ _
    | with_reducible refine put_keeps ?_ ?_ ?_ _ _
    | with_reducible refine finish_keeps ?_ ?_ _ _ _
    | with_reducible refine onLane_keeps ?_ ?_ _ _
    | with_reducible refine Keeps.idState ?_
    | with_reducible refine foldl_keeps ?_ _ (fun s a hs => ?_)
    | (extract_lets +onlyGivenNames x; refine Keeps.cut (x := x) (m := tm) (s0 := z) ?_ ?_; unfold x; clear x; rotate_left; intro hx; clear_value x; rotate_right)
    | (extract_lets +onlyGivenNames x; clear_value x)
    | split
    | with_reducible refine upd_tokenQ_keeps ?_ ?_ _

def calFail_touch : Nat := 0x297c000000000000000004a000600000000000010000000800000000000000000000
theorem calFail_keeps {tm : Nat} {z s : State} (hm : Sub calFail_touch tm) (hs : Keeps tm z s) (l : Nat) (flags : Nat) (status : Nat) :
    Keeps tm z (State.calFail s l flags status) := by
  delta State.calFail
  repeat' first
    | with_reducible assumption
    | (refine Sub.bit hm ?_; exact rfl)
    | (refine Sub.trans (Sub.of ?_) hm; exact rfl)
    | with_reducible refine Keeps.ite ?_ ?_
    | (refine (?_ : (_ : Bool) = true); exact rfl)
    | with_reducible refine put_keeps ?_ ?_ ?_ _ _
    | with_reducible refine onMeter_keeps ?_ ?_ _ _
    | with_reducible refine record_keeps ?_ ?_ _ _ _ _
    | with_reducible refine finish_keeps ?_ ?_ _ _ _
    | with_reducible refine Keeps.idState ?_
    | with_reducible refine foldl_keeps ?_ _ (fun s a hs => ?_)
    | (extract_lets +onlyGivenNames x; refine Keeps.cut (x := x) (m := tm) (s0 := z) ?_ ?_; unfold x; clear x; rotate_left; intro hx; clear_value x; rotate_right)
    | (extract_lets +onlyGivenNames x; clear_value x)
    | split

def putTherm_touch : Nat := 0x60000000000000000000000000000000000
theorem putTherm_keeps {tm : Nat} {z s : State} (hm : Sub putTherm_touch tm) (hs : Keeps tm z s) (l : Nat) (b : Bool) :
    Keeps tm z (State.putTherm s l b) := by
  delta State.putTherm
  repeat' first
    | with_reducible assumption
    | (refine Sub.bit hm ?_; exact rfl)
    | (refine Sub.trans (Sub.of ?_) hm; exact rfl)
    | with_reducible refine Keeps.ite ?_ ?_
    | (refine (?_ : (_ : Bool) = true); exact rfl)
    | with_reducible refine putBit_keeps ?_ ?_ ?_ _ _ _
    | with_reducible refine Keeps.idState ?_
    | with_reducible refine foldl_keeps ?_ _ (fun s a hs => ?_)
    | (extract_lets +onlyGivenNames x; refine Keeps.cut (x := x) (m := tm) (s0 := z) ?_ ?_; unfold x; clear x; rotate_left; intro hx; clear_value x; rotate_right)
    | (extract_lets +onlyGivenNames x; clear_value x)
    | split

def auxFor_touch : Nat := 0x40000000000000000000000000000000060000000000000000000000000000000000
theorem auxFor_keeps {tm : Nat} {z s : State} (hm : Sub auxFor_touch tm) (hs : Keeps tm z s) (l : Nat) (st : Sys2Proof.Machine.LaneState) :
    Keeps tm z (State.auxFor s l st) := by
  delta State.auxFor
  repeat' first
    | with_reducible assumption
    | (refine Sub.bit hm ?_; exact rfl)
    | (refine Sub.trans (Sub.of ?_) hm; exact rfl)
    | with_reducible refine Keeps.ite ?_ ?_
    | (refine (?_ : (_ : Bool) = true); exact rfl)
    | with_reducible refine putTherm_keeps ?_ ?_ _ _
    | with_reducible refine setAux_keeps ?_ ?_ _ _
    | with_reducible refine Keeps.idState ?_
    | with_reducible refine foldl_keeps ?_ _ (fun s a hs => ?_)
    | (extract_lets +onlyGivenNames x; refine Keeps.cut (x := x) (m := tm) (s0 := z) ?_ ?_; unfold x; clear x; rotate_left; intro hx; clear_value x; rotate_right)
    | (extract_lets +onlyGivenNames x; clear_value x)
    | split

def enter_touch : Nat := 0x1005697c000000000000000004a00060000006000001000000082008a000000080000000
theorem enter_keeps {tm : Nat} {z s : State} (hm : Sub enter_touch tm) (hs : Keeps tm z s) (l : Nat) (new : Sys2Proof.Machine.LaneState) :
    Keeps tm z (State.enter s l new) := by
  delta State.enter
  repeat' first
    | with_reducible assumption
    | (refine Sub.bit hm ?_; exact rfl)
    | (refine Sub.trans (Sub.of ?_) hm; exact rfl)
    | with_reducible refine Keeps.ite ?_ ?_
    | (refine (?_ : (_ : Bool) = true); exact rfl)
    | with_reducible refine wrState_keeps ?_ ?_ _ _
    | with_reducible refine wrPrev_keeps ?_ ?_ _ _
    | with_reducible refine wr_keeps ?_ ?_ ?_ _ _
    | with_reducible refine put_keeps ?_ ?_ ?_ _ _
    | with_reducible refine abortSurvey_keeps ?_ ?_ _ _
    | with_reducible refine linkFor_keeps ?_ ?_ _ _
    | with_reducible refine show_keeps ?_ ?_ _ _
    | with_reducible refine askReed_keeps ?_ ?_ _ _
    | with_reducible refine finish_keeps ?_ ?_ _ _ _
    | with_reducible refine noStart_keeps ?_ ?_ _
    | with_reducible refine calFail_keeps ?_ ?_ _ _ _
    | with_reducible refine onLane_keeps ?_ ?_ _ _
    | with_reducible refine auxFor_keeps ?_ ?_ _ _
    | with_reducible refine Keeps.idState ?_
    | with_reducible refine foldl_keeps ?_ _ (fun s a hs => ?_)
    | (extract_lets +onlyGivenNames x; refine Keeps.cut (x := x) (m := tm) (s0 := z) ?_ ?_; unfold x; clear x; rotate_left; intro hx; clear_value x; rotate_right)
    | (extract_lets +onlyGivenNames x; clear_value x)
    | split

def onSeg_touch : Nat := 0x200000000000000000000000000000000000000000000000000000000000000000000
theorem onSeg_keeps {tm : Nat} {z s : State} (hm : Sub onSeg_touch tm) (hs : Keeps tm z s) (g : Nat) (f : Sys2Proof.Machine.SegSt → Sys2Proof.Machine.SegSt) :
    Keeps tm z (State.onSeg s g f) := by
  delta State.onSeg
  repeat' first
    | with_reducible assumption
    | (refine Sub.bit hm ?_; exact rfl)
    | (refine Sub.trans (Sub.of ?_) hm; exact rfl)
    | with_reducible refine Keeps.ite ?_ ?_
    | (refine (?_ : (_ : Bool) = true); exact rfl)
    | with_reducible refine Keeps.idState ?_
    | with_reducible refine foldl_keeps ?_ _ (fun s a hs => ?_)
    | (extract_lets +onlyGivenNames x; refine Keeps.cut (x := x) (m := tm) (s0 := z) ?_ ?_; unfold x; clear x; rotate_left; intro hx; clear_value x; rotate_right)
    | (extract_lets +onlyGivenNames x; clear_value x)
    | split
    | with_reducible refine upd_segs_keeps ?_ ?_ _

def setDriven_touch : Nat := 0x80000000000000000000000000000000000000000000000000000000000000000400
theorem setDriven_keeps {tm : Nat} {z s : State} (hm : Sub setDriven_touch tm) (hs : Keeps tm z s) (l : Nat) (ds : List Nat) :
    Keeps tm z (State.setDriven s l ds) := by
  delta State.setDriven
  repeat' first
    | with_reducible assumption
    | (refine Sub.bit hm ?_; exact rfl)
    | (refine Sub.trans (Sub.of ?_) hm; exact rfl)
    | with_reducible refine Keeps.ite ?_ ?_
    | (refine (?_ : (_ : Bool) = true); exact rfl)
    | with_reducible refine putBit_keeps ?_ ?_ ?_ _ _ _
    | with_reducible refine forEach_keeps ?_ _ (fun s a hs => ?_)
    | with_reducible refine retarget_keeps ?_ ?_ _
    | with_reducible refine Keeps.idState ?_
    | with_reducible refine foldl_keeps ?_ _ (fun s a hs => ?_)
    | (extract_lets +onlyGivenNames x; refine Keeps.cut (x := x) (m := tm) (s0 := z) ?_ ?_; unfold x; clear x; rotate_left; intro hx; clear_value x; rotate_right)
    | (extract_lets +onlyGivenNames x; clear_value x)
    | split

def beginPhase_touch : Nat := 0x80000000000000000000000000000000000000000000000000000000000000000000
theorem beginPhase_keeps {tm : Nat} {z s : State} (hm : Sub beginPhase_touch tm) (hs : Keeps tm z s) (l : Nat) (p : Nat) (keep : Bool) :
    Keeps tm z (State.beginPhase s l p keep) := by
  delta State.beginPhase
  repeat' first
    | with_reducible assumption
    | (refine Sub.bit hm ?_; exact rfl)
    | (refine Sub.trans (Sub.of ?_) hm; exact rfl)
    | with_reducible refine Keeps.ite ?_ ?_
    | (refine (?_ : (_ : Bool) = true); exact rfl)
    | with_reducible refine onPh_keeps ?_ ?_ _ _
    | with_reducible refine Keeps.idState ?_
    | with_reducible refine foldl_keeps ?_ _ (fun s a hs => ?_)
    | (extract_lets +onlyGivenNames x; refine Keeps.cut (x := x) (m := tm) (s0 := z) ?_ ?_; unfold x; clear x; rotate_left; intro hx; clear_value x; rotate_right)
    | (extract_lets +onlyGivenNames x; clear_value x)
    | split

def clearLoops_touch : Nat := 0xc0000000000000000000000000000000000000000000000000000000000080000000
theorem clearLoops_keeps {tm : Nat} {z s : State} (hm : Sub clearLoops_touch tm) (hs : Keeps tm z s) (l : Nat) :
    Keeps tm z (State.clearLoops s l) := by
  delta State.clearLoops
  repeat' first
    | with_reducible assumption
    | (refine Sub.bit hm ?_; exact rfl)
    | (refine Sub.trans (Sub.of ?_) hm; exact rfl)
    | with_reducible refine Keeps.ite ?_ ?_
    | (refine (?_ : (_ : Bool) = true); exact rfl)
    | with_reducible refine wr_keeps ?_ ?_ ?_ _ _
    | with_reducible refine forEach_keeps ?_ _ (fun s a hs => ?_)
    | with_reducible refine onPh_keeps ?_ ?_ _ _
    | with_reducible refine onLane_keeps ?_ ?_ _ _
    | with_reducible refine Keeps.idState ?_
    | with_reducible refine foldl_keeps ?_ _ (fun s a hs => ?_)
    | (extract_lets +onlyGivenNames x; refine Keeps.cut (x := x) (m := tm) (s0 := z) ?_ ?_; unfold x; clear x; rotate_left; intro hx; clear_value x; rotate_right)
    | (extract_lets +onlyGivenNames x; clear_value x)
    | split

def noteHit_touch : Nat := 0x80000000000000000000000000000000000000000000000000000000000000000000
theorem noteHit_keeps {tm : Nat} {z s : State} (hm : Sub noteHit_touch tm) (hs : Keeps tm z s) (p : Nat) :
    Keeps tm z (State.noteHit s p) := by
  delta State.noteHit
  repeat' first
    | with_reducible assumption
    | (refine Sub.bit hm ?_; exact rfl)
    | (refine Sub.trans (Sub.of ?_) hm; exact rfl)
    | with_reducible refine Keeps.ite ?_ ?_
    | (refine (?_ : (_ : Bool) = true); exact rfl)
    | with_reducible refine onPh_keeps ?_ ?_ _ _
    | with_reducible refine Keeps.idState ?_
    | with_reducible refine foldl_keeps ?_ _ (fun s a hs => ?_)
    | (extract_lets +onlyGivenNames x; refine Keeps.cut (x := x) (m := tm) (s0 := z) ?_ ?_; unfold x; clear x; rotate_left; intro hx; clear_value x; rotate_right)
    | (extract_lets +onlyGivenNames x; clear_value x)
    | split

def clearSeg_touch : Nat := 0x200000000000000000000000000000000000000000000000000000000001000000000
theorem clearSeg_keeps {tm : Nat} {z s : State} (hm : Sub clearSeg_touch tm) (hs : Keeps tm z s) (g : Nat) :
    Keeps tm z (State.clearSeg s g) := by
  delta State.clearSeg
  repeat' first
    | with_reducible assumption
    | (refine Sub.bit hm ?_; exact rfl)
    | (refine Sub.trans (Sub.of ?_) hm; exact rfl)
    | with_reducible refine Keeps.ite ?_ ?_
    | (refine (?_ : (_ : Bool) = true); exact rfl)
    | with_reducible refine wr_keeps ?_ ?_ ?_ _ _
    | with_reducible refine onSeg_keeps ?_ ?_ _ _
    | with_reducible refine Keeps.idState ?_
    | with_reducible refine foldl_keeps ?_ _ (fun s a hs => ?_)
    | (extract_lets +onlyGivenNames x; refine Keeps.cut (x := x) (m := tm) (s0 := z) ?_ ?_; unfold x; clear x; rotate_left; intro hx; clear_value x; rotate_right)
    | (extract_lets +onlyGivenNames x; clear_value x)
    | split

def cutPhase_touch : Nat := 0x80000000000000000000000000000000000000000000000000000000000000000000
theorem cutPhase_keeps {tm : Nat} {z s : State} (hm : Sub cutPhase_touch tm) (hs : Keeps tm z s) (p : Nat) :
    Keeps tm z (State.cutPhase s p) := by
  delta State.cutPhase
  repeat' first
    | with_reducible assumption
    | (refine Sub.bit hm ?_; exact rfl)
    | (refine Sub.trans (Sub.of ?_) hm; exact rfl)
    | with_reducible refine Keeps.ite ?_ ?_
    | (refine (?_ : (_ : Bool) = true); exact rfl)
    | with_reducible refine onPh_keeps ?_ ?_ _ _
    | with_reducible refine Keeps.idState ?_
    | with_reducible refine foldl_keeps ?_ _ (fun s a hs => ?_)
    | (extract_lets +onlyGivenNames x; refine Keeps.cut (x := x) (m := tm) (s0 := z) ?_ ?_; unfold x; clear x; rotate_left; intro hx; clear_value x; rotate_right)
    | (extract_lets +onlyGivenNames x; clear_value x)
    | split

def endShuttle_touch : Nat := 0x108000000000000000000000000000000000000010000000000000000004000000000
theorem endShuttle_keeps {tm : Nat} {z s : State} (hm : Sub endShuttle_touch tm) (hs : Keeps tm z s) (l : Nat) (cause : Nat) :
    Keeps tm z (State.endShuttle s l cause) := by
  delta State.endShuttle
  repeat' first
    | with_reducible assumption
    | (refine Sub.bit hm ?_; exact rfl)
    | (refine Sub.trans (Sub.of ?_) hm; exact rfl)
    | with_reducible refine Keeps.ite ?_ ?_
    | (refine (?_ : (_ : Bool) = true); exact rfl)
    | with_reducible refine put_keeps ?_ ?_ ?_ _ _
    | with_reducible refine record_keeps ?_ ?_ _ _ _ _
    | with_reducible refine onBay_keeps ?_ ?_ _ _
    | with_reducible refine Keeps.idState ?_
    | with_reducible refine foldl_keeps ?_ _ (fun s a hs => ?_)
    | (extract_lets +onlyGivenNames x; refine Keeps.cut (x := x) (m := tm) (s0 := z) ?_ ?_; unfold x; clear x; rotate_left; intro hx; clear_value x; rotate_right)
    | (extract_lets +onlyGivenNames x; clear_value x)
    | split

def halt_touch : Nat := 0x1005e97c000000000000000004a00060000006000001000000082008a000004080000400
theorem halt_keeps {tm : Nat} {z s : State} (hm : Sub halt_touch tm) (hs : Keeps tm z s) (l : Nat) (new : Sys2Proof.Machine.LaneState) :
    Keeps tm z (State.halt s l new) := by
  delta State.halt
  repeat' first
    | with_reducible assumption
    | (refine Sub.bit hm ?_; exact rfl)
    | (refine Sub.trans (Sub.of ?_) hm; exact rfl)
    | with_reducible refine Keeps.ite ?_ ?_
    | (refine (?_ : (_ : Bool) = true); exact rfl)
    | with_reducible refine put_keeps ?_ ?_ ?_ _ _
    | with_reducible refine forEach_keeps ?_ _ (fun s a hs => ?_)
    | with_reducible refine abortSurvey_keeps ?_ ?_ _ _
    | with_reducible refine clearLoops_keeps ?_ ?_ _
    | with_reducible refine cutPhase_keeps ?_ ?_ _
    | with_reducible refine setDriven_keeps ?_ ?_ _ _
    | with_reducible refine endShuttle_keeps ?_ ?_ _ _
    | with_reducible refine enter_keeps ?_ ?_ _ _
    | with_reducible refine Keeps.idState ?_
    | with_reducible refine foldl_keeps ?_ _ (fun s a hs => ?_)
    | (extract_lets +onlyGivenNames x; refine Keeps.cut (x := x) (m := tm) (s0 := z) ?_ ?_; unfold x; clear x; rotate_left; intro hx; clear_value x; rotate_right)
    | (extract_lets +onlyGivenNames x; clear_value x)
    | split

def faultLane_touch : Nat := 0x1005e97c000000000000000004a00060000006000001000000082008a000004080000400
theorem faultLane_keeps {tm : Nat} {z s : State} (hm : Sub faultLane_touch tm) (hs : Keeps tm z s) (l : Nat) (cause : Nat) :
    Keeps tm z (State.faultLane s l cause) := by
  delta State.faultLane
  repeat' first
    | with_reducible assumption
    | (refine Sub.bit hm ?_; exact rfl)
    | (refine Sub.trans (Sub.of ?_) hm; exact rfl)
    | with_reducible refine Keeps.ite ?_ ?_
    | (refine (?_ : (_ : Bool) = true); exact rfl)
    | with_reducible refine wr_keeps ?_ ?_ ?_ _ _
    | with_reducible refine halt_keeps ?_ ?_ _ _
    | with_reducible refine record_keeps ?_ ?_ _ _ _ _
    | with_reducible refine Keeps.idState ?_
    | with_reducible refine foldl_keeps ?_ _ (fun s a hs => ?_)
    | (extract_lets +onlyGivenNames x; refine Keeps.cut (x := x) (m := tm) (s0 := z) ?_ ?_; unfold x; clear x; rotate_left; intro hx; clear_value x; rotate_right)
    | (extract_lets +onlyGivenNames x; clear_value x)
    | split

def setGlobal_touch : Nat := 0x1007e97c000000000000000004a00060000006000001000000082008a000105080000400
theorem setGlobal_keeps {tm : Nat} {z s : State} (hm : Sub setGlobal_touch tm) (hs : Keeps tm z s) (f : Sys2Proof.Machine.Field) (bit : Nat) (flags : Nat) (cause : Nat) (extra : optParam (Sys2Proof.Machine.State → Sys2Proof.Machine.State) id) (hf : tm.testBit f.reg.ctorIdx = true) (hf' : fieldOk f = true) (hextra : ∀ s, Keeps tm z s → Keeps tm z (extra s)) :
    Keeps tm z (State.setGlobal s f bit flags cause extra) := by
  delta State.setGlobal
  repeat' first
    | with_reducible assumption
    | (refine Sub.bit hm ?_; exact rfl)
    | (refine Sub.trans (Sub.of ?_) hm; exact rfl)
    | with_reducible refine Keeps.ite ?_ ?_
    | (refine (?_ : (_ : Bool) = true); exact rfl)
    | with_reducible refine hextra _ ?_
    | with_reducible refine put_keeps ?_ ?_ ?_ _ _
    | with_reducible refine putBit_keeps ?_ ?_ ?_ _ _ _
    | with_reducible refine forEach_keeps ?_ _ (fun s a hs => ?_)
    | with_reducible refine clearSeg_keeps ?_ ?_ _
    | with_reducible refine cutPhase_keeps ?_ ?_ _
    | with_reducible refine record_keeps ?_ ?_ _ _ _ _
    | with_reducible refine faultLane_keeps ?_ ?_ _ _
    | with_reducible refine Keeps.idState ?_
    | (simp only [Field.up]; refine Sub.bit hm ?_; exact rfl)
    | (dsimp only; refine Sub.bit hm ?_; exact rfl)
    | with_reducible refine foldl_keeps ?_ _ (fun s a hs => ?_)
    | (extract_lets +onlyGivenNames x; refine Keeps.cut (x := x) (m := tm) (s0 := z) ?_ ?_; unfold x; clear x; rotate_left; intro hx; clear_value x; rotate_right)
    | (extract_lets +onlyGivenNames x; clear_value x)
    | split

def quarantinePh_touch : Nat := 0x40000000000000000000000000000000000000000000000000000000000000000400
theorem quarantinePh_keeps {tm : Nat} {z s : State} (hm : Sub quarantinePh_touch tm) (hs : Keeps tm z s) (p : Nat) :
    Keeps tm z (State.quarantinePh s p) := by
  delta State.quarantinePh
  repeat' first
    | with_reducible assumption
    | (refine Sub.bit hm ?_; exact rfl)
    | (refine Sub.trans (Sub.of ?_) hm; exact rfl)
    | with_reducible refine Keeps.ite ?_ ?_
    | (refine (?_ : (_ : Bool) = true); exact rfl)
    | with_reducible refine putBit_keeps ?_ ?_ ?_ _ _ _
    | with_reducible refine onLane_keeps ?_ ?_ _ _
    | with_reducible refine Keeps.idState ?_
    | with_reducible refine foldl_keeps ?_ _ (fun s a hs => ?_)
    | (extract_lets +onlyGivenNames x; refine Keeps.cut (x := x) (m := tm) (s0 := z) ?_ ?_; unfold x; clear x; rotate_left; intro hx; clear_value x; rotate_right)
    | (extract_lets +onlyGivenNames x; clear_value x)
    | split

def setLaneLatch_touch : Nat := 0x1005e97c000000000000000004a00060000006000001000000082008a008004080000400
theorem setLaneLatch_keeps {tm : Nat} {z s : State} (hm : Sub setLaneLatch_touch tm) (hs : Keeps tm z s) (l : Nat) (cause : Nat) :
    Keeps tm z (State.setLaneLatch s l cause) := by
  delta State.setLaneLatch
  repeat' first
    | with_reducible assumption
    | (refine Sub.bit hm ?_; exact rfl)
    | (refine Sub.trans (Sub.of ?_) hm; exact rfl)
    | with_reducible refine Keeps.ite ?_ ?_
    | (refine (?_ : (_ : Bool) = true); exact rfl)
    | with_reducible refine put_keeps ?_ ?_ ?_ _ _
    | with_reducible refine forEach_keeps ?_ _ (fun s a hs => ?_)
    | with_reducible refine cutPhase_keeps ?_ ?_ _
    | with_reducible refine record_keeps ?_ ?_ _ _ _ _
    | with_reducible refine faultLane_keeps ?_ ?_ _ _
    | with_reducible refine Keeps.idState ?_
    | with_reducible refine foldl_keeps ?_ _ (fun s a hs => ?_)
    | (extract_lets +onlyGivenNames x; refine Keeps.cut (x := x) (m := tm) (s0 := z) ?_ ?_; unfold x; clear x; rotate_left; intro hx; clear_value x; rotate_right)
    | (extract_lets +onlyGivenNames x; clear_value x)
    | split

def parkDone_touch : Nat := 0x4c97c000000000000000004a000600000000000010000000000008000000080000400
theorem parkDone_keeps {tm : Nat} {z s : State} (hm : Sub parkDone_touch tm) (hs : Keeps tm z s) (l : Nat) :
    Keeps tm z (State.parkDone s l) := by
  delta State.parkDone
  repeat' first
    | with_reducible assumption
    | (refine Sub.bit hm ?_; exact rfl)
    | (refine Sub.trans (Sub.of ?_) hm; exact rfl)
    | with_reducible refine Keeps.ite ?_ ?_
    | (refine (?_ : (_ : Bool) = true); exact rfl)
    | with_reducible refine put_keeps ?_ ?_ ?_ _ _
    | with_reducible refine show_keeps ?_ ?_ _ _
    | with_reducible refine clearLoops_keeps ?_ ?_ _
    | with_reducible refine finish_keeps ?_ ?_ _ _ _
    | with_reducible refine setDriven_keeps ?_ ?_ _ _
    | with_reducible refine Keeps.idState ?_
    | with_reducible refine foldl_keeps ?_ _ (fun s a hs => ?_)
    | (extract_lets +onlyGivenNames x; refine Keeps.cut (x := x) (m := tm) (s0 := z) ?_ ?_; unfold x; clear x; rotate_left; intro hx; clear_value x; rotate_right)
    | (extract_lets +onlyGivenNames x; clear_value x)
    | split

def stopPhase_touch : Nat := 0x80000000000000000000000000000000000000000000000000000000000000000000
theorem stopPhase_keeps {tm : Nat} {z s : State} (hm : Sub stopPhase_touch tm) (hs : Keeps tm z s) (p : Nat) (keep : Bool) :
    Keeps tm z (State.stopPhase s p keep) := by
  delta State.stopPhase
  repeat' first
    | with_reducible assumption
    | (refine Sub.bit hm ?_; exact rfl)
    | (refine Sub.trans (Sub.of ?_) hm; exact rfl)
    | with_reducible refine Keeps.ite ?_ ?_
    | (refine (?_ : (_ : Bool) = true); exact rfl)
    | with_reducible refine onPh_keeps ?_ ?_ _ _
    | with_reducible refine Keeps.idState ?_
    | with_reducible refine foldl_keeps ?_ _ (fun s a hs => ?_)
    | (extract_lets +onlyGivenNames x; refine Keeps.cut (x := x) (m := tm) (s0 := z) ?_ ?_; unfold x; clear x; rotate_left; intro hx; clear_value x; rotate_right)
    | (extract_lets +onlyGivenNames x; clear_value x)
    | split

def stopLane_touch : Nat := 0xc0000000000000000000000000000000000000000000000000000000000080000400
theorem stopLane_keeps {tm : Nat} {z s : State} (hm : Sub stopLane_touch tm) (hs : Keeps tm z s) (l : Nat) :
    Keeps tm z (State.stopLane s l) := by
  delta State.stopLane
  repeat' first
    | with_reducible assumption
    | (refine Sub.bit hm ?_; exact rfl)
    | (refine Sub.trans (Sub.of ?_) hm; exact rfl)
    | with_reducible refine Keeps.ite ?_ ?_
    | (refine (?_ : (_ : Bool) = true); exact rfl)
    | with_reducible refine forEach_keeps ?_ _ (fun s a hs => ?_)
    | with_reducible refine clearLoops_keeps ?_ ?_ _
    | with_reducible refine stopPhase_keeps ?_ ?_ _ _
    | with_reducible refine setDriven_keeps ?_ ?_ _ _
    | with_reducible refine Keeps.idState ?_
    | with_reducible refine foldl_keeps ?_ _ (fun s a hs => ?_)
    | (extract_lets +onlyGivenNames x; refine Keeps.cut (x := x) (m := tm) (s0 := z) ?_ ?_; unfold x; clear x; rotate_left; intro hx; clear_value x; rotate_right)
    | (extract_lets +onlyGivenNames x; clear_value x)
    | split

def parkCleared_touch : Nat := 0x97c000000000000000004a000600000000000010000000000000000000000000000
theorem parkCleared_keeps {tm : Nat} {z s : State} (hm : Sub parkCleared_touch tm) (hs : Keeps tm z s) (l : Nat) :
    Keeps tm z (State.parkCleared s l) := by
  delta State.parkCleared
  repeat' first
    | with_reducible assumption
    | (refine Sub.bit hm ?_; exact rfl)
    | (refine Sub.trans (Sub.of ?_) hm; exact rfl)
    | with_reducible refine Keeps.ite ?_ ?_
    | (refine (?_ : (_ : Bool) = true); exact rfl)
    | with_reducible refine finish_keeps ?_ ?_ _ _ _
    | with_reducible refine Keeps.idState ?_
    | with_reducible refine foldl_keeps ?_ _ (fun s a hs => ?_)
    | (extract_lets +onlyGivenNames x; refine Keeps.cut (x := x) (m := tm) (s0 := z) ?_ ?_; unfold x; clear x; rotate_left; intro hx; clear_value x; rotate_right)
    | (extract_lets +onlyGivenNames x; clear_value x)
    | split

def noteParked_touch : Nat := 0x8000000000000000000000000000000000000010000000000000000000000000000
theorem noteParked_keeps {tm : Nat} {z s : State} (hm : Sub noteParked_touch tm) (hs : Keeps tm z s) (l : Nat) (cause : Nat) :
    Keeps tm z (State.noteParked s l cause) := by
  delta State.noteParked
  repeat' first
    | with_reducible assumption
    | (refine Sub.bit hm ?_; exact rfl)
    | (refine Sub.trans (Sub.of ?_) hm; exact rfl)
    | with_reducible refine Keeps.ite ?_ ?_
    | (refine (?_ : (_ : Bool) = true); exact rfl)
    | with_reducible refine record_keeps ?_ ?_ _ _ _ _
    | with_reducible refine Keeps.idState ?_
    | with_reducible refine foldl_keeps ?_ _ (fun s a hs => ?_)
    | (extract_lets +onlyGivenNames x; refine Keeps.cut (x := x) (m := tm) (s0 := z) ?_ ?_; unfold x; clear x; rotate_left; intro hx; clear_value x; rotate_right)
    | (extract_lets +onlyGivenNames x; clear_value x)
    | split

def parkLane_touch : Nat := 0x1005e97c000000000000000004a00060000006000001000000082008a000004080000400
theorem parkLane_keeps {tm : Nat} {z s : State} (hm : Sub parkLane_touch tm) (hs : Keeps tm z s) (l : Nat) (cause : Nat) :
    Keeps tm z (State.parkLane s l cause) := by
  delta State.parkLane
  repeat' first
    | with_reducible assumption
    | (refine Sub.bit hm ?_; exact rfl)
    | (refine Sub.trans (Sub.of ?_) hm; exact rfl)
    | with_reducible refine Keeps.ite ?_ ?_
    | (refine (?_ : (_ : Bool) = true); exact rfl)
    | with_reducible refine put_keeps ?_ ?_ ?_ _ _
    | with_reducible refine forEach_keeps ?_ _ (fun s a hs => ?_)
    | with_reducible refine abortSurvey_keeps ?_ ?_ _ _
    | with_reducible refine parkDone_keeps ?_ ?_ _
    | with_reducible refine show_keeps ?_ ?_ _ _
    | with_reducible refine clearLoops_keeps ?_ ?_ _
    | with_reducible refine cutPhase_keeps ?_ ?_ _
    | with_reducible refine record_keeps ?_ ?_ _ _ _ _
    | with_reducible refine noStart_keeps ?_ ?_ _
    | with_reducible refine stopLane_keeps ?_ ?_ _
    | with_reducible refine onLane_keeps ?_ ?_ _ _
    | with_reducible refine parkCleared_keeps ?_ ?_ _
    | with_reducible refine endShuttle_keeps ?_ ?_ _ _
    | with_reducible refine enter_keeps ?_ ?_ _ _
    | with_reducible refine noteParked_keeps ?_ ?_ _ _
    | with_reducible refine Keeps.idState ?_
    | with_reducible refine foldl_keeps ?_ _ (fun s a hs => ?_)
    | (extract_lets +onlyGivenNames x; refine Keeps.cut (x := x) (m := tm) (s0 := z) ?_ ?_; unfold x; clear x; rotate_left; intro hx; clear_value x; rotate_right)
    | (extract_lets +onlyGivenNames x; clear_value x)
    | split

def phaseTripped_touch : Nat := 0x1005e97c000000000000000004a00060000006000001000000082008a008004080000400
theorem phaseTripped_keeps {tm : Nat} {z s : State} (hm : Sub phaseTripped_touch tm) (hs : Keeps tm z s) (l : Nat) (p : Nat) :
    Keeps tm z (State.phaseTripped s l p) := by
  delta State.phaseTripped
  repeat' first
    | with_reducible assumption
    | (refine Sub.bit hm ?_; exact rfl)
    | (refine Sub.trans (Sub.of ?_) hm; exact rfl)
    | with_reducible refine Keeps.ite ?_ ?_
    | (refine (?_ : (_ : Bool) = true); exact rfl)
    | with_reducible refine abortSurvey_keeps ?_ ?_ _ _
    | with_reducible refine quarantinePh_keeps ?_ ?_ _
    | with_reducible refine setLaneLatch_keeps ?_ ?_ _ _
    | with_reducible refine parkLane_keeps ?_ ?_ _ _
    | with_reducible refine record_keeps ?_ ?_ _ _ _ _
    | with_reducible refine faultLane_keeps ?_ ?_ _ _
    | with_reducible refine Keeps.idState ?_
    | with_reducible refine foldl_keeps ?_ _ (fun s a hs => ?_)
    | (extract_lets +onlyGivenNames x; refine Keeps.cut (x := x) (m := tm) (s0 := z) ?_ ?_; unfold x; clear x; rotate_left; intro hx; clear_value x; rotate_right)
    | (extract_lets +onlyGivenNames x; clear_value x)
    | split

def setPhaseLatch_touch : Nat := 0x1005e97c000000000000000004a00060000006000001000000082008a00a004080000400
theorem setPhaseLatch_keeps {tm : Nat} {z s : State} (hm : Sub setPhaseLatch_touch tm) (hs : Keeps tm z s) (p : Nat) (cause : Nat) :
    Keeps tm z (State.setPhaseLatch s p cause) := by
  delta State.setPhaseLatch
  repeat' first
    | with_reducible assumption
    | (refine Sub.bit hm ?_; exact rfl)
    | (refine Sub.trans (Sub.of ?_) hm; exact rfl)
    | with_reducible refine Keeps.ite ?_ ?_
    | (refine (?_ : (_ : Bool) = true); exact rfl)
    | with_reducible refine putBit_keeps ?_ ?_ ?_ _ _ _
    | with_reducible refine noteHit_keeps ?_ ?_ _
    | with_reducible refine cutPhase_keeps ?_ ?_ _
    | with_reducible refine phaseTripped_keeps ?_ ?_ _ _
    | with_reducible refine record_keeps ?_ ?_ _ _ _ _
    | with_reducible refine abortShuttle_keeps ?_ ?_ _ _ _
    | with_reducible refine Keeps.idState ?_
    | with_reducible refine foldl_keeps ?_ _ (fun s a hs => ?_)
    | (extract_lets +onlyGivenNames x; refine Keeps.cut (x := x) (m := tm) (s0 := z) ?_ ?_; unfold x; clear x; rotate_left; intro hx; clear_value x; rotate_right)
    | (extract_lets +onlyGivenNames x; clear_value x)
    | split

def setOrder_touch : Nat := 0x40000000000000000000000000000000000000000000000000000000000000000000
theorem setOrder_keeps {tm : Nat} {z s : State} (hm : Sub setOrder_touch tm) (hs : Keeps tm z s) (l : Nat) (o : List Nat) :
    Keeps tm z (State.setOrder s l o) := by
  delta State.setOrder
  repeat' first
    | with_reducible assumption
    | (refine Sub.bit hm ?_; exact rfl)
    | (refine Sub.trans (Sub.of ?_) hm; exact rfl)
    | with_reducible refine Keeps.ite ?_ ?_
    | (refine (?_ : (_ : Bool) = true); exact rfl)
    | with_reducible refine onLane_keeps ?_ ?_ _ _
    | with_reducible refine Keeps.idState ?_
    | with_reducible refine foldl_keeps ?_ _ (fun s a hs => ?_)
    | (extract_lets +onlyGivenNames x; refine Keeps.cut (x := x) (m := tm) (s0 := z) ?_ ?_; unfold x; clear x; rotate_left; intro hx; clear_value x; rotate_right)
    | (extract_lets +onlyGivenNames x; clear_value x)
    | split

def lostPhase_touch : Nat := 0x1005e97c000000000000000004a00060000006000001000000082008a000004080000400
theorem lostPhase_keeps {tm : Nat} {z s : State} (hm : Sub lostPhase_touch tm) (hs : Keeps tm z s) (l : Nat) (p : Nat) :
    Keeps tm z (State.lostPhase s l p) := by
  delta State.lostPhase
  repeat' first
    | with_reducible assumption
    | (refine Sub.bit hm ?_; exact rfl)
    | (refine Sub.trans (Sub.of ?_) hm; exact rfl)
    | with_reducible refine Keeps.ite ?_ ?_
    | (refine (?_ : (_ : Bool) = true); exact rfl)
    | with_reducible refine show_keeps ?_ ?_ _ _
    | with_reducible refine beginPhase_keeps ?_ ?_ _ _ _
    | with_reducible refine record_keeps ?_ ?_ _ _ _ _
    | with_reducible refine setDriven_keeps ?_ ?_ _ _
    | with_reducible refine faultLane_keeps ?_ ?_ _ _
    | with_reducible refine enter_keeps ?_ ?_ _ _
    | with_reducible refine setOrder_keeps ?_ ?_ _ _
    | with_reducible refine Keeps.idState ?_
    | with_reducible refine foldl_keeps ?_ _ (fun s a hs => ?_)
    | (extract_lets +onlyGivenNames x; refine Keeps.cut (x := x) (m := tm) (s0 := z) ?_ ?_; unfold x; clear x; rotate_left; intro hx; clear_value x; rotate_right)
    | (extract_lets +onlyGivenNames x; clear_value x)
    | split

def recheckTrip_touch : Nat := 0x1005e97c000000000000000004a00060000006000001000000082008a000004080000400
theorem recheckTrip_keeps {tm : Nat} {z s : State} (hm : Sub recheckTrip_touch tm) (hs : Keeps tm z s) (l : Nat) :
    Keeps tm z (State.recheckTrip s l) := by
  delta State.recheckTrip
  repeat' first
    | with_reducible assumption
    | (refine Sub.bit hm ?_; exact rfl)
    | (refine Sub.trans (Sub.of ?_) hm; exact rfl)
    | with_reducible refine Keeps.ite ?_ ?_
    | (refine (?_ : (_ : Bool) = true); exact rfl)
    | with_reducible refine faultLane_keeps ?_ ?_ _ _
    | with_reducible refine Keeps.idState ?_
    | with_reducible refine foldl_keeps ?_ _ (fun s a hs => ?_)
    | (extract_lets +onlyGivenNames x; refine Keeps.cut (x := x) (m := tm) (s0 := z) ?_ ?_; unfold x; clear x; rotate_left; intro hx; clear_value x; rotate_right)
    | (extract_lets +onlyGivenNames x; clear_value x)
    | split

def loseLane_touch : Nat := 0x1005e97c000000000000000004a00060000006000001000000082008a000004080000400
theorem loseLane_keeps {tm : Nat} {z s : State} (hm : Sub loseLane_touch tm) (hs : Keeps tm z s) (l : Nat) :
    Keeps tm z (State.loseLane s l) := by
  delta State.loseLane
  repeat' first
    | with_reducible assumption
    | (refine Sub.bit hm ?_; exact rfl)
    | (refine Sub.trans (Sub.of ?_) hm; exact rfl)
    | with_reducible refine Keeps.ite ?_ ?_
    | (refine (?_ : (_ : Bool) = true); exact rfl)
    | with_reducible refine halt_keeps ?_ ?_ _ _
    | with_reducible refine record_keeps ?_ ?_ _ _ _ _
    | with_reducible refine Keeps.idState ?_
    | with_reducible refine foldl_keeps ?_ _ (fun s a hs => ?_)
    | (extract_lets +onlyGivenNames x; refine Keeps.cut (x := x) (m := tm) (s0 := z) ?_ ?_; unfold x; clear x; rotate_left; intro hx; clear_value x; rotate_right)
    | (extract_lets +onlyGivenNames x; clear_value x)
    | split

end Sys2Proof.Machine
end

