-- ==== Sys2Proof/Laws/KeepsFlash.lean ====
section
/-!
SUPPORT. Sys2Proof/Laws/KeepsFlash.lean: what each function of Machine/Flash.lean may change: its touch set, and one lemma per function.
-/
namespace Sys2Proof.Machine

open Sys2Proof

def onBank_touch : Nat := 0x10000000000000000000000000000000000000000000000000000000000000000000
theorem onBank_keeps {tm : Nat} {z s : State} (hm : Sub onBank_touch tm) (hs : Keeps tm z s) (n : Nat) (f : Sys2Proof.Machine.Bank → Sys2Proof.Machine.Bank) :
    Keeps tm z (State.onBank s n f) := by
  delta State.onBank
  repeat' first
    | with_reducible assumption
    | (refine Sub.bit hm ?_; exact rfl)
    | (refine Sub.trans (Sub.of ?_) hm; exact rfl)
    | with_reducible refine Keeps.ite ?_ ?_
    | (refine (?_ : (_ : Bool) = true); exact rfl)
    | with_reducible refine Keeps.idState ?_
    | with_reducible refine foldl_keeps ?_ _ (fun s a hs => ?_)
    | (extract_lets +onlyGivenNames x; refine Keeps.cut (x := x) (m := tm) (s0 := z) ?_ ?_; unfold x; clear x; rotate_left; intro hx; clear_value x; rotate_right)
    | (extract_lets +onlyGivenNames x; clear_value x)
    | split
    | with_reducible refine upd_nvm_keeps ?_ ?_ _

def onNvm_touch : Nat := 0x10000000000000000000000000000000000000000000000000000000000000000000
theorem onNvm_keeps {tm : Nat} {z s : State} (hm : Sub onNvm_touch tm) (hs : Keeps tm z s) (f : Sys2Proof.Machine.Nvm → Sys2Proof.Machine.Nvm) :
    Keeps tm z (State.onNvm s f) := by
  delta State.onNvm
  repeat' first
    | with_reducible assumption
    | (refine Sub.bit hm ?_; exact rfl)
    | (refine Sub.trans (Sub.of ?_) hm; exact rfl)
    | with_reducible refine Keeps.ite ?_ ?_
    | (refine (?_ : (_ : Bool) = true); exact rfl)
    | with_reducible refine Keeps.idState ?_
    | with_reducible refine foldl_keeps ?_ _ (fun s a hs => ?_)
    | (extract_lets +onlyGivenNames x; refine Keeps.cut (x := x) (m := tm) (s0 := z) ?_ ?_; unfold x; clear x; rotate_left; intro hx; clear_value x; rotate_right)
    | (extract_lets +onlyGivenNames x; clear_value x)
    | split
    | with_reducible refine upd_nvm_keeps ?_ ?_ _

def spoil_touch : Nat := 0x18000000000000000000000000000000000000000000000000000000000000000000
theorem spoil_keeps {tm : Nat} {z s : State} (hm : Sub spoil_touch tm) (hs : Keeps tm z s) (e : Sys2Proof.Machine.EraseOp) :
    Keeps tm z (State.spoil s e) := by
  delta State.spoil
  repeat' first
    | with_reducible assumption
    | (refine Sub.bit hm ?_; exact rfl)
    | (refine Sub.trans (Sub.of ?_) hm; exact rfl)
    | with_reducible refine Keeps.ite ?_ ?_
    | (refine (?_ : (_ : Bool) = true); exact rfl)
    | with_reducible refine onCtr_keeps ?_ ?_ _ _
    | with_reducible refine onNvm_keeps ?_ ?_ _
    | with_reducible refine Keeps.idState ?_
    | with_reducible refine foldl_keeps ?_ _ (fun s a hs => ?_)
    | (extract_lets +onlyGivenNames x; refine Keeps.cut (x := x) (m := tm) (s0 := z) ?_ ?_; unfold x; clear x; rotate_left; intro hx; clear_value x; rotate_right)
    | (extract_lets +onlyGivenNames x; clear_value x)
    | split
    | with_reducible refine upd_slv_keeps ?_ ?_ _

def kick_touch : Nat := 0x18000000000000000000000000000000000000000000000000000000000000000000
theorem kick_keeps {tm : Nat} {z s : State} (hm : Sub kick_touch tm) (hs : Keeps tm z s) (n : Nat) :
    Keeps tm z (State.kick s n) := by
  delta State.kick
  repeat' first
    | with_reducible assumption
    | (refine Sub.bit hm ?_; exact rfl)
    | (refine Sub.trans (Sub.of ?_) hm; exact rfl)
    | with_reducible refine Keeps.ite ?_ ?_
    | (refine (?_ : (_ : Bool) = true); exact rfl)
    | with_reducible refine onBank_keeps ?_ ?_ _ _
    | with_reducible refine spoil_keeps ?_ ?_ _
    | with_reducible refine Keeps.idState ?_
    | with_reducible refine foldl_keeps ?_ _ (fun s a hs => ?_)
    | (extract_lets +onlyGivenNames x; refine Keeps.cut (x := x) (m := tm) (s0 := z) ?_ ?_; unfold x; clear x; rotate_left; intro hx; clear_value x; rotate_right)
    | (extract_lets +onlyGivenNames x; clear_value x)
    | split

def queueErase_touch : Nat := 0x18000000000000000000000000000000000000000000000000000000000000000000
theorem queueErase_keeps {tm : Nat} {z s : State} (hm : Sub queueErase_touch tm) (hs : Keeps tm z s) (n : Nat) (e : Sys2Proof.Machine.EraseOp) :
    Keeps tm z (State.queueErase s n e) := by
  delta State.queueErase
  repeat' first
    | with_reducible assumption
    | (refine Sub.bit hm ?_; exact rfl)
    | (refine Sub.trans (Sub.of ?_) hm; exact rfl)
    | with_reducible refine Keeps.ite ?_ ?_
    | (refine (?_ : (_ : Bool) = true); exact rfl)
    | with_reducible refine onBank_keeps ?_ ?_ _ _
    | with_reducible refine kick_keeps ?_ ?_ _
    | with_reducible refine Keeps.idState ?_
    | with_reducible refine foldl_keeps ?_ _ (fun s a hs => ?_)
    | (extract_lets +onlyGivenNames x; refine Keeps.cut (x := x) (m := tm) (s0 := z) ?_ ?_; unfold x; clear x; rotate_left; intro hx; clear_value x; rotate_right)
    | (extract_lets +onlyGivenNames x; clear_value x)
    | split

def prog_touch : Nat := 0x18000000000000000000000000000000000000000000000000000000000000000000
theorem prog_keeps {tm : Nat} {z s : State} (hm : Sub prog_touch tm) (hs : Keeps tm z s) (n : Nat) (op : Sys2Proof.Machine.ProgOp) :
    Keeps tm z (State.prog s n op) := by
  delta State.prog
  repeat' first
    | with_reducible assumption
    | (refine Sub.bit hm ?_; exact rfl)
    | (refine Sub.trans (Sub.of ?_) hm; exact rfl)
    | with_reducible refine Keeps.ite ?_ ?_
    | (refine (?_ : (_ : Bool) = true); exact rfl)
    | with_reducible refine onBank_keeps ?_ ?_ _ _
    | with_reducible refine kick_keeps ?_ ?_ _
    | with_reducible refine Keeps.idState ?_
    | with_reducible refine foldl_keeps ?_ _ (fun s a hs => ?_)
    | (extract_lets +onlyGivenNames x; refine Keeps.cut (x := x) (m := tm) (s0 := z) ?_ ?_; unfold x; clear x; rotate_left; intro hx; clear_value x; rotate_right)
    | (extract_lets +onlyGivenNames x; clear_value x)
    | split

def progFirst_touch : Nat := 0x10000000000000000000000000000000000000000000000000000000000000000000
theorem progFirst_keeps {tm : Nat} {z s : State} (hm : Sub progFirst_touch tm) (hs : Keeps tm z s) (n : Nat) (op : Sys2Proof.Machine.ProgOp) :
    Keeps tm z (State.progFirst s n op) := by
  delta State.progFirst
  repeat' first
    | with_reducible assumption
    | (refine Sub.bit hm ?_; exact rfl)
    | (refine Sub.trans (Sub.of ?_) hm; exact rfl)
    | with_reducible refine Keeps.ite ?_ ?_
    | (refine (?_ : (_ : Bool) = true); exact rfl)
    | with_reducible refine onBank_keeps ?_ ?_ _ _
    | with_reducible refine Keeps.idState ?_
    | with_reducible refine foldl_keeps ?_ _ (fun s a hs => ?_)
    | (extract_lets +onlyGivenNames x; refine Keeps.cut (x := x) (m := tm) (s0 := z) ?_ ?_; unfold x; clear x; rotate_left; intro hx; clear_value x; rotate_right)
    | (extract_lets +onlyGivenNames x; clear_value x)
    | split

def eraseTally_touch : Nat := 0x18000000000000000000000000000000000000000000000000000000000000000000
theorem eraseTally_keeps {tm : Nat} {z s : State} (hm : Sub eraseTally_touch tm) (hs : Keeps tm z s) (c : Nat) (x : Nat) (junk : Bool) :
    Keeps tm z (State.eraseTally s c x junk) := by
  delta State.eraseTally
  repeat' first
    | with_reducible assumption
    | (refine Sub.bit hm ?_; exact rfl)
    | (refine Sub.trans (Sub.of ?_) hm; exact rfl)
    | with_reducible refine Keeps.ite ?_ ?_
    | (refine (?_ : (_ : Bool) = true); exact rfl)
    | with_reducible refine onBank_keeps ?_ ?_ _ _
    | with_reducible refine kick_keeps ?_ ?_ _
    | with_reducible refine Keeps.idState ?_
    | with_reducible refine foldl_keeps ?_ _ (fun s a hs => ?_)
    | (extract_lets +onlyGivenNames x; refine Keeps.cut (x := x) (m := tm) (s0 := z) ?_ ?_; unfold x; clear x; rotate_left; intro hx; clear_value x; rotate_right)
    | (extract_lets +onlyGivenNames x; clear_value x)
    | split

def kickAll_touch : Nat := 0x18000000000000000000000000000000000000000000000000000000000000000000
theorem kickAll_keeps {tm : Nat} {z s : State} (hm : Sub kickAll_touch tm) (hs : Keeps tm z s)  :
    Keeps tm z (State.kickAll s) := by
  delta State.kickAll
  repeat' first
    | with_reducible assumption
    | (refine Sub.bit hm ?_; exact rfl)
    | (refine Sub.trans (Sub.of ?_) hm; exact rfl)
    | with_reducible refine Keeps.ite ?_ ?_
    | (refine (?_ : (_ : Bool) = true); exact rfl)
    | with_reducible refine kick_keeps ?_ ?_ _
    | with_reducible refine Keeps.idState ?_
    | with_reducible refine foldl_keeps ?_ _ (fun s a hs => ?_)
    | (extract_lets +onlyGivenNames x; refine Keeps.cut (x := x) (m := tm) (s0 := z) ?_ ?_; unfold x; clear x; rotate_left; intro hx; clear_value x; rotate_right)
    | (extract_lets +onlyGivenNames x; clear_value x)
    | split

def tear_touch : Nat := 0x18000000000000000000000000000000000000000000000000000000000000000000
theorem tear_keeps {tm : Nat} {z s : State} (hm : Sub tear_touch tm) (hs : Keeps tm z s) (op : Sys2Proof.Machine.ProgOp) :
    Keeps tm z (State.tear s op) := by
  delta State.tear
  repeat' first
    | with_reducible assumption
    | (refine Sub.bit hm ?_; exact rfl)
    | (refine Sub.trans (Sub.of ?_) hm; exact rfl)
    | with_reducible refine Keeps.ite ?_ ?_
    | (refine (?_ : (_ : Bool) = true); exact rfl)
    | with_reducible refine onCtr_keeps ?_ ?_ _ _
    | with_reducible refine onNvm_keeps ?_ ?_ _
    | with_reducible refine Keeps.idState ?_
    | with_reducible refine foldl_keeps ?_ _ (fun s a hs => ?_)
    | (extract_lets +onlyGivenNames x; refine Keeps.cut (x := x) (m := tm) (s0 := z) ?_ ?_; unfold x; clear x; rotate_left; intro hx; clear_value x; rotate_right)
    | (extract_lets +onlyGivenNames x; clear_value x)
    | split
    | with_reducible refine upd_slv_keeps ?_ ?_ _

def crashFlash_touch : Nat := 0x18000000000000000000000000000000000000000000000000000000000000000000
theorem crashFlash_keeps {tm : Nat} {z s : State} (hm : Sub crashFlash_touch tm) (hs : Keeps tm z s)  :
    Keeps tm z (State.crashFlash s) := by
  delta State.crashFlash
  repeat' first
    | with_reducible assumption
    | (refine Sub.bit hm ?_; exact rfl)
    | (refine Sub.trans (Sub.of ?_) hm; exact rfl)
    | with_reducible refine Keeps.ite ?_ ?_
    | (refine (?_ : (_ : Bool) = true); exact rfl)
    | with_reducible refine forEach_keeps ?_ _ (fun s a hs => ?_)
    | with_reducible refine onBank_keeps ?_ ?_ _ _
    | with_reducible refine tear_keeps ?_ ?_ _
    | with_reducible refine Keeps.idState ?_
    | with_reducible refine foldl_keeps ?_ _ (fun s a hs => ?_)
    | (extract_lets +onlyGivenNames x; refine Keeps.cut (x := x) (m := tm) (s0 := z) ?_ ?_; unfold x; clear x; rotate_left; intro hx; clear_value x; rotate_right)
    | (extract_lets +onlyGivenNames x; clear_value x)
    | split

def flashFail_touch : Nat := 0x8000000000000000000000000000000000000010800018000000000000000000000
theorem flashFail_keeps {tm : Nat} {z s : State} (hm : Sub flashFail_touch tm) (hs : Keeps tm z s) (kind : Nat) (ofs : Nat) :
    Keeps tm z (State.flashFail s kind ofs) := by
  delta State.flashFail
  repeat' first
    | with_reducible assumption
    | (refine Sub.bit hm ?_; exact rfl)
    | (refine Sub.trans (Sub.of ?_) hm; exact rfl)
    | with_reducible refine Keeps.ite ?_ ?_
    | (refine (?_ : (_ : Bool) = true); exact rfl)
    | with_reducible refine wr_keeps ?_ ?_ ?_ _ _
    | with_reducible refine put_keeps ?_ ?_ ?_ _ _
    | with_reducible refine record_keeps ?_ ?_ _ _ _ _
    | with_reducible refine Keeps.idState ?_
    | with_reducible refine foldl_keeps ?_ _ (fun s a hs => ?_)
    | (extract_lets +onlyGivenNames x; refine Keeps.cut (x := x) (m := tm) (s0 := z) ?_ ?_; unfold x; clear x; rotate_left; intro hx; clear_value x; rotate_right)
    | (extract_lets +onlyGivenNames x; clear_value x)
    | split

end Sys2Proof.Machine
end

