-- ==== Sys2Proof/Laws/KeepsSelvedge.lean ====
section
/-!
SUPPORT. Sys2Proof/Laws/KeepsSelvedge.lean: what each function of Machine/Selvedge.lean may change: its touch set, and one lemma per function.
-/
namespace Sys2Proof.Machine

open Sys2Proof

def onSlv_touch : Nat := 0x8000000000000000000000000000000000000000000000000000000000000000000
theorem onSlv_keeps {tm : Nat} {z s : State} (hm : Sub onSlv_touch tm) (hs : Keeps tm z s) (f : Sys2Proof.Machine.Selvedge → Sys2Proof.Machine.Selvedge) :
    Keeps tm z (State.onSlv s f) := by
  delta State.onSlv
  repeat' first
    | with_reducible assumption
    | (refine Sub.bit hm ?_; exact rfl)
    | (refine Sub.trans (Sub.of ?_) hm; exact rfl)
    | with_reducible refine Keeps.ite ?_ ?_
    | (refine (?_ : (_ : Bool) = true); exact rfl)
    | with_reducible refine Keeps.idState ?_
    | with_reducible refine foldl_keeps ?_ _ (fun s a hs => ?_)
    | (extract_lets +onlyGivenNames x; refine Keeps.cut (x := x) (m := tm) (s0 := z) ?_ ?_; unfold x; clear x; rotate_left; intro hx; clear_value x; rotate_right)
    | (extract_lets +onlyGivenNames x; clear_value x)
    | split
    | with_reducible refine upd_slv_keeps ?_ ?_ _

def closeOpened_touch : Nat := 0x8000000000000000000000000000000000000000000000000000000000000000000
theorem closeOpened_keeps {tm : Nat} {z s : State} (hm : Sub closeOpened_touch tm) (hs : Keeps tm z s)  :
    Keeps tm z (State.closeOpened s) := by
  delta State.closeOpened
  repeat' first
    | with_reducible assumption
    | (refine Sub.bit hm ?_; exact rfl)
    | (refine Sub.trans (Sub.of ?_) hm; exact rfl)
    | with_reducible refine Keeps.ite ?_ ?_
    | (refine (?_ : (_ : Bool) = true); exact rfl)
    | with_reducible refine onSlv_keeps ?_ ?_ _
    | with_reducible refine Keeps.idState ?_
    | with_reducible refine foldl_keeps ?_ _ (fun s a hs => ?_)
    | (extract_lets +onlyGivenNames x; refine Keeps.cut (x := x) (m := tm) (s0 := z) ?_ ?_; unfold x; clear x; rotate_left; intro hx; clear_value x; rotate_right)
    | (extract_lets +onlyGivenNames x; clear_value x)
    | split

def keepRun_touch : Nat := 0x18000000000000000000000000000000000000000000000000000000000000000000
theorem keepRun_keeps {tm : Nat} {z s : State} (hm : Sub keepRun_touch tm) (hs : Keeps tm z s)  :
    Keeps tm z (State.keepRun s) := by
  delta State.keepRun
  repeat' first
    | with_reducible assumption
    | (refine Sub.bit hm ?_; exact rfl)
    | (refine Sub.trans (Sub.of ?_) hm; exact rfl)
    | with_reducible refine Keeps.ite ?_ ?_
    | (refine (?_ : (_ : Bool) = true); exact rfl)
    | with_reducible refine queueErase_keeps ?_ ?_ _ _
    | with_reducible refine Keeps.idState ?_
    | with_reducible refine foldl_keeps ?_ _ (fun s a hs => ?_)
    | (extract_lets +onlyGivenNames x; refine Keeps.cut (x := x) (m := tm) (s0 := z) ?_ ?_; unfold x; clear x; rotate_left; intro hx; clear_value x; rotate_right)
    | (extract_lets +onlyGivenNames x; clear_value x)
    | split

def flushNext_touch : Nat := 0x18000000000000000000000000000000000000000000000000000000000000000000
theorem flushNext_keeps {tm : Nat} {z s : State} (hm : Sub flushNext_touch tm) (hs : Keeps tm z s)  :
    Keeps tm z (State.flushNext s) := by
  delta State.flushNext
  repeat' first
    | with_reducible assumption
    | (refine Sub.bit hm ?_; exact rfl)
    | (refine Sub.trans (Sub.of ?_) hm; exact rfl)
    | with_reducible refine Keeps.ite ?_ ?_
    | (refine (?_ : (_ : Bool) = true); exact rfl)
    | with_reducible refine keepRun_keeps ?_ ?_
    | with_reducible refine prog_keeps ?_ ?_ _ _
    | with_reducible refine Keeps.idState ?_
    | with_reducible refine foldl_keeps ?_ _ (fun s a hs => ?_)
    | (extract_lets +onlyGivenNames x; refine Keeps.cut (x := x) (m := tm) (s0 := z) ?_ ?_; unfold x; clear x; rotate_left; intro hx; clear_value x; rotate_right)
    | (extract_lets +onlyGivenNames x; clear_value x)
    | split

def beginFlush_touch : Nat := 0x18000000000000000000000000000000000000000000000000000000000000000000
theorem beginFlush_keeps {tm : Nat} {z s : State} (hm : Sub beginFlush_touch tm) (hs : Keeps tm z s) (k : Sys2Proof.Machine.FlushKind) (q : List Nat) :
    Keeps tm z (State.beginFlush s k q) := by
  delta State.beginFlush
  repeat' first
    | with_reducible assumption
    | (refine Sub.bit hm ?_; exact rfl)
    | (refine Sub.trans (Sub.of ?_) hm; exact rfl)
    | with_reducible refine Keeps.ite ?_ ?_
    | (refine (?_ : (_ : Bool) = true); exact rfl)
    | with_reducible refine onSlv_keeps ?_ ?_ _
    | with_reducible refine flushNext_keeps ?_ ?_
    | with_reducible refine Keeps.idState ?_
    | with_reducible refine foldl_keeps ?_ _ (fun s a hs => ?_)
    | (extract_lets +onlyGivenNames x; refine Keeps.cut (x := x) (m := tm) (s0 := z) ?_ ?_; unfold x; clear x; rotate_left; intro hx; clear_value x; rotate_right)
    | (extract_lets +onlyGivenNames x; clear_value x)
    | split

def startFlush_touch : Nat := 0x18000000000000000000000000000000000000000000000000000000000000000000
theorem startFlush_keeps {tm : Nat} {z s : State} (hm : Sub startFlush_touch tm) (hs : Keeps tm z s) (k : Sys2Proof.Machine.FlushKind) :
    Keeps tm z (State.startFlush s k) := by
  delta State.startFlush
  repeat' first
    | with_reducible assumption
    | (refine Sub.bit hm ?_; exact rfl)
    | (refine Sub.trans (Sub.of ?_) hm; exact rfl)
    | with_reducible refine Keeps.ite ?_ ?_
    | (refine (?_ : (_ : Bool) = true); exact rfl)
    | with_reducible refine closeOpened_keeps ?_ ?_
    | with_reducible refine onSlv_keeps ?_ ?_ _
    | with_reducible refine flushNext_keeps ?_ ?_
    | with_reducible refine beginFlush_keeps ?_ ?_ _ _
    | with_reducible refine Keeps.idState ?_
    | with_reducible refine foldl_keeps ?_ _ (fun s a hs => ?_)
    | (extract_lets +onlyGivenNames x; refine Keeps.cut (x := x) (m := tm) (s0 := z) ?_ ?_; unfold x; clear x; rotate_left; intro hx; clear_value x; rotate_right)
    | (extract_lets +onlyGivenNames x; clear_value x)
    | split

def closeRec_touch : Nat := 0x18000000000000000000000000000000000000000000000000000000000000000000
theorem closeRec_keeps {tm : Nat} {z s : State} (hm : Sub closeRec_touch tm) (hs : Keeps tm z s) (q : Nat) :
    Keeps tm z (State.closeRec s q) := by
  delta State.closeRec
  repeat' first
    | with_reducible assumption
    | (refine Sub.bit hm ?_; exact rfl)
    | (refine Sub.trans (Sub.of ?_) hm; exact rfl)
    | with_reducible refine Keeps.ite ?_ ?_
    | (refine (?_ : (_ : Bool) = true); exact rfl)
    | with_reducible refine onSlv_keeps ?_ ?_ _
    | with_reducible refine startFlush_keeps ?_ ?_ _
    | with_reducible refine Keeps.idState ?_
    | with_reducible refine foldl_keeps ?_ _ (fun s a hs => ?_)
    | (extract_lets +onlyGivenNames x; refine Keeps.cut (x := x) (m := tm) (s0 := z) ?_ ?_; unfold x; clear x; rotate_left; intro hx; clear_value x; rotate_right)
    | (extract_lets +onlyGivenNames x; clear_value x)
    | split

def addRepeat_touch : Nat := 0x18000000000000000000000000000000000000000000000000000000000000000000
theorem addRepeat_keeps {tm : Nat} {z s : State} (hm : Sub addRepeat_touch tm) (hs : Keeps tm z s) (x : Sys2Proof.Machine.Rec) (r : Sys2Proof.Machine.Report) :
    Keeps tm z (State.addRepeat s x r) := by
  delta State.addRepeat
  repeat' first
    | with_reducible assumption
    | (refine Sub.bit hm ?_; exact rfl)
    | (refine Sub.trans (Sub.of ?_) hm; exact rfl)
    | with_reducible refine Keeps.ite ?_ ?_
    | (refine (?_ : (_ : Bool) = true); exact rfl)
    | with_reducible refine onSlv_keeps ?_ ?_ _
    | with_reducible refine closeRec_keeps ?_ ?_ _
    | with_reducible refine Keeps.idState ?_
    | with_reducible refine foldl_keeps ?_ _ (fun s a hs => ?_)
    | (extract_lets +onlyGivenNames x; refine Keeps.cut (x := x) (m := tm) (s0 := z) ?_ ?_; unfold x; clear x; rotate_left; intro hx; clear_value x; rotate_right)
    | (extract_lets +onlyGivenNames x; clear_value x)
    | split

def slvEvt_touch : Nat := 0x10000000000000000000000000000
theorem slvEvt_keeps {tm : Nat} {z s : State} (hm : Sub slvEvt_touch tm) (hs : Keeps tm z s) (code : Nat) :
    Keeps tm z (State.slvEvt s code) := by
  delta State.slvEvt
  repeat' first
    | with_reducible assumption
    | (refine Sub.bit hm ?_; exact rfl)
    | (refine Sub.trans (Sub.of ?_) hm; exact rfl)
    | with_reducible refine Keeps.ite ?_ ?_
    | (refine (?_ : (_ : Bool) = true); exact rfl)
    | with_reducible refine put_keeps ?_ ?_ ?_ _ _
    | with_reducible refine Keeps.idState ?_
    | with_reducible refine foldl_keeps ?_ _ (fun s a hs => ?_)
    | (extract_lets +onlyGivenNames x; refine Keeps.cut (x := x) (m := tm) (s0 := z) ?_ ?_; unfold x; clear x; rotate_left; intro hx; clear_value x; rotate_right)
    | (extract_lets +onlyGivenNames x; clear_value x)
    | split

def openRec_touch : Nat := 0x19040000000000000000002000600000000000430000000000000000000000000000
theorem openRec_keeps {tm : Nat} {z s : State} (hm : Sub openRec_touch tm) (hs : Keeps tm z s) (r : Sys2Proof.Machine.Report) :
    Keeps tm z (State.openRec s r) := by
  delta State.openRec
  repeat' first
    | with_reducible assumption
    | (refine Sub.bit hm ?_; exact rfl)
    | (refine Sub.trans (Sub.of ?_) hm; exact rfl)
    | with_reducible refine Keeps.ite ?_ ?_
    | (refine (?_ : (_ : Bool) = true); exact rfl)
    | with_reducible refine wr_keeps ?_ ?_ ?_ _ _
    | with_reducible refine bump_keeps ?_ ?_ ?_ _ _
    | with_reducible refine notify_keeps ?_ ?_ _ _ _
    | with_reducible refine onSlv_keeps ?_ ?_ _
    | with_reducible refine slvEvt_keeps ?_ ?_ _
    | with_reducible refine closeRec_keeps ?_ ?_ _
    | with_reducible refine startFlush_keeps ?_ ?_ _
    | with_reducible refine Keeps.idState ?_
    | with_reducible refine foldl_keeps ?_ _ (fun s a hs => ?_)
    | (extract_lets +onlyGivenNames x; refine Keeps.cut (x := x) (m := tm) (s0 := z) ?_ ?_; unfold x; clear x; rotate_left; intro hx; clear_value x; rotate_right)
    | (extract_lets +onlyGivenNames x; clear_value x)
    | split

def openDropped_touch : Nat := 0x19040000000000000000002000600000000000430000000000000000000000000000
theorem openDropped_keeps {tm : Nat} {z s : State} (hm : Sub openDropped_touch tm) (hs : Keeps tm z s)  :
    Keeps tm z (State.openDropped s) := by
  delta State.openDropped
  repeat' first
    | with_reducible assumption
    | (refine Sub.bit hm ?_; exact rfl)
    | (refine Sub.trans (Sub.of ?_) hm; exact rfl)
    | with_reducible refine Keeps.ite ?_ ?_
    | (refine (?_ : (_ : Bool) = true); exact rfl)
    | with_reducible refine onSlv_keeps ?_ ?_ _
    | with_reducible refine openRec_keeps ?_ ?_ _
    | with_reducible refine Keeps.idState ?_
    | with_reducible refine foldl_keeps ?_ _ (fun s a hs => ?_)
    | (extract_lets +onlyGivenNames x; refine Keeps.cut (x := x) (m := tm) (s0 := z) ?_ ?_; unfold x; clear x; rotate_left; intro hx; clear_value x; rotate_right)
    | (extract_lets +onlyGivenNames x; clear_value x)
    | split

def processReport_touch : Nat := 0x19040000000000000000002000600000000000430000000000000000000000000000
theorem processReport_keeps {tm : Nat} {z s : State} (hm : Sub processReport_touch tm) (hs : Keeps tm z s) (r : Sys2Proof.Machine.Report) :
    Keeps tm z (State.processReport s r) := by
  delta State.processReport
  repeat' first
    | with_reducible assumption
    | (refine Sub.bit hm ?_; exact rfl)
    | (refine Sub.trans (Sub.of ?_) hm; exact rfl)
    | with_reducible refine Keeps.ite ?_ ?_
    | (refine (?_ : (_ : Bool) = true); exact rfl)
    | with_reducible refine openDropped_keeps ?_ ?_
    | with_reducible refine addRepeat_keeps ?_ ?_ _ _
    | with_reducible refine loseReport_keeps ?_ ?_
    | with_reducible refine openRec_keeps ?_ ?_ _
    | with_reducible refine Keeps.idState ?_
    | with_reducible refine foldl_keeps ?_ _ (fun s a hs => ?_)
    | (extract_lets +onlyGivenNames x; refine Keeps.cut (x := x) (m := tm) (s0 := z) ?_ ?_; unfold x; clear x; rotate_left; intro hx; clear_value x; rotate_right)
    | (extract_lets +onlyGivenNames x; clear_value x)
    | split

def flushEnd_touch : Nat := 0x19040000000000000000002000600000000000430000000000000000000000000000
theorem flushEnd_keeps {tm : Nat} {z s : State} (hm : Sub flushEnd_touch tm) (hs : Keeps tm z s)  :
    Keeps tm z (State.flushEnd s) := by
  delta State.flushEnd
  repeat' first
    | with_reducible assumption
    | (refine Sub.bit hm ?_; exact rfl)
    | (refine Sub.trans (Sub.of ?_) hm; exact rfl)
    | with_reducible refine Keeps.ite ?_ ?_
    | (refine (?_ : (_ : Bool) = true); exact rfl)
    | with_reducible refine onSlv_keeps ?_ ?_ _
    | with_reducible refine startFlush_keeps ?_ ?_ _
    | with_reducible refine openRec_keeps ?_ ?_ _
    | with_reducible refine flushNext_keeps ?_ ?_
    | with_reducible refine Keeps.idState ?_
    | with_reducible refine foldl_keeps ?_ _ (fun s a hs => ?_)
    | (extract_lets +onlyGivenNames x; refine Keeps.cut (x := x) (m := tm) (s0 := z) ?_ ?_; unfold x; clear x; rotate_left; intro hx; clear_value x; rotate_right)
    | (extract_lets +onlyGivenNames x; clear_value x)
    | split

def closeFlush_touch : Nat := 0x19040000000000000000002000600000000000430000000000000000000000000000
theorem closeFlush_keeps {tm : Nat} {z s : State} (hm : Sub closeFlush_touch tm) (hs : Keeps tm z s) (cause : Nat) :
    Keeps tm z (State.closeFlush s cause) := by
  delta State.closeFlush
  repeat' first
    | with_reducible assumption
    | (refine Sub.bit hm ?_; exact rfl)
    | (refine Sub.trans (Sub.of ?_) hm; exact rfl)
    | with_reducible refine Keeps.ite ?_ ?_
    | (refine (?_ : (_ : Bool) = true); exact rfl)
    | with_reducible refine processReport_keeps ?_ ?_ _
    | with_reducible refine onSlv_keeps ?_ ?_ _
    | with_reducible refine flushEnd_keeps ?_ ?_
    | with_reducible refine startFlush_keeps ?_ ?_ _
    | with_reducible refine Keeps.idState ?_
    | with_reducible refine foldl_keeps ?_ _ (fun s a hs => ?_)
    | (extract_lets +onlyGivenNames x; refine Keeps.cut (x := x) (m := tm) (s0 := z) ?_ ?_; unfold x; clear x; rotate_left; intro hx; clear_value x; rotate_right)
    | (extract_lets +onlyGivenNames x; clear_value x)
    | split

def slvErased_touch : Nat := 0x18000000000000000000000000000000000000000000000000000000000000000000
theorem slvErased_keeps {tm : Nat} {z s : State} (hm : Sub slvErased_touch tm) (hs : Keeps tm z s) (n : Nat) :
    Keeps tm z (State.slvErased s n) := by
  delta State.slvErased
  repeat' first
    | with_reducible assumption
    | (refine Sub.bit hm ?_; exact rfl)
    | (refine Sub.trans (Sub.of ?_) hm; exact rfl)
    | with_reducible refine Keeps.ite ?_ ?_
    | (refine (?_ : (_ : Bool) = true); exact rfl)
    | with_reducible refine keepRun_keeps ?_ ?_
    | with_reducible refine onSlv_keeps ?_ ?_ _
    | with_reducible refine flushNext_keeps ?_ ?_
    | with_reducible refine Keeps.idState ?_
    | with_reducible refine foldl_keeps ?_ _ (fun s a hs => ?_)
    | (extract_lets +onlyGivenNames x; refine Keeps.cut (x := x) (m := tm) (s0 := z) ?_ ?_; unfold x; clear x; rotate_left; intro hx; clear_value x; rotate_right)
    | (extract_lets +onlyGivenNames x; clear_value x)
    | split

def openMark_touch : Nat := 0x190c0000000000000000002000600000000000430000000000000000000000000000
theorem openMark_keeps {tm : Nat} {z s : State} (hm : Sub openMark_touch tm) (hs : Keeps tm z s) (c : Sys2Proof.Machine.CmdRef) (flags : Nat) (data : List Sys2Proof.Word) :
    Keeps tm z (State.openMark s c flags data) := by
  delta State.openMark
  repeat' first
    | with_reducible assumption
    | (refine Sub.bit hm ?_; exact rfl)
    | (refine Sub.trans (Sub.of ?_) hm; exact rfl)
    | with_reducible refine Keeps.ite ?_ ?_
    | (refine (?_ : (_ : Bool) = true); exact rfl)
    | with_reducible refine openDropped_keeps ?_ ?_
    | with_reducible refine startFlush_keeps ?_ ?_ _
    | with_reducible refine openRec_keeps ?_ ?_ _
    | with_reducible refine hold_keeps ?_ ?_ _ _
    | with_reducible refine Keeps.idState ?_
    | with_reducible refine foldl_keeps ?_ _ (fun s a hs => ?_)
    | (extract_lets +onlyGivenNames x; refine Keeps.cut (x := x) (m := tm) (s0 := z) ?_ ?_; unfold x; clear x; rotate_left; intro hx; clear_value x; rotate_right)
    | (extract_lets +onlyGivenNames x; clear_value x)
    | split

def retryMarks_touch : Nat := 0x190c0000000000000000002000600000000000430000000000000000000000000000
theorem retryMarks_keeps {tm : Nat} {z s : State} (hm : Sub retryMarks_touch tm) (hs : Keeps tm z s)  :
    Keeps tm z (State.retryMarks s) := by
  delta State.retryMarks
  repeat' first
    | with_reducible assumption
    | (refine Sub.bit hm ?_; exact rfl)
    | (refine Sub.trans (Sub.of ?_) hm; exact rfl)
    | with_reducible refine Keeps.ite ?_ ?_
    | (refine (?_ : (_ : Bool) = true); exact rfl)
    | with_reducible refine openMark_keeps ?_ ?_ _ _ _
    | with_reducible refine Keeps.idState ?_
    | with_reducible refine foldl_keeps ?_ _ (fun s a hs => ?_)
    | (extract_lets +onlyGivenNames x; refine Keeps.cut (x := x) (m := tm) (s0 := z) ?_ ?_; unfold x; clear x; rotate_left; intro hx; clear_value x; rotate_right)
    | (extract_lets +onlyGivenNames x; clear_value x)
    | split
    | with_reducible refine upd_waits_keeps ?_ ?_ _

def slvProgrammed_touch : Nat := 0x197c000000000000000004a000600000000000430000000000000000000000000000
theorem slvProgrammed_keeps {tm : Nat} {z s : State} (hm : Sub slvProgrammed_touch tm) (hs : Keeps tm z s) (q : Nat) (ok : Bool) :
    Keeps tm z (State.slvProgrammed s q ok) := by
  delta State.slvProgrammed
  repeat' first
    | with_reducible assumption
    | (refine Sub.bit hm ?_; exact rfl)
    | (refine Sub.trans (Sub.of ?_) hm; exact rfl)
    | with_reducible refine Keeps.ite ?_ ?_
    | (refine (?_ : (_ : Bool) = true); exact rfl)
    | with_reducible refine keepRun_keeps ?_ ?_
    | with_reducible refine onSlv_keeps ?_ ?_ _
    | with_reducible refine finish_keeps ?_ ?_ _ _ _
    | with_reducible refine retryMarks_keeps ?_ ?_
    | with_reducible refine flushEnd_keeps ?_ ?_
    | with_reducible refine openRec_keeps ?_ ?_ _
    | with_reducible refine Keeps.idState ?_
    | with_reducible refine foldl_keeps ?_ _ (fun s a hs => ?_)
    | (extract_lets +onlyGivenNames x; refine Keeps.cut (x := x) (m := tm) (s0 := z) ?_ ?_; unfold x; clear x; rotate_left; intro hx; clear_value x; rotate_right)
    | (extract_lets +onlyGivenNames x; clear_value x)
    | split

def slvRecover_touch : Nat := 0x19040000000000000000002000600000000000430000000000000000000000000000
theorem slvRecover_keeps {tm : Nat} {z s : State} (hm : Sub slvRecover_touch tm) (hs : Keeps tm z s)  :
    Keeps tm z (State.slvRecover s) := by
  delta State.slvRecover
  repeat' first
    | with_reducible assumption
    | (refine Sub.bit hm ?_; exact rfl)
    | (refine Sub.trans (Sub.of ?_) hm; exact rfl)
    | with_reducible refine Keeps.ite ?_ ?_
    | (refine (?_ : (_ : Bool) = true); exact rfl)
    | with_reducible refine wr_keeps ?_ ?_ ?_ _ _
    | with_reducible refine onSlv_keeps ?_ ?_ _
    | with_reducible refine openRec_keeps ?_ ?_ _
    | with_reducible refine Keeps.idState ?_
    | with_reducible refine foldl_keeps ?_ _ (fun s a hs => ?_)
    | (extract_lets +onlyGivenNames x; refine Keeps.cut (x := x) (m := tm) (s0 := z) ?_ ?_; unfold x; clear x; rotate_left; intro hx; clear_value x; rotate_right)
    | (extract_lets +onlyGivenNames x; clear_value x)
    | split

def execLogConfig_touch : Nat := 0x19f4000000000000000004a000600000000000010000000000000000000000000000
theorem execLogConfig_keeps {tm : Nat} {z s : State} (hm : Sub execLogConfig_touch tm) (hs : Keeps tm z s) (h : Sys2Proof.CmdHdr) (k : Sys2Proof.Byte) (sel : Vector Sys2Proof.Word 8) :
    KeepsO tm z (execLogConfig h k sel s) := by
  delta execLogConfig
  repeat' first
    | with_reducible refine KeepsO.next ?_
    | with_reducible refine KeepsO.ite ?_ ?_
    | with_reducible assumption
    | (refine Sub.bit hm ?_; exact rfl)
    | (refine Sub.trans (Sub.of ?_) hm; exact rfl)
    | with_reducible refine Keeps.ite ?_ ?_
    | (refine (?_ : (_ : Bool) = true); exact rfl)
    | with_reducible refine forEach_keeps ?_ _ (fun s a hs => ?_)
    | with_reducible refine complete_keeps ?_ ?_ _ _ _
    | with_reducible refine onSlv_keeps ?_ ?_ _
    | with_reducible refine record_keeps ?_ ?_ _ _ _ _
    | with_reducible refine dispatch_keeps ?_ ?_ _ _ _ (fun s a0 hs => ?_)
    | with_reducible refine onNvm_keeps ?_ ?_ _
    | with_reducible refine Keeps.idState ?_
    | with_reducible refine foldl_keeps ?_ _ (fun s a hs => ?_)
    | (extract_lets +onlyGivenNames x; refine Keeps.cut (x := x) (m := tm) (s0 := z) ?_ ?_; unfold x; clear x; rotate_left; intro hx; clear_value x; rotate_right)
    | (extract_lets +onlyGivenNames x; clear_value x)
    | split

def execLogMark_touch : Nat := 0x19fc000000000000000004a000600000000000430000000000000000000000000000
theorem execLogMark_keeps {tm : Nat} {z s : State} (hm : Sub execLogMark_touch tm) (hs : Keeps tm z s) (h : Sys2Proof.CmdHdr) (flags : Sys2Proof.Byte) (data : Vector Sys2Proof.Word 8) :
    KeepsO tm z (execLogMark h flags data s) := by
  delta execLogMark
  repeat' first
    | with_reducible refine KeepsO.next ?_
    | with_reducible refine KeepsO.ite ?_ ?_
    | with_reducible assumption
    | (refine Sub.bit hm ?_; exact rfl)
    | (refine Sub.trans (Sub.of ?_) hm; exact rfl)
    | with_reducible refine Keeps.ite ?_ ?_
    | (refine (?_ : (_ : Bool) = true); exact rfl)
    | with_reducible refine openDropped_keeps ?_ ?_
    | with_reducible refine complete_keeps ?_ ?_ _ _ _
    | with_reducible refine dispatch_keeps ?_ ?_ _ _ _ (fun s a0 hs => ?_)
    | with_reducible refine openMark_keeps ?_ ?_ _ _ _
    | with_reducible refine hold_keeps ?_ ?_ _ _
    | with_reducible refine Keeps.idState ?_
    | with_reducible refine foldl_keeps ?_ _ (fun s a hs => ?_)
    | (extract_lets +onlyGivenNames x; refine Keeps.cut (x := x) (m := tm) (s0 := z) ?_ ?_; unfold x; clear x; rotate_left; intro hx; clear_value x; rotate_right)
    | (extract_lets +onlyGivenNames x; clear_value x)
    | split

def execLogRead_touch : Nat := 0x9f4000000000000000004a000600000000000010000000000000000000000000000
theorem execLogRead_keeps {tm : Nat} {z s : State} (hm : Sub execLogRead_touch tm) (hs : Keeps tm z s) (h : Sys2Proof.CmdHdr) (start : Sys2Proof.Word) :
    KeepsO tm z (execLogRead h start s) := by
  delta execLogRead
  repeat' first
    | with_reducible refine KeepsO.next ?_
    | with_reducible refine KeepsO.ite ?_ ?_
    | with_reducible assumption
    | (refine Sub.bit hm ?_; exact rfl)
    | (refine Sub.trans (Sub.of ?_) hm; exact rfl)
    | with_reducible refine Keeps.ite ?_ ?_
    | (refine (?_ : (_ : Bool) = true); exact rfl)
    | with_reducible refine complete_keeps ?_ ?_ _ _ _
    | with_reducible refine dispatch_keeps ?_ ?_ _ _ _ (fun s a0 hs => ?_)
    | with_reducible refine writeBuf_keeps ?_ ?_ _ _
    | with_reducible refine Keeps.idState ?_
    | with_reducible refine foldl_keeps ?_ _ (fun s a hs => ?_)
    | (extract_lets +onlyGivenNames x; refine Keeps.cut (x := x) (m := tm) (s0 := z) ?_ ?_; unfold x; clear x; rotate_left; intro hx; clear_value x; rotate_right)
    | (extract_lets +onlyGivenNames x; clear_value x)
    | split

def execRecordClose_touch : Nat := 0x18040000000000000000000000000000000000000000000000000000000000000000
theorem execRecordClose_keeps {tm : Nat} {z s : State} (hm : Sub execRecordClose_touch tm) (hs : Keeps tm z s) (slot : Fin 64) :
    KeepsO tm z (execRecordClose slot s) := by
  delta execRecordClose
  repeat' first
    | with_reducible refine KeepsO.next ?_
    | with_reducible refine KeepsO.ite ?_ ?_
    | with_reducible assumption
    | (refine Sub.bit hm ?_; exact rfl)
    | (refine Sub.trans (Sub.of ?_) hm; exact rfl)
    | with_reducible refine Keeps.ite ?_ ?_
    | (refine (?_ : (_ : Bool) = true); exact rfl)
    | with_reducible refine closeRec_keeps ?_ ?_ _
    | with_reducible refine begin_keeps ?_ ?_
    | with_reducible refine Keeps.idState ?_
    | with_reducible refine foldl_keeps ?_ _ (fun s a hs => ?_)
    | (extract_lets +onlyGivenNames x; refine Keeps.cut (x := x) (m := tm) (s0 := z) ?_ ?_; unfold x; clear x; rotate_left; intro hx; clear_value x; rotate_right)
    | (extract_lets +onlyGivenNames x; clear_value x)
    | split

def execSelvedgeReport_touch : Nat := 0x19040000000000000000002000600000000000430000000000000000000000000000
theorem execSelvedgeReport_keeps {tm : Nat} {z s : State} (hm : Sub execSelvedgeReport_touch tm) (hs : Keeps tm z s)  :
    KeepsO tm z (execSelvedgeReport s) := by
  delta execSelvedgeReport
  repeat' first
    | with_reducible refine KeepsO.next ?_
    | with_reducible refine KeepsO.ite ?_ ?_
    | with_reducible assumption
    | (refine Sub.bit hm ?_; exact rfl)
    | (refine Sub.trans (Sub.of ?_) hm; exact rfl)
    | with_reducible refine Keeps.ite ?_ ?_
    | (refine (?_ : (_ : Bool) = true); exact rfl)
    | with_reducible refine processReport_keeps ?_ ?_ _
    | with_reducible refine onSlv_keeps ?_ ?_ _
    | with_reducible refine begin_keeps ?_ ?_
    | with_reducible refine Keeps.idState ?_
    | with_reducible refine foldl_keeps ?_ _ (fun s a hs => ?_)
    | (extract_lets +onlyGivenNames x; refine Keeps.cut (x := x) (m := tm) (s0 := z) ?_ ?_; unfold x; clear x; rotate_left; intro hx; clear_value x; rotate_right)
    | (extract_lets +onlyGivenNames x; clear_value x)
    | split

end Sys2Proof.Machine
end

