-- ==== Sys2Proof/Laws/KeepsNvm.lean ====
section
/-!
SUPPORT. Sys2Proof/Laws/KeepsNvm.lean: what each function of Machine/Nvm.lean may change: its touch set, and one lemma per function.
-/
namespace Sys2Proof.Machine

open Sys2Proof

def holdCtr_touch : Nat := 0x18000000000000000000000000000000000000010000000000000000000000000000
theorem holdCtr_keeps {tm : Nat} {z s : State} (hm : Sub holdCtr_touch tm) (hs : Keeps tm z s) (c : Nat) :
    Keeps tm z (State.holdCtr s c) := by
  delta State.holdCtr
  repeat' first
    | with_reducible assumption
    | (refine Sub.bit hm ?_; exact rfl)
    | (refine Sub.trans (Sub.of ?_) hm; exact rfl)
    | with_reducible refine Keeps.ite ?_ ?_
    | (refine (?_ : (_ : Bool) = true); exact rfl)
    | with_reducible refine onCtr_keeps ?_ ?_ _ _
    | with_reducible refine recordCtr_keeps ?_ ?_ _ _ _
    | with_reducible refine Keeps.idState ?_
    | with_reducible refine foldl_keeps ?_ _ (fun s a hs => ?_)
    | (extract_lets +onlyGivenNames x; refine Keeps.cut (x := x) (m := tm) (s0 := z) ?_ ?_; unfold x; clear x; rotate_left; intro hx; clear_value x; rotate_right)
    | (extract_lets +onlyGivenNames x; clear_value x)
    | split

def afterCell_touch : Nat := 0x18000000000000000000000000000000000000010000000000000000000000000000
theorem afterCell_keeps {tm : Nat} {z s : State} (hm : Sub afterCell_touch tm) (hs : Keeps tm z s) (c : Nat) (left : Option Nat) (save : Bool) :
    Keeps tm z (State.afterCell s c left save) := by
  delta State.afterCell
  repeat' first
    | with_reducible assumption
    | (refine Sub.bit hm ?_; exact rfl)
    | (refine Sub.trans (Sub.of ?_) hm; exact rfl)
    | with_reducible refine Keeps.ite ?_ ?_
    | (refine (?_ : (_ : Bool) = true); exact rfl)
    | with_reducible refine onBank_keeps ?_ ?_ _ _
    | with_reducible refine progFirst_keeps ?_ ?_ _ _
    | with_reducible refine holdCtr_keeps ?_ ?_ _
    | with_reducible refine Keeps.idState ?_
    | with_reducible refine foldl_keeps ?_ _ (fun s a hs => ?_)
    | (extract_lets +onlyGivenNames x; refine Keeps.cut (x := x) (m := tm) (s0 := z) ?_ ?_; unfold x; clear x; rotate_left; intro hx; clear_value x; rotate_right)
    | (extract_lets +onlyGivenNames x; clear_value x)
    | split

def showBanks_touch : Nat := 0x240000000000000000000000000
theorem showBanks_keeps {tm : Nat} {z s : State} (hm : Sub showBanks_touch tm) (hs : Keeps tm z s)  :
    Keeps tm z (State.showBanks s) := by
  delta State.showBanks
  repeat' first
    | with_reducible assumption
    | (refine Sub.bit hm ?_; exact rfl)
    | (refine Sub.trans (Sub.of ?_) hm; exact rfl)
    | with_reducible refine Keeps.ite ?_ ?_
    | (refine (?_ : (_ : Bool) = true); exact rfl)
    | with_reducible refine wr_keeps ?_ ?_ ?_ _ _
    | with_reducible refine put_keeps ?_ ?_ ?_ _ _
    | with_reducible refine Keeps.idState ?_
    | with_reducible refine foldl_keeps ?_ _ (fun s a hs => ?_)
    | (extract_lets +onlyGivenNames x; refine Keeps.cut (x := x) (m := tm) (s0 := z) ?_ ?_; unfold x; clear x; rotate_left; intro hx; clear_value x; rotate_right)
    | (extract_lets +onlyGivenNames x; clear_value x)
    | split

def commitEnd_touch : Nat := 0x197c000000000000000004a000600000000000010000018000000000000000000000
theorem commitEnd_keeps {tm : Nat} {z s : State} (hm : Sub commitEnd_touch tm) (hs : Keeps tm z s) (ok : Bool) :
    Keeps tm z (State.commitEnd s ok) := by
  delta State.commitEnd
  repeat' first
    | with_reducible assumption
    | (refine Sub.bit hm ?_; exact rfl)
    | (refine Sub.trans (Sub.of ?_) hm; exact rfl)
    | with_reducible refine Keeps.ite ?_ ?_
    | (refine (?_ : (_ : Bool) = true); exact rfl)
    | with_reducible refine put_keeps ?_ ?_ ?_ _ _
    | with_reducible refine forEach_keeps ?_ _ (fun s a hs => ?_)
    | with_reducible refine onBank_keeps ?_ ?_ _ _
    | with_reducible refine record_keeps ?_ ?_ _ _ _ _
    | with_reducible refine finish_keeps ?_ ?_ _ _ _
    | with_reducible refine onNvm_keeps ?_ ?_ _
    | with_reducible refine Keeps.idState ?_
    | with_reducible refine foldl_keeps ?_ _ (fun s a hs => ?_)
    | (extract_lets +onlyGivenNames x; refine Keeps.cut (x := x) (m := tm) (s0 := z) ?_ ?_; unfold x; clear x; rotate_left; intro hx; clear_value x; rotate_right)
    | (extract_lets +onlyGivenNames x; clear_value x)
    | split

def bankWritten_touch : Nat := 0x197c000000000000000004a000600000000000010240018000000000000000000000
theorem bankWritten_keeps {tm : Nat} {z s : State} (hm : Sub bankWritten_touch tm) (hs : Keeps tm z s)  :
    Keeps tm z (State.bankWritten s) := by
  delta State.bankWritten
  repeat' first
    | with_reducible assumption
    | (refine Sub.bit hm ?_; exact rfl)
    | (refine Sub.trans (Sub.of ?_) hm; exact rfl)
    | with_reducible refine Keeps.ite ?_ ?_
    | (refine (?_ : (_ : Bool) = true); exact rfl)
    | with_reducible refine onNvm_keeps ?_ ?_ _
    | with_reducible refine showBanks_keeps ?_ ?_
    | with_reducible refine commitEnd_keeps ?_ ?_ _
    | with_reducible refine Keeps.idState ?_
    | with_reducible refine foldl_keeps ?_ _ (fun s a hs => ?_)
    | (extract_lets +onlyGivenNames x; refine Keeps.cut (x := x) (m := tm) (s0 := z) ?_ ?_; unfold x; clear x; rotate_left; intro hx; clear_value x; rotate_right)
    | (extract_lets +onlyGivenNames x; clear_value x)
    | split

def cellNow_touch : Nat := 0x18000000000000000000000000000000000000010000000000000000000000000000
theorem cellNow_keeps {tm : Nat} {z s : State} (hm : Sub cellNow_touch tm) (hs : Keeps tm z s) (c : Nat) (inc : Nat) (save : Bool) :
    Keeps tm z (State.cellNow s c inc save) := by
  delta State.cellNow
  repeat' first
    | with_reducible assumption
    | (refine Sub.bit hm ?_; exact rfl)
    | (refine Sub.trans (Sub.of ?_) hm; exact rfl)
    | with_reducible refine Keeps.ite ?_ ?_
    | (refine (?_ : (_ : Bool) = true); exact rfl)
    | with_reducible refine onCtr_keeps ?_ ?_ _ _
    | with_reducible refine eraseTally_keeps ?_ ?_ _ _ _
    | with_reducible refine holdCtr_keeps ?_ ?_ _
    | with_reducible refine Keeps.idState ?_
    | with_reducible refine foldl_keeps ?_ _ (fun s a hs => ?_)
    | (extract_lets +onlyGivenNames x; refine Keeps.cut (x := x) (m := tm) (s0 := z) ?_ ?_; unfold x; clear x; rotate_left; intro hx; clear_value x; rotate_right)
    | (extract_lets +onlyGivenNames x; clear_value x)
    | split

def writeInc_touch : Nat := 0x18000000000000000000000000000000000000010000000000000000000000000000
theorem writeInc_keeps {tm : Nat} {z s : State} (hm : Sub writeInc_touch tm) (hs : Keeps tm z s) (c : Nat) (inc : Nat) (save : Bool) :
    Keeps tm z (State.writeInc s c inc save) := by
  delta State.writeInc
  repeat' first
    | with_reducible assumption
    | (refine Sub.bit hm ?_; exact rfl)
    | (refine Sub.trans (Sub.of ?_) hm; exact rfl)
    | with_reducible refine Keeps.ite ?_ ?_
    | (refine (?_ : (_ : Bool) = true); exact rfl)
    | with_reducible refine onBank_keeps ?_ ?_ _ _
    | with_reducible refine holdCtr_keeps ?_ ?_ _
    | with_reducible refine Keeps.idState ?_
    | with_reducible refine foldl_keeps ?_ _ (fun s a hs => ?_)
    | (extract_lets +onlyGivenNames x; refine Keeps.cut (x := x) (m := tm) (s0 := z) ?_ ?_; unfold x; clear x; rotate_left; intro hx; clear_value x; rotate_right)
    | (extract_lets +onlyGivenNames x; clear_value x)
    | split

def lastCell_touch : Nat := 0x18000000000000000000000000000000000000010000000000000000000000000000
theorem lastCell_keeps {tm : Nat} {z s : State} (hm : Sub lastCell_touch tm) (hs : Keeps tm z s)  :
    Keeps tm z (State.lastCell s) := by
  delta State.lastCell
  repeat' first
    | with_reducible assumption
    | (refine Sub.bit hm ?_; exact rfl)
    | (refine Sub.trans (Sub.of ?_) hm; exact rfl)
    | with_reducible refine Keeps.ite ?_ ?_
    | (refine (?_ : (_ : Bool) = true); exact rfl)
    | with_reducible refine kickAll_keeps ?_ ?_
    | with_reducible refine writeInc_keeps ?_ ?_ _ _ _
    | with_reducible refine onNvm_keeps ?_ ?_ _
    | with_reducible refine Keeps.idState ?_
    | with_reducible refine foldl_keeps ?_ _ (fun s a hs => ?_)
    | (extract_lets +onlyGivenNames x; refine Keeps.cut (x := x) (m := tm) (s0 := z) ?_ ?_; unfold x; clear x; rotate_left; intro hx; clear_value x; rotate_right)
    | (extract_lets +onlyGivenNames x; clear_value x)
    | split

def closeIfDone_touch : Nat := 0x10000000000000000000000000000000000000000000008000000000000000000000
theorem closeIfDone_keeps {tm : Nat} {z s : State} (hm : Sub closeIfDone_touch tm) (hs : Keeps tm z s)  :
    Keeps tm z (State.closeIfDone s) := by
  delta State.closeIfDone
  repeat' first
    | with_reducible assumption
    | (refine Sub.bit hm ?_; exact rfl)
    | (refine Sub.trans (Sub.of ?_) hm; exact rfl)
    | with_reducible refine Keeps.ite ?_ ?_
    | (refine (?_ : (_ : Bool) = true); exact rfl)
    | with_reducible refine put_keeps ?_ ?_ ?_ _ _
    | with_reducible refine onNvm_keeps ?_ ?_ _
    | with_reducible refine Keeps.idState ?_
    | with_reducible refine foldl_keeps ?_ _ (fun s a hs => ?_)
    | (extract_lets +onlyGivenNames x; refine Keeps.cut (x := x) (m := tm) (s0 := z) ?_ ?_; unfold x; clear x; rotate_left; intro hx; clear_value x; rotate_right)
    | (extract_lets +onlyGivenNames x; clear_value x)
    | split

def endSave_touch : Nat := 0x18000000000000000000000000000000000000000000028000000000000000000000
theorem endSave_keeps {tm : Nat} {z s : State} (hm : Sub endSave_touch tm) (hs : Keeps tm z s) (v : Sys2Proof.Machine.SaveRun) :
    Keeps tm z (State.endSave s v) := by
  delta State.endSave
  repeat' first
    | with_reducible assumption
    | (refine Sub.bit hm ?_; exact rfl)
    | (refine Sub.trans (Sub.of ?_) hm; exact rfl)
    | with_reducible refine Keeps.ite ?_ ?_
    | (refine (?_ : (_ : Bool) = true); exact rfl)
    | with_reducible refine put_keeps ?_ ?_ ?_ _ _
    | with_reducible refine bump_keeps ?_ ?_ ?_ _ _
    | with_reducible refine kickAll_keeps ?_ ?_
    | with_reducible refine onNvm_keeps ?_ ?_ _
    | with_reducible refine closeIfDone_keeps ?_ ?_
    | with_reducible refine Keeps.idState ?_
    | with_reducible refine foldl_keeps ?_ _ (fun s a hs => ?_)
    | (extract_lets +onlyGivenNames x; refine Keeps.cut (x := x) (m := tm) (s0 := z) ?_ ?_; unfold x; clear x; rotate_left; intro hx; clear_value x; rotate_right)
    | (extract_lets +onlyGivenNames x; clear_value x)
    | split

def endIfLast_touch : Nat := 0x18000000000000000000000000000000000000000000028000000000000000000000
theorem endIfLast_keeps {tm : Nat} {z s : State} (hm : Sub endIfLast_touch tm) (hs : Keeps tm z s)  :
    Keeps tm z (State.endIfLast s) := by
  delta State.endIfLast
  repeat' first
    | with_reducible assumption
    | (refine Sub.bit hm ?_; exact rfl)
    | (refine Sub.trans (Sub.of ?_) hm; exact rfl)
    | with_reducible refine Keeps.ite ?_ ?_
    | (refine (?_ : (_ : Bool) = true); exact rfl)
    | with_reducible refine endSave_keeps ?_ ?_ _
    | with_reducible refine Keeps.idState ?_
    | with_reducible refine foldl_keeps ?_ _ (fun s a hs => ?_)
    | (extract_lets +onlyGivenNames x; refine Keeps.cut (x := x) (m := tm) (s0 := z) ?_ ?_; unfold x; clear x; rotate_left; intro hx; clear_value x; rotate_right)
    | (extract_lets +onlyGivenNames x; clear_value x)
    | split

def startSave_touch : Nat := 0x18000000000000000000000000000000000000010000008000000000000000000000
theorem startSave_keeps {tm : Nat} {z s : State} (hm : Sub startSave_touch tm) (hs : Keeps tm z s) (save : Bool) :
    Keeps tm z (State.startSave s save) := by
  delta State.startSave
  repeat' first
    | with_reducible assumption
    | (refine Sub.bit hm ?_; exact rfl)
    | (refine Sub.trans (Sub.of ?_) hm; exact rfl)
    | with_reducible refine Keeps.ite ?_ ?_
    | (refine (?_ : (_ : Bool) = true); exact rfl)
    | with_reducible refine put_keeps ?_ ?_ ?_ _ _
    | with_reducible refine forEach_keeps ?_ _ (fun s a hs => ?_)
    | with_reducible refine onBank_keeps ?_ ?_ _ _
    | with_reducible refine kickAll_keeps ?_ ?_
    | with_reducible refine writeInc_keeps ?_ ?_ _ _ _
    | with_reducible refine onNvm_keeps ?_ ?_ _
    | with_reducible refine recordCtr_keeps ?_ ?_ _ _ _
    | with_reducible refine Keeps.idState ?_
    | with_reducible refine foldl_keeps ?_ _ (fun s a hs => ?_)
    | (extract_lets +onlyGivenNames x; refine Keeps.cut (x := x) (m := tm) (s0 := z) ?_ ?_; unfold x; clear x; rotate_left; intro hx; clear_value x; rotate_right)
    | (extract_lets +onlyGivenNames x; clear_value x)
    | split

def runCheckpoint_touch : Nat := 0x18000000000000000000000000000000000000010000028000000000000000000000
theorem runCheckpoint_keeps {tm : Nat} {z s : State} (hm : Sub runCheckpoint_touch tm) (hs : Keeps tm z s)  :
    Keeps tm z (State.runCheckpoint s) := by
  delta State.runCheckpoint
  repeat' first
    | with_reducible assumption
    | (refine Sub.bit hm ?_; exact rfl)
    | (refine Sub.trans (Sub.of ?_) hm; exact rfl)
    | with_reducible refine Keeps.ite ?_ ?_
    | (refine (?_ : (_ : Bool) = true); exact rfl)
    | with_reducible refine lastCell_keeps ?_ ?_
    | with_reducible refine endIfLast_keeps ?_ ?_
    | with_reducible refine startSave_keeps ?_ ?_ _
    | with_reducible refine Keeps.idState ?_
    | with_reducible refine foldl_keeps ?_ _ (fun s a hs => ?_)
    | (extract_lets +onlyGivenNames x; refine Keeps.cut (x := x) (m := tm) (s0 := z) ?_ ?_; unfold x; clear x; rotate_left; intro hx; clear_value x; rotate_right)
    | (extract_lets +onlyGivenNames x; clear_value x)
    | split

def checkpoint_touch : Nat := 0x18000000000000000000000000000000000000010000028000000000000000000000
theorem checkpoint_keeps {tm : Nat} {z s : State} (hm : Sub checkpoint_touch tm) (hs : Keeps tm z s)  :
    Keeps tm z (State.checkpoint s) := by
  delta State.checkpoint
  repeat' first
    | with_reducible assumption
    | (refine Sub.bit hm ?_; exact rfl)
    | (refine Sub.trans (Sub.of ?_) hm; exact rfl)
    | with_reducible refine Keeps.ite ?_ ?_
    | (refine (?_ : (_ : Bool) = true); exact rfl)
    | with_reducible refine runCheckpoint_keeps ?_ ?_
    | with_reducible refine onNvm_keeps ?_ ?_ _
    | with_reducible refine Keeps.idState ?_
    | with_reducible refine foldl_keeps ?_ _ (fun s a hs => ?_)
    | (extract_lets +onlyGivenNames x; refine Keeps.cut (x := x) (m := tm) (s0 := z) ?_ ?_; unfold x; clear x; rotate_left; intro hx; clear_value x; rotate_right)
    | (extract_lets +onlyGivenNames x; clear_value x)
    | split

def endIfDone_touch : Nat := 0x18000000000000000000000000000000000000010000028000000000000000000000
theorem endIfDone_keeps {tm : Nat} {z s : State} (hm : Sub endIfDone_touch tm) (hs : Keeps tm z s)  :
    Keeps tm z (State.endIfDone s) := by
  delta State.endIfDone
  repeat' first
    | with_reducible assumption
    | (refine Sub.bit hm ?_; exact rfl)
    | (refine Sub.trans (Sub.of ?_) hm; exact rfl)
    | with_reducible refine Keeps.ite ?_ ?_
    | (refine (?_ : (_ : Bool) = true); exact rfl)
    | with_reducible refine runCheckpoint_keeps ?_ ?_
    | with_reducible refine onNvm_keeps ?_ ?_ _
    | with_reducible refine endSave_keeps ?_ ?_ _
    | with_reducible refine Keeps.idState ?_
    | with_reducible refine foldl_keeps ?_ _ (fun s a hs => ?_)
    | (extract_lets +onlyGivenNames x; refine Keeps.cut (x := x) (m := tm) (s0 := z) ?_ ?_; unfold x; clear x; rotate_left; intro hx; clear_value x; rotate_right)
    | (extract_lets +onlyGivenNames x; clear_value x)
    | split

def saveStep_touch : Nat := 0x18000000000000000000000000000000000000010000028000000000000000000000
theorem saveStep_keeps {tm : Nat} {z s : State} (hm : Sub saveStep_touch tm) (hs : Keeps tm z s)  :
    Keeps tm z (State.saveStep s) := by
  delta State.saveStep
  repeat' first
    | with_reducible assumption
    | (refine Sub.bit hm ?_; exact rfl)
    | (refine Sub.trans (Sub.of ?_) hm; exact rfl)
    | with_reducible refine Keeps.ite ?_ ?_
    | (refine (?_ : (_ : Bool) = true); exact rfl)
    | with_reducible refine lastCell_keeps ?_ ?_
    | with_reducible refine endIfDone_keeps ?_ ?_
    | with_reducible refine Keeps.idState ?_
    | with_reducible refine foldl_keeps ?_ _ (fun s a hs => ?_)
    | (extract_lets +onlyGivenNames x; refine Keeps.cut (x := x) (m := tm) (s0 := z) ?_ ?_; unfold x; clear x; rotate_left; intro hx; clear_value x; rotate_right)
    | (extract_lets +onlyGivenNames x; clear_value x)
    | split

def closingSave_touch : Nat := 0x19040000000000000000002000600000000000430000028000000000000000000000
theorem closingSave_keeps {tm : Nat} {z s : State} (hm : Sub closingSave_touch tm) (hs : Keeps tm z s) (k : Sys2Proof.Machine.Closing) :
    Keeps tm z (State.closingSave s k) := by
  delta State.closingSave
  repeat' first
    | with_reducible assumption
    | (refine Sub.bit hm ?_; exact rfl)
    | (refine Sub.trans (Sub.of ?_) hm; exact rfl)
    | with_reducible refine Keeps.ite ?_ ?_
    | (refine (?_ : (_ : Bool) = true); exact rfl)
    | with_reducible refine forEach_keeps ?_ _ (fun s a hs => ?_)
    | with_reducible refine onBank_keeps ?_ ?_ _ _
    | with_reducible refine closeFlush_keeps ?_ ?_ _
    | with_reducible refine startSave_keeps ?_ ?_ _
    | with_reducible refine saveStep_keeps ?_ ?_
    | with_reducible refine onNvm_keeps ?_ ?_ _
    | with_reducible refine Keeps.idState ?_
    | with_reducible refine foldl_keeps ?_ _ (fun s a hs => ?_)
    | (extract_lets +onlyGivenNames x; refine Keeps.cut (x := x) (m := tm) (s0 := z) ?_ ?_; unfold x; clear x; rotate_left; intro hx; clear_value x; rotate_right)
    | (extract_lets +onlyGivenNames x; clear_value x)
    | split

def softAdvance_touch : Nat := 0x19040000000000000000002000600000000000430000028000000000000000000000
theorem softAdvance_keeps {tm : Nat} {z s : State} (hm : Sub softAdvance_touch tm) (hs : Keeps tm z s)  :
    Keeps tm z (State.softAdvance s) := by
  delta State.softAdvance
  repeat' first
    | with_reducible assumption
    | (refine Sub.bit hm ?_; exact rfl)
    | (refine Sub.trans (Sub.of ?_) hm; exact rfl)
    | with_reducible refine Keeps.ite ?_ ?_
    | (refine (?_ : (_ : Bool) = true); exact rfl)
    | with_reducible refine closingSave_keeps ?_ ?_ _
    | with_reducible refine onNvm_keeps ?_ ?_ _
    | with_reducible refine Keeps.idState ?_
    | with_reducible refine foldl_keeps ?_ _ (fun s a hs => ?_)
    | (extract_lets +onlyGivenNames x; refine Keeps.cut (x := x) (m := tm) (s0 := z) ?_ ?_; unfold x; clear x; rotate_left; intro hx; clear_value x; rotate_right)
    | (extract_lets +onlyGivenNames x; clear_value x)
    | split

def eccHit_touch : Nat := 0x8000000000000000000000000000000000000010c00010000000000000000000000
theorem eccHit_keeps {tm : Nat} {z s : State} (hm : Sub eccHit_touch tm) (hs : Keeps tm z s) (h : Nat × Bool) :
    Keeps tm z (State.eccHit s h) := by
  delta State.eccHit
  repeat' first
    | with_reducible assumption
    | (refine Sub.bit hm ?_; exact rfl)
    | (refine Sub.trans (Sub.of ?_) hm; exact rfl)
    | with_reducible refine Keeps.ite ?_ ?_
    | (refine (?_ : (_ : Bool) = true); exact rfl)
    | with_reducible refine wr_keeps ?_ ?_ ?_ _ _
    | with_reducible refine put_keeps ?_ ?_ ?_ _ _
    | with_reducible refine bump_keeps ?_ ?_ ?_ _ _
    | with_reducible refine record_keeps ?_ ?_ _ _ _ _
    | with_reducible refine Keeps.idState ?_
    | with_reducible refine foldl_keeps ?_ _ (fun s a hs => ?_)
    | (extract_lets +onlyGivenNames x; refine Keeps.cut (x := x) (m := tm) (s0 := z) ?_ ?_; unfold x; clear x; rotate_left; intro hx; clear_value x; rotate_right)
    | (extract_lets +onlyGivenNames x; clear_value x)
    | split

def resolved_touch : Nat := 0x197c000000000000000004a000600000000000010000008000000000000000000000
theorem resolved_keeps {tm : Nat} {z s : State} (hm : Sub resolved_touch tm) (hs : Keeps tm z s) (status : Nat) (res : List Sys2Proof.Byte) :
    Keeps tm z (State.resolved s status res) := by
  delta State.resolved
  repeat' first
    | with_reducible assumption
    | (refine Sub.bit hm ?_; exact rfl)
    | (refine Sub.trans (Sub.of ?_) hm; exact rfl)
    | with_reducible refine Keeps.ite ?_ ?_
    | (refine (?_ : (_ : Bool) = true); exact rfl)
    | with_reducible refine put_keeps ?_ ?_ ?_ _ _
    | with_reducible refine finish_keeps ?_ ?_ _ _ _
    | with_reducible refine onNvm_keeps ?_ ?_ _
    | with_reducible refine Keeps.idState ?_
    | with_reducible refine foldl_keeps ?_ _ (fun s a hs => ?_)
    | (extract_lets +onlyGivenNames x; refine Keeps.cut (x := x) (m := tm) (s0 := z) ?_ ?_; unfold x; clear x; rotate_left; intro hx; clear_value x; rotate_right)
    | (extract_lets +onlyGivenNames x; clear_value x)
    | split

def tallyErased_touch : Nat := 0x197c000000000000000004a000600000000000011000008000000000000000000000
theorem tallyErased_keeps {tm : Nat} {z s : State} (hm : Sub tallyErased_touch tm) (hs : Keeps tm z s) (c : Nat) (x : Nat) (junk : Bool) :
    Keeps tm z (State.tallyErased s c x junk) := by
  delta State.tallyErased
  repeat' first
    | with_reducible assumption
    | (refine Sub.bit hm ?_; exact rfl)
    | (refine Sub.trans (Sub.of ?_) hm; exact rfl)
    | with_reducible refine Keeps.ite ?_ ?_
    | (refine (?_ : (_ : Bool) = true); exact rfl)
    | with_reducible refine bump_keeps ?_ ?_ ?_ _ _
    | with_reducible refine resolved_keeps ?_ ?_ _ _
    | with_reducible refine onCtr_keeps ?_ ?_ _ _
    | with_reducible refine onNvm_keeps ?_ ?_ _
    | with_reducible refine recordCtr_keeps ?_ ?_ _ _ _
    | with_reducible refine prog_keeps ?_ ?_ _ _
    | with_reducible refine Keeps.idState ?_
    | with_reducible refine foldl_keeps ?_ _ (fun s a hs => ?_)
    | (extract_lets +onlyGivenNames x; refine Keeps.cut (x := x) (m := tm) (s0 := z) ?_ ?_; unfold x; clear x; rotate_left; intro hx; clear_value x; rotate_right)
    | (extract_lets +onlyGivenNames x; clear_value x)
    | split

def eraseDone_touch : Nat := 0x197c000000000000000004a000600000000000011000008000000000000000000000
theorem eraseDone_keeps {tm : Nat} {z s : State} (hm : Sub eraseDone_touch tm) (hs : Keeps tm z s) (e : Sys2Proof.Machine.EraseOp) :
    Keeps tm z (State.eraseDone s e) := by
  delta State.eraseDone
  repeat' first
    | with_reducible assumption
    | (refine Sub.bit hm ?_; exact rfl)
    | (refine Sub.trans (Sub.of ?_) hm; exact rfl)
    | with_reducible refine Keeps.ite ?_ ?_
    | (refine (?_ : (_ : Bool) = true); exact rfl)
    | with_reducible refine onBank_keeps ?_ ?_ _ _
    | with_reducible refine kick_keeps ?_ ?_ _
    | with_reducible refine slvErased_keeps ?_ ?_ _
    | with_reducible refine tallyErased_keeps ?_ ?_ _ _ _
    | with_reducible refine queueErase_keeps ?_ ?_ _ _
    | with_reducible refine onNvm_keeps ?_ ?_ _
    | with_reducible refine prog_keeps ?_ ?_ _ _
    | with_reducible refine Keeps.idState ?_
    | with_reducible refine foldl_keeps ?_ _ (fun s a hs => ?_)
    | (extract_lets +onlyGivenNames x; refine Keeps.cut (x := x) (m := tm) (s0 := z) ?_ ?_; unfold x; clear x; rotate_left; intro hx; clear_value x; rotate_right)
    | (extract_lets +onlyGivenNames x; clear_value x)
    | split

def folded_touch : Nat := 0x18000000000000000000000000000000000000001000000000000000000000000000
theorem folded_keeps {tm : Nat} {z s : State} (hm : Sub folded_touch tm) (hs : Keeps tm z s) (c : Nat) :
    Keeps tm z (State.folded s c) := by
  delta State.folded
  repeat' first
    | with_reducible assumption
    | (refine Sub.bit hm ?_; exact rfl)
    | (refine Sub.trans (Sub.of ?_) hm; exact rfl)
    | with_reducible refine Keeps.ite ?_ ?_
    | (refine (?_ : (_ : Bool) = true); exact rfl)
    | with_reducible refine bump_keeps ?_ ?_ ?_ _ _
    | with_reducible refine onCtr_keeps ?_ ?_ _ _
    | with_reducible refine eraseTally_keeps ?_ ?_ _ _ _
    | with_reducible refine Keeps.idState ?_
    | with_reducible refine foldl_keeps ?_ _ (fun s a hs => ?_)
    | (extract_lets +onlyGivenNames x; refine Keeps.cut (x := x) (m := tm) (s0 := z) ?_ ?_; unfold x; clear x; rotate_left; intro hx; clear_value x; rotate_right)
    | (extract_lets +onlyGivenNames x; clear_value x)
    | split

def paramEdit_touch : Nat := 0x1974000000000000000004a000600000000000010000000000000000000000000000
theorem paramEdit_keeps {tm : Nat} {z s : State} (hm : Sub paramEdit_touch tm) (hs : Keeps tm z s) (c : Sys2Proof.Machine.CmdRef) (op : Nat) (b : List Sys2Proof.Byte) :
    Keeps tm z (State.paramEdit s c op b) := by
  delta State.paramEdit
  repeat' first
    | with_reducible assumption
    | (refine Sub.bit hm ?_; exact rfl)
    | (refine Sub.trans (Sub.of ?_) hm; exact rfl)
    | with_reducible refine Keeps.ite ?_ ?_
    | (refine (?_ : (_ : Bool) = true); exact rfl)
    | with_reducible refine complete_keeps ?_ ?_ _ _ _
    | with_reducible refine onNvm_keeps ?_ ?_ _
    | with_reducible refine Keeps.idState ?_
    | with_reducible refine foldl_keeps ?_ _ (fun s a hs => ?_)
    | (extract_lets +onlyGivenNames x; refine Keeps.cut (x := x) (m := tm) (s0 := z) ?_ ?_; unfold x; clear x; rotate_left; intro hx; clear_value x; rotate_right)
    | (extract_lets +onlyGivenNames x; clear_value x)
    | split

def sealDone_touch : Nat := 0x97c000000000000000005a000600000000000010000000000000000000000000000
theorem sealDone_keeps {tm : Nat} {z s : State} (hm : Sub sealDone_touch tm) (hs : Keeps tm z s)  :
    Keeps tm z (State.sealDone s) := by
  delta State.sealDone
  repeat' first
    | with_reducible assumption
    | (refine Sub.bit hm ?_; exact rfl)
    | (refine Sub.trans (Sub.of ?_) hm; exact rfl)
    | with_reducible refine Keeps.ite ?_ ?_
    | (refine (?_ : (_ : Bool) = true); exact rfl)
    | with_reducible refine put_keeps ?_ ?_ ?_ _ _
    | with_reducible refine complete_keeps ?_ ?_ _ _ _
    | with_reducible refine record_keeps ?_ ?_ _ _ _ _
    | with_reducible refine notice_keeps ?_ ?_ _ _ _
    | with_reducible refine Keeps.idState ?_
    | with_reducible refine foldl_keeps ?_ _ (fun s a hs => ?_)
    | (extract_lets +onlyGivenNames x; refine Keeps.cut (x := x) (m := tm) (s0 := z) ?_ ?_; unfold x; clear x; rotate_left; intro hx; clear_value x; rotate_right)
    | (extract_lets +onlyGivenNames x; clear_value x)
    | split
    | with_reducible refine upd_waits_keeps ?_ ?_ _

def sealCell_touch : Nat := 0x197c000000000000000005a000600000000000010000000000000000000000000000
theorem sealCell_keeps {tm : Nat} {z s : State} (hm : Sub sealCell_touch tm) (hs : Keeps tm z s)  :
    Keeps tm z (State.sealCell s) := by
  delta State.sealCell
  repeat' first
    | with_reducible assumption
    | (refine Sub.bit hm ?_; exact rfl)
    | (refine Sub.trans (Sub.of ?_) hm; exact rfl)
    | with_reducible refine Keeps.ite ?_ ?_
    | (refine (?_ : (_ : Bool) = true); exact rfl)
    | with_reducible refine kick_keeps ?_ ?_ _
    | with_reducible refine sealDone_keeps ?_ ?_
    | with_reducible refine writeInc_keeps ?_ ?_ _ _ _
    | with_reducible refine Keeps.idState ?_
    | with_reducible refine foldl_keeps ?_ _ (fun s a hs => ?_)
    | (extract_lets +onlyGivenNames x; refine Keeps.cut (x := x) (m := tm) (s0 := z) ?_ ?_; unfold x; clear x; rotate_left; intro hx; clear_value x; rotate_right)
    | (extract_lets +onlyGivenNames x; clear_value x)
    | split

def resolveStart_touch : Nat := 0x18000000000000000000000000000000000000000000000000000000000000000000
theorem resolveStart_keeps {tm : Nat} {z s : State} (hm : Sub resolveStart_touch tm) (hs : Keeps tm z s) (c : Nat) :
    Keeps tm z (State.resolveStart s c) := by
  delta State.resolveStart
  repeat' first
    | with_reducible assumption
    | (refine Sub.bit hm ?_; exact rfl)
    | (refine Sub.trans (Sub.of ?_) hm; exact rfl)
    | with_reducible refine Keeps.ite ?_ ?_
    | (refine (?_ : (_ : Bool) = true); exact rfl)
    | with_reducible refine eraseTally_keeps ?_ ?_ _ _ _
    | with_reducible refine onNvm_keeps ?_ ?_ _
    | with_reducible refine Keeps.idState ?_
    | with_reducible refine foldl_keeps ?_ _ (fun s a hs => ?_)
    | (extract_lets +onlyGivenNames x; refine Keeps.cut (x := x) (m := tm) (s0 := z) ?_ ?_; unfold x; clear x; rotate_left; intro hx; clear_value x; rotate_right)
    | (extract_lets +onlyGivenNames x; clear_value x)
    | split

def resolveFold_touch : Nat := 0x18000000000000000000000000000000000000000000000000000000000000000000
theorem resolveFold_keeps {tm : Nat} {z s : State} (hm : Sub resolveFold_touch tm) (hs : Keeps tm z s) (c : Nat) (value : Nat) (choice : Nat) :
    Keeps tm z (State.resolveFold s c value choice) := by
  delta State.resolveFold
  repeat' first
    | with_reducible assumption
    | (refine Sub.bit hm ?_; exact rfl)
    | (refine Sub.trans (Sub.of ?_) hm; exact rfl)
    | with_reducible refine Keeps.ite ?_ ?_
    | (refine (?_ : (_ : Bool) = true); exact rfl)
    | with_reducible refine onCtr_keeps ?_ ?_ _ _
    | with_reducible refine eraseTally_keeps ?_ ?_ _ _ _
    | with_reducible refine onNvm_keeps ?_ ?_ _
    | with_reducible refine Keeps.idState ?_
    | with_reducible refine foldl_keeps ?_ _ (fun s a hs => ?_)
    | (extract_lets +onlyGivenNames x; refine Keeps.cut (x := x) (m := tm) (s0 := z) ?_ ?_; unfold x; clear x; rotate_left; intro hx; clear_value x; rotate_right)
    | (extract_lets +onlyGivenNames x; clear_value x)
    | split

def progDone_touch : Nat := 0x197c000000000000000005a000600000000000431240018000000000000000000000
theorem progDone_keeps {tm : Nat} {z s : State} (hm : Sub progDone_touch tm) (hs : Keeps tm z s) (op : Sys2Proof.Machine.ProgOp) :
    Keeps tm z (State.progDone s op) := by
  delta State.progDone
  repeat' first
    | with_reducible assumption
    | (refine Sub.bit hm ?_; exact rfl)
    | (refine Sub.trans (Sub.of ?_) hm; exact rfl)
    | with_reducible refine Keeps.ite ?_ ?_
    | (refine (?_ : (_ : Bool) = true); exact rfl)
    | with_reducible refine sealCell_keeps ?_ ?_
    | with_reducible refine resolveStart_keeps ?_ ?_ _
    | with_reducible refine onCtr_keeps ?_ ?_ _ _
    | with_reducible refine folded_keeps ?_ ?_ _
    | with_reducible refine resolveFold_keeps ?_ ?_ _ _ _
    | with_reducible refine slvProgrammed_keeps ?_ ?_ _ _
    | with_reducible refine sealDone_keeps ?_ ?_
    | with_reducible refine onNvm_keeps ?_ ?_ _
    | with_reducible refine afterCell_keeps ?_ ?_ _ _ _
    | with_reducible refine bankWritten_keeps ?_ ?_
    | with_reducible refine Keeps.idState ?_
    | with_reducible refine foldl_keeps ?_ _ (fun s a hs => ?_)
    | (extract_lets +onlyGivenNames x; refine Keeps.cut (x := x) (m := tm) (s0 := z) ?_ ?_; unfold x; clear x; rotate_left; intro hx; clear_value x; rotate_right)
    | (extract_lets +onlyGivenNames x; clear_value x)
    | split

def progFailed_touch : Nat := 0x197c000000000000000004a000600000000000430800018000000000000000000000
theorem progFailed_keeps {tm : Nat} {z s : State} (hm : Sub progFailed_touch tm) (hs : Keeps tm z s) (op : Sys2Proof.Machine.ProgOp) :
    Keeps tm z (State.progFailed s op) := by
  delta State.progFailed
  repeat' first
    | with_reducible assumption
    | (refine Sub.bit hm ?_; exact rfl)
    | (refine Sub.trans (Sub.of ?_) hm; exact rfl)
    | with_reducible refine Keeps.ite ?_ ?_
    | (refine (?_ : (_ : Bool) = true); exact rfl)
    | with_reducible refine progFirst_keeps ?_ ?_ _ _
    | with_reducible refine flashFail_keeps ?_ ?_ _ _
    | with_reducible refine resolved_keeps ?_ ?_ _ _
    | with_reducible refine onCtr_keeps ?_ ?_ _ _
    | with_reducible refine slvProgrammed_keeps ?_ ?_ _ _
    | with_reducible refine eraseTally_keeps ?_ ?_ _ _ _
    | with_reducible refine onNvm_keeps ?_ ?_ _
    | with_reducible refine afterCell_keeps ?_ ?_ _ _ _
    | with_reducible refine commitEnd_keeps ?_ ?_ _
    | with_reducible refine Keeps.idState ?_
    | with_reducible refine foldl_keeps ?_ _ (fun s a hs => ?_)
    | (extract_lets +onlyGivenNames x; refine Keeps.cut (x := x) (m := tm) (s0 := z) ?_ ?_; unfold x; clear x; rotate_left; intro hx; clear_value x; rotate_right)
    | (extract_lets +onlyGivenNames x; clear_value x)
    | split

def recoverOne_touch : Nat := 0x18000000000000000000000000000000000000011000010000000000000000000000
theorem recoverOne_keeps {tm : Nat} {z s : State} (hm : Sub recoverOne_touch tm) (hs : Keeps tm z s) (c : Nat) :
    Keeps tm z (State.recoverOne s c) := by
  delta State.recoverOne
  repeat' first
    | with_reducible assumption
    | (refine Sub.bit hm ?_; exact rfl)
    | (refine Sub.trans (Sub.of ?_) hm; exact rfl)
    | with_reducible refine Keeps.ite ?_ ?_
    | (refine (?_ : (_ : Bool) = true); exact rfl)
    | with_reducible refine put_keeps ?_ ?_ ?_ _ _
    | with_reducible refine onBank_keeps ?_ ?_ _ _
    | with_reducible refine onCtr_keeps ?_ ?_ _ _
    | with_reducible refine folded_keeps ?_ ?_ _
    | with_reducible refine recordCtr_keeps ?_ ?_ _ _ _
    | with_reducible refine Keeps.idState ?_
    | with_reducible refine foldl_keeps ?_ _ (fun s a hs => ?_)
    | (extract_lets +onlyGivenNames x; refine Keeps.cut (x := x) (m := tm) (s0 := z) ?_ ?_; unfold x; clear x; rotate_left; intro hx; clear_value x; rotate_right)
    | (extract_lets +onlyGivenNames x; clear_value x)
    | split

def writeSeal_touch : Nat := 0x18000000000000000000000000000000000000000000000000000000000000000000
theorem writeSeal_keeps {tm : Nat} {z s : State} (hm : Sub writeSeal_touch tm) (hs : Keeps tm z s) (sealed : Bool) (sealer : Nat) (count : Nat) :
    Keeps tm z (State.writeSeal s sealed sealer count) := by
  delta State.writeSeal
  repeat' first
    | with_reducible assumption
    | (refine Sub.bit hm ?_; exact rfl)
    | (refine Sub.trans (Sub.of ?_) hm; exact rfl)
    | with_reducible refine Keeps.ite ?_ ?_
    | (refine (?_ : (_ : Bool) = true); exact rfl)
    | with_reducible refine queueErase_keeps ?_ ?_ _ _
    | with_reducible refine onNvm_keeps ?_ ?_ _
    | with_reducible refine prog_keeps ?_ ?_ _ _
    | with_reducible refine Keeps.idState ?_
    | with_reducible refine foldl_keeps ?_ _ (fun s a hs => ?_)
    | (extract_lets +onlyGivenNames x; refine Keeps.cut (x := x) (m := tm) (s0 := z) ?_ ?_; unfold x; clear x; rotate_left; intro hx; clear_value x; rotate_right)
    | (extract_lets +onlyGivenNames x; clear_value x)
    | split

def tallyRecover_touch : Nat := 0x18000000000000000000010000000000000000011c000f0800000000000000000000
theorem tallyRecover_keeps {tm : Nat} {z s : State} (hm : Sub tallyRecover_touch tm) (hs : Keeps tm z s) (cause : Nat) (ecc : List (Nat × Bool)) :
    Keeps tm z (State.tallyRecover s cause ecc) := by
  delta State.tallyRecover
  repeat' first
    | with_reducible assumption
    | (refine Sub.bit hm ?_; exact rfl)
    | (refine Sub.trans (Sub.of ?_) hm; exact rfl)
    | with_reducible refine Keeps.ite ?_ ?_
    | (refine (?_ : (_ : Bool) = true); exact rfl)
    | with_reducible refine wr_keeps ?_ ?_ ?_ _ _
    | with_reducible refine put_keeps ?_ ?_ ?_ _ _
    | with_reducible refine forEach_keeps ?_ _ (fun s a hs => ?_)
    | with_reducible refine cellNow_keeps ?_ ?_ _ _ _
    | with_reducible refine eccHit_keeps ?_ ?_ _
    | with_reducible refine recoverOne_keeps ?_ ?_ _
    | with_reducible refine onCtr_keeps ?_ ?_ _ _
    | with_reducible refine record_keeps ?_ ?_ _ _ _ _
    | with_reducible refine onNvm_keeps ?_ ?_ _
    | with_reducible refine Keeps.idState ?_
    | with_reducible refine foldl_keeps ?_ _ (fun s a hs => ?_)
    | (extract_lets +onlyGivenNames x; refine Keeps.cut (x := x) (m := tm) (s0 := z) ?_ ?_; unfold x; clear x; rotate_left; intro hx; clear_value x; rotate_right)
    | (extract_lets +onlyGivenNames x; clear_value x)
    | split

def execCheckpoint_touch : Nat := 0x18040000000000000000000000000000000000010000028000000000000000000000
theorem execCheckpoint_keeps {tm : Nat} {z s : State} (hm : Sub execCheckpoint_touch tm) (hs : Keeps tm z s)  :
    KeepsO tm z (execCheckpoint s) := by
  delta execCheckpoint
  repeat' first
    | with_reducible refine KeepsO.next ?_
    | with_reducible refine KeepsO.ite ?_ ?_
    | with_reducible assumption
    | (refine Sub.bit hm ?_; exact rfl)
    | (refine Sub.trans (Sub.of ?_) hm; exact rfl)
    | with_reducible refine Keeps.ite ?_ ?_
    | (refine (?_ : (_ : Bool) = true); exact rfl)
    | with_reducible refine checkpoint_keeps ?_ ?_
    | with_reducible refine begin_keeps ?_ ?_
    | with_reducible refine Keeps.idState ?_
    | with_reducible refine foldl_keeps ?_ _ (fun s a hs => ?_)
    | (extract_lets +onlyGivenNames x; refine Keeps.cut (x := x) (m := tm) (s0 := z) ?_ ?_; unfold x; clear x; rotate_left; intro hx; clear_value x; rotate_right)
    | (extract_lets +onlyGivenNames x; clear_value x)
    | split

def execEraseSuspendDone_touch : Nat := 0x18040000000000000000000000000000000000000000000000000000000000000000
theorem execEraseSuspendDone_keeps {tm : Nat} {z s : State} (hm : Sub execEraseSuspendDone_touch tm) (hs : Keeps tm z s) (bank : Fin 4) :
    KeepsO tm z (execEraseSuspendDone bank s) := by
  delta execEraseSuspendDone
  repeat' first
    | with_reducible refine KeepsO.next ?_
    | with_reducible refine KeepsO.ite ?_ ?_
    | with_reducible assumption
    | (refine Sub.bit hm ?_; exact rfl)
    | (refine Sub.trans (Sub.of ?_) hm; exact rfl)
    | with_reducible refine Keeps.ite ?_ ?_
    | (refine (?_ : (_ : Bool) = true); exact rfl)
    | with_reducible refine onBank_keeps ?_ ?_ _ _
    | with_reducible refine kick_keeps ?_ ?_ _
    | with_reducible refine kickAll_keeps ?_ ?_
    | with_reducible refine begin_keeps ?_ ?_
    | with_reducible refine Keeps.idState ?_
    | with_reducible refine foldl_keeps ?_ _ (fun s a hs => ?_)
    | (extract_lets +onlyGivenNames x; refine Keeps.cut (x := x) (m := tm) (s0 := z) ?_ ?_; unfold x; clear x; rotate_left; intro hx; clear_value x; rotate_right)
    | (extract_lets +onlyGivenNames x; clear_value x)
    | split

def execFlashEraseDone_touch : Nat := 0x197c000000000000000004a000600000000000431800038000000000000000000000
theorem execFlashEraseDone_keeps {tm : Nat} {z s : State} (hm : Sub execFlashEraseDone_touch tm) (hs : Keeps tm z s) (bank : Fin 4) (ok : Bool) :
    KeepsO tm z (execFlashEraseDone bank ok s) := by
  delta execFlashEraseDone
  repeat' first
    | with_reducible refine KeepsO.next ?_
    | with_reducible refine KeepsO.ite ?_ ?_
    | with_reducible assumption
    | (refine Sub.bit hm ?_; exact rfl)
    | (refine Sub.trans (Sub.of ?_) hm; exact rfl)
    | with_reducible refine Keeps.ite ?_ ?_
    | (refine (?_ : (_ : Bool) = true); exact rfl)
    | with_reducible refine onBank_keeps ?_ ?_ _ _
    | with_reducible refine softAdvance_keeps ?_ ?_
    | with_reducible refine flashFail_keeps ?_ ?_ _ _
    | with_reducible refine resolved_keeps ?_ ?_ _ _
    | with_reducible refine kickAll_keeps ?_ ?_
    | with_reducible refine saveStep_keeps ?_ ?_
    | with_reducible refine begin_keeps ?_ ?_
    | with_reducible refine closeIfDone_keeps ?_ ?_
    | with_reducible refine eraseDone_keeps ?_ ?_ _
    | with_reducible refine commitEnd_keeps ?_ ?_ _
    | with_reducible refine Keeps.idState ?_
    | with_reducible refine foldl_keeps ?_ _ (fun s a hs => ?_)
    | (extract_lets +onlyGivenNames x; refine Keeps.cut (x := x) (m := tm) (s0 := z) ?_ ?_; unfold x; clear x; rotate_left; intro hx; clear_value x; rotate_right)
    | (extract_lets +onlyGivenNames x; clear_value x)
    | split

def execFlashProgramDone_touch : Nat := 0x197c000000000000000005a000600000000000431a40038000000000000000000000
theorem execFlashProgramDone_keeps {tm : Nat} {z s : State} (hm : Sub execFlashProgramDone_touch tm) (hs : Keeps tm z s) (bank : Fin 4) (ok : Bool) :
    KeepsO tm z (execFlashProgramDone bank ok s) := by
  delta execFlashProgramDone
  repeat' first
    | with_reducible refine KeepsO.next ?_
    | with_reducible refine KeepsO.ite ?_ ?_
    | with_reducible assumption
    | (refine Sub.bit hm ?_; exact rfl)
    | (refine Sub.trans (Sub.of ?_) hm; exact rfl)
    | with_reducible refine Keeps.ite ?_ ?_
    | (refine (?_ : (_ : Bool) = true); exact rfl)
    | with_reducible refine onBank_keeps ?_ ?_ _ _
    | with_reducible refine progFailed_keeps ?_ ?_ _
    | with_reducible refine softAdvance_keeps ?_ ?_
    | with_reducible refine kickAll_keeps ?_ ?_
    | with_reducible refine progDone_keeps ?_ ?_ _
    | with_reducible refine saveStep_keeps ?_ ?_
    | with_reducible refine begin_keeps ?_ ?_
    | with_reducible refine closeIfDone_keeps ?_ ?_
    | with_reducible refine Keeps.idState ?_
    | with_reducible refine foldl_keeps ?_ _ (fun s a hs => ?_)
    | (extract_lets +onlyGivenNames x; refine Keeps.cut (x := x) (m := tm) (s0 := z) ?_ ?_; unfold x; clear x; rotate_left; intro hx; clear_value x; rotate_right)
    | (extract_lets +onlyGivenNames x; clear_value x)
    | split

def execMeterResolveDispute_touch : Nat := 0x19fc000000000000000004a000600000000000010000008000000000000000000000
theorem execMeterResolveDispute_keeps {tm : Nat} {z s : State} (hm : Sub execMeterResolveDispute_touch tm) (hs : Keeps tm z s) (h : Sys2Proof.CmdHdr) (choice : Sys2Proof.Byte) :
    KeepsO tm z (execMeterResolveDispute h choice s) := by
  delta execMeterResolveDispute
  repeat' first
    | with_reducible refine KeepsO.next ?_
    | with_reducible refine KeepsO.ite ?_ ?_
    | with_reducible assumption
    | (refine Sub.bit hm ?_; exact rfl)
    | (refine Sub.trans (Sub.of ?_) hm; exact rfl)
    | with_reducible refine Keeps.ite ?_ ?_
    | (refine (?_ : (_ : Bool) = true); exact rfl)
    | with_reducible refine put_keeps ?_ ?_ ?_ _ _
    | with_reducible refine resolveStart_keeps ?_ ?_ _
    | with_reducible refine complete_keeps ?_ ?_ _ _ _
    | with_reducible refine dispatch_keeps ?_ ?_ _ _ _ (fun s a0 hs => ?_)
    | with_reducible refine onNvm_keeps ?_ ?_ _
    | with_reducible refine hold_keeps ?_ ?_ _ _
    | with_reducible refine Keeps.idState ?_
    | with_reducible refine foldl_keeps ?_ _ (fun s a hs => ?_)
    | (extract_lets +onlyGivenNames x; refine Keeps.cut (x := x) (m := tm) (s0 := z) ?_ ?_; unfold x; clear x; rotate_left; intro hx; clear_value x; rotate_right)
    | (extract_lets +onlyGivenNames x; clear_value x)
    | split

def execParamCommit_touch : Nat := 0x19fc000000000000000004a000600000000000010000008000000000000000000000
theorem execParamCommit_keeps {tm : Nat} {z s : State} (hm : Sub execParamCommit_touch tm) (hs : Keeps tm z s) (h : Sys2Proof.CmdHdr) :
    KeepsO tm z (execParamCommit h s) := by
  delta execParamCommit
  repeat' first
    | with_reducible refine KeepsO.next ?_
    | with_reducible refine KeepsO.ite ?_ ?_
    | with_reducible assumption
    | (refine Sub.bit hm ?_; exact rfl)
    | (refine Sub.trans (Sub.of ?_) hm; exact rfl)
    | with_reducible refine Keeps.ite ?_ ?_
    | (refine (?_ : (_ : Bool) = true); exact rfl)
    | with_reducible refine put_keeps ?_ ?_ ?_ _ _
    | with_reducible refine complete_keeps ?_ ?_ _ _ _
    | with_reducible refine queueErase_keeps ?_ ?_ _ _
    | with_reducible refine dispatch_keeps ?_ ?_ _ _ _ (fun s a0 hs => ?_)
    | with_reducible refine onNvm_keeps ?_ ?_ _
    | with_reducible refine hold_keeps ?_ ?_ _ _
    | with_reducible refine Keeps.idState ?_
    | with_reducible refine foldl_keeps ?_ _ (fun s a hs => ?_)
    | (extract_lets +onlyGivenNames x; refine Keeps.cut (x := x) (m := tm) (s0 := z) ?_ ?_; unfold x; clear x; rotate_left; intro hx; clear_value x; rotate_right)
    | (extract_lets +onlyGivenNames x; clear_value x)
    | split

def execParamRead_touch : Nat := 0x9f4000000000000000004a000600000000000010000000000000000000000000000
theorem execParamRead_keeps {tm : Nat} {z s : State} (hm : Sub execParamRead_touch tm) (hs : Keeps tm z s) (h : Sys2Proof.CmdHdr) (src : Sys2Proof.Byte) (first : Sys2Proof.Word) :
    KeepsO tm z (execParamRead h src first s) := by
  delta execParamRead
  repeat' first
    | with_reducible refine KeepsO.next ?_
    | with_reducible refine KeepsO.ite ?_ ?_
    | with_reducible assumption
    | (refine Sub.bit hm ?_; exact rfl)
    | (refine Sub.trans (Sub.of ?_) hm; exact rfl)
    | with_reducible refine Keeps.ite ?_ ?_
    | (refine (?_ : (_ : Bool) = true); exact rfl)
    | with_reducible refine complete_keeps ?_ ?_ _ _ _
    | with_reducible refine dispatch_keeps ?_ ?_ _ _ _ (fun s a0 hs => ?_)
    | with_reducible refine writeBuf_keeps ?_ ?_ _ _
    | with_reducible refine Keeps.idState ?_
    | with_reducible refine foldl_keeps ?_ _ (fun s a hs => ?_)
    | (extract_lets +onlyGivenNames x; refine Keeps.cut (x := x) (m := tm) (s0 := z) ?_ ?_; unfold x; clear x; rotate_left; intro hx; clear_value x; rotate_right)
    | (extract_lets +onlyGivenNames x; clear_value x)
    | split

def execParamWrite_touch : Nat := 0x19f4000000000000000004a00e600000000000010000000000000000000000000000
theorem execParamWrite_keeps {tm : Nat} {z s : State} (hm : Sub execParamWrite_touch tm) (hs : Keeps tm z s) (h : Sys2Proof.CmdHdr) (op : Sys2Proof.Byte) (buf : Sys2Proof.Dma) :
    KeepsO tm z (execParamWrite h op buf s) := by
  delta execParamWrite
  repeat' first
    | with_reducible refine KeepsO.next ?_
    | with_reducible refine KeepsO.ite ?_ ?_
    | with_reducible assumption
    | (refine Sub.bit hm ?_; exact rfl)
    | (refine Sub.trans (Sub.of ?_) hm; exact rfl)
    | with_reducible refine Keeps.ite ?_ ?_
    | (refine (?_ : (_ : Bool) = true); exact rfl)
    | with_reducible refine withBuf_keeps ?_ ?_ _ _ _ (fun s a0 hs => ?_)
    | with_reducible refine paramEdit_keeps ?_ ?_ _ _ _
    | with_reducible refine dispatch_keeps ?_ ?_ _ _ _ (fun s a0 hs => ?_)
    | with_reducible refine Keeps.idState ?_
    | with_reducible refine foldl_keeps ?_ _ (fun s a hs => ?_)
    | (extract_lets +onlyGivenNames x; refine Keeps.cut (x := x) (m := tm) (s0 := z) ?_ ?_; unfold x; clear x; rotate_left; intro hx; clear_value x; rotate_right)
    | (extract_lets +onlyGivenNames x; clear_value x)
    | split

end Sys2Proof.Machine
end

