-- ==== Sys2Proof/Laws/KeepsRanges.lean ====
section
/-!
SUPPORT. Sys2Proof/Laws/KeepsRanges.lean: what each function of Machine/Ranges.lean may change: its touch set, and one lemma per function.
-/
namespace Sys2Proof.Machine

open Sys2Proof

def deny_touch : Nat := 0x904000000000000000004a000600000000000010000000000000000000000000000
theorem deny_keeps {tm : Nat} {z s : State} (hm : Sub deny_touch tm) (hs : Keeps tm z s) (t : Nat) (counted : Bool) :
    Keeps tm z (State.deny s t counted) := by
  delta State.deny
  repeat' first
    | with_reducible assumption
    | (refine Sub.bit hm ?_; exact rfl)
    | (refine Sub.trans (Sub.of ?_) hm; exact rfl)
    | with_reducible refine Keeps.ite ?_ ?_
    | (refine (?_ : (_ : Bool) = true); exact rfl)
    | with_reducible refine put_keeps ?_ ?_ ?_ _ _
    | with_reducible refine violation_keeps ?_ ?_ _ _
    | with_reducible refine Keeps.idState ?_
    | with_reducible refine foldl_keeps ?_ _ (fun s a hs => ?_)
    | (extract_lets +onlyGivenNames x; refine Keeps.cut (x := x) (m := tm) (s0 := z) ?_ ?_; unfold x; clear x; rotate_left; intro hx; clear_value x; rotate_right)
    | (extract_lets +onlyGivenNames x; clear_value x)
    | split

def gate_touch : Nat := 0x904000000000000000004a000600000000000010000000000000000000000000000
theorem gate_keeps {tm : Nat} {z s : State} (hm : Sub gate_touch tm) (hs : Keeps tm z s) (w : Sys2Proof.BusWrite) (f : Sys2Proof.Machine.State → Nat → Sys2Proof.Machine.State) (hf : ∀ s a0, Keeps tm z s → Keeps tm z (f s a0)) :
    Keeps tm z (State.gate s w f) := by
  delta State.gate
  repeat' first
    | with_reducible assumption
    | (refine Sub.bit hm ?_; exact rfl)
    | (refine Sub.trans (Sub.of ?_) hm; exact rfl)
    | with_reducible refine Keeps.ite ?_ ?_
    | (refine (?_ : (_ : Bool) = true); exact rfl)
    | with_reducible refine hf _ _ ?_
    | with_reducible refine toL0_keeps ?_ ?_ _
    | with_reducible refine deny_keeps ?_ ?_ _ _
    | with_reducible refine begin_keeps ?_ ?_
    | with_reducible refine Keeps.idState ?_
    | with_reducible refine foldl_keeps ?_ _ (fun s a hs => ?_)
    | (extract_lets +onlyGivenNames x; refine Keeps.cut (x := x) (m := tm) (s0 := z) ?_ ?_; unfold x; clear x; rotate_left; intro hx; clear_value x; rotate_right)
    | (extract_lets +onlyGivenNames x; clear_value x)
    | split

def plainWrite_touch : Nat := 0x0
theorem plainWrite_keeps {tm : Nat} {z s : State} (hm : Sub plainWrite_touch tm) (hs : Keeps tm z s) (r : Sys2Proof.Machine.Reg) (i : Nat) (w : Nat) (hr : tm.testBit r.ctorIdx = true) :
    Keeps tm z (State.plainWrite s r i w) := by
  delta State.plainWrite
  repeat' first
    | with_reducible assumption
    | (refine Sub.bit hm ?_; exact rfl)
    | (refine Sub.trans (Sub.of ?_) hm; exact rfl)
    | with_reducible refine Keeps.ite ?_ ?_
    | (refine (?_ : (_ : Bool) = true); exact rfl)
    | with_reducible refine storeBut_keeps ?_ ?_ _ _ _
    | with_reducible refine w1cBut_keeps ?_ ?_ _ _ _
    | with_reducible refine Keeps.idState ?_
    | (simp only [Field.up]; refine Sub.bit hm ?_; exact rfl)
    | (dsimp only; refine Sub.bit hm ?_; exact rfl)
    | with_reducible refine foldl_keeps ?_ _ (fun s a hs => ?_)
    | (extract_lets +onlyGivenNames x; refine Keeps.cut (x := x) (m := tm) (s0 := z) ?_ ?_; unfold x; clear x; rotate_left; intro hx; clear_value x; rotate_right)
    | (extract_lets +onlyGivenNames x; clear_value x)
    | split

end Sys2Proof.Machine
end

