-- ==== Sys2Proof/Laws/KeepsRouter.lean ====
section
/-!
SUPPORT. Sys2Proof/Laws/KeepsRouter.lean: what each function of Machine/Router.lean may change: its touch set, and one lemma per function.
-/
namespace Sys2Proof.Machine

open Sys2Proof

def alert_touch : Nat := 0x200000000000000000000000000000000000000000000000000000000000000000000
theorem alert_keeps {tm : Nat} {z s : State} (hm : Sub alert_touch tm) (hs : Keeps tm z s) (g : Nat) (n : Nat) :
    Keeps tm z (State.alert s g n) := by
  delta State.alert
  repeat' first
    | with_reducible assumption
    | (refine Sub.bit hm ?_; exact rfl)
    | (refine Sub.trans (Sub.of ?_) hm; exact rfl)
    | with_reducible refine Keeps.ite ?_ ?_
    | (refine (?_ : (_ : Bool) = true); exact rfl)
    | with_reducible refine onSeg_keeps ?_ ?_ _ _
    | with_reducible refine Keeps.idState ?_
    | with_reducible refine foldl_keeps ?_ _ (fun s a hs => ?_)
    | (extract_lets +onlyGivenNames x; refine Keeps.cut (x := x) (m := tm) (s0 := z) ?_ ?_; unfold x; clear x; rotate_left; intro hx; clear_value x; rotate_right)
    | (extract_lets +onlyGivenNames x; clear_value x)
    | split

def clearGlobal_touch : Nat := 0x8000000000000000000000000000000000000010000000000000000100000000000
theorem clearGlobal_keeps {tm : Nat} {z s : State} (hm : Sub clearGlobal_touch tm) (hs : Keeps tm z s)  :
    Keeps tm z (State.clearGlobal s) := by
  delta State.clearGlobal
  repeat' first
    | with_reducible assumption
    | (refine Sub.bit hm ?_; exact rfl)
    | (refine Sub.trans (Sub.of ?_) hm; exact rfl)
    | with_reducible refine Keeps.ite ?_ ?_
    | (refine (?_ : (_ : Bool) = true); exact rfl)
    | with_reducible refine wr_keeps ?_ ?_ ?_ _ _
    | with_reducible refine put_keeps ?_ ?_ ?_ _ _
    | with_reducible refine record_keeps ?_ ?_ _ _ _ _
    | with_reducible refine Keeps.idState ?_
    | with_reducible refine foldl_keeps ?_ _ (fun s a hs => ?_)
    | (extract_lets +onlyGivenNames x; refine Keeps.cut (x := x) (m := tm) (s0 := z) ?_ ?_; unfold x; clear x; rotate_left; intro hx; clear_value x; rotate_right)
    | (extract_lets +onlyGivenNames x; clear_value x)
    | split

def clearLane_touch : Nat := 0x8000000000000000000000000000000000000010000000000000008000000000000
theorem clearLane_keeps {tm : Nat} {z s : State} (hm : Sub clearLane_touch tm) (hs : Keeps tm z s) (l : Nat) :
    Keeps tm z (State.clearLane s l) := by
  delta State.clearLane
  repeat' first
    | with_reducible assumption
    | (refine Sub.bit hm ?_; exact rfl)
    | (refine Sub.trans (Sub.of ?_) hm; exact rfl)
    | with_reducible refine Keeps.ite ?_ ?_
    | (refine (?_ : (_ : Bool) = true); exact rfl)
    | with_reducible refine put_keeps ?_ ?_ ?_ _ _
    | with_reducible refine record_keeps ?_ ?_ _ _ _ _
    | with_reducible refine Keeps.idState ?_
    | with_reducible refine foldl_keeps ?_ _ (fun s a hs => ?_)
    | (extract_lets +onlyGivenNames x; refine Keeps.cut (x := x) (m := tm) (s0 := z) ?_ ?_; unfold x; clear x; rotate_left; intro hx; clear_value x; rotate_right)
    | (extract_lets +onlyGivenNames x; clear_value x)
    | split

def clearPhase_touch : Nat := 0x88000000000000000000000000000000000000010000000000000002000000000000
theorem clearPhase_keeps {tm : Nat} {z s : State} (hm : Sub clearPhase_touch tm) (hs : Keeps tm z s) (p : Nat) :
    Keeps tm z (State.clearPhase s p) := by
  delta State.clearPhase
  repeat' first
    | with_reducible assumption
    | (refine Sub.bit hm ?_; exact rfl)
    | (refine Sub.trans (Sub.of ?_) hm; exact rfl)
    | with_reducible refine Keeps.ite ?_ ?_
    | (refine (?_ : (_ : Bool) = true); exact rfl)
    | with_reducible refine put_keeps ?_ ?_ ?_ _ _
    | with_reducible refine putBit_keeps ?_ ?_ ?_ _ _ _
    | with_reducible refine noteHit_keeps ?_ ?_ _
    | with_reducible refine record_keeps ?_ ?_ _ _ _ _
    | with_reducible refine Keeps.idState ?_
    | with_reducible refine foldl_keeps ?_ _ (fun s a hs => ?_)
    | (extract_lets +onlyGivenNames x; refine Keeps.cut (x := x) (m := tm) (s0 := z) ?_ ?_; unfold x; clear x; rotate_left; intro hx; clear_value x; rotate_right)
    | (extract_lets +onlyGivenNames x; clear_value x)
    | split

def routeNote_touch : Nat := 0x9040000000000000000002000600000000020010000000000000000000000000000
theorem routeNote_keeps {tm : Nat} {z s : State} (hm : Sub routeNote_touch tm) (hs : Keeps tm z s) (n : Nat) (i : Nat) :
    Keeps tm z (State.routeNote s n i) := by
  delta State.routeNote
  repeat' first
    | with_reducible assumption
    | (refine Sub.bit hm ?_; exact rfl)
    | (refine Sub.trans (Sub.of ?_) hm; exact rfl)
    | with_reducible refine Keeps.ite ?_ ?_
    | (refine (?_ : (_ : Bool) = true); exact rfl)
    | with_reducible refine putBit_keeps ?_ ?_ ?_ _ _ _
    | with_reducible refine record_keeps ?_ ?_ _ _ _ _
    | with_reducible refine notice_keeps ?_ ?_ _ _ _
    | with_reducible refine Keeps.idState ?_
    | with_reducible refine foldl_keeps ?_ _ (fun s a hs => ?_)
    | (extract_lets +onlyGivenNames x; refine Keeps.cut (x := x) (m := tm) (s0 := z) ?_ ?_; unfold x; clear x; rotate_left; intro hx; clear_value x; rotate_right)
    | (extract_lets +onlyGivenNames x; clear_value x)
    | split

def routeTrip_touch : Nat := 0x1007e97c000000000000000004a00060000006000001000000082008a00a105080000400
theorem routeTrip_keeps {tm : Nat} {z s : State} (hm : Sub routeTrip_touch tm) (hs : Keeps tm z s) (n : Nat) (i : Nat) :
    Keeps tm z (State.routeTrip s n i) := by
  delta State.routeTrip
  repeat' first
    | with_reducible assumption
    | (refine Sub.bit hm ?_; exact rfl)
    | (refine Sub.trans (Sub.of ?_) hm; exact rfl)
    | with_reducible refine Keeps.ite ?_ ?_
    | (refine (?_ : (_ : Bool) = true); exact rfl)
    | with_reducible refine forEach_keeps ?_ _ (fun s a hs => ?_)
    | with_reducible refine setGlobal_keeps ?_ ?_ _ _ _ _ _ ?_ ?_ (fun s hs => ?_)
    | with_reducible refine setPhaseLatch_keeps ?_ ?_ _ _
    | with_reducible refine setLaneLatch_keeps ?_ ?_ _ _
    | with_reducible refine Keeps.idState ?_
    | with_reducible refine foldl_keeps ?_ _ (fun s a hs => ?_)
    | (extract_lets +onlyGivenNames x; refine Keeps.cut (x := x) (m := tm) (s0 := z) ?_ ?_; unfold x; clear x; rotate_left; intro hx; clear_value x; rotate_right)
    | (extract_lets +onlyGivenNames x; clear_value x)
    | split

def routeOnce_touch : Nat := 0x1017e97c000000000000000004a00060000006002001000000082008a00a105080000400
theorem routeOnce_keeps {tm : Nat} {z s : State} (hm : Sub routeOnce_touch tm) (hs : Keeps tm z s)  :
    Keeps tm z (State.routeOnce s) := by
  delta State.routeOnce
  repeat' first
    | with_reducible assumption
    | (refine Sub.bit hm ?_; exact rfl)
    | (refine Sub.trans (Sub.of ?_) hm; exact rfl)
    | with_reducible refine Keeps.ite ?_ ?_
    | (refine (?_ : (_ : Bool) = true); exact rfl)
    | with_reducible refine routeNote_keeps ?_ ?_ _ _
    | with_reducible refine routeTrip_keeps ?_ ?_ _ _
    | with_reducible refine Keeps.idState ?_
    | with_reducible refine foldl_keeps ?_ _ (fun s a hs => ?_)
    | (extract_lets +onlyGivenNames x; refine Keeps.cut (x := x) (m := tm) (s0 := z) ?_ ?_; unfold x; clear x; rotate_left; intro hx; clear_value x; rotate_right)
    | (extract_lets +onlyGivenNames x; clear_value x)
    | split
    | with_reducible refine upd_rtrLive_keeps ?_ ?_ _

def route_touch : Nat := 0x1017e97c000000000000000004a00060000006002001000000082008a00a105080000400
theorem route_keeps {tm : Nat} {z s : State} (hm : Sub route_touch tm) (hs : Keeps tm z s) (n : Nat) :
    Keeps tm z (State.route n s) := by
  induction n generalizing s with
  | zero => exact hs
  | succ n ih =>
    have h := routeOnce_keeps (Sub.trans (Sub.of rfl) hm) hs
    simp only [State.route]
    split
    · exact h
    · exact ih h

def psLatch_touch : Nat := 0x40000000000000000000800000000000000000000000000000000000000000000000
theorem psLatch_keeps {tm : Nat} {z s : State} (hm : Sub psLatch_touch tm) (hs : Keeps tm z s) (l : Nat) (bit : Nat) :
    Keeps tm z (State.psLatch s l bit) := by
  delta State.psLatch
  repeat' first
    | with_reducible assumption
    | (refine Sub.bit hm ?_; exact rfl)
    | (refine Sub.trans (Sub.of ?_) hm; exact rfl)
    | with_reducible refine Keeps.ite ?_ ?_
    | (refine (?_ : (_ : Bool) = true); exact rfl)
    | with_reducible refine put_keeps ?_ ?_ ?_ _ _
    | with_reducible refine onLane_keeps ?_ ?_ _ _
    | with_reducible refine Keeps.idState ?_
    | with_reducible refine foldl_keeps ?_ _ (fun s a hs => ?_)
    | (extract_lets +onlyGivenNames x; refine Keeps.cut (x := x) (m := tm) (s0 := z) ?_ ?_; unfold x; clear x; rotate_left; intro hx; clear_value x; rotate_right)
    | (extract_lets +onlyGivenNames x; clear_value x)
    | split

def senseLane_touch : Nat := 0x240000000000000000000800000000000000000000000000000000000000000000000
theorem senseLane_keeps {tm : Nat} {z s : State} (hm : Sub senseLane_touch tm) (hs : Keeps tm z s) (l : Nat) :
    Keeps tm z (State.senseLane s l) := by
  delta State.senseLane
  repeat' first
    | with_reducible assumption
    | (refine Sub.bit hm ?_; exact rfl)
    | (refine Sub.trans (Sub.of ?_) hm; exact rfl)
    | with_reducible refine Keeps.ite ?_ ?_
    | (refine (?_ : (_ : Bool) = true); exact rfl)
    | with_reducible refine alert_keeps ?_ ?_ _ _
    | with_reducible refine psLatch_keeps ?_ ?_ _ _
    | with_reducible refine onLane_keeps ?_ ?_ _ _
    | with_reducible refine Keeps.idState ?_
    | with_reducible refine foldl_keeps ?_ _ (fun s a hs => ?_)
    | (extract_lets +onlyGivenNames x; refine Keeps.cut (x := x) (m := tm) (s0 := z) ?_ ?_; unfold x; clear x; rotate_left; intro hx; clear_value x; rotate_right)
    | (extract_lets +onlyGivenNames x; clear_value x)
    | split

def safeDone_touch : Nat := 0x97c000000000000000004a000600000000000010000000000000000000000000000
theorem safeDone_keeps {tm : Nat} {z s : State} (hm : Sub safeDone_touch tm) (hs : Keeps tm z s)  :
    Keeps tm z (State.safeDone s) := by
  delta State.safeDone
  repeat' first
    | with_reducible assumption
    | (refine Sub.bit hm ?_; exact rfl)
    | (refine Sub.trans (Sub.of ?_) hm; exact rfl)
    | with_reducible refine Keeps.ite ?_ ?_
    | (refine (?_ : (_ : Bool) = true); exact rfl)
    | with_reducible refine finish_keeps ?_ ?_ _ _ _
    | with_reducible refine Keeps.idState ?_
    | with_reducible refine foldl_keeps ?_ _ (fun s a hs => ?_)
    | (extract_lets +onlyGivenNames x; refine Keeps.cut (x := x) (m := tm) (s0 := z) ?_ ?_; unfold x; clear x; rotate_left; intro hx; clear_value x; rotate_right)
    | (extract_lets +onlyGivenNames x; clear_value x)
    | split

def showPins_touch : Nat := 0x300000000000000000000000000000000
theorem showPins_keeps {tm : Nat} {z s : State} (hm : Sub showPins_touch tm) (hs : Keeps tm z s)  :
    Keeps tm z (State.showPins s) := by
  delta State.showPins
  repeat' first
    | with_reducible assumption
    | (refine Sub.bit hm ?_; exact rfl)
    | (refine Sub.trans (Sub.of ?_) hm; exact rfl)
    | with_reducible refine Keeps.ite ?_ ?_
    | (refine (?_ : (_ : Bool) = true); exact rfl)
    | with_reducible refine setReg_keeps ?_ ?_ ?_ _ _
    | with_reducible refine Keeps.idState ?_
    | with_reducible refine foldl_keeps ?_ _ (fun s a hs => ?_)
    | (extract_lets +onlyGivenNames x; refine Keeps.cut (x := x) (m := tm) (s0 := z) ?_ ?_; unfold x; clear x; rotate_left; intro hx; clear_value x; rotate_right)
    | (extract_lets +onlyGivenNames x; clear_value x)
    | split

def senseSeg_touch : Nat := 0x200000000000000000000000000000000000000000000000000000000000000000000
theorem senseSeg_keeps {tm : Nat} {z s : State} (hm : Sub senseSeg_touch tm) (hs : Keeps tm z s) (g : Nat) :
    Keeps tm z (State.senseSeg s g) := by
  delta State.senseSeg
  repeat' first
    | with_reducible assumption
    | (refine Sub.bit hm ?_; exact rfl)
    | (refine Sub.trans (Sub.of ?_) hm; exact rfl)
    | with_reducible refine Keeps.ite ?_ ?_
    | (refine (?_ : (_ : Bool) = true); exact rfl)
    | with_reducible refine alert_keeps ?_ ?_ _ _
    | with_reducible refine onSeg_keeps ?_ ?_ _ _
    | with_reducible refine Keeps.idState ?_
    | with_reducible refine foldl_keeps ?_ _ (fun s a hs => ?_)
    | (extract_lets +onlyGivenNames x; refine Keeps.cut (x := x) (m := tm) (s0 := z) ?_ ?_; unfold x; clear x; rotate_left; intro hx; clear_value x; rotate_right)
    | (extract_lets +onlyGivenNames x; clear_value x)
    | split

def settle_touch : Nat := 0x1017f97c000000000000000084a00060000006032043000002882008a00a105080000400
theorem settle_keeps {tm : Nat} {z s : State} (hm : Sub settle_touch tm) (hs : Keeps tm z s)  :
    Keeps tm z (State.settle s) := by
  delta State.settle
  repeat' first
    | with_reducible assumption
    | (refine Sub.bit hm ?_; exact rfl)
    | (refine Sub.trans (Sub.of ?_) hm; exact rfl)
    | with_reducible refine Keeps.ite ?_ ?_
    | (refine (?_ : (_ : Bool) = true); exact rfl)
    | with_reducible refine forEach_keeps ?_ _ (fun s a hs => ?_)
    | with_reducible refine route_keeps ?_ ?_ _
    | with_reducible refine senseLane_keeps ?_ ?_ _
    | with_reducible refine softAdvance_keeps ?_ ?_
    | with_reducible refine safeDone_keeps ?_ ?_
    | with_reducible refine showPins_keeps ?_ ?_
    | with_reducible refine senseSeg_keeps ?_ ?_ _
    | with_reducible refine Keeps.idState ?_
    | with_reducible refine foldl_keeps ?_ _ (fun s a hs => ?_)
    | (extract_lets +onlyGivenNames x; refine Keeps.cut (x := x) (m := tm) (s0 := z) ?_ ?_; unfold x; clear x; rotate_left; intro hx; clear_value x; rotate_right)
    | (extract_lets +onlyGivenNames x; clear_value x)
    | split

def writeRoute_touch : Nat := 0x1000000000000000000000000000000000000040800000000000000000000000000000
theorem writeRoute_keeps {tm : Nat} {z s : State} (hm : Sub writeRoute_touch tm) (hs : Keeps tm z s) (n : Nat) (w : Nat) :
    Keeps tm z (State.writeRoute s n w) := by
  delta State.writeRoute
  repeat' first
    | with_reducible assumption
    | (refine Sub.bit hm ?_; exact rfl)
    | (refine Sub.trans (Sub.of ?_) hm; exact rfl)
    | with_reducible refine Keeps.ite ?_ ?_
    | (refine (?_ : (_ : Bool) = true); exact rfl)
    | with_reducible refine wr_keeps ?_ ?_ ?_ _ _
    | with_reducible refine put_keeps ?_ ?_ ?_ _ _
    | with_reducible refine plainWrite_keeps ?_ ?_ _ _ _ ?_
    | with_reducible refine Keeps.idState ?_
    | with_reducible refine foldl_keeps ?_ _ (fun s a hs => ?_)
    | (extract_lets +onlyGivenNames x; refine Keeps.cut (x := x) (m := tm) (s0 := z) ?_ ?_; unfold x; clear x; rotate_left; intro hx; clear_value x; rotate_right)
    | (extract_lets +onlyGivenNames x; clear_value x)
    | split
    | with_reducible refine upd_rtrLive_keeps ?_ ?_ _

def writeLnTrip_touch : Nat := 0x8000000000000000000000000000000000000010000000000000008000000000000
theorem writeLnTrip_keeps {tm : Nat} {z s : State} (hm : Sub writeLnTrip_touch tm) (hs : Keeps tm z s) (l : Nat) (w : Nat) :
    Keeps tm z (State.writeLnTrip s l w) := by
  delta State.writeLnTrip
  repeat' first
    | with_reducible assumption
    | (refine Sub.bit hm ?_; exact rfl)
    | (refine Sub.trans (Sub.of ?_) hm; exact rfl)
    | with_reducible refine Keeps.ite ?_ ?_
    | (refine (?_ : (_ : Bool) = true); exact rfl)
    | with_reducible refine w1cBut_keeps ?_ ?_ _ _ _
    | with_reducible refine clearLane_keeps ?_ ?_ _
    | with_reducible refine Keeps.idState ?_
    | with_reducible refine foldl_keeps ?_ _ (fun s a hs => ?_)
    | (extract_lets +onlyGivenNames x; refine Keeps.cut (x := x) (m := tm) (s0 := z) ?_ ?_; unfold x; clear x; rotate_left; intro hx; clear_value x; rotate_right)
    | (extract_lets +onlyGivenNames x; clear_value x)
    | split

def writePhTrip_touch : Nat := 0x88000000000000000000000000000000000000010000000000000002000000000000
theorem writePhTrip_keeps {tm : Nat} {z s : State} (hm : Sub writePhTrip_touch tm) (hs : Keeps tm z s) (b : Nat) (w : Nat) :
    Keeps tm z (State.writePhTrip s b w) := by
  delta State.writePhTrip
  repeat' first
    | with_reducible assumption
    | (refine Sub.bit hm ?_; exact rfl)
    | (refine Sub.trans (Sub.of ?_) hm; exact rfl)
    | with_reducible refine Keeps.ite ?_ ?_
    | (refine (?_ : (_ : Bool) = true); exact rfl)
    | with_reducible refine w1cBut_keeps ?_ ?_ _ _ _
    | with_reducible refine forEach_keeps ?_ _ (fun s a hs => ?_)
    | with_reducible refine clearPhase_keeps ?_ ?_ _
    | with_reducible refine Keeps.idState ?_
    | with_reducible refine foldl_keeps ?_ _ (fun s a hs => ?_)
    | (extract_lets +onlyGivenNames x; refine Keeps.cut (x := x) (m := tm) (s0 := z) ?_ ?_; unfold x; clear x; rotate_left; intro hx; clear_value x; rotate_right)
    | (extract_lets +onlyGivenNames x; clear_value x)
    | split

def writeTioPin_touch : Nat := 0x8000000000000000000000000000000000004010000000000000000000000000000
theorem writeTioPin_keeps {tm : Nat} {z s : State} (hm : Sub writeTioPin_touch tm) (hs : Keeps tm z s) (n : Nat) (mode : Nat) :
    Keeps tm z (State.writeTioPin s n mode) := by
  delta State.writeTioPin
  repeat' first
    | with_reducible assumption
    | (refine Sub.bit hm ?_; exact rfl)
    | (refine Sub.trans (Sub.of ?_) hm; exact rfl)
    | with_reducible refine Keeps.ite ?_ ?_
    | (refine (?_ : (_ : Bool) = true); exact rfl)
    | with_reducible refine wr_keeps ?_ ?_ ?_ _ _
    | with_reducible refine putBit_keeps ?_ ?_ ?_ _ _ _
    | with_reducible refine record_keeps ?_ ?_ _ _ _ _
    | with_reducible refine Keeps.idState ?_
    | (simp only [Field.up]; refine Sub.bit hm ?_; exact rfl)
    | (dsimp only; refine Sub.bit hm ?_; exact rfl)
    | with_reducible refine foldl_keeps ?_ _ (fun s a hs => ?_)
    | (extract_lets +onlyGivenNames x; refine Keeps.cut (x := x) (m := tm) (s0 := z) ?_ ?_; unfold x; clear x; rotate_left; intro hx; clear_value x; rotate_right)
    | (extract_lets +onlyGivenNames x; clear_value x)
    | split

def writeTio_touch : Nat := 0x8000000000000000000000000000000000004010000000000000000000000000000
theorem writeTio_keeps {tm : Nat} {z s : State} (hm : Sub writeTio_touch tm) (hs : Keeps tm z s) (w : Nat) :
    Keeps tm z (State.writeTio s w) := by
  delta State.writeTio
  repeat' first
    | with_reducible assumption
    | (refine Sub.bit hm ?_; exact rfl)
    | (refine Sub.trans (Sub.of ?_) hm; exact rfl)
    | with_reducible refine Keeps.ite ?_ ?_
    | (refine (?_ : (_ : Bool) = true); exact rfl)
    | with_reducible refine forEach_keeps ?_ _ (fun s a hs => ?_)
    | with_reducible refine writeTioPin_keeps ?_ ?_ _ _
    | with_reducible refine Keeps.idState ?_
    | with_reducible refine foldl_keeps ?_ _ (fun s a hs => ?_)
    | (extract_lets +onlyGivenNames x; refine Keeps.cut (x := x) (m := tm) (s0 := z) ?_ ?_; unfold x; clear x; rotate_left; intro hx; clear_value x; rotate_right)
    | (extract_lets +onlyGivenNames x; clear_value x)
    | split

def writeGlbTrip_touch : Nat := 0x8000000000000000000000000000000000000010000000000000000100000000000
theorem writeGlbTrip_keeps {tm : Nat} {z s : State} (hm : Sub writeGlbTrip_touch tm) (hs : Keeps tm z s) (w : Nat) :
    Keeps tm z (State.writeGlbTrip s w) := by
  delta State.writeGlbTrip
  repeat' first
    | with_reducible assumption
    | (refine Sub.bit hm ?_; exact rfl)
    | (refine Sub.trans (Sub.of ?_) hm; exact rfl)
    | with_reducible refine Keeps.ite ?_ ?_
    | (refine (?_ : (_ : Bool) = true); exact rfl)
    | with_reducible refine w1cBut_keeps ?_ ?_ _ _ _
    | with_reducible refine clearGlobal_keeps ?_ ?_
    | with_reducible refine Keeps.idState ?_
    | with_reducible refine foldl_keeps ?_ _ (fun s a hs => ?_)
    | (extract_lets +onlyGivenNames x; refine Keeps.cut (x := x) (m := tm) (s0 := z) ?_ ?_; unfold x; clear x; rotate_left; intro hx; clear_value x; rotate_right)
    | (extract_lets +onlyGivenNames x; clear_value x)
    | split

def writeRtrCtl_touch : Nat := 0x20000000000000000000000000000000
theorem writeRtrCtl_keeps {tm : Nat} {z s : State} (hm : Sub writeRtrCtl_touch tm) (hs : Keeps tm z s) (w : Nat) :
    Keeps tm z (State.writeRtrCtl s w) := by
  delta State.writeRtrCtl
  repeat' first
    | with_reducible assumption
    | (refine Sub.bit hm ?_; exact rfl)
    | (refine Sub.trans (Sub.of ?_) hm; exact rfl)
    | with_reducible refine Keeps.ite ?_ ?_
    | (refine (?_ : (_ : Bool) = true); exact rfl)
    | with_reducible refine wr_keeps ?_ ?_ ?_ _ _
    | with_reducible refine forEach_keeps ?_ _ (fun s a hs => ?_)
    | with_reducible refine Keeps.idState ?_
    | with_reducible refine foldl_keeps ?_ _ (fun s a hs => ?_)
    | (extract_lets +onlyGivenNames x; refine Keeps.cut (x := x) (m := tm) (s0 := z) ?_ ?_; unfold x; clear x; rotate_left; intro hx; clear_value x; rotate_right)
    | (extract_lets +onlyGivenNames x; clear_value x)
    | split

def startAttr_touch : Nat := 0x40000000000000000000000000000000000000000000000000000000000000000000
theorem startAttr_keeps {tm : Nat} {z s : State} (hm : Sub startAttr_touch tm) (hs : Keeps tm z s) (l : Nat) :
    Keeps tm z (State.startAttr s l) := by
  delta State.startAttr
  repeat' first
    | with_reducible assumption
    | (refine Sub.bit hm ?_; exact rfl)
    | (refine Sub.trans (Sub.of ?_) hm; exact rfl)
    | with_reducible refine Keeps.ite ?_ ?_
    | (refine (?_ : (_ : Bool) = true); exact rfl)
    | with_reducible refine onLane_keeps ?_ ?_ _ _
    | with_reducible refine Keeps.idState ?_
    | with_reducible refine foldl_keeps ?_ _ (fun s a hs => ?_)
    | (extract_lets +onlyGivenNames x; refine Keeps.cut (x := x) (m := tm) (s0 := z) ?_ ?_; unfold x; clear x; rotate_left; intro hx; clear_value x; rotate_right)
    | (extract_lets +onlyGivenNames x; clear_value x)
    | split

def pinTrips_touch : Nat := 0x1007e97c000000000000000004a00060000006000001000000082008a00a105080000400
theorem pinTrips_keeps {tm : Nat} {z s : State} (hm : Sub pinTrips_touch tm) (hs : Keeps tm z s)  :
    Keeps tm z (State.pinTrips s) := by
  delta State.pinTrips
  repeat' first
    | with_reducible assumption
    | (refine Sub.bit hm ?_; exact rfl)
    | (refine Sub.trans (Sub.of ?_) hm; exact rfl)
    | with_reducible refine Keeps.ite ?_ ?_
    | (refine (?_ : (_ : Bool) = true); exact rfl)
    | with_reducible refine forEach_keeps ?_ _ (fun s a hs => ?_)
    | with_reducible refine setGlobal_keeps ?_ ?_ _ _ _ _ _ ?_ ?_ (fun s hs => ?_)
    | with_reducible refine startAttr_keeps ?_ ?_ _
    | with_reducible refine setPhaseLatch_keeps ?_ ?_ _ _
    | with_reducible refine setLaneLatch_keeps ?_ ?_ _ _
    | with_reducible refine Keeps.idState ?_
    | with_reducible refine foldl_keeps ?_ _ (fun s a hs => ?_)
    | (extract_lets +onlyGivenNames x; refine Keeps.cut (x := x) (m := tm) (s0 := z) ?_ ?_; unfold x; clear x; rotate_left; intro hx; clear_value x; rotate_right)
    | (extract_lets +onlyGivenNames x; clear_value x)
    | split

def writeTripCfg_touch : Nat := 0x1007e97c000000000000000004a00060000006000001000000082008a00a305080000400
theorem writeTripCfg_keeps {tm : Nat} {z s : State} (hm : Sub writeTripCfg_touch tm) (hs : Keeps tm z s) (w : Nat) :
    Keeps tm z (State.writeTripCfg s w) := by
  delta State.writeTripCfg
  repeat' first
    | with_reducible assumption
    | (refine Sub.bit hm ?_; exact rfl)
    | (refine Sub.trans (Sub.of ?_) hm; exact rfl)
    | with_reducible refine Keeps.ite ?_ ?_
    | (refine (?_ : (_ : Bool) = true); exact rfl)
    | with_reducible refine pinTrips_keeps ?_ ?_
    | with_reducible refine plainWrite_keeps ?_ ?_ _ _ _ ?_
    | with_reducible refine Keeps.idState ?_
    | with_reducible refine foldl_keeps ?_ _ (fun s a hs => ?_)
    | (extract_lets +onlyGivenNames x; refine Keeps.cut (x := x) (m := tm) (s0 := z) ?_ ?_; unfold x; clear x; rotate_left; intro hx; clear_value x; rotate_right)
    | (extract_lets +onlyGivenNames x; clear_value x)
    | split

def noteFin_touch : Nat := 0x8000000000000000000000000000000200000010000000000000000000000000000
theorem noteFin_keeps {tm : Nat} {z s : State} (hm : Sub noteFin_touch tm) (hs : Keeps tm z s) (n : Nat) (high : Bool) :
    Keeps tm z (State.noteFin n high s) := by
  delta State.noteFin
  repeat' first
    | with_reducible assumption
    | (refine Sub.bit hm ?_; exact rfl)
    | (refine Sub.trans (Sub.of ?_) hm; exact rfl)
    | with_reducible refine Keeps.ite ?_ ?_
    | (refine (?_ : (_ : Bool) = true); exact rfl)
    | with_reducible refine put_keeps ?_ ?_ ?_ _ _
    | with_reducible refine record_keeps ?_ ?_ _ _ _ _
    | with_reducible refine Keeps.idState ?_
    | with_reducible refine foldl_keeps ?_ _ (fun s a hs => ?_)
    | (extract_lets +onlyGivenNames x; refine Keeps.cut (x := x) (m := tm) (s0 := z) ?_ ?_; unfold x; clear x; rotate_left; intro hx; clear_value x; rotate_right)
    | (extract_lets +onlyGivenNames x; clear_value x)
    | split

def noteSafe_touch : Nat := 0x8000000000000000000000000000000200000010000000000000000000000000000
theorem noteSafe_keeps {tm : Nat} {z s : State} (hm : Sub noteSafe_touch tm) (hs : Keeps tm z s) (high : Bool) :
    Keeps tm z (State.noteSafe high s) := by
  delta State.noteSafe
  repeat' first
    | with_reducible assumption
    | (refine Sub.bit hm ?_; exact rfl)
    | (refine Sub.trans (Sub.of ?_) hm; exact rfl)
    | with_reducible refine Keeps.ite ?_ ?_
    | (refine (?_ : (_ : Bool) = true); exact rfl)
    | with_reducible refine put_keeps ?_ ?_ ?_ _ _
    | with_reducible refine record_keeps ?_ ?_ _ _ _ _
    | with_reducible refine Keeps.idState ?_
    | with_reducible refine foldl_keeps ?_ _ (fun s a hs => ?_)
    | (extract_lets +onlyGivenNames x; refine Keeps.cut (x := x) (m := tm) (s0 := z) ?_ ?_; unfold x; clear x; rotate_left; intro hx; clear_value x; rotate_right)
    | (extract_lets +onlyGivenNames x; clear_value x)
    | split

def phaseEdge_touch : Nat := 0x1005e97c000000000000000004a00060000006000001000000082008a00a004080001400
theorem phaseEdge_keeps {tm : Nat} {z s : State} (hm : Sub phaseEdge_touch tm) (hs : Keeps tm z s) (p : Nat) (low : Bool) (high : Bool) :
    Keeps tm z (State.phaseEdge s p low high) := by
  delta State.phaseEdge
  repeat' first
    | with_reducible assumption
    | (refine Sub.bit hm ?_; exact rfl)
    | (refine Sub.trans (Sub.of ?_) hm; exact rfl)
    | with_reducible refine Keeps.ite ?_ ?_
    | (refine (?_ : (_ : Bool) = true); exact rfl)
    | with_reducible refine put_keeps ?_ ?_ ?_ _ _
    | with_reducible refine noteHit_keeps ?_ ?_ _
    | with_reducible refine setPhaseLatch_keeps ?_ ?_ _ _
    | with_reducible refine Keeps.idState ?_
    | (simp only [Field.up]; refine Sub.bit hm ?_; exact rfl)
    | (dsimp only; refine Sub.bit hm ?_; exact rfl)
    | with_reducible refine foldl_keeps ?_ _ (fun s a hs => ?_)
    | (extract_lets +onlyGivenNames x; refine Keeps.cut (x := x) (m := tm) (s0 := z) ?_ ?_; unfold x; clear x; rotate_left; intro hx; clear_value x; rotate_right)
    | (extract_lets +onlyGivenNames x; clear_value x)
    | split

def execBayPhTrip_touch : Nat := 0x1017f97c000000000000000084a00060000006032043000002882008a00a105080000400
theorem execBayPhTrip_keeps {tm : Nat} {z s : State} (hm : Sub execBayPhTrip_touch tm) (hs : Keeps tm z s) (b : Sys2Proof.Bay) (w : Sys2Proof.BusWrite) :
    KeepsO tm z (execBayPhTrip b w s) := by
  delta execBayPhTrip
  repeat' first
    | with_reducible refine KeepsO.next ?_
    | with_reducible refine KeepsO.ite ?_ ?_
    | with_reducible assumption
    | (refine Sub.bit hm ?_; exact rfl)
    | (refine Sub.trans (Sub.of ?_) hm; exact rfl)
    | with_reducible refine Keeps.ite ?_ ?_
    | (refine (?_ : (_ : Bool) = true); exact rfl)
    | with_reducible refine writePhTrip_keeps ?_ ?_ _ _
    | with_reducible refine settle_keeps ?_ ?_
    | with_reducible refine gate_keeps ?_ ?_ _ _ (fun s a0 hs => ?_)
    | with_reducible refine Keeps.idState ?_
    | with_reducible refine foldl_keeps ?_ _ (fun s a hs => ?_)
    | (extract_lets +onlyGivenNames x; refine Keeps.cut (x := x) (m := tm) (s0 := z) ?_ ?_; unfold x; clear x; rotate_left; intro hx; clear_value x; rotate_right)
    | (extract_lets +onlyGivenNames x; clear_value x)
    | split

def execComparator_touch : Nat := 0x1017f97c000000000000000084a00060000006032043000002882008a00a105080a01400
theorem execComparator_keeps {tm : Nat} {z s : State} (hm : Sub execComparator_touch tm) (hs : Keeps tm z s) (src : Fin 6) (idx : Fin 192) (high : Bool) :
    KeepsO tm z (execComparator src idx high s) := by
  delta execComparator
  repeat' first
    | with_reducible refine KeepsO.next ?_
    | with_reducible refine KeepsO.ite ?_ ?_
    | with_reducible assumption
    | (refine Sub.bit hm ?_; exact rfl)
    | (refine Sub.trans (Sub.of ?_) hm; exact rfl)
    | with_reducible refine Keeps.ite ?_ ?_
    | (refine (?_ : (_ : Bool) = true); exact rfl)
    | with_reducible refine put_keeps ?_ ?_ ?_ _ _
    | with_reducible refine phaseEdge_keeps ?_ ?_ _ _ _
    | with_reducible refine settle_keeps ?_ ?_
    | with_reducible refine begin_keeps ?_ ?_
    | with_reducible refine Keeps.idState ?_
    | with_reducible refine foldl_keeps ?_ _ (fun s a hs => ?_)
    | (extract_lets +onlyGivenNames x; refine Keeps.cut (x := x) (m := tm) (s0 := z) ?_ ?_; unfold x; clear x; rotate_left; intro hx; clear_value x; rotate_right)
    | (extract_lets +onlyGivenNames x; clear_value x)
    | split

def execFaultInEdge_touch : Nat := 0x1017f97c000000000000000084a00060000026032043000002882008a00a105080000400
theorem execFaultInEdge_keeps {tm : Nat} {z s : State} (hm : Sub execFaultInEdge_touch tm) (hs : Keeps tm z s) (n : Fin 4) (high : Bool) :
    KeepsO tm z (execFaultInEdge n high s) := by
  delta execFaultInEdge
  repeat' first
    | with_reducible refine KeepsO.next ?_
    | with_reducible refine KeepsO.ite ?_ ?_
    | with_reducible assumption
    | (refine Sub.bit hm ?_; exact rfl)
    | (refine Sub.trans (Sub.of ?_) hm; exact rfl)
    | with_reducible refine Keeps.ite ?_ ?_
    | (refine (?_ : (_ : Bool) = true); exact rfl)
    | with_reducible refine putBit_keeps ?_ ?_ ?_ _ _ _
    | with_reducible refine setGlobal_keeps ?_ ?_ _ _ _ _ _ ?_ ?_ (fun s hs => ?_)
    | with_reducible refine settle_keeps ?_ ?_
    | with_reducible refine begin_keeps ?_ ?_
    | with_reducible refine noteFin_keeps ?_ ?_ _ _
    | with_reducible refine Keeps.idState ?_
    | with_reducible refine foldl_keeps ?_ _ (fun s a hs => ?_)
    | (extract_lets +onlyGivenNames x; refine Keeps.cut (x := x) (m := tm) (s0 := z) ?_ ?_; unfold x; clear x; rotate_left; intro hx; clear_value x; rotate_right)
    | (extract_lets +onlyGivenNames x; clear_value x)
    | split

def execGlbTrip_touch : Nat := 0x1017f97c000000000000000084a00060000006032043000002882008a00a105080000400
theorem execGlbTrip_keeps {tm : Nat} {z s : State} (hm : Sub execGlbTrip_touch tm) (hs : Keeps tm z s) (w : Sys2Proof.BusWrite) :
    KeepsO tm z (execGlbTrip w s) := by
  delta execGlbTrip
  repeat' first
    | with_reducible refine KeepsO.next ?_
    | with_reducible refine KeepsO.ite ?_ ?_
    | with_reducible assumption
    | (refine Sub.bit hm ?_; exact rfl)
    | (refine Sub.trans (Sub.of ?_) hm; exact rfl)
    | with_reducible refine Keeps.ite ?_ ?_
    | (refine (?_ : (_ : Bool) = true); exact rfl)
    | with_reducible refine settle_keeps ?_ ?_
    | with_reducible refine writeGlbTrip_keeps ?_ ?_ _
    | with_reducible refine gate_keeps ?_ ?_ _ _ (fun s a0 hs => ?_)
    | with_reducible refine Keeps.idState ?_
    | with_reducible refine foldl_keeps ?_ _ (fun s a hs => ?_)
    | (extract_lets +onlyGivenNames x; refine Keeps.cut (x := x) (m := tm) (s0 := z) ?_ ?_; unfold x; clear x; rotate_left; intro hx; clear_value x; rotate_right)
    | (extract_lets +onlyGivenNames x; clear_value x)
    | split

def execHitClr_touch : Nat := 0x904000000000000000004a000600000000020010000000000000000000000000000
theorem execHitClr_keeps {tm : Nat} {z s : State} (hm : Sub execHitClr_touch tm) (hs : Keeps tm z s) (w : Sys2Proof.BusWrite) :
    KeepsO tm z (execHitClr w s) := by
  delta execHitClr
  repeat' first
    | with_reducible refine KeepsO.next ?_
    | with_reducible refine KeepsO.ite ?_ ?_
    | with_reducible assumption
    | (refine Sub.bit hm ?_; exact rfl)
    | (refine Sub.trans (Sub.of ?_) hm; exact rfl)
    | with_reducible refine Keeps.ite ?_ ?_
    | (refine (?_ : (_ : Bool) = true); exact rfl)
    | with_reducible refine gate_keeps ?_ ?_ _ _ (fun s a0 hs => ?_)
    | with_reducible refine writeRtrCtl_keeps ?_ ?_ _
    | with_reducible refine Keeps.idState ?_
    | with_reducible refine foldl_keeps ?_ _ (fun s a hs => ?_)
    | (extract_lets +onlyGivenNames x; refine Keeps.cut (x := x) (m := tm) (s0 := z) ?_ ?_; unfold x; clear x; rotate_left; intro hx; clear_value x; rotate_right)
    | (extract_lets +onlyGivenNames x; clear_value x)
    | split

def execLaneTrip_touch : Nat := 0x1017f97c000000000000000084a00060000006032043000002882008a00a105080000400
theorem execLaneTrip_keeps {tm : Nat} {z s : State} (hm : Sub execLaneTrip_touch tm) (hs : Keeps tm z s) (l : Sys2Proof.Lane) (low : Bool) :
    KeepsO tm z (execLaneTrip l low s) := by
  delta execLaneTrip
  repeat' first
    | with_reducible refine KeepsO.next ?_
    | with_reducible refine KeepsO.ite ?_ ?_
    | with_reducible assumption
    | (refine Sub.bit hm ?_; exact rfl)
    | (refine Sub.trans (Sub.of ?_) hm; exact rfl)
    | with_reducible refine Keeps.ite ?_ ?_
    | (refine (?_ : (_ : Bool) = true); exact rfl)
    | with_reducible refine put_keeps ?_ ?_ ?_ _ _
    | with_reducible refine startAttr_keeps ?_ ?_ _
    | with_reducible refine setLaneLatch_keeps ?_ ?_ _ _
    | with_reducible refine settle_keeps ?_ ?_
    | with_reducible refine begin_keeps ?_ ?_
    | with_reducible refine Keeps.idState ?_
    | with_reducible refine foldl_keeps ?_ _ (fun s a hs => ?_)
    | (extract_lets +onlyGivenNames x; refine Keeps.cut (x := x) (m := tm) (s0 := z) ?_ ?_; unfold x; clear x; rotate_left; intro hx; clear_value x; rotate_right)
    | (extract_lets +onlyGivenNames x; clear_value x)
    | split

def execLfltAttributed_touch : Nat := 0x1017f97c000000000000000084a00060000026032043000002882008a00a105080000400
theorem execLfltAttributed_keeps {tm : Nat} {z s : State} (hm : Sub execLfltAttributed_touch tm) (hs : Keeps tm z s) (l : Sys2Proof.Lane) :
    KeepsO tm z (execLfltAttributed l s) := by
  delta execLfltAttributed
  repeat' first
    | with_reducible refine KeepsO.next ?_
    | with_reducible refine KeepsO.ite ?_ ?_
    | with_reducible assumption
    | (refine Sub.bit hm ?_; exact rfl)
    | (refine Sub.trans (Sub.of ?_) hm; exact rfl)
    | with_reducible refine Keeps.ite ?_ ?_
    | (refine (?_ : (_ : Bool) = true); exact rfl)
    | with_reducible refine put_keeps ?_ ?_ ?_ _ _
    | with_reducible refine quarantinePh_keeps ?_ ?_ _
    | with_reducible refine settle_keeps ?_ ?_
    | with_reducible refine record_keeps ?_ ?_ _ _ _ _
    | with_reducible refine onLane_keeps ?_ ?_ _ _
    | with_reducible refine begin_keeps ?_ ?_
    | with_reducible refine Keeps.idState ?_
    | with_reducible refine foldl_keeps ?_ _ (fun s a hs => ?_)
    | (extract_lets +onlyGivenNames x; refine Keeps.cut (x := x) (m := tm) (s0 := z) ?_ ?_; unfold x; clear x; rotate_left; intro hx; clear_value x; rotate_right)
    | (extract_lets +onlyGivenNames x; clear_value x)
    | split

def execLnTrip_touch : Nat := 0x1017f97c000000000000000084a00060000006032043000002882008a00a105080000400
theorem execLnTrip_keeps {tm : Nat} {z s : State} (hm : Sub execLnTrip_touch tm) (hs : Keeps tm z s) (l : Sys2Proof.Lane) (w : Sys2Proof.BusWrite) :
    KeepsO tm z (execLnTrip l w s) := by
  delta execLnTrip
  repeat' first
    | with_reducible refine KeepsO.next ?_
    | with_reducible refine KeepsO.ite ?_ ?_
    | with_reducible assumption
    | (refine Sub.bit hm ?_; exact rfl)
    | (refine Sub.trans (Sub.of ?_) hm; exact rfl)
    | with_reducible refine Keeps.ite ?_ ?_
    | (refine (?_ : (_ : Bool) = true); exact rfl)
    | with_reducible refine writeLnTrip_keeps ?_ ?_ _ _
    | with_reducible refine settle_keeps ?_ ?_
    | with_reducible refine gate_keeps ?_ ?_ _ _ (fun s a0 hs => ?_)
    | with_reducible refine Keeps.idState ?_
    | with_reducible refine foldl_keeps ?_ _ (fun s a hs => ?_)
    | (extract_lets +onlyGivenNames x; refine Keeps.cut (x := x) (m := tm) (s0 := z) ?_ ?_; unfold x; clear x; rotate_left; intro hx; clear_value x; rotate_right)
    | (extract_lets +onlyGivenNames x; clear_value x)
    | split

def execPhaseTrip_touch : Nat := 0x1017f97c000000000000000084a00060000006032043000002882008a00a105080001400
theorem execPhaseTrip_keeps {tm : Nat} {z s : State} (hm : Sub execPhaseTrip_touch tm) (hs : Keeps tm z s) (p : Sys2Proof.Phase) (low : Bool) :
    KeepsO tm z (execPhaseTrip p low s) := by
  delta execPhaseTrip
  repeat' first
    | with_reducible refine KeepsO.next ?_
    | with_reducible refine KeepsO.ite ?_ ?_
    | with_reducible assumption
    | (refine Sub.bit hm ?_; exact rfl)
    | (refine Sub.trans (Sub.of ?_) hm; exact rfl)
    | with_reducible refine Keeps.ite ?_ ?_
    | (refine (?_ : (_ : Bool) = true); exact rfl)
    | with_reducible refine phaseEdge_keeps ?_ ?_ _ _ _
    | with_reducible refine settle_keeps ?_ ?_
    | with_reducible refine begin_keeps ?_ ?_
    | with_reducible refine Keeps.idState ?_
    | with_reducible refine foldl_keeps ?_ _ (fun s a hs => ?_)
    | (extract_lets +onlyGivenNames x; refine Keeps.cut (x := x) (m := tm) (s0 := z) ?_ ?_; unfold x; clear x; rotate_left; intro hx; clear_value x; rotate_right)
    | (extract_lets +onlyGivenNames x; clear_value x)
    | split

def execRtrRoute_touch : Nat := 0x1017f97c000000000000000084a000600000060360c3000002882008a00a105080000400
theorem execRtrRoute_keeps {tm : Nat} {z s : State} (hm : Sub execRtrRoute_touch tm) (hs : Keeps tm z s) (n : Fin 128) (w : Sys2Proof.BusWrite) :
    KeepsO tm z (execRtrRoute n w s) := by
  delta execRtrRoute
  repeat' first
    | with_reducible refine KeepsO.next ?_
    | with_reducible refine KeepsO.ite ?_ ?_
    | with_reducible assumption
    | (refine Sub.bit hm ?_; exact rfl)
    | (refine Sub.trans (Sub.of ?_) hm; exact rfl)
    | with_reducible refine Keeps.ite ?_ ?_
    | (refine (?_ : (_ : Bool) = true); exact rfl)
    | with_reducible refine writeRoute_keeps ?_ ?_ _ _
    | with_reducible refine settle_keeps ?_ ?_
    | with_reducible refine gate_keeps ?_ ?_ _ _ (fun s a0 hs => ?_)
    | with_reducible refine Keeps.idState ?_
    | with_reducible refine foldl_keeps ?_ _ (fun s a hs => ?_)
    | (extract_lets +onlyGivenNames x; refine Keeps.cut (x := x) (m := tm) (s0 := z) ?_ ?_; unfold x; clear x; rotate_left; intro hx; clear_value x; rotate_right)
    | (extract_lets +onlyGivenNames x; clear_value x)
    | split

def execRtrTio_touch : Nat := 0x1017f97c000000000000000084a00060000006032443000002882008a00a105080000400
theorem execRtrTio_keeps {tm : Nat} {z s : State} (hm : Sub execRtrTio_touch tm) (hs : Keeps tm z s) (w : Sys2Proof.BusWrite) :
    KeepsO tm z (execRtrTio w s) := by
  delta execRtrTio
  repeat' first
    | with_reducible refine KeepsO.next ?_
    | with_reducible refine KeepsO.ite ?_ ?_
    | with_reducible assumption
    | (refine Sub.bit hm ?_; exact rfl)
    | (refine Sub.trans (Sub.of ?_) hm; exact rfl)
    | with_reducible refine Keeps.ite ?_ ?_
    | (refine (?_ : (_ : Bool) = true); exact rfl)
    | with_reducible refine settle_keeps ?_ ?_
    | with_reducible refine writeTio_keeps ?_ ?_ _
    | with_reducible refine gate_keeps ?_ ?_ _ _ (fun s a0 hs => ?_)
    | with_reducible refine Keeps.idState ?_
    | with_reducible refine foldl_keeps ?_ _ (fun s a hs => ?_)
    | (extract_lets +onlyGivenNames x; refine Keeps.cut (x := x) (m := tm) (s0 := z) ?_ ?_; unfold x; clear x; rotate_left; intro hx; clear_value x; rotate_right)
    | (extract_lets +onlyGivenNames x; clear_value x)
    | split

def execSafeNEdge_touch : Nat := 0x1017fd7c000000000000000084a00060000026032043000002882008a00a105080000400
theorem execSafeNEdge_keeps {tm : Nat} {z s : State} (hm : Sub execSafeNEdge_touch tm) (hs : Keeps tm z s) (high : Bool) :
    KeepsO tm z (execSafeNEdge high s) := by
  delta execSafeNEdge
  repeat' first
    | with_reducible refine KeepsO.next ?_
    | with_reducible refine KeepsO.ite ?_ ?_
    | with_reducible assumption
    | (refine Sub.bit hm ?_; exact rfl)
    | (refine Sub.trans (Sub.of ?_) hm; exact rfl)
    | with_reducible refine Keeps.ite ?_ ?_
    | (refine (?_ : (_ : Bool) = true); exact rfl)
    | with_reducible refine put_keeps ?_ ?_ ?_ _ _
    | with_reducible refine setGlobal_keeps ?_ ?_ _ _ _ _ _ ?_ ?_ (fun s hs => ?_)
    | with_reducible refine settle_keeps ?_ ?_
    | with_reducible refine noteSafe_keeps ?_ ?_ _
    | with_reducible refine begin_keeps ?_ ?_
    | with_reducible refine Keeps.idState ?_
    | with_reducible refine foldl_keeps ?_ _ (fun s a hs => ?_)
    | (extract_lets +onlyGivenNames x; refine Keeps.cut (x := x) (m := tm) (s0 := z) ?_ ?_; unfold x; clear x; rotate_left; intro hx; clear_value x; rotate_right)
    | (extract_lets +onlyGivenNames x; clear_value x)
    | split
    | with_reducible refine upd_sec_keeps ?_ ?_ _

end Sys2Proof.Machine
end

