-- ==== Sys2Proof/Laws/KeepsSensing.lean ====
section
/-!
SUPPORT. Sys2Proof/Laws/KeepsSensing.lean: what each function of Machine/Sensing.lean may change: its touch set, and one lemma per function.
-/
namespace Sys2Proof.Machine

open Sys2Proof

def cleanXchk_touch : Nat := 0x40000000000000000000000000000000000000000000000000000000000000000000
theorem cleanXchk_keeps {tm : Nat} {z s : State} (hm : Sub cleanXchk_touch tm) (hs : Keeps tm z s) (l : Nat) :
    Keeps tm z (State.cleanXchk s l) := by
  delta State.cleanXchk
  repeat' first
    | with_reducible assumption
    | (refine Sub.bit hm ?_; exact rfl)
    | (refine Sub.trans (Sub.of ?_) hm; exact rfl)
    | with_reducible refine Keeps.ite ?_ ?_
    | (refine (?_ : (_ : Bool) = true); exact rfl)
    | with_reducible refine onLane_keeps ?_ ?_ _ _
    | with_reducible refine Keeps.idState ?_
    | with_reducible refine foldl_keeps ?_ _ (fun s a hs => ?_)
    | (extract_lets +onlyGivenNames x; refine Keeps.cut (x := x) (m := tm) (s0 := z) ?_ ?_; unfold x; clear x; rotate_left; intro hx; clear_value x; rotate_right)
    | (extract_lets +onlyGivenNames x; clear_value x)
    | split

def writeRbCtl_touch : Nat := 0x1000000000000000000000000000000000000000000000000000000000000000c0000
theorem writeRbCtl_keeps {tm : Nat} {z s : State} (hm : Sub writeRbCtl_touch tm) (hs : Keeps tm z s) (b : Nat) (w : Nat) :
    Keeps tm z (State.writeRbCtl s b w) := by
  delta State.writeRbCtl
  repeat' first
    | with_reducible assumption
    | (refine Sub.bit hm ?_; exact rfl)
    | (refine Sub.trans (Sub.of ?_) hm; exact rfl)
    | with_reducible refine Keeps.ite ?_ ?_
    | (refine (?_ : (_ : Bool) = true); exact rfl)
    | with_reducible refine put_keeps ?_ ?_ ?_ _ _
    | with_reducible refine plainWrite_keeps ?_ ?_ _ _ _ ?_
    | with_reducible refine onBay_keeps ?_ ?_ _ _
    | with_reducible refine Keeps.idState ?_
    | with_reducible refine foldl_keeps ?_ _ (fun s a hs => ?_)
    | (extract_lets +onlyGivenNames x; refine Keeps.cut (x := x) (m := tm) (s0 := z) ?_ ?_; unfold x; clear x; rotate_left; intro hx; clear_value x; rotate_right)
    | (extract_lets +onlyGivenNames x; clear_value x)
    | split

def writeTherm_touch : Nat := 0x48000000000000000000000000000000060000010000000000000000000000000000
theorem writeTherm_keeps {tm : Nat} {z s : State} (hm : Sub writeTherm_touch tm) (hs : Keeps tm z s) (l : Nat) (on : Bool) :
    Keeps tm z (State.writeTherm s l on) := by
  delta State.writeTherm
  repeat' first
    | with_reducible assumption
    | (refine Sub.bit hm ?_; exact rfl)
    | (refine Sub.trans (Sub.of ?_) hm; exact rfl)
    | with_reducible refine Keeps.ite ?_ ?_
    | (refine (?_ : (_ : Bool) = true); exact rfl)
    | with_reducible refine putTherm_keeps ?_ ?_ _ _
    | with_reducible refine setAux_keeps ?_ ?_ _ _
    | with_reducible refine record_keeps ?_ ?_ _ _ _ _
    | with_reducible refine Keeps.idState ?_
    | with_reducible refine foldl_keeps ?_ _ (fun s a hs => ?_)
    | (extract_lets +onlyGivenNames x; refine Keeps.cut (x := x) (m := tm) (s0 := z) ?_ ?_; unfold x; clear x; rotate_left; intro hx; clear_value x; rotate_right)
    | (extract_lets +onlyGivenNames x; clear_value x)
    | split

def writeThermReg_touch : Nat := 0x48000000000000000000000000000000060000010000000000000000000000000000
theorem writeThermReg_keeps {tm : Nat} {z s : State} (hm : Sub writeThermReg_touch tm) (hs : Keeps tm z s) (hi : Bool) (w : Nat) :
    Keeps tm z (State.writeThermReg s hi w) := by
  delta State.writeThermReg
  repeat' first
    | with_reducible assumption
    | (refine Sub.bit hm ?_; exact rfl)
    | (refine Sub.trans (Sub.of ?_) hm; exact rfl)
    | with_reducible refine Keeps.ite ?_ ?_
    | (refine (?_ : (_ : Bool) = true); exact rfl)
    | with_reducible refine forEach_keeps ?_ _ (fun s a hs => ?_)
    | with_reducible refine writeTherm_keeps ?_ ?_ _ _
    | with_reducible refine Keeps.idState ?_
    | with_reducible refine foldl_keeps ?_ _ (fun s a hs => ?_)
    | (extract_lets +onlyGivenNames x; refine Keeps.cut (x := x) (m := tm) (s0 := z) ?_ ?_; unfold x; clear x; rotate_left; intro hx; clear_value x; rotate_right)
    | (extract_lets +onlyGivenNames x; clear_value x)
    | split

def onTele_touch : Nat := 0x1000000000000000000000000000000000000000000000000000000000000000000
theorem onTele_keeps {tm : Nat} {z s : State} (hm : Sub onTele_touch tm) (hs : Keeps tm z s) (l : Nat) (f : Sys2Proof.Machine.TeleAcc → Sys2Proof.Machine.TeleAcc) :
    Keeps tm z (State.onTele s l f) := by
  delta State.onTele
  repeat' first
    | with_reducible assumption
    | (refine Sub.bit hm ?_; exact rfl)
    | (refine Sub.trans (Sub.of ?_) hm; exact rfl)
    | with_reducible refine Keeps.ite ?_ ?_
    | (refine (?_ : (_ : Bool) = true); exact rfl)
    | with_reducible refine Keeps.idState ?_
    | with_reducible refine foldl_keeps ?_ _ (fun s a hs => ?_)
    | (extract_lets +onlyGivenNames x; refine Keeps.cut (x := x) (m := tm) (s0 := z) ?_ ?_; unfold x; clear x; rotate_left; intro hx; clear_value x; rotate_right)
    | (extract_lets +onlyGivenNames x; clear_value x)
    | split
    | with_reducible refine upd_tenants_keeps ?_ ?_ _

def noteBus_touch : Nat := 0x241000000000000000000000000000000000000000000000000000000000000000000
theorem noteBus_keeps {tm : Nat} {z s : State} (hm : Sub noteBus_touch tm) (hs : Keeps tm z s) (g : Nat) (v : Int) :
    Keeps tm z (State.noteBus s g v) := by
  delta State.noteBus
  repeat' first
    | with_reducible assumption
    | (refine Sub.bit hm ?_; exact rfl)
    | (refine Sub.trans (Sub.of ?_) hm; exact rfl)
    | with_reducible refine Keeps.ite ?_ ?_
    | (refine (?_ : (_ : Bool) = true); exact rfl)
    | with_reducible refine forEach_keeps ?_ _ (fun s a hs => ?_)
    | with_reducible refine onTele_keeps ?_ ?_ _ _
    | with_reducible refine onLane_keeps ?_ ?_ _ _
    | with_reducible refine onSeg_keeps ?_ ?_ _ _
    | with_reducible refine Keeps.idState ?_
    | with_reducible refine foldl_keeps ?_ _ (fun s a hs => ?_)
    | (extract_lets +onlyGivenNames x; refine Keeps.cut (x := x) (m := tm) (s0 := z) ?_ ?_; unfold x; clear x; rotate_left; intro hx; clear_value x; rotate_right)
    | (extract_lets +onlyGivenNames x; clear_value x)
    | split

def noteTap_touch : Nat := 0x41000000000000000000000000000000000000000000000000000000000000000000
theorem noteTap_keeps {tm : Nat} {z s : State} (hm : Sub noteTap_touch tm) (hs : Keeps tm z s) (l : Nat) (v : Int) (i : Int) :
    Keeps tm z (State.noteTap s l v i) := by
  delta State.noteTap
  repeat' first
    | with_reducible assumption
    | (refine Sub.bit hm ?_; exact rfl)
    | (refine Sub.trans (Sub.of ?_) hm; exact rfl)
    | with_reducible refine Keeps.ite ?_ ?_
    | (refine (?_ : (_ : Bool) = true); exact rfl)
    | with_reducible refine onTele_keeps ?_ ?_ _ _
    | with_reducible refine onLane_keeps ?_ ?_ _ _
    | with_reducible refine Keeps.idState ?_
    | with_reducible refine foldl_keeps ?_ _ (fun s a hs => ?_)
    | (extract_lets +onlyGivenNames x; refine Keeps.cut (x := x) (m := tm) (s0 := z) ?_ ?_; unfold x; clear x; rotate_left; intro hx; clear_value x; rotate_right)
    | (extract_lets +onlyGivenNames x; clear_value x)
    | split

def rbMark_touch : Nat := 0x2c0000000000000000000000000000000000000000000000000000000000000000000
theorem rbMark_keeps {tm : Nat} {z s : State} (hm : Sub rbMark_touch tm) (hs : Keeps tm z s) (b : Nat) (sel : Nat) (bad : Bool) :
    Keeps tm z (State.rbMark s b sel bad) := by
  delta State.rbMark
  repeat' first
    | with_reducible assumption
    | (refine Sub.bit hm ?_; exact rfl)
    | (refine Sub.trans (Sub.of ?_) hm; exact rfl)
    | with_reducible refine Keeps.ite ?_ ?_
    | (refine (?_ : (_ : Bool) = true); exact rfl)
    | with_reducible refine onPh_keeps ?_ ?_ _ _
    | with_reducible refine onLane_keeps ?_ ?_ _ _
    | with_reducible refine onSeg_keeps ?_ ?_ _ _
    | with_reducible refine Keeps.idState ?_
    | with_reducible refine foldl_keeps ?_ _ (fun s a hs => ?_)
    | (extract_lets +onlyGivenNames x; refine Keeps.cut (x := x) (m := tm) (s0 := z) ?_ ?_; unfold x; clear x; rotate_left; intro hx; clear_value x; rotate_right)
    | (extract_lets +onlyGivenNames x; clear_value x)
    | split

def showSupply_touch : Nat := 0x800000000000000000000000000000000
theorem showSupply_keeps {tm : Nat} {z s : State} (hm : Sub showSupply_touch tm) (hs : Keeps tm z s) (b : Nat) :
    Keeps tm z (State.showSupply s b) := by
  delta State.showSupply
  repeat' first
    | with_reducible assumption
    | (refine Sub.bit hm ?_; exact rfl)
    | (refine Sub.trans (Sub.of ?_) hm; exact rfl)
    | with_reducible refine Keeps.ite ?_ ?_
    | (refine (?_ : (_ : Bool) = true); exact rfl)
    | with_reducible refine wr_keeps ?_ ?_ ?_ _ _
    | with_reducible refine putBit_keeps ?_ ?_ ?_ _ _ _
    | with_reducible refine Keeps.idState ?_
    | with_reducible refine foldl_keeps ?_ _ (fun s a hs => ?_)
    | (extract_lets +onlyGivenNames x; refine Keeps.cut (x := x) (m := tm) (s0 := z) ?_ ?_; unfold x; clear x; rotate_left; intro hx; clear_value x; rotate_right)
    | (extract_lets +onlyGivenNames x; clear_value x)
    | split

def execAutoReadback_touch : Nat := 0x100040000000000000000000000000000000000000000000000000000000000000000
theorem execAutoReadback_keeps {tm : Nat} {z s : State} (hm : Sub execAutoReadback_touch tm) (hs : Keeps tm z s) (b : Sys2Proof.Bay) :
    KeepsO tm z (execAutoReadback b s) := by
  delta execAutoReadback
  repeat' first
    | with_reducible refine KeepsO.next ?_
    | with_reducible refine KeepsO.ite ?_ ?_
    | with_reducible assumption
    | (refine Sub.bit hm ?_; exact rfl)
    | (refine Sub.trans (Sub.of ?_) hm; exact rfl)
    | with_reducible refine Keeps.ite ?_ ?_
    | (refine (?_ : (_ : Bool) = true); exact rfl)
    | with_reducible refine begin_keeps ?_ ?_
    | with_reducible refine onBay_keeps ?_ ?_ _ _
    | with_reducible refine Keeps.idState ?_
    | with_reducible refine foldl_keeps ?_ _ (fun s a hs => ?_)
    | (extract_lets +onlyGivenNames x; refine Keeps.cut (x := x) (m := tm) (s0 := z) ?_ ?_; unfold x; clear x; rotate_left; intro hx; clear_value x; rotate_right)
    | (extract_lets +onlyGivenNames x; clear_value x)
    | split

def execAuxTempAverage_touch : Nat := 0x1017f97c000000000000000084a00060000026032043000002882008a00a105080000400
theorem execAuxTempAverage_keeps {tm : Nat} {z s : State} (hm : Sub execAuxTempAverage_touch tm) (hs : Keeps tm z s) (l : Sys2Proof.Lane) (mv : Fin 2049) :
    KeepsO tm z (execAuxTempAverage l mv s) := by
  delta execAuxTempAverage
  repeat' first
    | with_reducible refine KeepsO.next ?_
    | with_reducible refine KeepsO.ite ?_ ?_
    | with_reducible assumption
    | (refine Sub.bit hm ?_; exact rfl)
    | (refine Sub.trans (Sub.of ?_) hm; exact rfl)
    | with_reducible refine Keeps.ite ?_ ?_
    | (refine (?_ : (_ : Bool) = true); exact rfl)
    | with_reducible refine put_keeps ?_ ?_ ?_ _ _
    | with_reducible refine settle_keeps ?_ ?_
    | with_reducible refine record_keeps ?_ ?_ _ _ _ _
    | with_reducible refine onLane_keeps ?_ ?_ _ _
    | with_reducible refine begin_keeps ?_ ?_
    | with_reducible refine Keeps.idState ?_
    | with_reducible refine foldl_keeps ?_ _ (fun s a hs => ?_)
    | (extract_lets +onlyGivenNames x; refine Keeps.cut (x := x) (m := tm) (s0 := z) ?_ ?_; unfold x; clear x; rotate_left; intro hx; clear_value x; rotate_right)
    | (extract_lets +onlyGivenNames x; clear_value x)
    | split

def execControlTapSample_touch : Nat := 0x49040000000000000000000000000000000000010000000000000000000000400000
theorem execControlTapSample_keeps {tm : Nat} {z s : State} (hm : Sub execControlTapSample_touch tm) (hs : Keeps tm z s) (l : Sys2Proof.Lane) (v : BitVec 16) (i : BitVec 16) :
    KeepsO tm z (execControlTapSample l v i s) := by
  delta execControlTapSample
  repeat' first
    | with_reducible refine KeepsO.next ?_
    | with_reducible refine KeepsO.ite ?_ ?_
    | with_reducible assumption
    | (refine Sub.bit hm ?_; exact rfl)
    | (refine Sub.trans (Sub.of ?_) hm; exact rfl)
    | with_reducible refine Keeps.ite ?_ ?_
    | (refine (?_ : (_ : Bool) = true); exact rfl)
    | with_reducible refine put_keeps ?_ ?_ ?_ _ _
    | with_reducible refine noteTap_keeps ?_ ?_ _ _ _
    | with_reducible refine record_keeps ?_ ?_ _ _ _ _
    | with_reducible refine onLane_keeps ?_ ?_ _ _
    | with_reducible refine begin_keeps ?_ ?_
    | with_reducible refine Keeps.idState ?_
    | with_reducible refine foldl_keeps ?_ _ (fun s a hs => ?_)
    | (extract_lets +onlyGivenNames x; refine Keeps.cut (x := x) (m := tm) (s0 := z) ?_ ?_; unfold x; clear x; rotate_left; intro hx; clear_value x; rotate_right)
    | (extract_lets +onlyGivenNames x; clear_value x)
    | split

def execDieTempTrip_touch : Nat := 0x1017f97c000000000000000084a00060000006432043000002882008a00a105080000400
theorem execDieTempTrip_keeps {tm : Nat} {z s : State} (hm : Sub execDieTempTrip_touch tm) (hs : Keeps tm z s) (b : Sys2Proof.Bay) (quarterC : BitVec 12) :
    KeepsO tm z (execDieTempTrip b quarterC s) := by
  delta execDieTempTrip
  repeat' first
    | with_reducible refine KeepsO.next ?_
    | with_reducible refine KeepsO.ite ?_ ?_
    | with_reducible assumption
    | (refine Sub.bit hm ?_; exact rfl)
    | (refine Sub.trans (Sub.of ?_) hm; exact rfl)
    | with_reducible refine Keeps.ite ?_ ?_
    | (refine (?_ : (_ : Bool) = true); exact rfl)
    | with_reducible refine put_keeps ?_ ?_ ?_ _ _
    | with_reducible refine putBit_keeps ?_ ?_ ?_ _ _ _
    | with_reducible refine settle_keeps ?_ ?_
    | with_reducible refine record_keeps ?_ ?_ _ _ _ _
    | with_reducible refine begin_keeps ?_ ?_
    | with_reducible refine onBay_keeps ?_ ?_ _ _
    | with_reducible refine Keeps.idState ?_
    | with_reducible refine foldl_keeps ?_ _ (fun s a hs => ?_)
    | (extract_lets +onlyGivenNames x; refine Keeps.cut (x := x) (m := tm) (s0 := z) ?_ ?_; unfold x; clear x; rotate_left; intro hx; clear_value x; rotate_right)
    | (extract_lets +onlyGivenNames x; clear_value x)
    | split

def execDieTempWarn_touch : Nat := 0x1017f97c000000000000000084a00060000006432043000002882008a00a105080000400
theorem execDieTempWarn_keeps {tm : Nat} {z s : State} (hm : Sub execDieTempWarn_touch tm) (hs : Keeps tm z s) (b : Sys2Proof.Bay) (quarterC : BitVec 12) :
    KeepsO tm z (execDieTempWarn b quarterC s) := by
  delta execDieTempWarn
  repeat' first
    | with_reducible refine KeepsO.next ?_
    | with_reducible refine KeepsO.ite ?_ ?_
    | with_reducible assumption
    | (refine Sub.bit hm ?_; exact rfl)
    | (refine Sub.trans (Sub.of ?_) hm; exact rfl)
    | with_reducible refine Keeps.ite ?_ ?_
    | (refine (?_ : (_ : Bool) = true); exact rfl)
    | with_reducible refine put_keeps ?_ ?_ ?_ _ _
    | with_reducible refine putBit_keeps ?_ ?_ ?_ _ _ _
    | with_reducible refine settle_keeps ?_ ?_
    | with_reducible refine record_keeps ?_ ?_ _ _ _ _
    | with_reducible refine begin_keeps ?_ ?_
    | with_reducible refine onBay_keeps ?_ ?_ _ _
    | with_reducible refine Keeps.idState ?_
    | with_reducible refine foldl_keeps ?_ _ (fun s a hs => ?_)
    | (extract_lets +onlyGivenNames x; refine Keeps.cut (x := x) (m := tm) (s0 := z) ?_ ?_; unfold x; clear x; rotate_left; intro hx; clear_value x; rotate_right)
    | (extract_lets +onlyGivenNames x; clear_value x)
    | split

def execGlbThmEn_touch : Nat := 0x1017f97c000000000000000084a00060000006032043000002882008a00a105080000400
theorem execGlbThmEn_keeps {tm : Nat} {z s : State} (hm : Sub execGlbThmEn_touch tm) (hs : Keeps tm z s) (hi : Bool) (w : Sys2Proof.BusWrite) :
    KeepsO tm z (execGlbThmEn hi w s) := by
  delta execGlbThmEn
  repeat' first
    | with_reducible refine KeepsO.next ?_
    | with_reducible refine KeepsO.ite ?_ ?_
    | with_reducible assumption
    | (refine Sub.bit hm ?_; exact rfl)
    | (refine Sub.trans (Sub.of ?_) hm; exact rfl)
    | with_reducible refine Keeps.ite ?_ ?_
    | (refine (?_ : (_ : Bool) = true); exact rfl)
    | with_reducible refine writeThermReg_keeps ?_ ?_ _ _
    | with_reducible refine settle_keeps ?_ ?_
    | with_reducible refine gate_keeps ?_ ?_ _ _ (fun s a0 hs => ?_)
    | with_reducible refine Keeps.idState ?_
    | with_reducible refine foldl_keeps ?_ _ (fun s a hs => ?_)
    | (extract_lets +onlyGivenNames x; refine Keeps.cut (x := x) (m := tm) (s0 := z) ?_ ?_; unfold x; clear x; rotate_left; intro hx; clear_value x; rotate_right)
    | (extract_lets +onlyGivenNames x; clear_value x)
    | split

def execGo_touch : Nat := 0x10904000000000000000004a0006000000000000100000000000000000000000c0000
theorem execGo_keeps {tm : Nat} {z s : State} (hm : Sub execGo_touch tm) (hs : Keeps tm z s) (b : Sys2Proof.Bay) (w : Sys2Proof.BusWrite) :
    KeepsO tm z (execGo b w s) := by
  delta execGo
  repeat' first
    | with_reducible refine KeepsO.next ?_
    | with_reducible refine KeepsO.ite ?_ ?_
    | with_reducible assumption
    | (refine Sub.bit hm ?_; exact rfl)
    | (refine Sub.trans (Sub.of ?_) hm; exact rfl)
    | with_reducible refine Keeps.ite ?_ ?_
    | (refine (?_ : (_ : Bool) = true); exact rfl)
    | with_reducible refine writeRbCtl_keeps ?_ ?_ _ _
    | with_reducible refine gate_keeps ?_ ?_ _ _ (fun s a0 hs => ?_)
    | with_reducible refine Keeps.idState ?_
    | with_reducible refine foldl_keeps ?_ _ (fun s a hs => ?_)
    | (extract_lets +onlyGivenNames x; refine Keeps.cut (x := x) (m := tm) (s0 := z) ?_ ?_; unfold x; clear x; rotate_left; intro hx; clear_value x; rotate_right)
    | (extract_lets +onlyGivenNames x; clear_value x)
    | split

def execInterlockOpen_touch : Nat := 0x1017f97c000000000000000084a00060000026032043000002882008a00a105080000400
theorem execInterlockOpen_keeps {tm : Nat} {z s : State} (hm : Sub execInterlockOpen_touch tm) (hs : Keeps tm z s) (l : Sys2Proof.Lane) (mv : Fin 2049) :
    KeepsO tm z (execInterlockOpen l mv s) := by
  delta execInterlockOpen
  repeat' first
    | with_reducible refine KeepsO.next ?_
    | with_reducible refine KeepsO.ite ?_ ?_
    | with_reducible assumption
    | (refine Sub.bit hm ?_; exact rfl)
    | (refine Sub.trans (Sub.of ?_) hm; exact rfl)
    | with_reducible refine Keeps.ite ?_ ?_
    | (refine (?_ : (_ : Bool) = true); exact rfl)
    | with_reducible refine put_keeps ?_ ?_ ?_ _ _
    | with_reducible refine settle_keeps ?_ ?_
    | with_reducible refine record_keeps ?_ ?_ _ _ _ _
    | with_reducible refine onLane_keeps ?_ ?_ _ _
    | with_reducible refine begin_keeps ?_ ?_
    | with_reducible refine Keeps.idState ?_
    | with_reducible refine foldl_keeps ?_ _ (fun s a hs => ?_)
    | (extract_lets +onlyGivenNames x; refine Keeps.cut (x := x) (m := tm) (s0 := z) ?_ ?_; unfold x; clear x; rotate_left; intro hx; clear_value x; rotate_right)
    | (extract_lets +onlyGivenNames x; clear_value x)
    | split

def execIsrefWindow_touch : Nat := 0x1017f97c000000000000000084a00060000006032043000002882008a00a105080100400
theorem execIsrefWindow_keeps {tm : Nat} {z s : State} (hm : Sub execIsrefWindow_touch tm) (hs : Keeps tm z s) (b : Sys2Proof.Bay) (code : BitVec 12) :
    KeepsO tm z (execIsrefWindow b code s) := by
  delta execIsrefWindow
  repeat' first
    | with_reducible refine KeepsO.next ?_
    | with_reducible refine KeepsO.ite ?_ ?_
    | with_reducible assumption
    | (refine Sub.bit hm ?_; exact rfl)
    | (refine Sub.trans (Sub.of ?_) hm; exact rfl)
    | with_reducible refine Keeps.ite ?_ ?_
    | (refine (?_ : (_ : Bool) = true); exact rfl)
    | with_reducible refine wr_keeps ?_ ?_ ?_ _ _
    | with_reducible refine put_keeps ?_ ?_ ?_ _ _
    | with_reducible refine forEach_keeps ?_ _ (fun s a hs => ?_)
    | with_reducible refine setLaneLatch_keeps ?_ ?_ _ _
    | with_reducible refine settle_keeps ?_ ?_
    | with_reducible refine record_keeps ?_ ?_ _ _ _ _
    | with_reducible refine begin_keeps ?_ ?_
    | with_reducible refine onBay_keeps ?_ ?_ _ _
    | with_reducible refine Keeps.idState ?_
    | with_reducible refine foldl_keeps ?_ _ (fun s a hs => ?_)
    | (extract_lets +onlyGivenNames x; refine Keeps.cut (x := x) (m := tm) (s0 := z) ?_ ?_; unfold x; clear x; rotate_left; intro hx; clear_value x; rotate_right)
    | (extract_lets +onlyGivenNames x; clear_value x)
    | split

def execReadbackDone_touch : Nat := 0x1017f97c000000000000000084a00060000006032043000002882008a00a105080080400
theorem execReadbackDone_keeps {tm : Nat} {z s : State} (hm : Sub execReadbackDone_touch tm) (hs : Keeps tm z s) (b : Sys2Proof.Bay) (sel : Fin 42) (code : BitVec 12) :
    KeepsO tm z (execReadbackDone b sel code s) := by
  delta execReadbackDone
  repeat' first
    | with_reducible refine KeepsO.next ?_
    | with_reducible refine KeepsO.ite ?_ ?_
    | with_reducible assumption
    | (refine Sub.bit hm ?_; exact rfl)
    | (refine Sub.trans (Sub.of ?_) hm; exact rfl)
    | with_reducible refine Keeps.ite ?_ ?_
    | (refine (?_ : (_ : Bool) = true); exact rfl)
    | with_reducible refine wr_keeps ?_ ?_ ?_ _ _
    | with_reducible refine put_keeps ?_ ?_ ?_ _ _
    | with_reducible refine settle_keeps ?_ ?_
    | with_reducible refine record_keeps ?_ ?_ _ _ _ _
    | with_reducible refine begin_keeps ?_ ?_
    | with_reducible refine rbMark_keeps ?_ ?_ _ _ _
    | with_reducible refine onBay_keeps ?_ ?_ _ _
    | with_reducible refine Keeps.idState ?_
    | with_reducible refine foldl_keeps ?_ _ (fun s a hs => ?_)
    | (extract_lets +onlyGivenNames x; refine Keeps.cut (x := x) (m := tm) (s0 := z) ?_ ?_; unfold x; clear x; rotate_left; intro hx; clear_value x; rotate_right)
    | (extract_lets +onlyGivenNames x; clear_value x)
    | split

def execSegmentSarConversion_touch : Nat := 0x249040000000000000000000000000000000000010000000000000000000001000000
theorem execSegmentSarConversion_keeps {tm : Nat} {z s : State} (hm : Sub execSegmentSarConversion_touch tm) (hs : Keeps tm z s) (sg : Sys2Proof.Seg) (code : BitVec 12) :
    KeepsO tm z (execSegmentSarConversion sg code s) := by
  delta execSegmentSarConversion
  repeat' first
    | with_reducible refine KeepsO.next ?_
    | with_reducible refine KeepsO.ite ?_ ?_
    | with_reducible assumption
    | (refine Sub.bit hm ?_; exact rfl)
    | (refine Sub.trans (Sub.of ?_) hm; exact rfl)
    | with_reducible refine Keeps.ite ?_ ?_
    | (refine (?_ : (_ : Bool) = true); exact rfl)
    | with_reducible refine put_keeps ?_ ?_ ?_ _ _
    | with_reducible refine noteBus_keeps ?_ ?_ _ _
    | with_reducible refine record_keeps ?_ ?_ _ _ _ _
    | with_reducible refine begin_keeps ?_ ?_
    | with_reducible refine onSeg_keeps ?_ ?_ _ _
    | with_reducible refine Keeps.idState ?_
    | with_reducible refine foldl_keeps ?_ _ (fun s a hs => ?_)
    | (extract_lets +onlyGivenNames x; refine Keeps.cut (x := x) (m := tm) (s0 := z) ?_ ?_; unfold x; clear x; rotate_left; intro hx; clear_value x; rotate_right)
    | (extract_lets +onlyGivenNames x; clear_value x)
    | split

def execSupplyWindow_touch : Nat := 0x1017f97c000000000000000084a000600000060b2043000002882008a00a105080000400
theorem execSupplyWindow_keeps {tm : Nat} {z s : State} (hm : Sub execSupplyWindow_touch tm) (hs : Keeps tm z s) (b : Sys2Proof.Bay) (tap : Fin 4) (mv : BitVec 12) :
    KeepsO tm z (execSupplyWindow b tap mv s) := by
  delta execSupplyWindow
  repeat' first
    | with_reducible refine KeepsO.next ?_
    | with_reducible refine KeepsO.ite ?_ ?_
    | with_reducible assumption
    | (refine Sub.bit hm ?_; exact rfl)
    | (refine Sub.trans (Sub.of ?_) hm; exact rfl)
    | with_reducible refine Keeps.ite ?_ ?_
    | (refine (?_ : (_ : Bool) = true); exact rfl)
    | with_reducible refine put_keeps ?_ ?_ ?_ _ _
    | with_reducible refine showSupply_keeps ?_ ?_ _
    | with_reducible refine settle_keeps ?_ ?_
    | with_reducible refine record_keeps ?_ ?_ _ _ _ _
    | with_reducible refine begin_keeps ?_ ?_
    | with_reducible refine onBay_keeps ?_ ?_ _ _
    | with_reducible refine Keeps.idState ?_
    | with_reducible refine foldl_keeps ?_ _ (fun s a hs => ?_)
    | (extract_lets +onlyGivenNames x; refine Keeps.cut (x := x) (m := tm) (s0 := z) ?_ ?_; unfold x; clear x; rotate_left; intro hx; clear_value x; rotate_right)
    | (extract_lets +onlyGivenNames x; clear_value x)
    | split

def execWatchSample_touch : Nat := 0x1017f97c000000000000000084a00060000006032043000002882008a00a105080000400
theorem execWatchSample_keeps {tm : Nat} {z s : State} (hm : Sub execWatchSample_touch tm) (hs : Keeps tm z s) (p : Sys2Proof.Phase) (code : BitVec 12) :
    KeepsO tm z (execWatchSample p code s) := by
  delta execWatchSample
  repeat' first
    | with_reducible refine KeepsO.next ?_
    | with_reducible refine KeepsO.ite ?_ ?_
    | with_reducible assumption
    | (refine Sub.bit hm ?_; exact rfl)
    | (refine Sub.trans (Sub.of ?_) hm; exact rfl)
    | with_reducible refine Keeps.ite ?_ ?_
    | (refine (?_ : (_ : Bool) = true); exact rfl)
    | with_reducible refine quarantinePh_keeps ?_ ?_ _
    | with_reducible refine parkLane_keeps ?_ ?_ _ _
    | with_reducible refine settle_keeps ?_ ?_
    | with_reducible refine record_keeps ?_ ?_ _ _ _ _
    | with_reducible refine begin_keeps ?_ ?_
    | with_reducible refine Keeps.idState ?_
    | with_reducible refine foldl_keeps ?_ _ (fun s a hs => ?_)
    | (extract_lets +onlyGivenNames x; refine Keeps.cut (x := x) (m := tm) (s0 := z) ?_ ?_; unfold x; clear x; rotate_left; intro hx; clear_value x; rotate_right)
    | (extract_lets +onlyGivenNames x; clear_value x)
    | split

def execXchkWindow_touch : Nat := 0x1017f97c000000000000000084a00060000006032043000002882008a00a105080400400
theorem execXchkWindow_keeps {tm : Nat} {z s : State} (hm : Sub execXchkWindow_touch tm) (hs : Keeps tm z s) (l : Sys2Proof.Lane) :
    KeepsO tm z (execXchkWindow l s) := by
  delta execXchkWindow
  repeat' first
    | with_reducible refine KeepsO.next ?_
    | with_reducible refine KeepsO.ite ?_ ?_
    | with_reducible assumption
    | (refine Sub.bit hm ?_; exact rfl)
    | (refine Sub.trans (Sub.of ?_) hm; exact rfl)
    | with_reducible refine Keeps.ite ?_ ?_
    | (refine (?_ : (_ : Bool) = true); exact rfl)
    | with_reducible refine wrS_keeps ?_ ?_ ?_ _ _
    | with_reducible refine put_keeps ?_ ?_ ?_ _ _
    | with_reducible refine cleanXchk_keeps ?_ ?_ _
    | with_reducible refine setLaneLatch_keeps ?_ ?_ _ _
    | with_reducible refine settle_keeps ?_ ?_
    | with_reducible refine record_keeps ?_ ?_ _ _ _ _
    | with_reducible refine onLane_keeps ?_ ?_ _ _
    | with_reducible refine begin_keeps ?_ ?_
    | with_reducible refine Keeps.idState ?_
    | with_reducible refine foldl_keeps ?_ _ (fun s a hs => ?_)
    | (extract_lets +onlyGivenNames x; refine Keeps.cut (x := x) (m := tm) (s0 := z) ?_ ?_; unfold x; clear x; rotate_left; intro hx; clear_value x; rotate_right)
    | (extract_lets +onlyGivenNames x; clear_value x)
    | split

end Sys2Proof.Machine
end

