-- ==== Sys2Proof/Laws/KeepsMetering.lean ====
section
/-!
SUPPORT. Sys2Proof/Laws/KeepsMetering.lean: what each function of Machine/Metering.lean may change: its touch set, and one lemma per function.
-/
namespace Sys2Proof.Machine

open Sys2Proof

def addAcc_touch : Nat := 0x10000000000000000000000000000000000000000000000000000000000000000000
theorem addAcc_keeps {tm : Nat} {z s : State} (hm : Sub addAcc_touch tm) (hs : Keeps tm z s) (c : Nat) (n : Nat) :
    Keeps tm z (State.addAcc s c n) := by
  delta State.addAcc
  repeat' first
    | with_reducible assumption
    | (refine Sub.bit hm ?_; exact rfl)
    | (refine Sub.trans (Sub.of ?_) hm; exact rfl)
    | with_reducible refine Keeps.ite ?_ ?_
    | (refine (?_ : (_ : Bool) = true); exact rfl)
    | with_reducible refine onCtr_keeps ?_ ?_ _ _
    | with_reducible refine Keeps.idState ?_
    | with_reducible refine foldl_keeps ?_ _ (fun s a hs => ?_)
    | (extract_lets +onlyGivenNames x; refine Keeps.cut (x := x) (m := tm) (s0 := z) ?_ ?_; unfold x; clear x; rotate_left; intro hx; clear_value x; rotate_right)
    | (extract_lets +onlyGivenNames x; clear_value x)
    | split

def account_touch : Nat := 0x30000000000000000000000000000000000000000000000000000000000000000000
theorem account_keeps {tm : Nat} {z s : State} (hm : Sub account_touch tm) (hs : Keeps tm z s) (l : Nat) (i : Int) (p : Int) (isOver : Bool) (d : Nat) :
    Keeps tm z (State.account s l i p isOver d) := by
  delta State.account
  repeat' first
    | with_reducible assumption
    | (refine Sub.bit hm ?_; exact rfl)
    | (refine Sub.trans (Sub.of ?_) hm; exact rfl)
    | with_reducible refine Keeps.ite ?_ ?_
    | (refine (?_ : (_ : Bool) = true); exact rfl)
    | with_reducible refine onMeter_keeps ?_ ?_ _ _
    | with_reducible refine addAcc_keeps ?_ ?_ _ _
    | with_reducible refine Keeps.idState ?_
    | with_reducible refine foldl_keeps ?_ _ (fun s a hs => ?_)
    | (extract_lets +onlyGivenNames x; refine Keeps.cut (x := x) (m := tm) (s0 := z) ?_ ?_; unfold x; clear x; rotate_left; intro hx; clear_value x; rotate_right)
    | (extract_lets +onlyGivenNames x; clear_value x)
    | split

def setTap_touch : Nat := 0x1800000000000000000000
theorem setTap_keeps {tm : Nat} {z s : State} (hm : Sub setTap_touch tm) (hs : Keeps tm z s) (l : Nat) (mode : Nat) :
    Keeps tm z (State.setTap s l mode) := by
  delta State.setTap
  repeat' first
    | with_reducible assumption
    | (refine Sub.bit hm ?_; exact rfl)
    | (refine Sub.trans (Sub.of ?_) hm; exact rfl)
    | with_reducible refine Keeps.ite ?_ ?_
    | (refine (?_ : (_ : Bool) = true); exact rfl)
    | with_reducible refine wr_keeps ?_ ?_ ?_ _ _
    | with_reducible refine Keeps.idState ?_
    | with_reducible refine foldl_keeps ?_ _ (fun s a hs => ?_)
    | (extract_lets +onlyGivenNames x; refine Keeps.cut (x := x) (m := tm) (s0 := z) ?_ ?_; unfold x; clear x; rotate_left; intro hx; clear_value x; rotate_right)
    | (extract_lets +onlyGivenNames x; clear_value x)
    | split

def startAcct_touch : Nat := 0x20000000000000000000000000000000000000000000001800000000000000000000
theorem startAcct_keeps {tm : Nat} {z s : State} (hm : Sub startAcct_touch tm) (hs : Keeps tm z s) (l : Nat) :
    Keeps tm z (State.startAcct s l) := by
  delta State.startAcct
  repeat' first
    | with_reducible assumption
    | (refine Sub.bit hm ?_; exact rfl)
    | (refine Sub.trans (Sub.of ?_) hm; exact rfl)
    | with_reducible refine Keeps.ite ?_ ?_
    | (refine (?_ : (_ : Bool) = true); exact rfl)
    | with_reducible refine wr_keeps ?_ ?_ ?_ _ _
    | with_reducible refine onMeter_keeps ?_ ?_ _ _
    | with_reducible refine setTap_keeps ?_ ?_ _ _
    | with_reducible refine Keeps.idState ?_
    | with_reducible refine foldl_keeps ?_ _ (fun s a hs => ?_)
    | (extract_lets +onlyGivenNames x; refine Keeps.cut (x := x) (m := tm) (s0 := z) ?_ ?_; unfold x; clear x; rotate_left; intro hx; clear_value x; rotate_right)
    | (extract_lets +onlyGivenNames x; clear_value x)
    | split

def calResult_touch : Nat := 0x20000000000000000000000000000000000000000000000000000000000000000
theorem calResult_keeps {tm : Nat} {z s : State} (hm : Sub calResult_touch tm) (hs : Keeps tm z s) (l : Nat) (c : Sys2Proof.Machine.Calib) :
    Keeps tm z (State.calResult s l c).2.2 := by
  delta State.calResult
  repeat' first
    | with_reducible assumption
    | (dsimp only; with_reducible assumption)
    | (refine Sub.bit hm ?_; exact rfl)
    | (refine Sub.trans (Sub.of ?_) hm; exact rfl)
    | with_reducible refine Keeps.ite ?_ ?_
    | (refine (?_ : (_ : Bool) = true); exact rfl)
    | with_reducible refine draw_keeps ?_ ?_
    | with_reducible refine Keeps.idState ?_
    | with_reducible refine foldl_keeps ?_ _ (fun s a hs => ?_)
    | (extract_lets +onlyGivenNames x; refine Keeps.cut (x := x) (m := tm) (s0 := z) ?_ ?_; unfold x; clear x; rotate_left; intro hx; clear_value x; rotate_right)
    | (extract_lets +onlyGivenNames x; clear_value x)
    | split
    | dsimp only

def calSample_touch : Nat := 0x297c000000000000000004a000600000000000010000000800000000000000000000
theorem calSample_keeps {tm : Nat} {z s : State} (hm : Sub calSample_touch tm) (hs : Keeps tm z s) (l : Nat) (cv : Int) (ci : Int) (isOver : Bool) :
    Keeps tm z (State.calSample s l cv ci isOver) := by
  delta State.calSample
  repeat' first
    | with_reducible assumption
    | (refine Sub.bit hm ?_; exact rfl)
    | (refine Sub.trans (Sub.of ?_) hm; exact rfl)
    | with_reducible refine Keeps.ite ?_ ?_
    | (refine (?_ : (_ : Bool) = true); exact rfl)
    | with_reducible refine onMeter_keeps ?_ ?_ _ _
    | with_reducible refine calFail_keeps ?_ ?_ _ _ _
    | with_reducible refine Keeps.idState ?_
    | with_reducible refine foldl_keeps ?_ _ (fun s a hs => ?_)
    | (extract_lets +onlyGivenNames x; refine Keeps.cut (x := x) (m := tm) (s0 := z) ?_ ?_; unfold x; clear x; rotate_left; intro hx; clear_value x; rotate_right)
    | (extract_lets +onlyGivenNames x; clear_value x)
    | split

def clipEvent_touch : Nat := 0x8000000000000000000000000000000000000010000000800000000000000000000
theorem clipEvent_keeps {tm : Nat} {z s : State} (hm : Sub clipEvent_touch tm) (hs : Keeps tm z s) (l : Nat) (k : Nat) :
    Keeps tm z (State.clipEvent s l k) := by
  delta State.clipEvent
  repeat' first
    | with_reducible assumption
    | (refine Sub.bit hm ?_; exact rfl)
    | (refine Sub.trans (Sub.of ?_) hm; exact rfl)
    | with_reducible refine Keeps.ite ?_ ?_
    | (refine (?_ : (_ : Bool) = true); exact rfl)
    | with_reducible refine put_keeps ?_ ?_ ?_ _ _
    | with_reducible refine record_keeps ?_ ?_ _ _ _ _
    | with_reducible refine Keeps.idState ?_
    | with_reducible refine foldl_keeps ?_ _ (fun s a hs => ?_)
    | (extract_lets +onlyGivenNames x; refine Keeps.cut (x := x) (m := tm) (s0 := z) ?_ ?_; unfold x; clear x; rotate_left; intro hx; clear_value x; rotate_right)
    | (extract_lets +onlyGivenNames x; clear_value x)
    | split

def haltAcct_touch : Nat := 0x20000000000000000000000000000000000000000000000800000000000000000000
theorem haltAcct_keeps {tm : Nat} {z s : State} (hm : Sub haltAcct_touch tm) (hs : Keeps tm z s) (l : Nat) :
    Keeps tm z (State.haltAcct s l) := by
  delta State.haltAcct
  repeat' first
    | with_reducible assumption
    | (refine Sub.bit hm ?_; exact rfl)
    | (refine Sub.trans (Sub.of ?_) hm; exact rfl)
    | with_reducible refine Keeps.ite ?_ ?_
    | (refine (?_ : (_ : Bool) = true); exact rfl)
    | with_reducible refine put_keeps ?_ ?_ ?_ _ _
    | with_reducible refine onMeter_keeps ?_ ?_ _ _
    | with_reducible refine Keeps.idState ?_
    | with_reducible refine foldl_keeps ?_ _ (fun s a hs => ?_)
    | (extract_lets +onlyGivenNames x; refine Keeps.cut (x := x) (m := tm) (s0 := z) ?_ ?_; unfold x; clear x; rotate_left; intro hx; clear_value x; rotate_right)
    | (extract_lets +onlyGivenNames x; clear_value x)
    | split

def haltAll_touch : Nat := 0x20000000000000000000000000000000000000000000000800000000000000000000
theorem haltAll_keeps {tm : Nat} {z s : State} (hm : Sub haltAll_touch tm) (hs : Keeps tm z s)  :
    Keeps tm z (State.haltAll s) := by
  delta State.haltAll
  repeat' first
    | with_reducible assumption
    | (refine Sub.bit hm ?_; exact rfl)
    | (refine Sub.trans (Sub.of ?_) hm; exact rfl)
    | with_reducible refine Keeps.ite ?_ ?_
    | (refine (?_ : (_ : Bool) = true); exact rfl)
    | with_reducible refine forEach_keeps ?_ _ (fun s a hs => ?_)
    | with_reducible refine haltAcct_keeps ?_ ?_ _
    | with_reducible refine Keeps.idState ?_
    | with_reducible refine foldl_keeps ?_ _ (fun s a hs => ?_)
    | (extract_lets +onlyGivenNames x; refine Keeps.cut (x := x) (m := tm) (s0 := z) ?_ ?_; unfold x; clear x; rotate_left; intro hx; clear_value x; rotate_right)
    | (extract_lets +onlyGivenNames x; clear_value x)
    | split

def writeMtrCfg_touch : Nat := 0x28000000000000000000000000000000000000010000001880000000000000000000
theorem writeMtrCfg_keeps {tm : Nat} {z s : State} (hm : Sub writeMtrCfg_touch tm) (hs : Keeps tm z s) (l : Nat) (w : Nat) :
    Keeps tm z (State.writeMtrCfg s l w) := by
  delta State.writeMtrCfg
  repeat' first
    | with_reducible assumption
    | (refine Sub.bit hm ?_; exact rfl)
    | (refine Sub.trans (Sub.of ?_) hm; exact rfl)
    | with_reducible refine Keeps.ite ?_ ?_
    | (refine (?_ : (_ : Bool) = true); exact rfl)
    | with_reducible refine wr_keeps ?_ ?_ ?_ _ _
    | with_reducible refine storeBut_keeps ?_ ?_ _ _ _
    | with_reducible refine startAcct_keeps ?_ ?_ _
    | with_reducible refine haltAcct_keeps ?_ ?_ _
    | with_reducible refine setTap_keeps ?_ ?_ _ _
    | with_reducible refine record_keeps ?_ ?_ _ _ _ _
    | with_reducible refine Keeps.idState ?_
    | with_reducible refine foldl_keeps ?_ _ (fun s a hs => ?_)
    | (extract_lets +onlyGivenNames x; refine Keeps.cut (x := x) (m := tm) (s0 := z) ?_ ?_; unfold x; clear x; rotate_left; intro hx; clear_value x; rotate_right)
    | (extract_lets +onlyGivenNames x; clear_value x)
    | split

def putItem_touch : Nat := 0x20000000000000000000000000000000000000000000000000000000000000000000
theorem putItem_keeps {tm : Nat} {z s : State} (hm : Sub putItem_touch tm) (hs : Keeps tm z s) (l : Nat) (k : Nat) (v : Int) :
    Keeps tm z (State.putItem s l k v) := by
  delta State.putItem
  repeat' first
    | with_reducible assumption
    | (refine Sub.bit hm ?_; exact rfl)
    | (refine Sub.trans (Sub.of ?_) hm; exact rfl)
    | with_reducible refine Keeps.ite ?_ ?_
    | (refine (?_ : (_ : Bool) = true); exact rfl)
    | with_reducible refine onMeter_keeps ?_ ?_ _ _
    | with_reducible refine Keeps.idState ?_
    | with_reducible refine foldl_keeps ?_ _ (fun s a hs => ?_)
    | (extract_lets +onlyGivenNames x; refine Keeps.cut (x := x) (m := tm) (s0 := z) ?_ ?_; unfold x; clear x; rotate_left; intro hx; clear_value x; rotate_right)
    | (extract_lets +onlyGivenNames x; clear_value x)
    | split

def writeItem_touch : Nat := 0x20000000000000000000000000000000000000000000000000000000000000000000
theorem writeItem_keeps {tm : Nat} {z s : State} (hm : Sub writeItem_touch tm) (hs : Keeps tm z s) (l : Nat) (k : Nat) (w : Nat) :
    Keeps tm z (State.writeItem s l k w) := by
  delta State.writeItem
  repeat' first
    | with_reducible assumption
    | (refine Sub.bit hm ?_; exact rfl)
    | (refine Sub.trans (Sub.of ?_) hm; exact rfl)
    | with_reducible refine Keeps.ite ?_ ?_
    | (refine (?_ : (_ : Bool) = true); exact rfl)
    | with_reducible refine putItem_keeps ?_ ?_ _ _ _
    | with_reducible refine Keeps.idState ?_
    | with_reducible refine foldl_keeps ?_ _ (fun s a hs => ?_)
    | (extract_lets +onlyGivenNames x; refine Keeps.cut (x := x) (m := tm) (s0 := z) ?_ ?_; unfold x; clear x; rotate_left; intro hx; clear_value x; rotate_right)
    | (extract_lets +onlyGivenNames x; clear_value x)
    | split

def writeMtrData_touch : Nat := 0x20000000000000000000000000000000000000000000000000000000000000000000
theorem writeMtrData_keeps {tm : Nat} {z s : State} (hm : Sub writeMtrData_touch tm) (hs : Keeps tm z s) (l : Nat) (w : Nat) :
    Keeps tm z (State.writeMtrData s l w) := by
  delta State.writeMtrData
  repeat' first
    | with_reducible assumption
    | (refine Sub.bit hm ?_; exact rfl)
    | (refine Sub.trans (Sub.of ?_) hm; exact rfl)
    | with_reducible refine Keeps.ite ?_ ?_
    | (refine (?_ : (_ : Bool) = true); exact rfl)
    | with_reducible refine writeItem_keeps ?_ ?_ _ _ _
    | with_reducible refine Keeps.idState ?_
    | with_reducible refine foldl_keeps ?_ _ (fun s a hs => ?_)
    | (extract_lets +onlyGivenNames x; refine Keeps.cut (x := x) (m := tm) (s0 := z) ?_ ?_; unfold x; clear x; rotate_left; intro hx; clear_value x; rotate_right)
    | (extract_lets +onlyGivenNames x; clear_value x)
    | split

def writeMtrStat_touch : Nat := 0x800000000000000000000
theorem writeMtrStat_keeps {tm : Nat} {z s : State} (hm : Sub writeMtrStat_touch tm) (hs : Keeps tm z s) (l : Nat) (w : Nat) :
    Keeps tm z (State.writeMtrStat s l w) := by
  delta State.writeMtrStat
  repeat' first
    | with_reducible assumption
    | (refine Sub.bit hm ?_; exact rfl)
    | (refine Sub.trans (Sub.of ?_) hm; exact rfl)
    | with_reducible refine Keeps.ite ?_ ?_
    | (refine (?_ : (_ : Bool) = true); exact rfl)
    | with_reducible refine w1cBut_keeps ?_ ?_ _ _ _
    | with_reducible refine Keeps.idState ?_
    | with_reducible refine foldl_keeps ?_ _ (fun s a hs => ?_)
    | (extract_lets +onlyGivenNames x; refine Keeps.cut (x := x) (m := tm) (s0 := z) ?_ ?_; unfold x; clear x; rotate_left; intro hx; clear_value x; rotate_right)
    | (extract_lets +onlyGivenNames x; clear_value x)
    | split

def refFalls_touch : Nat := 0x28000000000000000000000000000000000000010000000840000000000000000000
theorem refFalls_keeps {tm : Nat} {z s : State} (hm : Sub refFalls_touch tm) (hs : Keeps tm z s) (sel : Nat) :
    Keeps tm z (State.refFalls s sel) := by
  delta State.refFalls
  repeat' first
    | with_reducible assumption
    | (refine Sub.bit hm ?_; exact rfl)
    | (refine Sub.trans (Sub.of ?_) hm; exact rfl)
    | with_reducible refine Keeps.ite ?_ ?_
    | (refine (?_ : (_ : Bool) = true); exact rfl)
    | with_reducible refine put_keeps ?_ ?_ ?_ _ _
    | with_reducible refine haltAll_keeps ?_ ?_
    | with_reducible refine record_keeps ?_ ?_ _ _ _ _
    | with_reducible refine Keeps.idState ?_
    | with_reducible refine foldl_keeps ?_ _ (fun s a hs => ?_)
    | (extract_lets +onlyGivenNames x; refine Keeps.cut (x := x) (m := tm) (s0 := z) ?_ ?_; unfold x; clear x; rotate_left; intro hx; clear_value x; rotate_right)
    | (extract_lets +onlyGivenNames x; clear_value x)
    | split

def writeRef_touch : Nat := 0xc028000000000000000000000000000000000000010000000840000000000000000000
theorem writeRef_keeps {tm : Nat} {z s : State} (hm : Sub writeRef_touch tm) (hs : Keeps tm z s) (w : Nat) :
    Keeps tm z (State.writeRef s w) := by
  delta State.writeRef
  repeat' first
    | with_reducible assumption
    | (refine Sub.bit hm ?_; exact rfl)
    | (refine Sub.trans (Sub.of ?_) hm; exact rfl)
    | with_reducible refine Keeps.ite ?_ ?_
    | (refine (?_ : (_ : Bool) = true); exact rfl)
    | with_reducible refine wr_keeps ?_ ?_ ?_ _ _
    | with_reducible refine put_keeps ?_ ?_ ?_ _ _
    | with_reducible refine w1cBut_keeps ?_ ?_ _ _ _
    | with_reducible refine refFalls_keeps ?_ ?_ _
    | with_reducible refine record_keeps ?_ ?_ _ _ _ _
    | with_reducible refine Keeps.idState ?_
    | with_reducible refine foldl_keeps ?_ _ (fun s a hs => ?_)
    | (extract_lets +onlyGivenNames x; refine Keeps.cut (x := x) (m := tm) (s0 := z) ?_ ?_; unfold x; clear x; rotate_left; intro hx; clear_value x; rotate_right)
    | (extract_lets +onlyGivenNames x; clear_value x)
    | split
    | with_reducible refine upd_refRun_keeps ?_ ?_ _
    | with_reducible refine upd_refOut_keeps ?_ ?_ _
    | with_reducible refine upd_refRun_refOut_keeps ?_ ?_ ?_ _ _ 

def overEvents_touch : Nat := 0x8000000000000000000000000000000000000010000000800000000000000000000
theorem overEvents_keeps {tm : Nat} {z s : State} (hm : Sub overEvents_touch tm) (hs : Keeps tm z s) (l : Nat) (cv : Bool) (ci : Bool) (ov : Bool) (oi : Bool) :
    Keeps tm z (State.overEvents s l cv ci ov oi) := by
  delta State.overEvents
  repeat' first
    | with_reducible assumption
    | (refine Sub.bit hm ?_; exact rfl)
    | (refine Sub.trans (Sub.of ?_) hm; exact rfl)
    | with_reducible refine Keeps.ite ?_ ?_
    | (refine (?_ : (_ : Bool) = true); exact rfl)
    | with_reducible refine put_keeps ?_ ?_ ?_ _ _
    | with_reducible refine record_keeps ?_ ?_ _ _ _ _
    | with_reducible refine clipEvent_keeps ?_ ?_ _ _
    | with_reducible refine Keeps.idState ?_
    | with_reducible refine foldl_keeps ?_ _ (fun s a hs => ?_)
    | (extract_lets +onlyGivenNames x; refine Keeps.cut (x := x) (m := tm) (s0 := z) ?_ ?_; unfold x; clear x; rotate_left; intro hx; clear_value x; rotate_right)
    | (extract_lets +onlyGivenNames x; clear_value x)
    | split

def startAll_touch : Nat := 0x20000000000000000000000000000000000000000000001800000000000000000000
theorem startAll_keeps {tm : Nat} {z s : State} (hm : Sub startAll_touch tm) (hs : Keeps tm z s)  :
    Keeps tm z (State.startAll s) := by
  delta State.startAll
  repeat' first
    | with_reducible assumption
    | (refine Sub.bit hm ?_; exact rfl)
    | (refine Sub.trans (Sub.of ?_) hm; exact rfl)
    | with_reducible refine Keeps.ite ?_ ?_
    | (refine (?_ : (_ : Bool) = true); exact rfl)
    | with_reducible refine forEach_keeps ?_ _ (fun s a hs => ?_)
    | with_reducible refine startAcct_keeps ?_ ?_ _
    | with_reducible refine Keeps.idState ?_
    | with_reducible refine foldl_keeps ?_ _ (fun s a hs => ?_)
    | (extract_lets +onlyGivenNames x; refine Keeps.cut (x := x) (m := tm) (s0 := z) ?_ ?_; unfold x; clear x; rotate_left; intro hx; clear_value x; rotate_right)
    | (extract_lets +onlyGivenNames x; clear_value x)
    | split

def windowAlert_touch : Nat := 0x1040000000000000000002000600000000000000000000000000000000000000000
theorem windowAlert_keeps {tm : Nat} {z s : State} (hm : Sub windowAlert_touch tm) (hs : Keeps tm z s) (l : Nat) (band : Nat) (side : Nat) (x : Int) :
    Keeps tm z (State.windowAlert s l band side x) := by
  delta State.windowAlert
  repeat' first
    | with_reducible assumption
    | (refine Sub.bit hm ?_; exact rfl)
    | (refine Sub.trans (Sub.of ?_) hm; exact rfl)
    | with_reducible refine Keeps.ite ?_ ?_
    | (refine (?_ : (_ : Bool) = true); exact rfl)
    | with_reducible refine notify_keeps ?_ ?_ _ _ _
    | with_reducible refine Keeps.idState ?_
    | with_reducible refine foldl_keeps ?_ _ (fun s a hs => ?_)
    | (extract_lets +onlyGivenNames x; refine Keeps.cut (x := x) (m := tm) (s0 := z) ?_ ?_; unfold x; clear x; rotate_left; intro hx; clear_value x; rotate_right)
    | (extract_lets +onlyGivenNames x; clear_value x)
    | split

def window_touch : Nat := 0x29040000000000000000002000600000000000010000000800000000000000000000
theorem window_keeps {tm : Nat} {z s : State} (hm : Sub window_touch tm) (hs : Keeps tm z s) (l : Nat) (band : Nat) (x : Int) :
    Keeps tm z (State.window s l band x) := by
  delta State.window
  repeat' first
    | with_reducible assumption
    | (refine Sub.bit hm ?_; exact rfl)
    | (refine Sub.trans (Sub.of ?_) hm; exact rfl)
    | with_reducible refine Keeps.ite ?_ ?_
    | (refine (?_ : (_ : Bool) = true); exact rfl)
    | with_reducible refine put_keeps ?_ ?_ ?_ _ _
    | with_reducible refine putBit_keeps ?_ ?_ ?_ _ _ _
    | with_reducible refine onMeter_keeps ?_ ?_ _ _
    | with_reducible refine windowAlert_keeps ?_ ?_ _ _ _ _
    | with_reducible refine record_keeps ?_ ?_ _ _ _ _
    | with_reducible refine Keeps.idState ?_
    | (simp only [Field.up]; refine Sub.bit hm ?_; exact rfl)
    | (dsimp only; refine Sub.bit hm ?_; exact rfl)
    | with_reducible refine foldl_keeps ?_ _ (fun s a hs => ?_)
    | (extract_lets +onlyGivenNames x; refine Keeps.cut (x := x) (m := tm) (s0 := z) ?_ ?_; unfold x; clear x; rotate_left; intro hx; clear_value x; rotate_right)
    | (extract_lets +onlyGivenNames x; clear_value x)
    | split

def supply_touch : Nat := 0x39040000000000000000002000600000000000010000000800000000000000000000
theorem supply_keeps {tm : Nat} {z s : State} (hm : Sub supply_touch tm) (hs : Keeps tm z s) (l : Nat) (alt : Bool) (cv : Int) (ci : Int) (ov : Bool) (oi : Bool) (elapsed : Nat) :
    Keeps tm z (State.supply s l alt cv ci ov oi elapsed) := by
  delta State.supply
  repeat' first
    | with_reducible assumption
    | (refine Sub.bit hm ?_; exact rfl)
    | (refine Sub.trans (Sub.of ?_) hm; exact rfl)
    | with_reducible refine Keeps.ite ?_ ?_
    | (refine (?_ : (_ : Bool) = true); exact rfl)
    | with_reducible refine onMeter_keeps ?_ ?_ _ _
    | with_reducible refine onTele_keeps ?_ ?_ _ _
    | with_reducible refine overEvents_keeps ?_ ?_ _ _ _ _ _
    | with_reducible refine window_keeps ?_ ?_ _ _ _
    | with_reducible refine account_keeps ?_ ?_ _ _ _ _ _
    | with_reducible refine Keeps.idState ?_
    | with_reducible refine foldl_keeps ?_ _ (fun s a hs => ?_)
    | (extract_lets +onlyGivenNames x; refine Keeps.cut (x := x) (m := tm) (s0 := z) ?_ ?_; unfold x; clear x; rotate_left; intro hx; clear_value x; rotate_right)
    | (extract_lets +onlyGivenNames x; clear_value x)
    | split

def trackerBytes_touch : Nat := 0x20000000000000000000000000000000000000000000000000000000000000000
theorem trackerBytes_keeps {tm : Nat} {z s : State} (hm : Sub trackerBytes_touch tm) (hs : Keeps tm z s) (l : Nat) :
    Keeps tm z (State.trackerBytes s l).2 := by
  delta State.trackerBytes
  repeat' first
    | with_reducible assumption
    | (dsimp only; with_reducible assumption)
    | (refine Sub.bit hm ?_; exact rfl)
    | (refine Sub.trans (Sub.of ?_) hm; exact rfl)
    | with_reducible refine Keeps.ite ?_ ?_
    | (refine (?_ : (_ : Bool) = true); exact rfl)
    | with_reducible refine draw_keeps ?_ ?_
    | with_reducible refine Keeps.idState ?_
    | with_reducible refine foldl_keeps ?_ _ (fun s a hs => ?_)
    | (extract_lets +onlyGivenNames x; refine Keeps.cut (x := x) (m := tm) (s0 := z) ?_ ?_; unfold x; clear x; rotate_left; intro hx; clear_value x; rotate_right)
    | (extract_lets +onlyGivenNames x; clear_value x)
    | split
    | dsimp only

def execCalibrated_touch : Nat := 0x397e000000000000000004a000600000000000430000028800000000000000000000
theorem execCalibrated_keeps {tm : Nat} {z s : State} (hm : Sub execCalibrated_touch tm) (hs : Keeps tm z s) (l : Sys2Proof.Lane) :
    KeepsO tm z (execCalibrated l s) := by
  delta execCalibrated
  repeat' first
    | with_reducible refine KeepsO.next ?_
    | with_reducible refine KeepsO.ite ?_ ?_
    | with_reducible assumption
    | (refine Sub.bit hm ?_; exact rfl)
    | (refine Sub.trans (Sub.of ?_) hm; exact rfl)
    | with_reducible refine Keeps.ite ?_ ?_
    | (refine (?_ : (_ : Bool) = true); exact rfl)
    | with_reducible refine put_keeps ?_ ?_ ?_ _ _
    | with_reducible refine softAdvance_keeps ?_ ?_
    | with_reducible refine calResult_keeps ?_ ?_ _ _
    | with_reducible refine onMeter_keeps ?_ ?_ _ _
    | with_reducible refine putItem_keeps ?_ ?_ _ _ _
    | with_reducible refine record_keeps ?_ ?_ _ _ _ _
    | with_reducible refine finish_keeps ?_ ?_ _ _ _
    | with_reducible refine calFail_keeps ?_ ?_ _ _ _
    | with_reducible refine begin_keeps ?_ ?_
    | with_reducible refine Keeps.idState ?_
    | with_reducible refine foldl_keeps ?_ _ (fun s a hs => ?_)
    | (extract_lets +onlyGivenNames x; refine Keeps.cut (x := x) (m := tm) (s0 := z) ?_ ?_; unfold x; clear x; rotate_left; intro hx; clear_value x; rotate_right)
    | (extract_lets +onlyGivenNames x; clear_value x)
    | split
    | dsimp only

def execGlbRef_touch : Nat := 0x10d7f97c000000000000000084a00060000006032043000002886008a00a105080000400
theorem execGlbRef_keeps {tm : Nat} {z s : State} (hm : Sub execGlbRef_touch tm) (hs : Keeps tm z s) (w : Sys2Proof.BusWrite) :
    KeepsO tm z (execGlbRef w s) := by
  delta execGlbRef
  repeat' first
    | with_reducible refine KeepsO.next ?_
    | with_reducible refine KeepsO.ite ?_ ?_
    | with_reducible assumption
    | (refine Sub.bit hm ?_; exact rfl)
    | (refine Sub.trans (Sub.of ?_) hm; exact rfl)
    | with_reducible refine Keeps.ite ?_ ?_
    | (refine (?_ : (_ : Bool) = true); exact rfl)
    | with_reducible refine writeRef_keeps ?_ ?_ _
    | with_reducible refine settle_keeps ?_ ?_
    | with_reducible refine gate_keeps ?_ ?_ _ _ (fun s a0 hs => ?_)
    | with_reducible refine Keeps.idState ?_
    | with_reducible refine foldl_keeps ?_ _ (fun s a hs => ?_)
    | (extract_lets +onlyGivenNames x; refine Keeps.cut (x := x) (m := tm) (s0 := z) ?_ ?_; unfold x; clear x; rotate_left; intro hx; clear_value x; rotate_right)
    | (extract_lets +onlyGivenNames x; clear_value x)
    | split

def execMeterCalibrate_touch : Nat := 0x29fc000000000000000004a000600000000000010000000800000000000000000000
theorem execMeterCalibrate_keeps {tm : Nat} {z s : State} (hm : Sub execMeterCalibrate_touch tm) (hs : Keeps tm z s) (h : Sys2Proof.CmdHdr) (chan : Sys2Proof.Byte) (kind : Sys2Proof.Byte) (src : Sys2Proof.Byte) (nexp : Sys2Proof.Byte) (eRef : Sys2Proof.Word) :
    KeepsO tm z (execMeterCalibrate h chan kind src nexp eRef s) := by
  delta execMeterCalibrate
  repeat' first
    | with_reducible refine KeepsO.next ?_
    | with_reducible refine KeepsO.ite ?_ ?_
    | with_reducible assumption
    | (refine Sub.bit hm ?_; exact rfl)
    | (refine Sub.trans (Sub.of ?_) hm; exact rfl)
    | with_reducible refine Keeps.ite ?_ ?_
    | (refine (?_ : (_ : Bool) = true); exact rfl)
    | with_reducible refine put_keeps ?_ ?_ ?_ _ _
    | with_reducible refine onMeter_keeps ?_ ?_ _ _
    | with_reducible refine complete_keeps ?_ ?_ _ _ _
    | with_reducible refine dispatch_keeps ?_ ?_ _ _ _ (fun s a0 hs => ?_)
    | with_reducible refine hold_keeps ?_ ?_ _ _
    | with_reducible refine Keeps.idState ?_
    | with_reducible refine foldl_keeps ?_ _ (fun s a hs => ?_)
    | (extract_lets +onlyGivenNames x; refine Keeps.cut (x := x) (m := tm) (s0 := z) ?_ ?_; unfold x; clear x; rotate_left; intro hx; clear_value x; rotate_right)
    | (extract_lets +onlyGivenNames x; clear_value x)
    | split

def execMeterRead_touch : Nat := 0x29f6000000000000000004a000600000000000010000000000000000000000000000
theorem execMeterRead_keeps {tm : Nat} {z s : State} (hm : Sub execMeterRead_touch tm) (hs : Keeps tm z s) (h : Sys2Proof.CmdHdr) (opts : Sys2Proof.Byte) :
    KeepsO tm z (execMeterRead h opts s) := by
  delta execMeterRead
  repeat' first
    | with_reducible refine KeepsO.next ?_
    | with_reducible refine KeepsO.ite ?_ ?_
    | with_reducible assumption
    | (refine Sub.bit hm ?_; exact rfl)
    | (refine Sub.trans (Sub.of ?_) hm; exact rfl)
    | with_reducible refine Keeps.ite ?_ ?_
    | (refine (?_ : (_ : Bool) = true); exact rfl)
    | with_reducible refine trackerBytes_keeps ?_ ?_ _
    | with_reducible refine onMeter_keeps ?_ ?_ _ _
    | with_reducible refine complete_keeps ?_ ?_ _ _ _
    | with_reducible refine dispatch_keeps ?_ ?_ _ _ _ (fun s a0 hs => ?_)
    | with_reducible refine writeBuf_keeps ?_ ?_ _ _
    | with_reducible refine Keeps.idState ?_
    | with_reducible refine foldl_keeps ?_ _ (fun s a hs => ?_)
    | (extract_lets +onlyGivenNames x; refine Keeps.cut (x := x) (m := tm) (s0 := z) ?_ ?_; unfold x; clear x; rotate_left; intro hx; clear_value x; rotate_right)
    | (extract_lets +onlyGivenNames x; clear_value x)
    | split
    | dsimp only

def execMeterSample_touch : Nat := 0x1017f97c000000000000000084a00060000006032043000002982008a00a105080000400
theorem execMeterSample_keeps {tm : Nat} {z s : State} (hm : Sub execMeterSample_touch tm) (hs : Keeps tm z s) (l : Sys2Proof.Lane) (alt : Bool) (v : BitVec 24) (i : BitVec 24) (ovrV : Bool) (ovrI : Bool) (elapsed : Nat) :
    KeepsO tm z (execMeterSample l alt v i ovrV ovrI elapsed s) := by
  delta execMeterSample
  repeat' first
    | with_reducible refine KeepsO.next ?_
    | with_reducible refine KeepsO.ite ?_ ?_
    | with_reducible assumption
    | (refine Sub.bit hm ?_; exact rfl)
    | (refine Sub.trans (Sub.of ?_) hm; exact rfl)
    | with_reducible refine Keeps.ite ?_ ?_
    | (refine (?_ : (_ : Bool) = true); exact rfl)
    | with_reducible refine put_keeps ?_ ?_ ?_ _ _
    | with_reducible refine calSample_keeps ?_ ?_ _ _ _ _
    | with_reducible refine setTap_keeps ?_ ?_ _ _
    | with_reducible refine settle_keeps ?_ ?_
    | with_reducible refine supply_keeps ?_ ?_ _ _ _ _ _ _ _
    | with_reducible refine begin_keeps ?_ ?_
    | with_reducible refine Keeps.idState ?_
    | with_reducible refine foldl_keeps ?_ _ (fun s a hs => ?_)
    | (extract_lets +onlyGivenNames x; refine Keeps.cut (x := x) (m := tm) (s0 := z) ?_ ?_; unfold x; clear x; rotate_left; intro hx; clear_value x; rotate_right)
    | (extract_lets +onlyGivenNames x; clear_value x)
    | split

def execMtrCfg_touch : Nat := 0x1017f97c000000000000000084a0006000000603204300000298a008a00a105080000400
theorem execMtrCfg_keeps {tm : Nat} {z s : State} (hm : Sub execMtrCfg_touch tm) (hs : Keeps tm z s) (l : Sys2Proof.Lane) (w : Sys2Proof.BusWrite) :
    KeepsO tm z (execMtrCfg l w s) := by
  delta execMtrCfg
  repeat' first
    | with_reducible refine KeepsO.next ?_
    | with_reducible refine KeepsO.ite ?_ ?_
    | with_reducible assumption
    | (refine Sub.bit hm ?_; exact rfl)
    | (refine Sub.trans (Sub.of ?_) hm; exact rfl)
    | with_reducible refine Keeps.ite ?_ ?_
    | (refine (?_ : (_ : Bool) = true); exact rfl)
    | with_reducible refine settle_keeps ?_ ?_
    | with_reducible refine writeMtrCfg_keeps ?_ ?_ _ _
    | with_reducible refine gate_keeps ?_ ?_ _ _ (fun s a0 hs => ?_)
    | with_reducible refine Keeps.idState ?_
    | with_reducible refine foldl_keeps ?_ _ (fun s a hs => ?_)
    | (extract_lets +onlyGivenNames x; refine Keeps.cut (x := x) (m := tm) (s0 := z) ?_ ?_; unfold x; clear x; rotate_left; intro hx; clear_value x; rotate_right)
    | (extract_lets +onlyGivenNames x; clear_value x)
    | split

def execRefCheck_touch : Nat := 0x10f7f97c000000000000000084a00060000006032043000002986008a00a105080000400
theorem execRefCheck_keeps {tm : Nat} {z s : State} (hm : Sub execRefCheck_touch tm) (hs : Keeps tm z s) (mv : BitVec 12) :
    KeepsO tm z (execRefCheck mv s) := by
  delta execRefCheck
  repeat' first
    | with_reducible refine KeepsO.next ?_
    | with_reducible refine KeepsO.ite ?_ ?_
    | with_reducible assumption
    | (refine Sub.bit hm ?_; exact rfl)
    | (refine Sub.trans (Sub.of ?_) hm; exact rfl)
    | with_reducible refine Keeps.ite ?_ ?_
    | (refine (?_ : (_ : Bool) = true); exact rfl)
    | with_reducible refine put_keeps ?_ ?_ ?_ _ _
    | with_reducible refine refFalls_keeps ?_ ?_ _
    | with_reducible refine settle_keeps ?_ ?_
    | with_reducible refine record_keeps ?_ ?_ _ _ _ _
    | with_reducible refine begin_keeps ?_ ?_
    | with_reducible refine startAll_keeps ?_ ?_
    | with_reducible refine Keeps.idState ?_
    | with_reducible refine foldl_keeps ?_ _ (fun s a hs => ?_)
    | (extract_lets +onlyGivenNames x; refine Keeps.cut (x := x) (m := tm) (s0 := z) ?_ ?_; unfold x; clear x; rotate_left; intro hx; clear_value x; rotate_right)
    | (extract_lets +onlyGivenNames x; clear_value x)
    | split
    | with_reducible refine upd_refSeen_keeps ?_ ?_ _
    | with_reducible refine upd_refRun_keeps ?_ ?_ _
    | with_reducible refine upd_refOut_keeps ?_ ?_ _
    | with_reducible refine upd_refSeen_refRun_refOut_keeps ?_ ?_ ?_ ?_ _ _ _ 

end Sys2Proof.Machine
end

