-- ==== Sys2Proof/Laws/KeepsHeddle.lean ====
section
/-!
SUPPORT. Sys2Proof/Laws/KeepsHeddle.lean: what each function of Machine/Heddle.lean may change: its touch set, and one lemma per function.
-/
namespace Sys2Proof.Machine

open Sys2Proof

def shedPhase_touch : Nat := 0x80000000000000000000000000000000000000000000000000002200000002002000
theorem shedPhase_keeps {tm : Nat} {z s : State} (hm : Sub shedPhase_touch tm) (hs : Keeps tm z s) (p : Nat) :
    Keeps tm z (State.shedPhase s p) := by
  delta State.shedPhase
  repeat' first
    | with_reducible assumption
    | (refine Sub.bit hm ?_; exact rfl)
    | (refine Sub.trans (Sub.of ?_) hm; exact rfl)
    | with_reducible refine Keeps.ite ?_ ?_
    | (refine (?_ : (_ : Bool) = true); exact rfl)
    | with_reducible refine wr_keeps ?_ ?_ ?_ _ _
    | with_reducible refine putBit_keeps ?_ ?_ ?_ _ _ _
    | with_reducible refine onPh_keeps ?_ ?_ _ _
    | with_reducible refine Keeps.idState ?_
    | with_reducible refine foldl_keeps ?_ _ (fun s a hs => ?_)
    | (extract_lets +onlyGivenNames x; refine Keeps.cut (x := x) (m := tm) (s0 := z) ?_ ?_; unfold x; clear x; rotate_left; intro hx; clear_value x; rotate_right)
    | (extract_lets +onlyGivenNames x; clear_value x)
    | split

def reorder_touch : Nat := 0xc0000000000000000000000000000000000000000000000000008000000000000400
theorem reorder_keeps {tm : Nat} {z s : State} (hm : Sub reorder_touch tm) (hs : Keeps tm z s) (l : Nat) :
    Keeps tm z (State.reorder s l) := by
  delta State.reorder
  repeat' first
    | with_reducible assumption
    | (refine Sub.bit hm ?_; exact rfl)
    | (refine Sub.trans (Sub.of ?_) hm; exact rfl)
    | with_reducible refine Keeps.ite ?_ ?_
    | (refine (?_ : (_ : Bool) = true); exact rfl)
    | with_reducible refine wr_keeps ?_ ?_ ?_ _ _
    | with_reducible refine setDriven_keeps ?_ ?_ _ _
    | with_reducible refine onLane_keeps ?_ ?_ _ _
    | with_reducible refine Keeps.idState ?_
    | with_reducible refine foldl_keeps ?_ _ (fun s a hs => ?_)
    | (extract_lets +onlyGivenNames x; refine Keeps.cut (x := x) (m := tm) (s0 := z) ?_ ?_; unfold x; clear x; rotate_left; intro hx; clear_value x; rotate_right)
    | (extract_lets +onlyGivenNames x; clear_value x)
    | split

def commitSlot_touch : Nat := 0x4e000000000000000000000000000000000000000000000180000a100000000000400
theorem commitSlot_keeps {tm : Nat} {z s : State} (hm : Sub commitSlot_touch tm) (hs : Keeps tm z s) (l : Nat) (m : Bool) (g : Bool) (old : Nat) (was : Bool) :
    Keeps tm z (State.commitSlot s l m g old was) := by
  delta State.commitSlot
  repeat' first
    | with_reducible assumption
    | (refine Sub.bit hm ?_; exact rfl)
    | (refine Sub.trans (Sub.of ?_) hm; exact rfl)
    | with_reducible refine Keeps.ite ?_ ?_
    | (refine (?_ : (_ : Bool) = true); exact rfl)
    | with_reducible refine wr_keeps ?_ ?_ ?_ _ _
    | with_reducible refine put_keeps ?_ ?_ ?_ _ _
    | with_reducible refine startAcct_keeps ?_ ?_ _
    | with_reducible refine onMeter_keeps ?_ ?_ _ _
    | with_reducible refine reorder_keeps ?_ ?_ _
    | with_reducible refine retarget_keeps ?_ ?_ _
    | with_reducible refine askReed_keeps ?_ ?_ _ _
    | with_reducible refine Keeps.idState ?_
    | with_reducible refine foldl_keeps ?_ _ (fun s a hs => ?_)
    | (extract_lets +onlyGivenNames x; refine Keeps.cut (x := x) (m := tm) (s0 := z) ?_ ?_; unfold x; clear x; rotate_left; intro hx; clear_value x; rotate_right)
    | (extract_lets +onlyGivenNames x; clear_value x)
    | split

def loadActive_touch : Nat := 0x380
theorem loadActive_keeps {tm : Nat} {z s : State} (hm : Sub loadActive_touch tm) (hs : Keeps tm z s) (b : Nat) (lo : Nat) (hi : Nat) (seg : Nat) :
    Keeps tm z (State.loadActive s b lo hi seg) := by
  delta State.loadActive
  repeat' first
    | with_reducible assumption
    | (refine Sub.bit hm ?_; exact rfl)
    | (refine Sub.trans (Sub.of ?_) hm; exact rfl)
    | with_reducible refine Keeps.ite ?_ ?_
    | (refine (?_ : (_ : Bool) = true); exact rfl)
    | with_reducible refine wr_keeps ?_ ?_ ?_ _ _
    | with_reducible refine Keeps.idState ?_
    | with_reducible refine foldl_keeps ?_ _ (fun s a hs => ?_)
    | (extract_lets +onlyGivenNames x; refine Keeps.cut (x := x) (m := tm) (s0 := z) ?_ ?_; unfold x; clear x; rotate_left; intro hx; clear_value x; rotate_right)
    | (extract_lets +onlyGivenNames x; clear_value x)
    | split

def applyCommit_touch : Nat := 0x4e000000000000000000000000000000000000000000000180000a300000002002780
theorem applyCommit_keeps {tm : Nat} {z s : State} (hm : Sub applyCommit_touch tm) (hs : Keeps tm z s) (b : Nat) (q : Sys2Proof.Machine.Snap) :
    Keeps tm z (State.applyCommit s b q) := by
  delta State.applyCommit
  repeat' first
    | with_reducible assumption
    | (refine Sub.bit hm ?_; exact rfl)
    | (refine Sub.trans (Sub.of ?_) hm; exact rfl)
    | with_reducible refine Keeps.ite ?_ ?_
    | (refine (?_ : (_ : Bool) = true); exact rfl)
    | with_reducible refine putBit_keeps ?_ ?_ ?_ _ _ _
    | with_reducible refine forEach_keeps ?_ _ (fun s a hs => ?_)
    | with_reducible refine shedPhase_keeps ?_ ?_ _
    | with_reducible refine commitSlot_keeps ?_ ?_ _ _ _ _ _
    | with_reducible refine loadActive_keeps ?_ ?_ _ _ _ _
    | with_reducible refine onPh_keeps ?_ ?_ _ _
    | with_reducible refine Keeps.idState ?_
    | with_reducible refine foldl_keeps ?_ _ (fun s a hs => ?_)
    | (extract_lets +onlyGivenNames x; refine Keeps.cut (x := x) (m := tm) (s0 := z) ?_ ?_; unfold x; clear x; rotate_left; intro hx; clear_value x; rotate_right)
    | (extract_lets +onlyGivenNames x; clear_value x)
    | split

def refuseCommit_touch : Nat := 0x80
theorem refuseCommit_keeps {tm : Nat} {z s : State} (hm : Sub refuseCommit_touch tm) (hs : Keeps tm z s) (b : Nat) (code : Nat) (ph : Nat) (slot : Nat) :
    Keeps tm z (State.refuseCommit s b code ph slot) := by
  delta State.refuseCommit
  repeat' first
    | with_reducible assumption
    | (refine Sub.bit hm ?_; exact rfl)
    | (refine Sub.trans (Sub.of ?_) hm; exact rfl)
    | with_reducible refine Keeps.ite ?_ ?_
    | (refine (?_ : (_ : Bool) = true); exact rfl)
    | with_reducible refine wr_keeps ?_ ?_ ?_ _ _
    | with_reducible refine put_keeps ?_ ?_ ?_ _ _
    | with_reducible refine Keeps.idState ?_
    | with_reducible refine foldl_keeps ?_ _ (fun s a hs => ?_)
    | (extract_lets +onlyGivenNames x; refine Keeps.cut (x := x) (m := tm) (s0 := z) ?_ ?_; unfold x; clear x; rotate_left; intro hx; clear_value x; rotate_right)
    | (extract_lets +onlyGivenNames x; clear_value x)
    | split

def writeCommit_touch : Nat := 0x100000000000000000000000000000000000000000000000000000000000000000080
theorem writeCommit_keeps {tm : Nat} {z s : State} (hm : Sub writeCommit_touch tm) (hs : Keeps tm z s) (b : Nat) (w : Nat) :
    Keeps tm z (State.writeCommit s b w) := by
  delta State.writeCommit
  repeat' first
    | with_reducible assumption
    | (refine Sub.bit hm ?_; exact rfl)
    | (refine Sub.trans (Sub.of ?_) hm; exact rfl)
    | with_reducible refine Keeps.ite ?_ ?_
    | (refine (?_ : (_ : Bool) = true); exact rfl)
    | with_reducible refine put_keeps ?_ ?_ ?_ _ _
    | with_reducible refine refuseCommit_keeps ?_ ?_ _ _ _ _
    | with_reducible refine onBay_keeps ?_ ?_ _ _
    | with_reducible refine Keeps.idState ?_
    | with_reducible refine foldl_keeps ?_ _ (fun s a hs => ?_)
    | (extract_lets +onlyGivenNames x; refine Keeps.cut (x := x) (m := tm) (s0 := z) ?_ ?_; unfold x; clear x; rotate_left; intro hx; clear_value x; rotate_right)
    | (extract_lets +onlyGivenNames x; clear_value x)
    | split

def execHeddleCommit_touch : Nat := 0x10904000000000000000004a000600000000000010000000000000000000000000080
theorem execHeddleCommit_keeps {tm : Nat} {z s : State} (hm : Sub execHeddleCommit_touch tm) (hs : Keeps tm z s) (b : Sys2Proof.Bay) (w : Sys2Proof.BusWrite) :
    KeepsO tm z (execHeddleCommit b w s) := by
  delta execHeddleCommit
  repeat' first
    | with_reducible refine KeepsO.next ?_
    | with_reducible refine KeepsO.ite ?_ ?_
    | with_reducible assumption
    | (refine Sub.bit hm ?_; exact rfl)
    | (refine Sub.trans (Sub.of ?_) hm; exact rfl)
    | with_reducible refine Keeps.ite ?_ ?_
    | (refine (?_ : (_ : Bool) = true); exact rfl)
    | with_reducible refine writeCommit_keeps ?_ ?_ _ _
    | with_reducible refine gate_keeps ?_ ?_ _ _ (fun s a0 hs => ?_)
    | with_reducible refine Keeps.idState ?_
    | with_reducible refine foldl_keeps ?_ _ (fun s a hs => ?_)
    | (extract_lets +onlyGivenNames x; refine Keeps.cut (x := x) (m := tm) (s0 := z) ?_ ?_; unfold x; clear x; rotate_left; intro hx; clear_value x; rotate_right)
    | (extract_lets +onlyGivenNames x; clear_value x)
    | split

def execHeddleCommitDone_touch : Nat := 0x1017f97c000000000000000084a00060000006032043000002982008a30a105082002780
theorem execHeddleCommitDone_keeps {tm : Nat} {z s : State} (hm : Sub execHeddleCommitDone_touch tm) (hs : Keeps tm z s) (b : Sys2Proof.Bay) :
    KeepsO tm z (execHeddleCommitDone b s) := by
  delta execHeddleCommitDone
  repeat' first
    | with_reducible refine KeepsO.next ?_
    | with_reducible refine KeepsO.ite ?_ ?_
    | with_reducible assumption
    | (refine Sub.bit hm ?_; exact rfl)
    | (refine Sub.trans (Sub.of ?_) hm; exact rfl)
    | with_reducible refine Keeps.ite ?_ ?_
    | (refine (?_ : (_ : Bool) = true); exact rfl)
    | with_reducible refine put_keeps ?_ ?_ ?_ _ _
    | with_reducible refine pinTrips_keeps ?_ ?_
    | with_reducible refine refuseCommit_keeps ?_ ?_ _ _ _ _
    | with_reducible refine applyCommit_keeps ?_ ?_ _ _
    | with_reducible refine settle_keeps ?_ ?_
    | with_reducible refine begin_keeps ?_ ?_
    | with_reducible refine onBay_keeps ?_ ?_ _ _
    | with_reducible refine Keeps.idState ?_
    | with_reducible refine foldl_keeps ?_ _ (fun s a hs => ?_)
    | (extract_lets +onlyGivenNames x; refine Keeps.cut (x := x) (m := tm) (s0 := z) ?_ ?_; unfold x; clear x; rotate_left; intro hx; clear_value x; rotate_right)
    | (extract_lets +onlyGivenNames x; clear_value x)
    | split

end Sys2Proof.Machine
end

