-- ==== Sys2Proof/Laws/KeepsPortM.lean ====
section
/-!
SUPPORT. Sys2Proof/Laws/KeepsPortM.lean: what each function of Machine/PortM.lean may change: its touch set, and one lemma per function.
-/
namespace Sys2Proof.Machine

open Sys2Proof

def onPm_touch : Nat := 0x80000000000000000000000000000000000000000000000000000000000000000000000
theorem onPm_keeps {tm : Nat} {z s : State} (hm : Sub onPm_touch tm) (hs : Keeps tm z s) (f : Sys2Proof.Machine.PortM → Sys2Proof.Machine.PortM) :
    Keeps tm z (State.onPm s f) := by
  delta State.onPm
  repeat' first
    | with_reducible assumption
    | (refine Sub.bit hm ?_; exact rfl)
    | (refine Sub.trans (Sub.of ?_) hm; exact rfl)
    | with_reducible refine Keeps.ite ?_ ?_
    | (refine (?_ : (_ : Bool) = true); exact rfl)
    | with_reducible refine Keeps.idState ?_
    | with_reducible refine foldl_keeps ?_ _ (fun s a hs => ?_)
    | (extract_lets +onlyGivenNames x; refine Keeps.cut (x := x) (m := tm) (s0 := z) ?_ ?_; unfold x; clear x; rotate_left; intro hx; clear_value x; rotate_right)
    | (extract_lets +onlyGivenNames x; clear_value x)
    | split
    | with_reducible refine upd_portM_keeps ?_ ?_ _

def pmDrop_touch : Nat := 0x80000000000000000000000000000000000000000000000000000000000000000000000
theorem pmDrop_keeps {tm : Nat} {z s : State} (hm : Sub pmDrop_touch tm) (hs : Keeps tm z s) (ts : List Nat) :
    Keeps tm z (State.pmDrop s ts) := by
  delta State.pmDrop
  repeat' first
    | with_reducible assumption
    | (refine Sub.bit hm ?_; exact rfl)
    | (refine Sub.trans (Sub.of ?_) hm; exact rfl)
    | with_reducible refine Keeps.ite ?_ ?_
    | (refine (?_ : (_ : Bool) = true); exact rfl)
    | with_reducible refine onPm_keeps ?_ ?_ _
    | with_reducible refine Keeps.idState ?_
    | with_reducible refine foldl_keeps ?_ _ (fun s a hs => ?_)
    | (extract_lets +onlyGivenNames x; refine Keeps.cut (x := x) (m := tm) (s0 := z) ?_ ?_; unfold x; clear x; rotate_left; intro hx; clear_value x; rotate_right)
    | (extract_lets +onlyGivenNames x; clear_value x)
    | split

def pmEnd_touch : Nat := 0x80000000000000000000020000000000000000000000000000000000000000000000000
theorem pmEnd_keeps {tm : Nat} {z s : State} (hm : Sub pmEnd_touch tm) (hs : Keeps tm z s)  :
    Keeps tm z (State.pmEnd s) := by
  delta State.pmEnd
  repeat' first
    | with_reducible assumption
    | (refine Sub.bit hm ?_; exact rfl)
    | (refine Sub.trans (Sub.of ?_) hm; exact rfl)
    | with_reducible refine Keeps.ite ?_ ?_
    | (refine (?_ : (_ : Bool) = true); exact rfl)
    | with_reducible refine put_keeps ?_ ?_ ?_ _ _
    | with_reducible refine onPm_keeps ?_ ?_ _
    | with_reducible refine Keeps.idState ?_
    | with_reducible refine foldl_keeps ?_ _ (fun s a hs => ?_)
    | (extract_lets +onlyGivenNames x; refine Keeps.cut (x := x) (m := tm) (s0 := z) ?_ ?_; unfold x; clear x; rotate_left; intro hx; clear_value x; rotate_right)
    | (extract_lets +onlyGivenNames x; clear_value x)
    | split

def pmCut_touch : Nat := 0x8000974000000000000002004a000600000000000010000000000000000000000000000
theorem pmCut_keeps {tm : Nat} {z s : State} (hm : Sub pmCut_touch tm) (hs : Keeps tm z s)  :
    Keeps tm z (State.pmCut s) := by
  delta State.pmCut
  repeat' first
    | with_reducible assumption
    | (refine Sub.bit hm ?_; exact rfl)
    | (refine Sub.trans (Sub.of ?_) hm; exact rfl)
    | with_reducible refine Keeps.ite ?_ ?_
    | (refine (?_ : (_ : Bool) = true); exact rfl)
    | with_reducible refine pmEnd_keeps ?_ ?_
    | with_reducible refine complete_keeps ?_ ?_ _ _ _
    | with_reducible refine Keeps.idState ?_
    | with_reducible refine foldl_keeps ?_ _ (fun s a hs => ?_)
    | (extract_lets +onlyGivenNames x; refine Keeps.cut (x := x) (m := tm) (s0 := z) ?_ ?_; unfold x; clear x; rotate_left; intro hx; clear_value x; rotate_right)
    | (extract_lets +onlyGivenNames x; clear_value x)
    | split

def writeSmbM_touch : Nat := 0x8000974000000000000003004a000600000000000010000000000000000000000000000
theorem writeSmbM_keeps {tm : Nat} {z s : State} (hm : Sub writeSmbM_touch tm) (hs : Keeps tm z s) (w : Nat) :
    Keeps tm z (State.writeSmbM s w) := by
  delta State.writeSmbM
  repeat' first
    | with_reducible assumption
    | (refine Sub.bit hm ?_; exact rfl)
    | (refine Sub.trans (Sub.of ?_) hm; exact rfl)
    | with_reducible refine Keeps.ite ?_ ?_
    | (refine (?_ : (_ : Bool) = true); exact rfl)
    | with_reducible refine plainWrite_keeps ?_ ?_ _ _ _ ?_
    | with_reducible refine onPm_keeps ?_ ?_ _
    | with_reducible refine pmCut_keeps ?_ ?_
    | with_reducible refine Keeps.idState ?_
    | with_reducible refine foldl_keeps ?_ _ (fun s a hs => ?_)
    | (extract_lets +onlyGivenNames x; refine Keeps.cut (x := x) (m := tm) (s0 := z) ?_ ?_; unfold x; clear x; rotate_left; intro hx; clear_value x; rotate_right)
    | (extract_lets +onlyGivenNames x; clear_value x)
    | split

def onPoll_touch : Nat := 0x80000000000000000000000000000000000000000000000000000000000000000000000
theorem onPoll_keeps {tm : Nat} {z s : State} (hm : Sub onPoll_touch tm) (hs : Keeps tm z s) (n : Nat) (f : Sys2Proof.Machine.PollEnt → Sys2Proof.Machine.PollEnt) :
    Keeps tm z (State.onPoll s n f) := by
  delta State.onPoll
  repeat' first
    | with_reducible assumption
    | (refine Sub.bit hm ?_; exact rfl)
    | (refine Sub.trans (Sub.of ?_) hm; exact rfl)
    | with_reducible refine Keeps.ite ?_ ?_
    | (refine (?_ : (_ : Bool) = true); exact rfl)
    | with_reducible refine onPm_keeps ?_ ?_ _
    | with_reducible refine Keeps.idState ?_
    | with_reducible refine foldl_keeps ?_ _ (fun s a hs => ?_)
    | (extract_lets +onlyGivenNames x; refine Keeps.cut (x := x) (m := tm) (s0 := z) ?_ ?_; unfold x; clear x; rotate_left; intro hx; clear_value x; rotate_right)
    | (extract_lets +onlyGivenNames x; clear_value x)
    | split

def writePoll_touch : Nat := 0x80000000000000000000000000000000000000000000000000000000000000000000000
theorem writePoll_keeps {tm : Nat} {z s : State} (hm : Sub writePoll_touch tm) (hs : Keeps tm z s) (n : Nat) (w : Nat) :
    Keeps tm z (State.writePoll s n w) := by
  delta State.writePoll
  repeat' first
    | with_reducible assumption
    | (refine Sub.bit hm ?_; exact rfl)
    | (refine Sub.trans (Sub.of ?_) hm; exact rfl)
    | with_reducible refine Keeps.ite ?_ ?_
    | (refine (?_ : (_ : Bool) = true); exact rfl)
    | with_reducible refine onPoll_keeps ?_ ?_ _ _
    | with_reducible refine onPm_keeps ?_ ?_ _
    | with_reducible refine Keeps.idState ?_
    | with_reducible refine foldl_keeps ?_ _ (fun s a hs => ?_)
    | (extract_lets +onlyGivenNames x; refine Keeps.cut (x := x) (m := tm) (s0 := z) ?_ ?_; unfold x; clear x; rotate_left; intro hx; clear_value x; rotate_right)
    | (extract_lets +onlyGivenNames x; clear_value x)
    | split

def passOk_touch : Nat := 0x974000000000000000004a000600000000000010000000000000000000000000000
theorem passOk_keeps {tm : Nat} {z s : State} (hm : Sub passOk_touch tm) (hs : Keeps tm z s) (r : Sys2Proof.Machine.PmReq) (data : List Sys2Proof.Byte) :
    Keeps tm z (State.passOk s r data) := by
  delta State.passOk
  repeat' first
    | with_reducible assumption
    | (refine Sub.bit hm ?_; exact rfl)
    | (refine Sub.trans (Sub.of ?_) hm; exact rfl)
    | with_reducible refine Keeps.ite ?_ ?_
    | (refine (?_ : (_ : Bool) = true); exact rfl)
    | with_reducible refine complete_keeps ?_ ?_ _ _ _
    | with_reducible refine writeBuf_keeps ?_ ?_ _ _
    | with_reducible refine Keeps.idState ?_
    | with_reducible refine foldl_keeps ?_ _ (fun s a hs => ?_)
    | (extract_lets +onlyGivenNames x; refine Keeps.cut (x := x) (m := tm) (s0 := z) ?_ ?_; unfold x; clear x; rotate_left; intro hx; clear_value x; rotate_right)
    | (extract_lets +onlyGivenNames x; clear_value x)
    | split

def pmFlush_touch : Nat := 0x8000974000000000000000004a000600000000000010000000000000000000000000000
theorem pmFlush_keeps {tm : Nat} {z s : State} (hm : Sub pmFlush_touch tm) (hs : Keeps tm z s)  :
    Keeps tm z (State.pmFlush s) := by
  delta State.pmFlush
  repeat' first
    | with_reducible assumption
    | (refine Sub.bit hm ?_; exact rfl)
    | (refine Sub.trans (Sub.of ?_) hm; exact rfl)
    | with_reducible refine Keeps.ite ?_ ?_
    | (refine (?_ : (_ : Bool) = true); exact rfl)
    | with_reducible refine complete_keeps ?_ ?_ _ _ _
    | with_reducible refine onPm_keeps ?_ ?_ _
    | with_reducible refine Keeps.idState ?_
    | with_reducible refine foldl_keeps ?_ _ (fun s a hs => ?_)
    | (extract_lets +onlyGivenNames x; refine Keeps.cut (x := x) (m := tm) (s0 := z) ?_ ?_; unfold x; clear x; rotate_left; intro hx; clear_value x; rotate_right)
    | (extract_lets +onlyGivenNames x; clear_value x)
    | split

def pmStuck_touch : Nat := 0x8000974000000000000006004a000600000000000010000000000000000000000000000
theorem pmStuck_keeps {tm : Nat} {z s : State} (hm : Sub pmStuck_touch tm) (hs : Keeps tm z s)  :
    Keeps tm z (State.pmStuck s) := by
  delta State.pmStuck
  repeat' first
    | with_reducible assumption
    | (refine Sub.bit hm ?_; exact rfl)
    | (refine Sub.trans (Sub.of ?_) hm; exact rfl)
    | with_reducible refine Keeps.ite ?_ ?_
    | (refine (?_ : (_ : Bool) = true); exact rfl)
    | with_reducible refine put_keeps ?_ ?_ ?_ _ _
    | with_reducible refine record_keeps ?_ ?_ _ _ _ _
    | with_reducible refine pmFlush_keeps ?_ ?_
    | with_reducible refine Keeps.idState ?_
    | with_reducible refine foldl_keeps ?_ _ (fun s a hs => ?_)
    | (extract_lets +onlyGivenNames x; refine Keeps.cut (x := x) (m := tm) (s0 := z) ?_ ?_; unfold x; clear x; rotate_left; intro hx; clear_value x; rotate_right)
    | (extract_lets +onlyGivenNames x; clear_value x)
    | split

def pmAttempt_touch : Nat := 0x8000974000000000000006004a000600000000000010000000000000000000000000000
theorem pmAttempt_keeps {tm : Nat} {z s : State} (hm : Sub pmAttempt_touch tm) (hs : Keeps tm z s) (freed : Bool) :
    Keeps tm z (State.pmAttempt s freed) := by
  delta State.pmAttempt
  repeat' first
    | with_reducible assumption
    | (refine Sub.bit hm ?_; exact rfl)
    | (refine Sub.trans (Sub.of ?_) hm; exact rfl)
    | with_reducible refine Keeps.ite ?_ ?_
    | (refine (?_ : (_ : Bool) = true); exact rfl)
    | with_reducible refine put_keeps ?_ ?_ ?_ _ _
    | with_reducible refine pmStuck_keeps ?_ ?_
    | with_reducible refine record_keeps ?_ ?_ _ _ _ _
    | with_reducible refine emit_keeps ?_ ?_ _
    | with_reducible refine Keeps.idState ?_
    | with_reducible refine foldl_keeps ?_ _ (fun s a hs => ?_)
    | (extract_lets +onlyGivenNames x; refine Keeps.cut (x := x) (m := tm) (s0 := z) ?_ ?_; unfold x; clear x; rotate_left; intro hx; clear_value x; rotate_right)
    | (extract_lets +onlyGivenNames x; clear_value x)
    | split

def pmEmit_touch : Nat := 0x80000040000000000000020000000600000000000000000000000000000000000000000
theorem pmEmit_keeps {tm : Nat} {z s : State} (hm : Sub pmEmit_touch tm) (hs : Keeps tm z s) (a : Sys2Proof.Machine.PmAct) :
    Keeps tm z (State.pmEmit s a) := by
  delta State.pmEmit
  repeat' first
    | with_reducible assumption
    | (refine Sub.bit hm ?_; exact rfl)
    | (refine Sub.trans (Sub.of ?_) hm; exact rfl)
    | with_reducible refine Keeps.ite ?_ ?_
    | (refine (?_ : (_ : Bool) = true); exact rfl)
    | with_reducible refine put_keeps ?_ ?_ ?_ _ _
    | with_reducible refine onPm_keeps ?_ ?_ _
    | with_reducible refine emit_keeps ?_ ?_ _
    | with_reducible refine Keeps.idState ?_
    | with_reducible refine foldl_keeps ?_ _ (fun s a hs => ?_)
    | (extract_lets +onlyGivenNames x; refine Keeps.cut (x := x) (m := tm) (s0 := z) ?_ ?_; unfold x; clear x; rotate_left; intro hx; clear_value x; rotate_right)
    | (extract_lets +onlyGivenNames x; clear_value x)
    | split

def pmBegin_touch : Nat := 0x80000040000000000000020000000600000000000000000000000000000000000000000
theorem pmBegin_keeps {tm : Nat} {z s : State} (hm : Sub pmBegin_touch tm) (hs : Keeps tm z s) (a : Sys2Proof.Machine.PmAct) :
    Keeps tm z (State.pmBegin s a) := by
  delta State.pmBegin
  repeat' first
    | with_reducible assumption
    | (refine Sub.bit hm ?_; exact rfl)
    | (refine Sub.trans (Sub.of ?_) hm; exact rfl)
    | with_reducible refine Keeps.ite ?_ ?_
    | (refine (?_ : (_ : Bool) = true); exact rfl)
    | with_reducible refine pmEmit_keeps ?_ ?_ _
    | with_reducible refine onPm_keeps ?_ ?_ _
    | with_reducible refine Keeps.idState ?_
    | with_reducible refine foldl_keeps ?_ _ (fun s a hs => ?_)
    | (extract_lets +onlyGivenNames x; refine Keeps.cut (x := x) (m := tm) (s0 := z) ?_ ?_; unfold x; clear x; rotate_left; intro hx; clear_value x; rotate_right)
    | (extract_lets +onlyGivenNames x; clear_value x)
    | split

def pmNext_touch : Nat := 0x80000040000000000000020000000600000000000000000000000000000000000000000
theorem pmNext_keeps {tm : Nat} {z s : State} (hm : Sub pmNext_touch tm) (hs : Keeps tm z s)  :
    Keeps tm z (State.pmNext s) := by
  delta State.pmNext
  repeat' first
    | with_reducible assumption
    | (refine Sub.bit hm ?_; exact rfl)
    | (refine Sub.trans (Sub.of ?_) hm; exact rfl)
    | with_reducible refine Keeps.ite ?_ ?_
    | (refine (?_ : (_ : Bool) = true); exact rfl)
    | with_reducible refine pmBegin_keeps ?_ ?_ _
    | with_reducible refine onPm_keeps ?_ ?_ _
    | with_reducible refine Keeps.idState ?_
    | with_reducible refine foldl_keeps ?_ _ (fun s a hs => ?_)
    | (extract_lets +onlyGivenNames x; refine Keeps.cut (x := x) (m := tm) (s0 := z) ?_ ?_; unfold x; clear x; rotate_left; intro hx; clear_value x; rotate_right)
    | (extract_lets +onlyGivenNames x; clear_value x)
    | split

def pollFail_touch : Nat := 0x80000000000000000000000000000000000000000000000000000000000000000000000
theorem pollFail_keeps {tm : Nat} {z s : State} (hm : Sub pollFail_touch tm) (hs : Keeps tm z s) (n : Nat) (last : Nat) :
    Keeps tm z (State.pollFail s n last) := by
  delta State.pollFail
  repeat' first
    | with_reducible assumption
    | (refine Sub.bit hm ?_; exact rfl)
    | (refine Sub.trans (Sub.of ?_) hm; exact rfl)
    | with_reducible refine Keeps.ite ?_ ?_
    | (refine (?_ : (_ : Bool) = true); exact rfl)
    | with_reducible refine onPoll_keeps ?_ ?_ _ _
    | with_reducible refine Keeps.idState ?_
    | with_reducible refine foldl_keeps ?_ _ (fun s a hs => ?_)
    | (extract_lets +onlyGivenNames x; refine Keeps.cut (x := x) (m := tm) (s0 := z) ?_ ?_; unfold x; clear x; rotate_left; intro hx; clear_value x; rotate_right)
    | (extract_lets +onlyGivenNames x; clear_value x)
    | split

def pollOk_touch : Nat := 0x80000000000000000000400000000000000000000000000000000000000000000000000
theorem pollOk_keeps {tm : Nat} {z s : State} (hm : Sub pollOk_touch tm) (hs : Keeps tm z s) (n : Nat) (data : List Sys2Proof.Byte) :
    Keeps tm z (State.pollOk s n data) := by
  delta State.pollOk
  repeat' first
    | with_reducible assumption
    | (refine Sub.bit hm ?_; exact rfl)
    | (refine Sub.trans (Sub.of ?_) hm; exact rfl)
    | with_reducible refine Keeps.ite ?_ ?_
    | (refine (?_ : (_ : Bool) = true); exact rfl)
    | with_reducible refine wr_keeps ?_ ?_ ?_ _ _
    | with_reducible refine onPoll_keeps ?_ ?_ _ _
    | with_reducible refine Keeps.idState ?_
    | (simp only [Field.up]; refine Sub.bit hm ?_; exact rfl)
    | (dsimp only; refine Sub.bit hm ?_; exact rfl)
    | with_reducible refine foldl_keeps ?_ _ (fun s a hs => ?_)
    | (extract_lets +onlyGivenNames x; refine Keeps.cut (x := x) (m := tm) (s0 := z) ?_ ?_; unfold x; clear x; rotate_left; intro hx; clear_value x; rotate_right)
    | (extract_lets +onlyGivenNames x; clear_value x)
    | split

def skipFlags_touch : Nat := 0x20000000000000000000000000000000000000000000000000000000000000000
theorem skipFlags_keeps {tm : Nat} {z s : State} (hm : Sub skipFlags_touch tm) (hs : Keeps tm z s) (x2 : Sys2Proof.Machine.PmAct) :
    Keeps tm z (State.skipFlags s x2).2 := by
  delta State.skipFlags
  repeat' first
    | with_reducible assumption
    | (dsimp only; with_reducible assumption)
    | (refine Sub.bit hm ?_; exact rfl)
    | (refine Sub.trans (Sub.of ?_) hm; exact rfl)
    | with_reducible refine Keeps.ite ?_ ?_
    | (refine (?_ : (_ : Bool) = true); exact rfl)
    | with_reducible refine draw_keeps ?_ ?_
    | with_reducible refine Keeps.idState ?_
    | with_reducible refine foldl_keeps ?_ _ (fun s a hs => ?_)
    | (extract_lets +onlyGivenNames x; refine Keeps.cut (x := x) (m := tm) (s0 := z) ?_ ?_; unfold x; clear x; rotate_left; intro hx; clear_value x; rotate_right)
    | (extract_lets +onlyGivenNames x; clear_value x)
    | split
    | dsimp only

def execPmAlert_touch : Nat := 0x80000040000000000000000000000000000000000000000000000000000000000000000
theorem execPmAlert_keeps {tm : Nat} {z s : State} (hm : Sub execPmAlert_touch tm) (hs : Keeps tm z s)  :
    KeepsO tm z (execPmAlert s) := by
  delta execPmAlert
  repeat' first
    | with_reducible refine KeepsO.next ?_
    | with_reducible refine KeepsO.ite ?_ ?_
    | with_reducible assumption
    | (refine Sub.bit hm ?_; exact rfl)
    | (refine Sub.trans (Sub.of ?_) hm; exact rfl)
    | with_reducible refine Keeps.ite ?_ ?_
    | (refine (?_ : (_ : Bool) = true); exact rfl)
    | with_reducible refine onPm_keeps ?_ ?_ _
    | with_reducible refine begin_keeps ?_ ?_
    | with_reducible refine Keeps.idState ?_
    | with_reducible refine foldl_keeps ?_ _ (fun s a hs => ?_)
    | (extract_lets +onlyGivenNames x; refine Keeps.cut (x := x) (m := tm) (s0 := z) ?_ ?_; unfold x; clear x; rotate_left; intro hx; clear_value x; rotate_right)
    | (extract_lets +onlyGivenNames x; clear_value x)
    | split

def execPmArbLoss_touch : Nat := 0x8000976000000000000006004a000600000000000010000000000000000000000000000
theorem execPmArbLoss_keeps {tm : Nat} {z s : State} (hm : Sub execPmArbLoss_touch tm) (hs : Keeps tm z s)  :
    KeepsO tm z (execPmArbLoss s) := by
  delta execPmArbLoss
  repeat' first
    | with_reducible refine KeepsO.next ?_
    | with_reducible refine KeepsO.ite ?_ ?_
    | with_reducible assumption
    | (refine Sub.bit hm ?_; exact rfl)
    | (refine Sub.trans (Sub.of ?_) hm; exact rfl)
    | with_reducible refine Keeps.ite ?_ ?_
    | (refine (?_ : (_ : Bool) = true); exact rfl)
    | with_reducible refine put_keeps ?_ ?_ ?_ _ _
    | with_reducible refine bump_keeps ?_ ?_ ?_ _ _
    | with_reducible refine pollFail_keeps ?_ ?_ _ _
    | with_reducible refine pmEnd_keeps ?_ ?_
    | with_reducible refine skipFlags_keeps ?_ ?_ _
    | with_reducible refine complete_keeps ?_ ?_ _ _ _
    | with_reducible refine record_keeps ?_ ?_ _ _ _ _
    | with_reducible refine onPm_keeps ?_ ?_ _
    | with_reducible refine begin_keeps ?_ ?_
    | with_reducible refine Keeps.idState ?_
    | with_reducible refine foldl_keeps ?_ _ (fun s a hs => ?_)
    | (extract_lets +onlyGivenNames x; refine Keeps.cut (x := x) (m := tm) (s0 := z) ?_ ?_; unfold x; clear x; rotate_left; intro hx; clear_value x; rotate_right)
    | (extract_lets +onlyGivenNames x; clear_value x)
    | split
    | dsimp only

def execPmBackoffEnd_touch : Nat := 0x80000040000000000000020000000600000000000000000000000000000000000000000
theorem execPmBackoffEnd_keeps {tm : Nat} {z s : State} (hm : Sub execPmBackoffEnd_touch tm) (hs : Keeps tm z s)  :
    KeepsO tm z (execPmBackoffEnd s) := by
  delta execPmBackoffEnd
  repeat' first
    | with_reducible refine KeepsO.next ?_
    | with_reducible refine KeepsO.ite ?_ ?_
    | with_reducible assumption
    | (refine Sub.bit hm ?_; exact rfl)
    | (refine Sub.trans (Sub.of ?_) hm; exact rfl)
    | with_reducible refine Keeps.ite ?_ ?_
    | (refine (?_ : (_ : Bool) = true); exact rfl)
    | with_reducible refine pmEmit_keeps ?_ ?_ _
    | with_reducible refine begin_keeps ?_ ?_
    | with_reducible refine Keeps.idState ?_
    | with_reducible refine foldl_keeps ?_ _ (fun s a hs => ?_)
    | (extract_lets +onlyGivenNames x; refine Keeps.cut (x := x) (m := tm) (s0 := z) ?_ ?_; unfold x; clear x; rotate_left; intro hx; clear_value x; rotate_right)
    | (extract_lets +onlyGivenNames x; clear_value x)
    | split

def execPmBusFree_touch : Nat := 0x80000040000000000000020000000600000000000000000000000000000000000000000
theorem execPmBusFree_keeps {tm : Nat} {z s : State} (hm : Sub execPmBusFree_touch tm) (hs : Keeps tm z s)  :
    KeepsO tm z (execPmBusFree s) := by
  delta execPmBusFree
  repeat' first
    | with_reducible refine KeepsO.next ?_
    | with_reducible refine KeepsO.ite ?_ ?_
    | with_reducible assumption
    | (refine Sub.bit hm ?_; exact rfl)
    | (refine Sub.trans (Sub.of ?_) hm; exact rfl)
    | with_reducible refine Keeps.ite ?_ ?_
    | (refine (?_ : (_ : Bool) = true); exact rfl)
    | with_reducible refine pmNext_keeps ?_ ?_
    | with_reducible refine onPm_keeps ?_ ?_ _
    | with_reducible refine begin_keeps ?_ ?_
    | with_reducible refine Keeps.idState ?_
    | with_reducible refine foldl_keeps ?_ _ (fun s a hs => ?_)
    | (extract_lets +onlyGivenNames x; refine Keeps.cut (x := x) (m := tm) (s0 := z) ?_ ?_; unfold x; clear x; rotate_left; intro hx; clear_value x; rotate_right)
    | (extract_lets +onlyGivenNames x; clear_value x)
    | split

def execPmBusStuck_touch : Nat := 0x1817f97c000000000000006084a00060000006032043000002882008a00a105080000400
theorem execPmBusStuck_keeps {tm : Nat} {z s : State} (hm : Sub execPmBusStuck_touch tm) (hs : Keeps tm z s) (sda : Bool) (freed : Bool) :
    KeepsO tm z (execPmBusStuck sda freed s) := by
  delta execPmBusStuck
  repeat' first
    | with_reducible refine KeepsO.next ?_
    | with_reducible refine KeepsO.ite ?_ ?_
    | with_reducible assumption
    | (refine Sub.bit hm ?_; exact rfl)
    | (refine Sub.trans (Sub.of ?_) hm; exact rfl)
    | with_reducible refine Keeps.ite ?_ ?_
    | (refine (?_ : (_ : Bool) = true); exact rfl)
    | with_reducible refine put_keeps ?_ ?_ ?_ _ _
    | with_reducible refine pmAttempt_keeps ?_ ?_ _
    | with_reducible refine pmStuck_keeps ?_ ?_
    | with_reducible refine settle_keeps ?_ ?_
    | with_reducible refine onPm_keeps ?_ ?_ _
    | with_reducible refine begin_keeps ?_ ?_
    | with_reducible refine Keeps.idState ?_
    | with_reducible refine foldl_keeps ?_ _ (fun s a hs => ?_)
    | (extract_lets +onlyGivenNames x; refine Keeps.cut (x := x) (m := tm) (s0 := z) ?_ ?_; unfold x; clear x; rotate_left; intro hx; clear_value x; rotate_right)
    | (extract_lets +onlyGivenNames x; clear_value x)
    | split

def execPmClockTimeout_touch : Nat := 0x8000974000000000000006004a000600000000000010000000000000000000000000000
theorem execPmClockTimeout_keeps {tm : Nat} {z s : State} (hm : Sub execPmClockTimeout_touch tm) (hs : Keeps tm z s)  :
    KeepsO tm z (execPmClockTimeout s) := by
  delta execPmClockTimeout
  repeat' first
    | with_reducible refine KeepsO.next ?_
    | with_reducible refine KeepsO.ite ?_ ?_
    | with_reducible assumption
    | (refine Sub.bit hm ?_; exact rfl)
    | (refine Sub.trans (Sub.of ?_) hm; exact rfl)
    | with_reducible refine Keeps.ite ?_ ?_
    | (refine (?_ : (_ : Bool) = true); exact rfl)
    | with_reducible refine put_keeps ?_ ?_ ?_ _ _
    | with_reducible refine pollFail_keeps ?_ ?_ _ _
    | with_reducible refine pmEnd_keeps ?_ ?_
    | with_reducible refine complete_keeps ?_ ?_ _ _ _
    | with_reducible refine record_keeps ?_ ?_ _ _ _ _
    | with_reducible refine begin_keeps ?_ ?_
    | with_reducible refine Keeps.idState ?_
    | with_reducible refine foldl_keeps ?_ _ (fun s a hs => ?_)
    | (extract_lets +onlyGivenNames x; refine Keeps.cut (x := x) (m := tm) (s0 := z) ?_ ?_; unfold x; clear x; rotate_left; intro hx; clear_value x; rotate_right)
    | (extract_lets +onlyGivenNames x; clear_value x)
    | split

def execPmRecoveryRetry_touch : Nat := 0x1817f97c000000000000006084a00060000006032043000002882008a00a105080000400
theorem execPmRecoveryRetry_keeps {tm : Nat} {z s : State} (hm : Sub execPmRecoveryRetry_touch tm) (hs : Keeps tm z s) (freed : Bool) :
    KeepsO tm z (execPmRecoveryRetry freed s) := by
  delta execPmRecoveryRetry
  repeat' first
    | with_reducible refine KeepsO.next ?_
    | with_reducible refine KeepsO.ite ?_ ?_
    | with_reducible assumption
    | (refine Sub.bit hm ?_; exact rfl)
    | (refine Sub.trans (Sub.of ?_) hm; exact rfl)
    | with_reducible refine Keeps.ite ?_ ?_
    | (refine (?_ : (_ : Bool) = true); exact rfl)
    | with_reducible refine put_keeps ?_ ?_ ?_ _ _
    | with_reducible refine pmAttempt_keeps ?_ ?_ _
    | with_reducible refine settle_keeps ?_ ?_
    | with_reducible refine record_keeps ?_ ?_ _ _ _ _
    | with_reducible refine pmNext_keeps ?_ ?_
    | with_reducible refine onPm_keeps ?_ ?_ _
    | with_reducible refine begin_keeps ?_ ?_
    | with_reducible refine emit_keeps ?_ ?_ _
    | with_reducible refine Keeps.idState ?_
    | with_reducible refine foldl_keeps ?_ _ (fun s a hs => ?_)
    | (extract_lets +onlyGivenNames x; refine Keeps.cut (x := x) (m := tm) (s0 := z) ?_ ?_; unfold x; clear x; rotate_left; intro hx; clear_value x; rotate_right)
    | (extract_lets +onlyGivenNames x; clear_value x)
    | split

def execPmTransactionDone_touch : Nat := 0x8000974000000000000046004a000600000000000010000000000000000000000000000
theorem execPmTransactionDone_keeps {tm : Nat} {z s : State} (hm : Sub execPmTransactionDone_touch tm) (hs : Keeps tm z s) (result : Fin 3) (data : List Sys2Proof.Byte) :
    KeepsO tm z (execPmTransactionDone result data s) := by
  delta execPmTransactionDone
  repeat' first
    | with_reducible refine KeepsO.next ?_
    | with_reducible refine KeepsO.ite ?_ ?_
    | with_reducible assumption
    | (refine Sub.bit hm ?_; exact rfl)
    | (refine Sub.trans (Sub.of ?_) hm; exact rfl)
    | with_reducible refine Keeps.ite ?_ ?_
    | (refine (?_ : (_ : Bool) = true); exact rfl)
    | with_reducible refine wr_keeps ?_ ?_ ?_ _ _
    | with_reducible refine put_keeps ?_ ?_ ?_ _ _
    | with_reducible refine pollFail_keeps ?_ ?_ _ _
    | with_reducible refine pollOk_keeps ?_ ?_ _ _
    | with_reducible refine pmEnd_keeps ?_ ?_
    | with_reducible refine complete_keeps ?_ ?_ _ _ _
    | with_reducible refine record_keeps ?_ ?_ _ _ _ _
    | with_reducible refine passOk_keeps ?_ ?_ _ _
    | with_reducible refine begin_keeps ?_ ?_
    | with_reducible refine Keeps.idState ?_
    | with_reducible refine foldl_keeps ?_ _ (fun s a hs => ?_)
    | (extract_lets +onlyGivenNames x; refine Keeps.cut (x := x) (m := tm) (s0 := z) ?_ ?_; unfold x; clear x; rotate_left; intro hx; clear_value x; rotate_right)
    | (extract_lets +onlyGivenNames x; clear_value x)
    | split

def execPoll_touch : Nat := 0x80000040000000000000020000000600000000000000000000000000000000000000000
theorem execPoll_keeps {tm : Nat} {z s : State} (hm : Sub execPoll_touch tm) (hs : Keeps tm z s) (entry : Option (Fin 32)) :
    KeepsO tm z (execPoll entry s) := by
  delta execPoll
  repeat' first
    | with_reducible refine KeepsO.next ?_
    | with_reducible refine KeepsO.ite ?_ ?_
    | with_reducible assumption
    | (refine Sub.bit hm ?_; exact rfl)
    | (refine Sub.trans (Sub.of ?_) hm; exact rfl)
    | with_reducible refine Keeps.ite ?_ ?_
    | (refine (?_ : (_ : Bool) = true); exact rfl)
    | with_reducible refine pmNext_keeps ?_ ?_
    | with_reducible refine onPm_keeps ?_ ?_ _
    | with_reducible refine begin_keeps ?_ ?_
    | with_reducible refine Keeps.idState ?_
    | with_reducible refine foldl_keeps ?_ _ (fun s a hs => ?_)
    | (extract_lets +onlyGivenNames x; refine Keeps.cut (x := x) (m := tm) (s0 := z) ?_ ?_; unfold x; clear x; rotate_left; intro hx; clear_value x; rotate_right)
    | (extract_lets +onlyGivenNames x; clear_value x)
    | split

def execPortmTransfer_touch : Nat := 0x80009f4000000000000002004a000600000000000010000000000000000000000000000
theorem execPortmTransfer_keeps {tm : Nat} {z s : State} (hm : Sub execPortmTransfer_touch tm) (hs : Keeps tm z s) (h : Sys2Proof.CmdHdr) (addr : Sys2Proof.Byte) (proto : Sys2Proof.Byte) (wlen : Sys2Proof.Byte) (rlen : Sys2Proof.Byte) (flags : Sys2Proof.Byte) (data : Vector Sys2Proof.Byte 32) :
    KeepsO tm z (execPortmTransfer h addr proto wlen rlen flags data s) := by
  delta execPortmTransfer
  repeat' first
    | with_reducible refine KeepsO.next ?_
    | with_reducible refine KeepsO.ite ?_ ?_
    | with_reducible assumption
    | (refine Sub.bit hm ?_; exact rfl)
    | (refine Sub.trans (Sub.of ?_) hm; exact rfl)
    | with_reducible refine Keeps.ite ?_ ?_
    | (refine (?_ : (_ : Bool) = true); exact rfl)
    | with_reducible refine complete_keeps ?_ ?_ _ _ _
    | with_reducible refine dispatch_keeps ?_ ?_ _ _ _ (fun s a0 hs => ?_)
    | with_reducible refine pmNext_keeps ?_ ?_
    | with_reducible refine onPm_keeps ?_ ?_ _
    | with_reducible refine Keeps.idState ?_
    | with_reducible refine foldl_keeps ?_ _ (fun s a hs => ?_)
    | (extract_lets +onlyGivenNames x; refine Keeps.cut (x := x) (m := tm) (s0 := z) ?_ ?_; unfold x; clear x; rotate_left; intro hx; clear_value x; rotate_right)
    | (extract_lets +onlyGivenNames x; clear_value x)
    | split

end Sys2Proof.Machine
end

