-- ==== Sys2Proof/Laws/KeepsPwm.lean ====
section
/-!
SUPPORT. Sys2Proof/Laws/KeepsPwm.lean: what each function of Machine/Pwm.lean may change: its touch set, and one lemma per function.
-/
namespace Sys2Proof.Machine

open Sys2Proof

def disableBay_touch : Nat := 0x1005e97c000000000000000004a00060000006000001000000082008a008004080000400
theorem disableBay_keeps {tm : Nat} {z s : State} (hm : Sub disableBay_touch tm) (hs : Keeps tm z s) (b : Nat) :
    Keeps tm z (State.disableBay s b) := by
  delta State.disableBay
  repeat' first
    | with_reducible assumption
    | (refine Sub.bit hm ?_; exact rfl)
    | (refine Sub.trans (Sub.of ?_) hm; exact rfl)
    | with_reducible refine Keeps.ite ?_ ?_
    | (refine (?_ : (_ : Bool) = true); exact rfl)
    | with_reducible refine forEach_keeps ?_ _ (fun s a hs => ?_)
    | with_reducible refine abortSurvey_keeps ?_ ?_ _ _
    | with_reducible refine parkDone_keeps ?_ ?_ _
    | with_reducible refine cutPhase_keeps ?_ ?_ _
    | with_reducible refine setLaneLatch_keeps ?_ ?_ _ _
    | with_reducible refine record_keeps ?_ ?_ _ _ _ _
    | with_reducible refine Keeps.idState ?_
    | with_reducible refine foldl_keeps ?_ _ (fun s a hs => ?_)
    | (extract_lets +onlyGivenNames x; refine Keeps.cut (x := x) (m := tm) (s0 := z) ?_ ?_; unfold x; clear x; rotate_left; intro hx; clear_value x; rotate_right)
    | (extract_lets +onlyGivenNames x; clear_value x)
    | split

def freezeLane_touch : Nat := 0x1005e97c000000000000000004a00060000006000001000000082008a000000080000000
theorem freezeLane_keeps {tm : Nat} {z s : State} (hm : Sub freezeLane_touch tm) (hs : Keeps tm z s) (l : Nat) :
    Keeps tm z (State.freezeLane s l) := by
  delta State.freezeLane
  repeat' first
    | with_reducible assumption
    | (refine Sub.bit hm ?_; exact rfl)
    | (refine Sub.trans (Sub.of ?_) hm; exact rfl)
    | with_reducible refine Keeps.ite ?_ ?_
    | (refine (?_ : (_ : Bool) = true); exact rfl)
    | with_reducible refine forEach_keeps ?_ _ (fun s a hs => ?_)
    | with_reducible refine abortSurvey_keeps ?_ ?_ _ _
    | with_reducible refine clearLoops_keeps ?_ ?_ _
    | with_reducible refine cutPhase_keeps ?_ ?_ _
    | with_reducible refine record_keeps ?_ ?_ _ _ _ _
    | with_reducible refine enter_keeps ?_ ?_ _ _
    | with_reducible refine Keeps.idState ?_
    | with_reducible refine foldl_keeps ?_ _ (fun s a hs => ?_)
    | (extract_lets +onlyGivenNames x; refine Keeps.cut (x := x) (m := tm) (s0 := z) ?_ ?_; unfold x; clear x; rotate_left; intro hx; clear_value x; rotate_right)
    | (extract_lets +onlyGivenNames x; clear_value x)
    | split

def freeze_touch : Nat := 0x1005e97c000000000000000004a00060000006000001000000082008a000084080000400
theorem freeze_keeps {tm : Nat} {z s : State} (hm : Sub freeze_touch tm) (hs : Keeps tm z s)  :
    Keeps tm z (State.freeze s) := by
  delta State.freeze
  repeat' first
    | with_reducible assumption
    | (refine Sub.bit hm ?_; exact rfl)
    | (refine Sub.trans (Sub.of ?_) hm; exact rfl)
    | with_reducible refine Keeps.ite ?_ ?_
    | (refine (?_ : (_ : Bool) = true); exact rfl)
    | with_reducible refine put_keeps ?_ ?_ ?_ _ _
    | with_reducible refine forEach_keeps ?_ _ (fun s a hs => ?_)
    | with_reducible refine parkDone_keeps ?_ ?_ _
    | with_reducible refine record_keeps ?_ ?_ _ _ _ _
    | with_reducible refine onPh_keeps ?_ ?_ _ _
    | with_reducible refine freezeLane_keeps ?_ ?_ _
    | with_reducible refine endShuttle_keeps ?_ ?_ _ _
    | with_reducible refine Keeps.idState ?_
    | with_reducible refine foldl_keeps ?_ _ (fun s a hs => ?_)
    | (extract_lets +onlyGivenNames x; refine Keeps.cut (x := x) (m := tm) (s0 := z) ?_ ?_; unfold x; clear x; rotate_left; intro hx; clear_value x; rotate_right)
    | (extract_lets +onlyGivenNames x; clear_value x)
    | split

def unlockKey_touch : Nat := 0x100000000000000000000000000000000000000000000000000000000400000000000
theorem unlockKey_keeps {tm : Nat} {z s : State} (hm : Sub unlockKey_touch tm) (hs : Keeps tm z s) (b : Nat) (key : Nat) :
    Keeps tm z (State.unlockKey s b key) := by
  delta State.unlockKey
  repeat' first
    | with_reducible assumption
    | (refine Sub.bit hm ?_; exact rfl)
    | (refine Sub.trans (Sub.of ?_) hm; exact rfl)
    | with_reducible refine Keeps.ite ?_ ?_
    | (refine (?_ : (_ : Bool) = true); exact rfl)
    | with_reducible refine put_keeps ?_ ?_ ?_ _ _
    | with_reducible refine onBay_keeps ?_ ?_ _ _
    | with_reducible refine Keeps.idState ?_
    | with_reducible refine foldl_keeps ?_ _ (fun s a hs => ?_)
    | (extract_lets +onlyGivenNames x; refine Keeps.cut (x := x) (m := tm) (s0 := z) ?_ ?_; unfold x; clear x; rotate_left; intro hx; clear_value x; rotate_right)
    | (extract_lets +onlyGivenNames x; clear_value x)
    | split

def writePwmCtl_touch : Nat := 0x1005e97c000000000000000004a00060000006000001000000082008a008404080000400
theorem writePwmCtl_keeps {tm : Nat} {z s : State} (hm : Sub writePwmCtl_touch tm) (hs : Keeps tm z s) (b : Nat) (w : Nat) :
    Keeps tm z (State.writePwmCtl s b w) := by
  delta State.writePwmCtl
  repeat' first
    | with_reducible assumption
    | (refine Sub.bit hm ?_; exact rfl)
    | (refine Sub.trans (Sub.of ?_) hm; exact rfl)
    | with_reducible refine Keeps.ite ?_ ?_
    | (refine (?_ : (_ : Bool) = true); exact rfl)
    | with_reducible refine unlockKey_keeps ?_ ?_ _ _
    | with_reducible refine plainWrite_keeps ?_ ?_ _ _ _ ?_
    | with_reducible refine disableBay_keeps ?_ ?_ _
    | with_reducible refine Keeps.idState ?_
    | with_reducible refine foldl_keeps ?_ _ (fun s a hs => ?_)
    | (extract_lets +onlyGivenNames x; refine Keeps.cut (x := x) (m := tm) (s0 := z) ?_ ?_; unfold x; clear x; rotate_left; intro hx; clear_value x; rotate_right)
    | (extract_lets +onlyGivenNames x; clear_value x)
    | split

def writeSafe_touch : Nat := 0x8000000000000000000000000000000000000010000000000000001400000000000
theorem writeSafe_keeps {tm : Nat} {z s : State} (hm : Sub writeSafe_touch tm) (hs : Keeps tm z s) (b : Nat) (w : Nat) :
    Keeps tm z (State.writeSafe s b w) := by
  delta State.writeSafe
  repeat' first
    | with_reducible assumption
    | (refine Sub.bit hm ?_; exact rfl)
    | (refine Sub.trans (Sub.of ?_) hm; exact rfl)
    | with_reducible refine Keeps.ite ?_ ?_
    | (refine (?_ : (_ : Bool) = true); exact rfl)
    | with_reducible refine wr_keeps ?_ ?_ ?_ _ _
    | with_reducible refine put_keeps ?_ ?_ ?_ _ _
    | with_reducible refine record_keeps ?_ ?_ _ _ _ _
    | with_reducible refine Keeps.idState ?_
    | with_reducible refine foldl_keeps ?_ _ (fun s a hs => ?_)
    | (extract_lets +onlyGivenNames x; refine Keeps.cut (x := x) (m := tm) (s0 := z) ?_ ?_; unfold x; clear x; rotate_left; intro hx; clear_value x; rotate_right)
    | (extract_lets +onlyGivenNames x; clear_value x)
    | split

def writePer_touch : Nat := 0x408000000000000000000000000000000000000010000000000000000020000000000
theorem writePer_keeps {tm : Nat} {z s : State} (hm : Sub writePer_touch tm) (hs : Keeps tm z s) (w : Nat) :
    Keeps tm z (State.writePer s w) := by
  delta State.writePer
  repeat' first
    | with_reducible assumption
    | (refine Sub.bit hm ?_; exact rfl)
    | (refine Sub.trans (Sub.of ?_) hm; exact rfl)
    | with_reducible refine Keeps.ite ?_ ?_
    | (refine (?_ : (_ : Bool) = true); exact rfl)
    | with_reducible refine wr_keeps ?_ ?_ ?_ _ _
    | with_reducible refine put_keeps ?_ ?_ ?_ _ _
    | with_reducible refine w1cBut_keeps ?_ ?_ _ _ _
    | with_reducible refine onPwm_keeps ?_ ?_ _
    | with_reducible refine record_keeps ?_ ?_ _ _ _ _
    | with_reducible refine Keeps.idState ?_
    | with_reducible refine foldl_keeps ?_ _ (fun s a hs => ?_)
    | (extract_lets +onlyGivenNames x; refine Keeps.cut (x := x) (m := tm) (s0 := z) ?_ ?_; unfold x; clear x; rotate_left; intro hx; clear_value x; rotate_right)
    | (extract_lets +onlyGivenNames x; clear_value x)
    | split

def nextPeriod_touch : Nat := 0x400000000000000000000000000000000000000000000000000000000040000000000
theorem nextPeriod_keeps {tm : Nat} {z s : State} (hm : Sub nextPeriod_touch tm) (hs : Keeps tm z s)  :
    Keeps tm z (State.nextPeriod s).2 := by
  delta State.nextPeriod
  repeat' first
    | with_reducible assumption
    | (dsimp only; with_reducible assumption)
    | (refine Sub.bit hm ?_; exact rfl)
    | (refine Sub.trans (Sub.of ?_) hm; exact rfl)
    | with_reducible refine Keeps.ite ?_ ?_
    | (refine (?_ : (_ : Bool) = true); exact rfl)
    | with_reducible refine put_keeps ?_ ?_ ?_ _ _
    | with_reducible refine onPwm_keeps ?_ ?_ _
    | with_reducible refine Keeps.idState ?_
    | with_reducible refine foldl_keeps ?_ _ (fun s a hs => ?_)
    | (extract_lets +onlyGivenNames x; refine Keeps.cut (x := x) (m := tm) (s0 := z) ?_ ?_; unfold x; clear x; rotate_left; intro hx; clear_value x; rotate_right)
    | (extract_lets +onlyGivenNames x; clear_value x)
    | split
    | dsimp only

def rebase_touch : Nat := 0x80000000000000000000000000000000000000000000000000000000000000000000
theorem rebase_keeps {tm : Nat} {z s : State} (hm : Sub rebase_touch tm) (hs : Keeps tm z s)  :
    Keeps tm z (State.rebase s) := by
  delta State.rebase
  repeat' first
    | with_reducible assumption
    | (refine Sub.bit hm ?_; exact rfl)
    | (refine Sub.trans (Sub.of ?_) hm; exact rfl)
    | with_reducible refine Keeps.ite ?_ ?_
    | (refine (?_ : (_ : Bool) = true); exact rfl)
    | with_reducible refine forEach_keeps ?_ _ (fun s a hs => ?_)
    | with_reducible refine retarget_keeps ?_ ?_ _
    | with_reducible refine onPh_keeps ?_ ?_ _ _
    | with_reducible refine Keeps.idState ?_
    | with_reducible refine foldl_keeps ?_ _ (fun s a hs => ?_)
    | (extract_lets +onlyGivenNames x; refine Keeps.cut (x := x) (m := tm) (s0 := z) ?_ ?_; unfold x; clear x; rotate_left; intro hx; clear_value x; rotate_right)
    | (extract_lets +onlyGivenNames x; clear_value x)
    | split

def unfreeze_touch : Nat := 0x88000000000000000000000000000000000000010000000000000000080000000000
theorem unfreeze_keeps {tm : Nat} {z s : State} (hm : Sub unfreeze_touch tm) (hs : Keeps tm z s)  :
    Keeps tm z (State.unfreeze s) := by
  delta State.unfreeze
  repeat' first
    | with_reducible assumption
    | (refine Sub.bit hm ?_; exact rfl)
    | (refine Sub.trans (Sub.of ?_) hm; exact rfl)
    | with_reducible refine Keeps.ite ?_ ?_
    | (refine (?_ : (_ : Bool) = true); exact rfl)
    | with_reducible refine put_keeps ?_ ?_ ?_ _ _
    | with_reducible refine forEach_keeps ?_ _ (fun s a hs => ?_)
    | with_reducible refine retarget_keeps ?_ ?_ _
    | with_reducible refine record_keeps ?_ ?_ _ _ _ _
    | with_reducible refine onPh_keeps ?_ ?_ _ _
    | with_reducible refine Keeps.idState ?_
    | with_reducible refine foldl_keeps ?_ _ (fun s a hs => ?_)
    | (extract_lets +onlyGivenNames x; refine Keeps.cut (x := x) (m := tm) (s0 := z) ?_ ?_; unfold x; clear x; rotate_left; intro hx; clear_value x; rotate_right)
    | (extract_lets +onlyGivenNames x; clear_value x)
    | split

def stopped_touch : Nat := 0x4c97c000000000000000004a000600000000000010000000000008000000080000400
theorem stopped_keeps {tm : Nat} {z s : State} (hm : Sub stopped_touch tm) (hs : Keeps tm z s) (p : Nat) :
    Keeps tm z (State.stopped s p) := by
  delta State.stopped
  repeat' first
    | with_reducible assumption
    | (refine Sub.bit hm ?_; exact rfl)
    | (refine Sub.trans (Sub.of ?_) hm; exact rfl)
    | with_reducible refine Keeps.ite ?_ ?_
    | (refine (?_ : (_ : Bool) = true); exact rfl)
    | with_reducible refine parkDone_keeps ?_ ?_ _
    | with_reducible refine Keeps.idState ?_
    | with_reducible refine foldl_keeps ?_ _ (fun s a hs => ?_)
    | (extract_lets +onlyGivenNames x; refine Keeps.cut (x := x) (m := tm) (s0 := z) ?_ ?_; unfold x; clear x; rotate_left; intro hx; clear_value x; rotate_right)
    | (extract_lets +onlyGivenNames x; clear_value x)
    | split

def wrapCarrier_touch : Nat := 0x80000000000000000000000000000000000000000000000000000000000000000000
theorem wrapCarrier_keeps {tm : Nat} {z s : State} (hm : Sub wrapCarrier_touch tm) (hs : Keeps tm z s) (p : Nat) :
    Keeps tm z (State.wrapCarrier s p) := by
  delta State.wrapCarrier
  repeat' first
    | with_reducible assumption
    | (refine Sub.bit hm ?_; exact rfl)
    | (refine Sub.trans (Sub.of ?_) hm; exact rfl)
    | with_reducible refine Keeps.ite ?_ ?_
    | (refine (?_ : (_ : Bool) = true); exact rfl)
    | with_reducible refine onPh_keeps ?_ ?_ _ _
    | with_reducible refine Keeps.idState ?_
    | with_reducible refine foldl_keeps ?_ _ (fun s a hs => ?_)
    | (extract_lets +onlyGivenNames x; refine Keeps.cut (x := x) (m := tm) (s0 := z) ?_ ?_; unfold x; clear x; rotate_left; intro hx; clear_value x; rotate_right)
    | (extract_lets +onlyGivenNames x; clear_value x)
    | split

def execBaySafe_touch : Nat := 0x904000000000000000004a000600000000000010000000000000001400000000000
theorem execBaySafe_keeps {tm : Nat} {z s : State} (hm : Sub execBaySafe_touch tm) (hs : Keeps tm z s) (b : Sys2Proof.Bay) (w : Sys2Proof.BusWrite) :
    KeepsO tm z (execBaySafe b w s) := by
  delta execBaySafe
  repeat' first
    | with_reducible refine KeepsO.next ?_
    | with_reducible refine KeepsO.ite ?_ ?_
    | with_reducible assumption
    | (refine Sub.bit hm ?_; exact rfl)
    | (refine Sub.trans (Sub.of ?_) hm; exact rfl)
    | with_reducible refine Keeps.ite ?_ ?_
    | (refine (?_ : (_ : Bool) = true); exact rfl)
    | with_reducible refine gate_keeps ?_ ?_ _ _ (fun s a0 hs => ?_)
    | with_reducible refine writeSafe_keeps ?_ ?_ _ _
    | with_reducible refine Keeps.idState ?_
    | with_reducible refine foldl_keeps ?_ _ (fun s a hs => ?_)
    | (extract_lets +onlyGivenNames x; refine Keeps.cut (x := x) (m := tm) (s0 := z) ?_ ?_; unfold x; clear x; rotate_left; intro hx; clear_value x; rotate_right)
    | (extract_lets +onlyGivenNames x; clear_value x)
    | split

def execCarrierStart_touch : Nat := 0x1017f97c000000000000000084a00060000006032043000002882008a00a105080000400
theorem execCarrierStart_keeps {tm : Nat} {z s : State} (hm : Sub execCarrierStart_touch tm) (hs : Keeps tm z s) (p : Sys2Proof.Phase) :
    KeepsO tm z (execCarrierStart p s) := by
  delta execCarrierStart
  repeat' first
    | with_reducible refine KeepsO.next ?_
    | with_reducible refine KeepsO.ite ?_ ?_
    | with_reducible assumption
    | (refine Sub.bit hm ?_; exact rfl)
    | (refine Sub.trans (Sub.of ?_) hm; exact rfl)
    | with_reducible refine Keeps.ite ?_ ?_
    | (refine (?_ : (_ : Bool) = true); exact rfl)
    | with_reducible refine stopped_keeps ?_ ?_ _
    | with_reducible refine settle_keeps ?_ ?_
    | with_reducible refine onPh_keeps ?_ ?_ _ _
    | with_reducible refine wrapCarrier_keeps ?_ ?_ _
    | with_reducible refine begin_keeps ?_ ?_
    | with_reducible refine Keeps.idState ?_
    | with_reducible refine foldl_keeps ?_ _ (fun s a hs => ?_)
    | (extract_lets +onlyGivenNames x; refine Keeps.cut (x := x) (m := tm) (s0 := z) ?_ ?_; unfold x; clear x; rotate_left; intro hx; clear_value x; rotate_right)
    | (extract_lets +onlyGivenNames x; clear_value x)
    | split

def execDlCompare_touch : Nat := 0x108040000000000000000000000000000000000010000000000000004000000000000
theorem execDlCompare_keeps {tm : Nat} {z s : State} (hm : Sub execDlCompare_touch tm) (hs : Keeps tm z s) (b : Sys2Proof.Bay) (err : Int) :
    KeepsO tm z (execDlCompare b err s) := by
  delta execDlCompare
  repeat' first
    | with_reducible refine KeepsO.next ?_
    | with_reducible refine KeepsO.ite ?_ ?_
    | with_reducible assumption
    | (refine Sub.bit hm ?_; exact rfl)
    | (refine Sub.trans (Sub.of ?_) hm; exact rfl)
    | with_reducible refine Keeps.ite ?_ ?_
    | (refine (?_ : (_ : Bool) = true); exact rfl)
    | with_reducible refine wr_keeps ?_ ?_ ?_ _ _
    | with_reducible refine wrS_keeps ?_ ?_ ?_ _ _
    | with_reducible refine put_keeps ?_ ?_ ?_ _ _
    | with_reducible refine record_keeps ?_ ?_ _ _ _ _
    | with_reducible refine begin_keeps ?_ ?_
    | with_reducible refine onBay_keeps ?_ ?_ _ _
    | with_reducible refine Keeps.idState ?_
    | with_reducible refine foldl_keeps ?_ _ (fun s a hs => ?_)
    | (extract_lets +onlyGivenNames x; refine Keeps.cut (x := x) (m := tm) (s0 := z) ?_ ?_; unfold x; clear x; rotate_left; intro hx; clear_value x; rotate_right)
    | (extract_lets +onlyGivenNames x; clear_value x)
    | split

def execDlLock_touch : Nat := 0x40000000000000000000000000000000000000000000000000004000000000000
theorem execDlLock_keeps {tm : Nat} {z s : State} (hm : Sub execDlLock_touch tm) (hs : Keeps tm z s) (b : Sys2Proof.Bay) :
    KeepsO tm z (execDlLock b s) := by
  delta execDlLock
  repeat' first
    | with_reducible refine KeepsO.next ?_
    | with_reducible refine KeepsO.ite ?_ ?_
    | with_reducible assumption
    | (refine Sub.bit hm ?_; exact rfl)
    | (refine Sub.trans (Sub.of ?_) hm; exact rfl)
    | with_reducible refine Keeps.ite ?_ ?_
    | (refine (?_ : (_ : Bool) = true); exact rfl)
    | with_reducible refine put_keeps ?_ ?_ ?_ _ _
    | with_reducible refine begin_keeps ?_ ?_
    | with_reducible refine Keeps.idState ?_
    | with_reducible refine foldl_keeps ?_ _ (fun s a hs => ?_)
    | (extract_lets +onlyGivenNames x; refine Keeps.cut (x := x) (m := tm) (s0 := z) ?_ ?_; unfold x; clear x; rotate_left; intro hx; clear_value x; rotate_right)
    | (extract_lets +onlyGivenNames x; clear_value x)
    | split

def execGlbPwmPer_touch : Nat := 0x40904000000000000000004a000600000000000010000000000000000020000000000
theorem execGlbPwmPer_keeps {tm : Nat} {z s : State} (hm : Sub execGlbPwmPer_touch tm) (hs : Keeps tm z s) (w : Sys2Proof.BusWrite) :
    KeepsO tm z (execGlbPwmPer w s) := by
  delta execGlbPwmPer
  repeat' first
    | with_reducible refine KeepsO.next ?_
    | with_reducible refine KeepsO.ite ?_ ?_
    | with_reducible assumption
    | (refine Sub.bit hm ?_; exact rfl)
    | (refine Sub.trans (Sub.of ?_) hm; exact rfl)
    | with_reducible refine Keeps.ite ?_ ?_
    | (refine (?_ : (_ : Bool) = true); exact rfl)
    | with_reducible refine gate_keeps ?_ ?_ _ _ (fun s a0 hs => ?_)
    | with_reducible refine writePer_keeps ?_ ?_ _
    | with_reducible refine Keeps.idState ?_
    | with_reducible refine foldl_keeps ?_ _ (fun s a hs => ?_)
    | (extract_lets +onlyGivenNames x; refine Keeps.cut (x := x) (m := tm) (s0 := z) ?_ ?_; unfold x; clear x; rotate_left; intro hx; clear_value x; rotate_right)
    | (extract_lets +onlyGivenNames x; clear_value x)
    | split

def execGlbPwmSs_touch : Nat := 0x904000000000000000004a000600000000000010000000000000000040000000000
theorem execGlbPwmSs_keeps {tm : Nat} {z s : State} (hm : Sub execGlbPwmSs_touch tm) (hs : Keeps tm z s) (w : Sys2Proof.BusWrite) :
    KeepsO tm z (execGlbPwmSs w s) := by
  delta execGlbPwmSs
  repeat' first
    | with_reducible refine KeepsO.next ?_
    | with_reducible refine KeepsO.ite ?_ ?_
    | with_reducible assumption
    | (refine Sub.bit hm ?_; exact rfl)
    | (refine Sub.trans (Sub.of ?_) hm; exact rfl)
    | with_reducible refine Keeps.ite ?_ ?_
    | (refine (?_ : (_ : Bool) = true); exact rfl)
    | with_reducible refine plainWrite_keeps ?_ ?_ _ _ _ ?_
    | with_reducible refine gate_keeps ?_ ?_ _ _ (fun s a0 hs => ?_)
    | with_reducible refine Keeps.idState ?_
    | with_reducible refine foldl_keeps ?_ _ (fun s a hs => ?_)
    | (extract_lets +onlyGivenNames x; refine Keeps.cut (x := x) (m := tm) (s0 := z) ?_ ?_; unfold x; clear x; rotate_left; intro hx; clear_value x; rotate_right)
    | (extract_lets +onlyGivenNames x; clear_value x)
    | split

def execGlideStep_touch : Nat := 0x80040000000000000000000000000000000000000000000000000000000000000000
theorem execGlideStep_keeps {tm : Nat} {z s : State} (hm : Sub execGlideStep_touch tm) (hs : Keeps tm z s) (p : Sys2Proof.Phase) :
    KeepsO tm z (execGlideStep p s) := by
  delta execGlideStep
  repeat' first
    | with_reducible refine KeepsO.next ?_
    | with_reducible refine KeepsO.ite ?_ ?_
    | with_reducible assumption
    | (refine Sub.bit hm ?_; exact rfl)
    | (refine Sub.trans (Sub.of ?_) hm; exact rfl)
    | with_reducible refine Keeps.ite ?_ ?_
    | (refine (?_ : (_ : Bool) = true); exact rfl)
    | with_reducible refine onPh_keeps ?_ ?_ _ _
    | with_reducible refine begin_keeps ?_ ?_
    | with_reducible refine Keeps.idState ?_
    | with_reducible refine foldl_keeps ?_ _ (fun s a hs => ?_)
    | (extract_lets +onlyGivenNames x; refine Keeps.cut (x := x) (m := tm) (s0 := z) ?_ ?_; unfold x; clear x; rotate_left; intro hx; clear_value x; rotate_right)
    | (extract_lets +onlyGivenNames x; clear_value x)
    | split

def execPwmEn_touch : Nat := 0x1017f97c000000000000000084a00060000006032043000002882008a00a505080000400
theorem execPwmEn_keeps {tm : Nat} {z s : State} (hm : Sub execPwmEn_touch tm) (hs : Keeps tm z s) (b : Sys2Proof.Bay) (w : Sys2Proof.BusWrite) :
    KeepsO tm z (execPwmEn b w s) := by
  delta execPwmEn
  repeat' first
    | with_reducible refine KeepsO.next ?_
    | with_reducible refine KeepsO.ite ?_ ?_
    | with_reducible assumption
    | (refine Sub.bit hm ?_; exact rfl)
    | (refine Sub.trans (Sub.of ?_) hm; exact rfl)
    | with_reducible refine Keeps.ite ?_ ?_
    | (refine (?_ : (_ : Bool) = true); exact rfl)
    | with_reducible refine writePwmCtl_keeps ?_ ?_ _ _
    | with_reducible refine settle_keeps ?_ ?_
    | with_reducible refine gate_keeps ?_ ?_ _ _ (fun s a0 hs => ?_)
    | with_reducible refine Keeps.idState ?_
    | with_reducible refine foldl_keeps ?_ _ (fun s a hs => ?_)
    | (extract_lets +onlyGivenNames x; refine Keeps.cut (x := x) (m := tm) (s0 := z) ?_ ?_; unfold x; clear x; rotate_left; intro hx; clear_value x; rotate_right)
    | (extract_lets +onlyGivenNames x; clear_value x)
    | split

def execRefBoundary_touch : Nat := 0x4a00400000000000000000000000000000000000000000018000000000c0000000000
theorem execRefBoundary_keeps {tm : Nat} {z s : State} (hm : Sub execRefBoundary_touch tm) (hs : Keeps tm z s)  :
    KeepsO tm z (execRefBoundary s) := by
  delta execRefBoundary
  repeat' first
    | with_reducible refine KeepsO.next ?_
    | with_reducible refine KeepsO.ite ?_ ?_
    | with_reducible assumption
    | (refine Sub.bit hm ?_; exact rfl)
    | (refine Sub.trans (Sub.of ?_) hm; exact rfl)
    | with_reducible refine Keeps.ite ?_ ?_
    | (refine (?_ : (_ : Bool) = true); exact rfl)
    | with_reducible refine wr_keeps ?_ ?_ ?_ _ _
    | with_reducible refine onPwm_keeps ?_ ?_ _
    | with_reducible refine rebase_keeps ?_ ?_
    | with_reducible refine nextPeriod_keeps ?_ ?_
    | with_reducible refine begin_keeps ?_ ?_
    | with_reducible refine startAll_keeps ?_ ?_
    | with_reducible refine Keeps.idState ?_
    | with_reducible refine foldl_keeps ?_ _ (fun s a hs => ?_)
    | (extract_lets +onlyGivenNames x; refine Keeps.cut (x := x) (m := tm) (s0 := z) ?_ ?_; unfold x; clear x; rotate_left; intro hx; clear_value x; rotate_right)
    | (extract_lets +onlyGivenNames x; clear_value x)
    | split
    | dsimp only

def execUnlock_touch : Nat := 0x1017f97c000000000000000084a00060000006032043000002882008a00a505080000400
theorem execUnlock_keeps {tm : Nat} {z s : State} (hm : Sub execUnlock_touch tm) (hs : Keeps tm z s) (b : Sys2Proof.Bay) (w : Sys2Proof.BusWrite) :
    KeepsO tm z (execUnlock b w s) := by
  delta execUnlock
  repeat' first
    | with_reducible refine KeepsO.next ?_
    | with_reducible refine KeepsO.ite ?_ ?_
    | with_reducible assumption
    | (refine Sub.bit hm ?_; exact rfl)
    | (refine Sub.trans (Sub.of ?_) hm; exact rfl)
    | with_reducible refine Keeps.ite ?_ ?_
    | (refine (?_ : (_ : Bool) = true); exact rfl)
    | with_reducible refine writePwmCtl_keeps ?_ ?_ _ _
    | with_reducible refine settle_keeps ?_ ?_
    | with_reducible refine gate_keeps ?_ ?_ _ _ (fun s a0 hs => ?_)
    | with_reducible refine Keeps.idState ?_
    | with_reducible refine foldl_keeps ?_ _ (fun s a hs => ?_)
    | (extract_lets +onlyGivenNames x; refine Keeps.cut (x := x) (m := tm) (s0 := z) ?_ ?_; unfold x; clear x; rotate_left; intro hx; clear_value x; rotate_right)
    | (extract_lets +onlyGivenNames x; clear_value x)
    | split

def execUnlockExpiry_touch : Nat := 0x40000000000000000000000000000000000000000000000000000400000000000
theorem execUnlockExpiry_keeps {tm : Nat} {z s : State} (hm : Sub execUnlockExpiry_touch tm) (hs : Keeps tm z s) (b : Sys2Proof.Bay) :
    KeepsO tm z (execUnlockExpiry b s) := by
  delta execUnlockExpiry
  repeat' first
    | with_reducible refine KeepsO.next ?_
    | with_reducible refine KeepsO.ite ?_ ?_
    | with_reducible assumption
    | (refine Sub.bit hm ?_; exact rfl)
    | (refine Sub.trans (Sub.of ?_) hm; exact rfl)
    | with_reducible refine Keeps.ite ?_ ?_
    | (refine (?_ : (_ : Bool) = true); exact rfl)
    | with_reducible refine put_keeps ?_ ?_ ?_ _ _
    | with_reducible refine begin_keeps ?_ ?_
    | with_reducible refine Keeps.idState ?_
    | with_reducible refine foldl_keeps ?_ _ (fun s a hs => ?_)
    | (extract_lets +onlyGivenNames x; refine Keeps.cut (x := x) (m := tm) (s0 := z) ?_ ?_; unfold x; clear x; rotate_left; intro hx; clear_value x; rotate_right)
    | (extract_lets +onlyGivenNames x; clear_value x)
    | split

end Sys2Proof.Machine
end

