-- ==== Sys2Proof/Laws/KeepsTenancy.lean ====
section
/-!
SUPPORT. Sys2Proof/Laws/KeepsTenancy.lean: what each function of Machine/Tenancy.lean may change: its touch set, and one lemma per function.
-/
namespace Sys2Proof.Machine

open Sys2Proof

def countSeal_touch : Nat := 0x10000000000000000000000000000000000000000000000000000000000000000000
theorem countSeal_keeps {tm : Nat} {z s : State} (hm : Sub countSeal_touch tm) (hs : Keeps tm z s)  :
    Keeps tm z (State.countSeal s) := by
  delta State.countSeal
  repeat' first
    | with_reducible assumption
    | (refine Sub.bit hm ?_; exact rfl)
    | (refine Sub.trans (Sub.of ?_) hm; exact rfl)
    | with_reducible refine Keeps.ite ?_ ?_
    | (refine (?_ : (_ : Bool) = true); exact rfl)
    | with_reducible refine onCtr_keeps ?_ ?_ _ _
    | with_reducible refine Keeps.idState ?_
    | with_reducible refine foldl_keeps ?_ _ (fun s a hs => ?_)
    | (extract_lets +onlyGivenNames x; refine Keeps.cut (x := x) (m := tm) (s0 := z) ?_ ?_; unfold x; clear x; rotate_left; intro hx; clear_value x; rotate_right)
    | (extract_lets +onlyGivenNames x; clear_value x)
    | split

def showStandby_touch : Nat := 0x20000000000000000000000000000000000000000000000
theorem showStandby_keeps {tm : Nat} {z s : State} (hm : Sub showStandby_touch tm) (hs : Keeps tm z s)  :
    Keeps tm z (State.showStandby s) := by
  delta State.showStandby
  repeat' first
    | with_reducible assumption
    | (refine Sub.bit hm ?_; exact rfl)
    | (refine Sub.trans (Sub.of ?_) hm; exact rfl)
    | with_reducible refine Keeps.ite ?_ ?_
    | (refine (?_ : (_ : Bool) = true); exact rfl)
    | with_reducible refine wr_keeps ?_ ?_ ?_ _ _
    | with_reducible refine put_keeps ?_ ?_ ?_ _ _
    | with_reducible refine Keeps.idState ?_
    | with_reducible refine foldl_keeps ?_ _ (fun s a hs => ?_)
    | (extract_lets +onlyGivenNames x; refine Keeps.cut (x := x) (m := tm) (s0 := z) ?_ ?_; unfold x; clear x; rotate_left; intro hx; clear_value x; rotate_right)
    | (extract_lets +onlyGivenNames x; clear_value x)
    | split

def setRole_touch : Nat := 0x20000000000000000000000000000000000000000000000
theorem setRole_keeps {tm : Nat} {z s : State} (hm : Sub setRole_touch tm) (hs : Keeps tm z s) (t : Nat) (role : Nat) :
    Keeps tm z (State.setRole s t role) := by
  delta State.setRole
  repeat' first
    | with_reducible assumption
    | (refine Sub.bit hm ?_; exact rfl)
    | (refine Sub.trans (Sub.of ?_) hm; exact rfl)
    | with_reducible refine Keeps.ite ?_ ?_
    | (refine (?_ : (_ : Bool) = true); exact rfl)
    | with_reducible refine wr_keeps ?_ ?_ ?_ _ _
    | with_reducible refine Keeps.idState ?_
    | (simp only [Field.up]; refine Sub.bit hm ?_; exact rfl)
    | (dsimp only; refine Sub.bit hm ?_; exact rfl)
    | with_reducible refine foldl_keeps ?_ _ (fun s a hs => ?_)
    | (extract_lets +onlyGivenNames x; refine Keeps.cut (x := x) (m := tm) (s0 := z) ?_ ?_; unfold x; clear x; rotate_left; intro hx; clear_value x; rotate_right)
    | (extract_lets +onlyGivenNames x; clear_value x)
    | split

def onSec_touch : Nat := 0x4000000000000000000000000000000000000000000000000000000000000000000
theorem onSec_keeps {tm : Nat} {z s : State} (hm : Sub onSec_touch tm) (hs : Keeps tm z s) (f : Sys2Proof.Machine.Sec → Sys2Proof.Machine.Sec) :
    Keeps tm z (State.onSec s f) := by
  delta State.onSec
  repeat' first
    | with_reducible assumption
    | (refine Sub.bit hm ?_; exact rfl)
    | (refine Sub.trans (Sub.of ?_) hm; exact rfl)
    | with_reducible refine Keeps.ite ?_ ?_
    | (refine (?_ : (_ : Bool) = true); exact rfl)
    | with_reducible refine Keeps.idState ?_
    | with_reducible refine foldl_keeps ?_ _ (fun s a hs => ?_)
    | (extract_lets +onlyGivenNames x; refine Keeps.cut (x := x) (m := tm) (s0 := z) ?_ ?_; unfold x; clear x; rotate_left; intro hx; clear_value x; rotate_right)
    | (extract_lets +onlyGivenNames x; clear_value x)
    | split
    | with_reducible refine upd_sec_keeps ?_ ?_ _

def release_touch : Nat := 0x1017f97c000000000000000084a00060000006032043000002882008a00a105080000400
theorem release_keeps {tm : Nat} {z s : State} (hm : Sub release_touch tm) (hs : Keeps tm z s) (t : Nat) :
    Keeps tm z (State.release s t) := by
  delta State.release
  repeat' first
    | with_reducible assumption
    | (refine Sub.bit hm ?_; exact rfl)
    | (refine Sub.trans (Sub.of ?_) hm; exact rfl)
    | with_reducible refine Keeps.ite ?_ ?_
    | (refine (?_ : (_ : Bool) = true); exact rfl)
    | with_reducible refine putBit_keeps ?_ ?_ ?_ _ _ _
    | with_reducible refine onTenant_keeps ?_ ?_ _ _
    | with_reducible refine settle_keeps ?_ ?_
    | with_reducible refine record_keeps ?_ ?_ _ _ _ _
    | with_reducible refine kickFetch_keeps ?_ ?_ _
    | with_reducible refine notice_keeps ?_ ?_ _ _ _
    | with_reducible refine Keeps.idState ?_
    | with_reducible refine foldl_keeps ?_ _ (fun s a hs => ?_)
    | (extract_lets +onlyGivenNames x; refine Keeps.cut (x := x) (m := tm) (s0 := z) ?_ ?_; unfold x; clear x; rotate_left; intro hx; clear_value x; rotate_right)
    | (extract_lets +onlyGivenNames x; clear_value x)
    | split

def giveRoles_touch : Nat := 0x9040000000000000000022000600000000000010000000000000000000000000000
theorem giveRoles_keeps {tm : Nat} {z s : State} (hm : Sub giveRoles_touch tm) (hs : Keeps tm z s) (ch : List (Nat × Nat)) :
    Keeps tm z (State.giveRoles s ch) := by
  delta State.giveRoles
  repeat' first
    | with_reducible assumption
    | (refine Sub.bit hm ?_; exact rfl)
    | (refine Sub.trans (Sub.of ?_) hm; exact rfl)
    | with_reducible refine Keeps.ite ?_ ?_
    | (refine (?_ : (_ : Bool) = true); exact rfl)
    | with_reducible refine forEach_keeps ?_ _ (fun s a hs => ?_)
    | with_reducible refine showStandby_keeps ?_ ?_
    | with_reducible refine setRole_keeps ?_ ?_ _ _
    | with_reducible refine record_keeps ?_ ?_ _ _ _ _
    | with_reducible refine notice_keeps ?_ ?_ _ _ _
    | with_reducible refine Keeps.idState ?_
    | with_reducible refine foldl_keeps ?_ _ (fun s a hs => ?_)
    | (extract_lets +onlyGivenNames x; refine Keeps.cut (x := x) (m := tm) (s0 := z) ?_ ?_; unfold x; clear x; rotate_left; intro hx; clear_value x; rotate_right)
    | (extract_lets +onlyGivenNames x; clear_value x)
    | split

def jtagLoad_touch : Nat := 0x4000000000000000000000000000000000000000000000000000000000000000000
theorem jtagLoad_keeps {tm : Nat} {z s : State} (hm : Sub jtagLoad_touch tm) (hs : Keeps tm z s) (ir : Nat) :
    Keeps tm z (State.jtagLoad s ir) := by
  delta State.jtagLoad
  repeat' first
    | with_reducible assumption
    | (refine Sub.bit hm ?_; exact rfl)
    | (refine Sub.trans (Sub.of ?_) hm; exact rfl)
    | with_reducible refine Keeps.ite ?_ ?_
    | (refine (?_ : (_ : Bool) = true); exact rfl)
    | with_reducible refine onSec_keeps ?_ ?_ _
    | with_reducible refine Keeps.idState ?_
    | with_reducible refine foldl_keeps ?_ _ (fun s a hs => ?_)
    | (extract_lets +onlyGivenNames x; refine Keeps.cut (x := x) (m := tm) (s0 := z) ?_ ?_; unfold x; clear x; rotate_left; intro hx; clear_value x; rotate_right)
    | (extract_lets +onlyGivenNames x; clear_value x)
    | split

def writeTsel_touch : Nat := 0x1017f97c00000000000000008ca00060000006032043000002882008a00a105080000400
theorem writeTsel_keeps {tm : Nat} {z s : State} (hm : Sub writeTsel_touch tm) (hs : Keeps tm z s) (w : Nat) :
    Keeps tm z (State.writeTsel s w) := by
  delta State.writeTsel
  repeat' first
    | with_reducible assumption
    | (refine Sub.bit hm ?_; exact rfl)
    | (refine Sub.trans (Sub.of ?_) hm; exact rfl)
    | with_reducible refine Keeps.ite ?_ ?_
    | (refine (?_ : (_ : Bool) = true); exact rfl)
    | with_reducible refine plainWrite_keeps ?_ ?_ _ _ _ ?_
    | with_reducible refine release_keeps ?_ ?_ _
    | with_reducible refine Keeps.idState ?_
    | with_reducible refine foldl_keeps ?_ _ (fun s a hs => ?_)
    | (extract_lets +onlyGivenNames x; refine Keeps.cut (x := x) (m := tm) (s0 := z) ?_ ?_; unfold x; clear x; rotate_left; intro hx; clear_value x; rotate_right)
    | (extract_lets +onlyGivenNames x; clear_value x)
    | split

def promote_touch : Nat := 0xd040000000000000000032000600000000000010000000000000000000000000000
theorem promote_keeps {tm : Nat} {z s : State} (hm : Sub promote_touch tm) (hs : Keeps tm z s) (new : Nat) :
    Keeps tm z (State.promote s new) := by
  delta State.promote
  repeat' first
    | with_reducible assumption
    | (refine Sub.bit hm ?_; exact rfl)
    | (refine Sub.trans (Sub.of ?_) hm; exact rfl)
    | with_reducible refine Keeps.ite ?_ ?_
    | (refine (?_ : (_ : Bool) = true); exact rfl)
    | with_reducible refine put_keeps ?_ ?_ ?_ _ _
    | with_reducible refine showStandby_keeps ?_ ?_
    | with_reducible refine onSec_keeps ?_ ?_ _
    | with_reducible refine setRole_keeps ?_ ?_ _ _
    | with_reducible refine record_keeps ?_ ?_ _ _ _ _
    | with_reducible refine notice_keeps ?_ ?_ _ _ _
    | with_reducible refine Keeps.idState ?_
    | with_reducible refine foldl_keeps ?_ _ (fun s a hs => ?_)
    | (extract_lets +onlyGivenNames x; refine Keeps.cut (x := x) (m := tm) (s0 := z) ?_ ?_; unfold x; clear x; rotate_left; intro hx; clear_value x; rotate_right)
    | (extract_lets +onlyGivenNames x; clear_value x)
    | split

def presence_touch : Nat := 0xd040000000000000000032000600000000000010000000000000000000000000000
theorem presence_keeps {tm : Nat} {z s : State} (hm : Sub presence_touch tm) (hs : Keeps tm z s)  :
    Keeps tm z (State.presence s) := by
  delta State.presence
  repeat' first
    | with_reducible assumption
    | (refine Sub.bit hm ?_; exact rfl)
    | (refine Sub.trans (Sub.of ?_) hm; exact rfl)
    | with_reducible refine Keeps.ite ?_ ?_
    | (refine (?_ : (_ : Bool) = true); exact rfl)
    | with_reducible refine onSec_keeps ?_ ?_ _
    | with_reducible refine promote_keeps ?_ ?_ _
    | with_reducible refine Keeps.idState ?_
    | with_reducible refine foldl_keeps ?_ _ (fun s a hs => ?_)
    | (extract_lets +onlyGivenNames x; refine Keeps.cut (x := x) (m := tm) (s0 := z) ?_ ?_; unfold x; clear x; rotate_left; intro hx; clear_value x; rotate_right)
    | (extract_lets +onlyGivenNames x; clear_value x)
    | split

def sealNow_touch : Nat := 0x99040000000000000000032000600000000000010000000000000000080000000000
theorem sealNow_keeps {tm : Nat} {z s : State} (hm : Sub sealNow_touch tm) (hs : Keeps tm z s) (t : Nat) :
    Keeps tm z (State.sealNow s t) := by
  delta State.sealNow
  repeat' first
    | with_reducible assumption
    | (refine Sub.bit hm ?_; exact rfl)
    | (refine Sub.trans (Sub.of ?_) hm; exact rfl)
    | with_reducible refine Keeps.ite ?_ ?_
    | (refine (?_ : (_ : Bool) = true); exact rfl)
    | with_reducible refine wr_keeps ?_ ?_ ?_ _ _
    | with_reducible refine put_keeps ?_ ?_ ?_ _ _
    | with_reducible refine writeSeal_keeps ?_ ?_ _ _ _
    | with_reducible refine giveRoles_keeps ?_ ?_ _
    | with_reducible refine countSeal_keeps ?_ ?_
    | with_reducible refine unfreeze_keeps ?_ ?_
    | with_reducible refine Keeps.idState ?_
    | with_reducible refine foldl_keeps ?_ _ (fun s a hs => ?_)
    | (extract_lets +onlyGivenNames x; refine Keeps.cut (x := x) (m := tm) (s0 := z) ?_ ?_; unfold x; clear x; rotate_left; intro hx; clear_value x; rotate_right)
    | (extract_lets +onlyGivenNames x; clear_value x)
    | split

def execBypass_touch : Nat := 0x4040000000000000000000000600000000000000000000000000000000000000000
theorem execBypass_keeps {tm : Nat} {z s : State} (hm : Sub execBypass_touch tm) (hs : Keeps tm z s)  :
    KeepsO tm z (execBypass s) := by
  delta execBypass
  repeat' first
    | with_reducible refine KeepsO.next ?_
    | with_reducible refine KeepsO.ite ?_ ?_
    | with_reducible assumption
    | (refine Sub.bit hm ?_; exact rfl)
    | (refine Sub.trans (Sub.of ?_) hm; exact rfl)
    | with_reducible refine Keeps.ite ?_ ?_
    | (refine (?_ : (_ : Bool) = true); exact rfl)
    | with_reducible refine jtagLoad_keeps ?_ ?_ _
    | with_reducible refine begin_keeps ?_ ?_
    | with_reducible refine emit_keeps ?_ ?_ _
    | with_reducible refine Keeps.idState ?_
    | with_reducible refine foldl_keeps ?_ _ (fun s a hs => ?_)
    | (extract_lets +onlyGivenNames x; refine Keeps.cut (x := x) (m := tm) (s0 := z) ?_ ?_; unfold x; clear x; rotate_left; intro hx; clear_value x; rotate_right)
    | (extract_lets +onlyGivenNames x; clear_value x)
    | split

def execChallengeExpiry_touch : Nat := 0x4040000000000000000000000000000000000000000000000000000000000000000
theorem execChallengeExpiry_keeps {tm : Nat} {z s : State} (hm : Sub execChallengeExpiry_touch tm) (hs : Keeps tm z s)  :
    KeepsO tm z (execChallengeExpiry s) := by
  delta execChallengeExpiry
  repeat' first
    | with_reducible refine KeepsO.next ?_
    | with_reducible refine KeepsO.ite ?_ ?_
    | with_reducible assumption
    | (refine Sub.bit hm ?_; exact rfl)
    | (refine Sub.trans (Sub.of ?_) hm; exact rfl)
    | with_reducible refine Keeps.ite ?_ ?_
    | (refine (?_ : (_ : Bool) = true); exact rfl)
    | with_reducible refine onSec_keeps ?_ ?_ _
    | with_reducible refine begin_keeps ?_ ?_
    | with_reducible refine Keeps.idState ?_
    | with_reducible refine foldl_keeps ?_ _ (fun s a hs => ?_)
    | (extract_lets +onlyGivenNames x; refine Keeps.cut (x := x) (m := tm) (s0 := z) ?_ ?_; unfold x; clear x; rotate_left; intro hx; clear_value x; rotate_right)
    | (extract_lets +onlyGivenNames x; clear_value x)
    | split

def execDbg_touch : Nat := 0x1017fd7c000000000000000084a00060000006032043000002882008a00a185080000400
theorem execDbg_keeps {tm : Nat} {z s : State} (hm : Sub execDbg_touch tm) (hs : Keeps tm z s) (value : BitVec 16) :
    KeepsO tm z (execDbg value s) := by
  delta execDbg
  repeat' first
    | with_reducible refine KeepsO.next ?_
    | with_reducible refine KeepsO.ite ?_ ?_
    | with_reducible assumption
    | (refine Sub.bit hm ?_; exact rfl)
    | (refine Sub.trans (Sub.of ?_) hm; exact rfl)
    | with_reducible refine Keeps.ite ?_ ?_
    | (refine (?_ : (_ : Bool) = true); exact rfl)
    | with_reducible refine freeze_keeps ?_ ?_
    | with_reducible refine unfreeze_keeps ?_ ?_
    | with_reducible refine settle_keeps ?_ ?_
    | with_reducible refine record_keeps ?_ ?_ _ _ _ _
    | with_reducible refine jtagLoad_keeps ?_ ?_ _
    | with_reducible refine begin_keeps ?_ ?_
    | with_reducible refine emit_keeps ?_ ?_ _
    | with_reducible refine Keeps.idState ?_
    | with_reducible refine foldl_keeps ?_ _ (fun s a hs => ?_)
    | (extract_lets +onlyGivenNames x; refine Keeps.cut (x := x) (m := tm) (s0 := z) ?_ ?_; unfold x; clear x; rotate_left; intro hx; clear_value x; rotate_right)
    | (extract_lets +onlyGivenNames x; clear_value x)
    | split

def execExtest_touch : Nat := 0xc040000000000000000000000000000000000010000000000000000000000000000
theorem execExtest_keeps {tm : Nat} {z s : State} (hm : Sub execExtest_touch tm) (hs : Keeps tm z s)  :
    KeepsO tm z (execExtest s) := by
  delta execExtest
  repeat' first
    | with_reducible refine KeepsO.next ?_
    | with_reducible refine KeepsO.ite ?_ ?_
    | with_reducible assumption
    | (refine Sub.bit hm ?_; exact rfl)
    | (refine Sub.trans (Sub.of ?_) hm; exact rfl)
    | with_reducible refine Keeps.ite ?_ ?_
    | (refine (?_ : (_ : Bool) = true); exact rfl)
    | with_reducible refine onSec_keeps ?_ ?_ _
    | with_reducible refine record_keeps ?_ ?_ _ _ _ _
    | with_reducible refine jtagLoad_keeps ?_ ?_ _
    | with_reducible refine begin_keeps ?_ ?_
    | with_reducible refine Keeps.idState ?_
    | with_reducible refine foldl_keeps ?_ _ (fun s a hs => ?_)
    | (extract_lets +onlyGivenNames x; refine Keeps.cut (x := x) (m := tm) (s0 := z) ?_ ?_; unfold x; clear x; rotate_left; intro hx; clear_value x; rotate_right)
    | (extract_lets +onlyGivenNames x; clear_value x)
    | split

def execIdcode_touch : Nat := 0x4040000000000000000000000600000000000000000000000000000000000000000
theorem execIdcode_keeps {tm : Nat} {z s : State} (hm : Sub execIdcode_touch tm) (hs : Keeps tm z s)  :
    KeepsO tm z (execIdcode s) := by
  delta execIdcode
  repeat' first
    | with_reducible refine KeepsO.next ?_
    | with_reducible refine KeepsO.ite ?_ ?_
    | with_reducible assumption
    | (refine Sub.bit hm ?_; exact rfl)
    | (refine Sub.trans (Sub.of ?_) hm; exact rfl)
    | with_reducible refine Keeps.ite ?_ ?_
    | (refine (?_ : (_ : Bool) = true); exact rfl)
    | with_reducible refine jtagLoad_keeps ?_ ?_ _
    | with_reducible refine begin_keeps ?_ ?_
    | with_reducible refine emit_keeps ?_ ?_ _
    | with_reducible refine Keeps.idState ?_
    | with_reducible refine foldl_keeps ?_ _ (fun s a hs => ?_)
    | (extract_lets +onlyGivenNames x; refine Keeps.cut (x := x) (m := tm) (s0 := z) ?_ ?_; unfold x; clear x; rotate_left; intro hx; clear_value x; rotate_right)
    | (extract_lets +onlyGivenNames x; clear_value x)
    | split

def execManagerPromoted_touch : Nat := 0xd040000000000000000032000600000000000010000000000000000000000000000
theorem execManagerPromoted_keeps {tm : Nat} {z s : State} (hm : Sub execManagerPromoted_touch tm) (hs : Keeps tm z s)  :
    KeepsO tm z (execManagerPromoted s) := by
  delta execManagerPromoted
  repeat' first
    | with_reducible refine KeepsO.next ?_
    | with_reducible refine KeepsO.ite ?_ ?_
    | with_reducible assumption
    | (refine Sub.bit hm ?_; exact rfl)
    | (refine Sub.trans (Sub.of ?_) hm; exact rfl)
    | with_reducible refine Keeps.ite ?_ ?_
    | (refine (?_ : (_ : Bool) = true); exact rfl)
    | with_reducible refine onSec_keeps ?_ ?_ _
    | with_reducible refine begin_keeps ?_ ?_
    | with_reducible refine presence_keeps ?_ ?_
    | with_reducible refine Keeps.idState ?_
    | with_reducible refine foldl_keeps ?_ _ (fun s a hs => ?_)
    | (extract_lets +onlyGivenNames x; refine Keeps.cut (x := x) (m := tm) (s0 := z) ?_ ?_; unfold x; clear x; rotate_left; intro hx; clear_value x; rotate_right)
    | (extract_lets +onlyGivenNames x; clear_value x)
    | split

def execMeterStatement_touch : Nat := 0xdf4000000000000000024a000600000000000010000000000000000000000000000
theorem execMeterStatement_keeps {tm : Nat} {z s : State} (hm : Sub execMeterStatement_touch tm) (hs : Keeps tm z s) (h : Sys2Proof.CmdHdr) (nonce : BitVec 64) :
    KeepsO tm z (execMeterStatement h nonce s) := by
  delta execMeterStatement
  repeat' first
    | with_reducible refine KeepsO.next ?_
    | with_reducible refine KeepsO.ite ?_ ?_
    | with_reducible assumption
    | (refine Sub.bit hm ?_; exact rfl)
    | (refine Sub.trans (Sub.of ?_) hm; exact rfl)
    | with_reducible refine Keeps.ite ?_ ?_
    | (refine (?_ : (_ : Bool) = true); exact rfl)
    | with_reducible refine wr_keeps ?_ ?_ ?_ _ _
    | with_reducible refine onSec_keeps ?_ ?_ _
    | with_reducible refine complete_keeps ?_ ?_ _ _ _
    | with_reducible refine dispatch_keeps ?_ ?_ _ _ _ (fun s a0 hs => ?_)
    | with_reducible refine Keeps.idState ?_
    | with_reducible refine foldl_keeps ?_ _ (fun s a hs => ?_)
    | (extract_lets +onlyGivenNames x; refine Keeps.cut (x := x) (m := tm) (s0 := z) ?_ ?_; unfold x; clear x; rotate_left; intro hx; clear_value x; rotate_right)
    | (extract_lets +onlyGivenNames x; clear_value x)
    | split

def execQrel_touch : Nat := 0x1017f97c00000000000000008ca00060000006032043000002882008a00a105080000400
theorem execQrel_keeps {tm : Nat} {z s : State} (hm : Sub execQrel_touch tm) (hs : Keeps tm z s) (w : Sys2Proof.BusWrite) :
    KeepsO tm z (execQrel w s) := by
  delta execQrel
  repeat' first
    | with_reducible refine KeepsO.next ?_
    | with_reducible refine KeepsO.ite ?_ ?_
    | with_reducible assumption
    | (refine Sub.bit hm ?_; exact rfl)
    | (refine Sub.trans (Sub.of ?_) hm; exact rfl)
    | with_reducible refine Keeps.ite ?_ ?_
    | (refine (?_ : (_ : Bool) = true); exact rfl)
    | with_reducible refine gate_keeps ?_ ?_ _ _ (fun s a0 hs => ?_)
    | with_reducible refine writeTsel_keeps ?_ ?_ _
    | with_reducible refine Keeps.idState ?_
    | with_reducible refine foldl_keeps ?_ _ (fun s a hs => ?_)
    | (extract_lets +onlyGivenNames x; refine Keeps.cut (x := x) (m := tm) (s0 := z) ?_ ?_; unfold x; clear x; rotate_left; intro hx; clear_value x; rotate_right)
    | (extract_lets +onlyGivenNames x; clear_value x)
    | split

def execSamplePreload_touch : Nat := 0x4040000000000000000000000000000000000000000000000000000000000000000
theorem execSamplePreload_keeps {tm : Nat} {z s : State} (hm : Sub execSamplePreload_touch tm) (hs : Keeps tm z s)  :
    KeepsO tm z (execSamplePreload s) := by
  delta execSamplePreload
  repeat' first
    | with_reducible refine KeepsO.next ?_
    | with_reducible refine KeepsO.ite ?_ ?_
    | with_reducible assumption
    | (refine Sub.bit hm ?_; exact rfl)
    | (refine Sub.trans (Sub.of ?_) hm; exact rfl)
    | with_reducible refine Keeps.ite ?_ ?_
    | (refine (?_ : (_ : Bool) = true); exact rfl)
    | with_reducible refine jtagLoad_keeps ?_ ?_ _
    | with_reducible refine begin_keeps ?_ ?_
    | with_reducible refine Keeps.idState ?_
    | with_reducible refine foldl_keeps ?_ _ (fun s a hs => ?_)
    | (extract_lets +onlyGivenNames x; refine Keeps.cut (x := x) (m := tm) (s0 := z) ?_ ?_; unfold x; clear x; rotate_left; intro hx; clear_value x; rotate_right)
    | (extract_lets +onlyGivenNames x; clear_value x)
    | split

def execSeal_touch : Nat := 0x1017f9fc000000000000000087a00060000006032043000002882008a00a185080000400
theorem execSeal_keeps {tm : Nat} {z s : State} (hm : Sub execSeal_touch tm) (hs : Keeps tm z s) (h : Sys2Proof.CmdHdr) :
    KeepsO tm z (execSeal h s) := by
  delta execSeal
  repeat' first
    | with_reducible refine KeepsO.next ?_
    | with_reducible refine KeepsO.ite ?_ ?_
    | with_reducible assumption
    | (refine Sub.bit hm ?_; exact rfl)
    | (refine Sub.trans (Sub.of ?_) hm; exact rfl)
    | with_reducible refine Keeps.ite ?_ ?_
    | (refine (?_ : (_ : Bool) = true); exact rfl)
    | with_reducible refine complete_keeps ?_ ?_ _ _ _
    | with_reducible refine sealNow_keeps ?_ ?_ _
    | with_reducible refine settle_keeps ?_ ?_
    | with_reducible refine dispatch_keeps ?_ ?_ _ _ _ (fun s a0 hs => ?_)
    | with_reducible refine hold_keeps ?_ ?_ _ _
    | with_reducible refine Keeps.idState ?_
    | with_reducible refine foldl_keeps ?_ _ (fun s a hs => ?_)
    | (extract_lets +onlyGivenNames x; refine Keeps.cut (x := x) (m := tm) (s0 := z) ?_ ?_; unfold x; clear x; rotate_left; intro hx; clear_value x; rotate_right)
    | (extract_lets +onlyGivenNames x; clear_value x)
    | split

def execStatementSigned_touch : Nat := 0xd74000000000000000004a000600000000000010000000000000000000000000000
theorem execStatementSigned_keeps {tm : Nat} {z s : State} (hm : Sub execStatementSigned_touch tm) (hs : Keeps tm z s)  :
    KeepsO tm z (execStatementSigned s) := by
  delta execStatementSigned
  repeat' first
    | with_reducible refine KeepsO.next ?_
    | with_reducible refine KeepsO.ite ?_ ?_
    | with_reducible assumption
    | (refine Sub.bit hm ?_; exact rfl)
    | (refine Sub.trans (Sub.of ?_) hm; exact rfl)
    | with_reducible refine Keeps.ite ?_ ?_
    | (refine (?_ : (_ : Bool) = true); exact rfl)
    | with_reducible refine onSec_keeps ?_ ?_ _
    | with_reducible refine complete_keeps ?_ ?_ _ _ _
    | with_reducible refine begin_keeps ?_ ?_
    | with_reducible refine writeBuf_keeps ?_ ?_ _ _
    | with_reducible refine Keeps.idState ?_
    | with_reducible refine foldl_keeps ?_ _ (fun s a hs => ?_)
    | (extract_lets +onlyGivenNames x; refine Keeps.cut (x := x) (m := tm) (s0 := z) ?_ ?_; unfold x; clear x; rotate_left; intro hx; clear_value x; rotate_right)
    | (extract_lets +onlyGivenNames x; clear_value x)
    | split

def execTenantHeartbeat_touch : Nat := 0x1017f9fc000000000000000084a00060000006032043000002882008a00a105080000400
theorem execTenantHeartbeat_keeps {tm : Nat} {z s : State} (hm : Sub execTenantHeartbeat_touch tm) (hs : Keeps tm z s) (h : Sys2Proof.CmdHdr) (interval : Sys2Proof.Word) :
    KeepsO tm z (execTenantHeartbeat h interval s) := by
  delta execTenantHeartbeat
  repeat' first
    | with_reducible refine KeepsO.next ?_
    | with_reducible refine KeepsO.ite ?_ ?_
    | with_reducible assumption
    | (refine Sub.bit hm ?_; exact rfl)
    | (refine Sub.trans (Sub.of ?_) hm; exact rfl)
    | with_reducible refine Keeps.ite ?_ ?_
    | (refine (?_ : (_ : Bool) = true); exact rfl)
    | with_reducible refine putBit_keeps ?_ ?_ ?_ _ _ _
    | with_reducible refine onTenant_keeps ?_ ?_ _ _
    | with_reducible refine complete_keeps ?_ ?_ _ _ _
    | with_reducible refine settle_keeps ?_ ?_
    | with_reducible refine dispatch_keeps ?_ ?_ _ _ _ (fun s a0 hs => ?_)
    | with_reducible refine Keeps.idState ?_
    | with_reducible refine foldl_keeps ?_ _ (fun s a hs => ?_)
    | (extract_lets +onlyGivenNames x; refine Keeps.cut (x := x) (m := tm) (s0 := z) ?_ ?_; unfold x; clear x; rotate_left; intro hx; clear_value x; rotate_right)
    | (extract_lets +onlyGivenNames x; clear_value x)
    | split

def execTenantReleaseQuarantine_touch : Nat := 0x1017f9fc000000000000000084a00060000006032043000002882008a00a105080000400
theorem execTenantReleaseQuarantine_keeps {tm : Nat} {z s : State} (hm : Sub execTenantReleaseQuarantine_touch tm) (hs : Keeps tm z s) (h : Sys2Proof.CmdHdr) :
    KeepsO tm z (execTenantReleaseQuarantine h s) := by
  delta execTenantReleaseQuarantine
  repeat' first
    | with_reducible refine KeepsO.next ?_
    | with_reducible refine KeepsO.ite ?_ ?_
    | with_reducible assumption
    | (refine Sub.bit hm ?_; exact rfl)
    | (refine Sub.trans (Sub.of ?_) hm; exact rfl)
    | with_reducible refine Keeps.ite ?_ ?_
    | (refine (?_ : (_ : Bool) = true); exact rfl)
    | with_reducible refine complete_keeps ?_ ?_ _ _ _
    | with_reducible refine dispatch_keeps ?_ ?_ _ _ _ (fun s a0 hs => ?_)
    | with_reducible refine release_keeps ?_ ?_ _
    | with_reducible refine Keeps.idState ?_
    | with_reducible refine foldl_keeps ?_ _ (fun s a hs => ?_)
    | (extract_lets +onlyGivenNames x; refine Keeps.cut (x := x) (m := tm) (s0 := z) ?_ ?_; unfold x; clear x; rotate_left; intro hx; clear_value x; rotate_right)
    | (extract_lets +onlyGivenNames x; clear_value x)
    | split

def execTenantSetRole_touch : Nat := 0xdf4000000000000000007a000600000000000010000000000000000000000000000
theorem execTenantSetRole_keeps {tm : Nat} {z s : State} (hm : Sub execTenantSetRole_touch tm) (hs : Keeps tm z s) (h : Sys2Proof.CmdHdr) (role : Sys2Proof.Byte) :
    KeepsO tm z (execTenantSetRole h role s) := by
  delta execTenantSetRole
  repeat' first
    | with_reducible refine KeepsO.next ?_
    | with_reducible refine KeepsO.ite ?_ ?_
    | with_reducible assumption
    | (refine Sub.bit hm ?_; exact rfl)
    | (refine Sub.trans (Sub.of ?_) hm; exact rfl)
    | with_reducible refine Keeps.ite ?_ ?_
    | (refine (?_ : (_ : Bool) = true); exact rfl)
    | with_reducible refine giveRoles_keeps ?_ ?_ _
    | with_reducible refine complete_keeps ?_ ?_ _ _ _
    | with_reducible refine dispatch_keeps ?_ ?_ _ _ _ (fun s a0 hs => ?_)
    | with_reducible refine presence_keeps ?_ ?_
    | with_reducible refine Keeps.idState ?_
    | with_reducible refine foldl_keeps ?_ _ (fun s a hs => ?_)
    | (extract_lets +onlyGivenNames x; refine Keeps.cut (x := x) (m := tm) (s0 := z) ?_ ?_; unfold x; clear x; rotate_left; intro hx; clear_value x; rotate_right)
    | (extract_lets +onlyGivenNames x; clear_value x)
    | split

def execUnsealChallenge_touch : Nat := 0xdf6000000000000000004a000600000000000010000000000000000000000000000
theorem execUnsealChallenge_keeps {tm : Nat} {z s : State} (hm : Sub execUnsealChallenge_touch tm) (hs : Keeps tm z s) (h : Sys2Proof.CmdHdr) :
    KeepsO tm z (execUnsealChallenge h s) := by
  delta execUnsealChallenge
  repeat' first
    | with_reducible refine KeepsO.next ?_
    | with_reducible refine KeepsO.ite ?_ ?_
    | with_reducible assumption
    | (refine Sub.bit hm ?_; exact rfl)
    | (refine Sub.trans (Sub.of ?_) hm; exact rfl)
    | with_reducible refine Keeps.ite ?_ ?_
    | (refine (?_ : (_ : Bool) = true); exact rfl)
    | with_reducible refine draw_keeps ?_ ?_
    | with_reducible refine onSec_keeps ?_ ?_ _
    | with_reducible refine complete_keeps ?_ ?_ _ _ _
    | with_reducible refine dispatch_keeps ?_ ?_ _ _ _ (fun s a0 hs => ?_)
    | with_reducible refine Keeps.idState ?_
    | with_reducible refine foldl_keeps ?_ _ (fun s a hs => ?_)
    | (extract_lets +onlyGivenNames x; refine Keeps.cut (x := x) (m := tm) (s0 := z) ?_ ?_; unfold x; clear x; rotate_left; intro hx; clear_value x; rotate_right)
    | (extract_lets +onlyGivenNames x; clear_value x)
    | split
    | dsimp only

def execUnsealResponse_touch : Nat := 0x1dfc000000000000000005a000600000000000010000000000000000000000000000
theorem execUnsealResponse_keeps {tm : Nat} {z s : State} (hm : Sub execUnsealResponse_touch tm) (hs : Keeps tm z s) (h : Sys2Proof.CmdHdr) (response : Vector Sys2Proof.Byte 16) :
    KeepsO tm z (execUnsealResponse h response s) := by
  delta execUnsealResponse
  repeat' first
    | with_reducible refine KeepsO.next ?_
    | with_reducible refine KeepsO.ite ?_ ?_
    | with_reducible assumption
    | (refine Sub.bit hm ?_; exact rfl)
    | (refine Sub.trans (Sub.of ?_) hm; exact rfl)
    | with_reducible refine Keeps.ite ?_ ?_
    | (refine (?_ : (_ : Bool) = true); exact rfl)
    | with_reducible refine put_keeps ?_ ?_ ?_ _ _
    | with_reducible refine writeSeal_keeps ?_ ?_ _ _ _
    | with_reducible refine onSec_keeps ?_ ?_ _
    | with_reducible refine complete_keeps ?_ ?_ _ _ _
    | with_reducible refine countSeal_keeps ?_ ?_
    | with_reducible refine record_keeps ?_ ?_ _ _ _ _
    | with_reducible refine dispatch_keeps ?_ ?_ _ _ _ (fun s a0 hs => ?_)
    | with_reducible refine violation_keeps ?_ ?_ _ _
    | with_reducible refine hold_keeps ?_ ?_ _ _
    | with_reducible refine Keeps.idState ?_
    | with_reducible refine foldl_keeps ?_ _ (fun s a hs => ?_)
    | (extract_lets +onlyGivenNames x; refine Keeps.cut (x := x) (m := tm) (s0 := z) ?_ ?_; unfold x; clear x; rotate_left; intro hx; clear_value x; rotate_right)
    | (extract_lets +onlyGivenNames x; clear_value x)
    | split

def execViolationWindowEnd_touch : Nat := 0x1040000000000000000000000000000000000000000000000000000000000000000
theorem execViolationWindowEnd_keeps {tm : Nat} {z s : State} (hm : Sub execViolationWindowEnd_touch tm) (hs : Keeps tm z s) (t : Sys2Proof.HostT) :
    KeepsO tm z (execViolationWindowEnd t s) := by
  delta execViolationWindowEnd
  repeat' first
    | with_reducible refine KeepsO.next ?_
    | with_reducible refine KeepsO.ite ?_ ?_
    | with_reducible assumption
    | (refine Sub.bit hm ?_; exact rfl)
    | (refine Sub.trans (Sub.of ?_) hm; exact rfl)
    | with_reducible refine Keeps.ite ?_ ?_
    | (refine (?_ : (_ : Bool) = true); exact rfl)
    | with_reducible refine onTenant_keeps ?_ ?_ _ _
    | with_reducible refine begin_keeps ?_ ?_
    | with_reducible refine Keeps.idState ?_
    | with_reducible refine foldl_keeps ?_ _ (fun s a hs => ?_)
    | (extract_lets +onlyGivenNames x; refine Keeps.cut (x := x) (m := tm) (s0 := z) ?_ ?_; unfold x; clear x; rotate_left; intro hx; clear_value x; rotate_right)
    | (extract_lets +onlyGivenNames x; clear_value x)
    | split

end Sys2Proof.Machine
end

