-- ==== Sys2Proof/Laws/KeepsHost.lean ====
section
/-!
SUPPORT. Sys2Proof/Laws/KeepsHost.lean: what each function of Machine/Host.lean may change: its touch set, and one lemma per function.
-/
namespace Sys2Proof.Machine

open Sys2Proof

def applyFnEn_touch : Nat := 0x1000000000000000000000000000000000000000000000000000000000000000000
theorem applyFnEn_keeps {tm : Nat} {z s : State} (hm : Sub applyFnEn_touch tm) (hs : Keeps tm z s) (port : Nat) :
    Keeps tm z (State.applyFnEn s port) := by
  delta State.applyFnEn
  repeat' first
    | with_reducible assumption
    | (refine Sub.bit hm ?_; exact rfl)
    | (refine Sub.trans (Sub.of ?_) hm; exact rfl)
    | with_reducible refine Keeps.ite ?_ ?_
    | (refine (?_ : (_ : Bool) = true); exact rfl)
    | with_reducible refine forEach_keeps ?_ _ (fun s a hs => ?_)
    | with_reducible refine onTenant_keeps ?_ ?_ _ _
    | with_reducible refine Keeps.idState ?_
    | with_reducible refine foldl_keeps ?_ _ (fun s a hs => ?_)
    | (extract_lets +onlyGivenNames x; refine Keeps.cut (x := x) (m := tm) (s0 := z) ?_ ?_; unfold x; clear x; rotate_left; intro hx; clear_value x; rotate_right)
    | (extract_lets +onlyGivenNames x; clear_value x)
    | split

def badDoorbell_touch : Nat := 0x904000000000000000004a000600000000000010000000000000000000000000000
theorem badDoorbell_keeps {tm : Nat} {z s : State} (hm : Sub badDoorbell_touch tm) (hs : Keeps tm z s) (t : Nat) :
    Keeps tm z (State.badDoorbell s t) := by
  delta State.badDoorbell
  repeat' first
    | with_reducible assumption
    | (refine Sub.bit hm ?_; exact rfl)
    | (refine Sub.trans (Sub.of ?_) hm; exact rfl)
    | with_reducible refine Keeps.ite ?_ ?_
    | (refine (?_ : (_ : Bool) = true); exact rfl)
    | with_reducible refine put_keeps ?_ ?_ ?_ _ _
    | with_reducible refine violation_keeps ?_ ?_ _ _
    | with_reducible refine Keeps.idState ?_
    | with_reducible refine foldl_keeps ?_ _ (fun s a hs => ?_)
    | (extract_lets +onlyGivenNames x; refine Keeps.cut (x := x) (m := tm) (s0 := z) ?_ ?_; unfold x; clear x; rotate_left; intro hx; clear_value x; rotate_right)
    | (extract_lets +onlyGivenNames x; clear_value x)
    | split

def onPort_touch : Nat := 0x2000000000000000000000000000000000000000000000000000000000000000000
theorem onPort_keeps {tm : Nat} {z s : State} (hm : Sub onPort_touch tm) (hs : Keeps tm z s) (port : Nat) (f : Sys2Proof.Machine.Port → Sys2Proof.Machine.Port) :
    Keeps tm z (State.onPort s port f) := by
  delta State.onPort
  repeat' first
    | with_reducible assumption
    | (refine Sub.bit hm ?_; exact rfl)
    | (refine Sub.trans (Sub.of ?_) hm; exact rfl)
    | with_reducible refine Keeps.ite ?_ ?_
    | (refine (?_ : (_ : Bool) = true); exact rfl)
    | with_reducible refine Keeps.idState ?_
    | with_reducible refine foldl_keeps ?_ _ (fun s a hs => ?_)
    | (extract_lets +onlyGivenNames x; refine Keeps.cut (x := x) (m := tm) (s0 := z) ?_ ?_; unfold x; clear x; rotate_left; intro hx; clear_value x; rotate_right)
    | (extract_lets +onlyGivenNames x; clear_value x)
    | split
    | with_reducible refine upd_ports_keeps ?_ ?_ _

def fetched_touch : Nat := 0x1040000000000000000009000600000000000000000000000000000000000000000
theorem fetched_keeps {tm : Nat} {z s : State} (hm : Sub fetched_touch tm) (hs : Keeps tm z s) (t : Nat) (es : List Sys2Proof.Fetched) :
    Keeps tm z (State.fetched s t es) := by
  delta State.fetched
  repeat' first
    | with_reducible assumption
    | (refine Sub.bit hm ?_; exact rfl)
    | (refine Sub.trans (Sub.of ?_) hm; exact rfl)
    | with_reducible refine Keeps.ite ?_ ?_
    | (refine (?_ : (_ : Bool) = true); exact rfl)
    | with_reducible refine wr_keeps ?_ ?_ ?_ _ _
    | with_reducible refine onTenant_keeps ?_ ?_ _ _
    | with_reducible refine kickFetch_keeps ?_ ?_ _
    | with_reducible refine Keeps.idState ?_
    | with_reducible refine foldl_keeps ?_ _ (fun s a hs => ?_)
    | (extract_lets +onlyGivenNames x; refine Keeps.cut (x := x) (m := tm) (s0 := z) ?_ ?_; unfold x; clear x; rotate_left; intro hx; clear_value x; rotate_right)
    | (extract_lets +onlyGivenNames x; clear_value x)
    | split

def showBudget_touch : Nat := 0x1000000000000000000000000000000000000000000
theorem showBudget_keeps {tm : Nat} {z s : State} (hm : Sub showBudget_touch tm) (hs : Keeps tm z s)  :
    Keeps tm z (State.showBudget s) := by
  delta State.showBudget
  repeat' first
    | with_reducible assumption
    | (refine Sub.bit hm ?_; exact rfl)
    | (refine Sub.trans (Sub.of ?_) hm; exact rfl)
    | with_reducible refine Keeps.ite ?_ ?_
    | (refine (?_ : (_ : Bool) = true); exact rfl)
    | with_reducible refine wr_keeps ?_ ?_ ?_ _ _
    | with_reducible refine Keeps.idState ?_
    | with_reducible refine foldl_keeps ?_ _ (fun s a hs => ?_)
    | (extract_lets +onlyGivenNames x; refine Keeps.cut (x := x) (m := tm) (s0 := z) ?_ ?_; unfold x; clear x; rotate_left; intro hx; clear_value x; rotate_right)
    | (extract_lets +onlyGivenNames x; clear_value x)
    | split

def orphanCmds_touch : Nat := 0x80004080000000000000000000000000000000000000000000000000000000000000000
theorem orphanCmds_keeps {tm : Nat} {z s : State} (hm : Sub orphanCmds_touch tm) (hs : Keeps tm z s) (t : Nat) :
    Keeps tm z (State.orphanCmds s t) := by
  delta State.orphanCmds
  repeat' first
    | with_reducible assumption
    | (refine Sub.bit hm ?_; exact rfl)
    | (refine Sub.trans (Sub.of ?_) hm; exact rfl)
    | with_reducible refine Keeps.ite ?_ ?_
    | (refine (?_ : (_ : Bool) = true); exact rfl)
    | with_reducible refine onSec_keeps ?_ ?_ _
    | with_reducible refine pmDrop_keeps ?_ ?_ _
    | with_reducible refine Keeps.idState ?_
    | with_reducible refine foldl_keeps ?_ _ (fun s a hs => ?_)
    | (extract_lets +onlyGivenNames x; refine Keeps.cut (x := x) (m := tm) (s0 := z) ?_ ?_; unfold x; clear x; rotate_left; intro hx; clear_value x; rotate_right)
    | (extract_lets +onlyGivenNames x; clear_value x)
    | split
    | with_reducible refine upd_waits_keeps ?_ ?_ _

def functionReset_touch : Nat := 0x1817fd7c00000000003fffffffffffffffffffffffffffffffffffffffffffffffffffff
theorem functionReset_keeps {tm : Nat} {z s : State} (hm : Sub functionReset_touch tm) (hs : Keeps tm z s) (t : Nat) :
    Keeps tm z (State.functionReset s t) := by
  delta State.functionReset
  repeat' first
    | with_reducible assumption
    | (refine Sub.bit hm ?_; exact rfl)
    | (refine Sub.trans (Sub.of ?_) hm; exact rfl)
    | with_reducible refine Keeps.ite ?_ ?_
    | (refine (?_ : (_ : Bool) = true); exact rfl)
    | with_reducible refine setReg_keeps' ?_ (fun _ => wordOk_reset _) ?_ _
    | with_reducible refine setReg_keeps ?_ ?_ ?_ _ _
    | with_reducible refine onTenant_keeps ?_ ?_ _ _
    | with_reducible refine showStandby_keeps ?_ ?_
    | with_reducible refine setRole_keeps ?_ ?_ _ _
    | with_reducible refine showBudget_keeps ?_ ?_
    | with_reducible refine orphanCmds_keeps ?_ ?_ _
    | with_reducible refine release_keeps ?_ ?_ _
    | exact touch_reg (Sub.trans (Sub.of rfl) hm) _
    | with_reducible refine Keeps.idState ?_
    | (simp only [Field.up]; refine Sub.bit hm ?_; exact rfl)
    | (dsimp only; refine Sub.bit hm ?_; exact rfl)
    | with_reducible refine foldl_keeps ?_ _ (fun s a hs => ?_)
    | (extract_lets +onlyGivenNames x; refine Keeps.cut (x := x) (m := tm) (s0 := z) ?_ ?_; unfold x; clear x; rotate_left; intro hx; clear_value x; rotate_right)
    | (extract_lets +onlyGivenNames x; clear_value x)
    | split

def linkDown_touch : Nat := 0x2000000000000000000000000600000000000000000000000000000000000000000
theorem linkDown_keeps {tm : Nat} {z s : State} (hm : Sub linkDown_touch tm) (hs : Keeps tm z s) (port : Nat) :
    Keeps tm z (State.linkDown s port) := by
  delta State.linkDown
  repeat' first
    | with_reducible assumption
    | (refine Sub.bit hm ?_; exact rfl)
    | (refine Sub.trans (Sub.of ?_) hm; exact rfl)
    | with_reducible refine Keeps.ite ?_ ?_
    | (refine (?_ : (_ : Bool) = true); exact rfl)
    | with_reducible refine setReg_keeps ?_ ?_ ?_ _ _
    | with_reducible refine onPort_keeps ?_ ?_ _ _
    | with_reducible refine Keeps.idState ?_
    | with_reducible refine foldl_keeps ?_ _ (fun s a hs => ?_)
    | (extract_lets +onlyGivenNames x; refine Keeps.cut (x := x) (m := tm) (s0 := z) ?_ ?_; unfold x; clear x; rotate_left; intro hx; clear_value x; rotate_right)
    | (extract_lets +onlyGivenNames x; clear_value x)
    | split

def ltrWake_touch : Nat := 0x40000000000000000000000600000000000000000000000000000000000000000
theorem ltrWake_keeps {tm : Nat} {z s : State} (hm : Sub ltrWake_touch tm) (hs : Keeps tm z s) (t : Nat) :
    Keeps tm z (State.ltrWake s t) := by
  delta State.ltrWake
  repeat' first
    | with_reducible assumption
    | (refine Sub.bit hm ?_; exact rfl)
    | (refine Sub.trans (Sub.of ?_) hm; exact rfl)
    | with_reducible refine Keeps.ite ?_ ?_
    | (refine (?_ : (_ : Bool) = true); exact rfl)
    | with_reducible refine put_keeps ?_ ?_ ?_ _ _
    | with_reducible refine emit_keeps ?_ ?_ _
    | with_reducible refine Keeps.idState ?_
    | (simp only [Field.up]; refine Sub.bit hm ?_; exact rfl)
    | (dsimp only; refine Sub.bit hm ?_; exact rfl)
    | with_reducible refine foldl_keeps ?_ _ (fun s a hs => ?_)
    | (extract_lets +onlyGivenNames x; refine Keeps.cut (x := x) (m := tm) (s0 := z) ?_ ?_; unfold x; clear x; rotate_left; intro hx; clear_value x; rotate_right)
    | (extract_lets +onlyGivenNames x; clear_value x)
    | split

def ownWrite_touch : Nat := 0x40000000000000000000000600000000000000000000000000000000000000000
theorem ownWrite_keeps {tm : Nat} {z s : State} (hm : Sub ownWrite_touch tm) (hs : Keeps tm z s) (w : Sys2Proof.BusWrite) (f : Sys2Proof.Machine.State → Nat → Nat → Sys2Proof.Machine.State) (hf : ∀ s a0 a1, Keeps tm z s → Keeps tm z (f s a0 a1)) :
    Keeps tm z (State.ownWrite s w f) := by
  delta State.ownWrite
  repeat' first
    | with_reducible assumption
    | (refine Sub.bit hm ?_; exact rfl)
    | (refine Sub.trans (Sub.of ?_) hm; exact rfl)
    | with_reducible refine Keeps.ite ?_ ?_
    | (refine (?_ : (_ : Bool) = true); exact rfl)
    | with_reducible refine hf _ _ _ ?_
    | with_reducible refine toL0_keeps ?_ ?_ _
    | with_reducible refine begin_keeps ?_ ?_
    | with_reducible refine Keeps.idState ?_
    | with_reducible refine foldl_keeps ?_ _ (fun s a hs => ?_)
    | (extract_lets +onlyGivenNames x; refine Keeps.cut (x := x) (m := tm) (s0 := z) ?_ ?_; unfold x; clear x; rotate_left; intro hx; clear_value x; rotate_right)
    | (extract_lets +onlyGivenNames x; clear_value x)
    | split

def train_touch : Nat := 0x2000000000000000000000000000000000000000000000000000000000000000000
theorem train_keeps {tm : Nat} {z s : State} (hm : Sub train_touch tm) (hs : Keeps tm z s) (port : Nat) :
    Keeps tm z (State.train s port) := by
  delta State.train
  repeat' first
    | with_reducible assumption
    | (refine Sub.bit hm ?_; exact rfl)
    | (refine Sub.trans (Sub.of ?_) hm; exact rfl)
    | with_reducible refine Keeps.ite ?_ ?_
    | (refine (?_ : (_ : Bool) = true); exact rfl)
    | with_reducible refine onPort_keeps ?_ ?_ _ _
    | with_reducible refine Keeps.idState ?_
    | with_reducible refine foldl_keeps ?_ _ (fun s a hs => ?_)
    | (extract_lets +onlyGivenNames x; refine Keeps.cut (x := x) (m := tm) (s0 := z) ?_ ?_; unfold x; clear x; rotate_left; intro hx; clear_value x; rotate_right)
    | (extract_lets +onlyGivenNames x; clear_value x)
    | split

def writeBack_touch : Nat := 0x40000000000000000000000600000000000000000000000000000000000000000
theorem writeBack_keeps {tm : Nat} {z s : State} (hm : Sub writeBack_touch tm) (hs : Keeps tm z s) (t : Nat) (q : Sys2Proof.Machine.Stream) :
    Keeps tm z (State.writeBack s t q) := by
  delta State.writeBack
  repeat' first
    | with_reducible assumption
    | (refine Sub.bit hm ?_; exact rfl)
    | (refine Sub.trans (Sub.of ?_) hm; exact rfl)
    | with_reducible refine Keeps.ite ?_ ?_
    | (refine (?_ : (_ : Bool) = true); exact rfl)
    | with_reducible refine emit_keeps ?_ ?_ _
    | with_reducible refine Keeps.idState ?_
    | with_reducible refine foldl_keeps ?_ _ (fun s a hs => ?_)
    | (extract_lets +onlyGivenNames x; refine Keeps.cut (x := x) (m := tm) (s0 := z) ?_ ?_; unfold x; clear x; rotate_left; intro hx; clear_value x; rotate_right)
    | (extract_lets +onlyGivenNames x; clear_value x)
    | split

def teleStep_touch : Nat := 0x1040000000000000000000000600000000000000000000000000000000000000000
theorem teleStep_keeps {tm : Nat} {z s : State} (hm : Sub teleStep_touch tm) (hs : Keeps tm z s) (t : Nat) (k : Nat) (l : Nat) (fits : Bool) :
    Keeps tm z (State.teleStep s t k l fits) := by
  delta State.teleStep
  repeat' first
    | with_reducible assumption
    | (refine Sub.bit hm ?_; exact rfl)
    | (refine Sub.trans (Sub.of ?_) hm; exact rfl)
    | with_reducible refine Keeps.ite ?_ ?_
    | (refine (?_ : (_ : Bool) = true); exact rfl)
    | with_reducible refine onTenant_keeps ?_ ?_ _ _
    | with_reducible refine postVec_keeps ?_ ?_ _ _
    | with_reducible refine writeBack_keeps ?_ ?_ _ _
    | with_reducible refine emit_keeps ?_ ?_ _
    | with_reducible refine Keeps.idState ?_
    | with_reducible refine foldl_keeps ?_ _ (fun s a hs => ?_)
    | (extract_lets +onlyGivenNames x; refine Keeps.cut (x := x) (m := tm) (s0 := z) ?_ ?_; unfold x; clear x; rotate_left; intro hx; clear_value x; rotate_right)
    | (extract_lets +onlyGivenNames x; clear_value x)
    | split

def teleLanes_touch : Nat := 0x1040000000000000000000000600000000000000000000000000000000000000000
theorem teleLanes_keeps {tm : Nat} {z s : State} (hm : Sub teleLanes_touch tm) (hs : Keeps tm z s) (t k room : Nat) (ls : List Nat) :
    Keeps tm z (State.teleLanes s t k room ls) := by
  induction ls generalizing s room with
  | nil => exact hs
  | cons l ls ih => exact ih (teleStep_keeps (Sub.trans (Sub.of rfl) hm) hs _ _ _ _) _

def writeCqCfg_touch : Nat := 0x1000000000000000000002200000000000000000000000000000000000000000000
theorem writeCqCfg_keeps {tm : Nat} {z s : State} (hm : Sub writeCqCfg_touch tm) (hs : Keeps tm z s) (t : Nat) (w : Nat) :
    Keeps tm z (State.writeCqCfg s t w) := by
  delta State.writeCqCfg
  repeat' first
    | with_reducible assumption
    | (refine Sub.bit hm ?_; exact rfl)
    | (refine Sub.trans (Sub.of ?_) hm; exact rfl)
    | with_reducible refine Keeps.ite ?_ ?_
    | (refine (?_ : (_ : Bool) = true); exact rfl)
    | with_reducible refine wr_keeps ?_ ?_ ?_ _ _
    | with_reducible refine put_keeps ?_ ?_ ?_ _ _
    | with_reducible refine storeBut_keeps ?_ ?_ _ _ _
    | with_reducible refine onTenant_keeps ?_ ?_ _ _
    | with_reducible refine Keeps.idState ?_
    | with_reducible refine foldl_keeps ?_ _ (fun s a hs => ?_)
    | (extract_lets +onlyGivenNames x; refine Keeps.cut (x := x) (m := tm) (s0 := z) ?_ ?_; unfold x; clear x; rotate_left; intro hx; clear_value x; rotate_right)
    | (extract_lets +onlyGivenNames x; clear_value x)
    | split

def writeCqHead_touch : Nat := 0x904000000000000000004a000600000000000010000000000000000000000000000
theorem writeCqHead_keeps {tm : Nat} {z s : State} (hm : Sub writeCqHead_touch tm) (hs : Keeps tm z s) (t : Nat) (w : Nat) :
    Keeps tm z (State.writeCqHead s t w) := by
  delta State.writeCqHead
  repeat' first
    | with_reducible assumption
    | (refine Sub.bit hm ?_; exact rfl)
    | (refine Sub.trans (Sub.of ?_) hm; exact rfl)
    | with_reducible refine Keeps.ite ?_ ?_
    | (refine (?_ : (_ : Bool) = true); exact rfl)
    | with_reducible refine onTenant_keeps ?_ ?_ _ _
    | with_reducible refine signalRing_keeps ?_ ?_ _
    | with_reducible refine badDoorbell_keeps ?_ ?_ _
    | with_reducible refine kickFetch_keeps ?_ ?_ _
    | with_reducible refine Keeps.idState ?_
    | with_reducible refine foldl_keeps ?_ _ (fun s a hs => ?_)
    | (extract_lets +onlyGivenNames x; refine Keeps.cut (x := x) (m := tm) (s0 := z) ?_ ?_; unfold x; clear x; rotate_left; intro hx; clear_value x; rotate_right)
    | (extract_lets +onlyGivenNames x; clear_value x)
    | split

def writeSqTail_touch : Nat := 0x904000000000000000004b000600000000000010000000000000000000000000000
theorem writeSqTail_keeps {tm : Nat} {z s : State} (hm : Sub writeSqTail_touch tm) (hs : Keeps tm z s) (t : Nat) (w : Nat) :
    Keeps tm z (State.writeSqTail s t w) := by
  delta State.writeSqTail
  repeat' first
    | with_reducible assumption
    | (refine Sub.bit hm ?_; exact rfl)
    | (refine Sub.trans (Sub.of ?_) hm; exact rfl)
    | with_reducible refine Keeps.ite ?_ ?_
    | (refine (?_ : (_ : Bool) = true); exact rfl)
    | with_reducible refine wr_keeps ?_ ?_ ?_ _ _
    | with_reducible refine put_keeps ?_ ?_ ?_ _ _
    | with_reducible refine pushEvent_keeps ?_ ?_ _ _ _ _
    | with_reducible refine badDoorbell_keeps ?_ ?_ _
    | with_reducible refine ltrWake_keeps ?_ ?_ _
    | with_reducible refine violation_keeps ?_ ?_ _ _
    | with_reducible refine kickFetch_keeps ?_ ?_ _
    | with_reducible refine Keeps.idState ?_
    | with_reducible refine foldl_keeps ?_ _ (fun s a hs => ?_)
    | (extract_lets +onlyGivenNames x; refine Keeps.cut (x := x) (m := tm) (s0 := z) ?_ ?_; unfold x; clear x; rotate_left; intro hx; clear_value x; rotate_right)
    | (extract_lets +onlyGivenNames x; clear_value x)
    | split

def writeSqCfg_touch : Nat := 0x1000000000000000000001040000000000000000000000000000000000000000000
theorem writeSqCfg_keeps {tm : Nat} {z s : State} (hm : Sub writeSqCfg_touch tm) (hs : Keeps tm z s) (t : Nat) (w : Nat) :
    Keeps tm z (State.writeSqCfg s t w) := by
  delta State.writeSqCfg
  repeat' first
    | with_reducible assumption
    | (refine Sub.bit hm ?_; exact rfl)
    | (refine Sub.trans (Sub.of ?_) hm; exact rfl)
    | with_reducible refine Keeps.ite ?_ ?_
    | (refine (?_ : (_ : Bool) = true); exact rfl)
    | with_reducible refine wr_keeps ?_ ?_ ?_ _ _
    | with_reducible refine put_keeps ?_ ?_ ?_ _ _
    | with_reducible refine storeBut_keeps ?_ ?_ _ _ _
    | with_reducible refine onTenant_keeps ?_ ?_ _ _
    | with_reducible refine Keeps.idState ?_
    | with_reducible refine foldl_keeps ?_ _ (fun s a hs => ?_)
    | (extract_lets +onlyGivenNames x; refine Keeps.cut (x := x) (m := tm) (s0 := z) ?_ ?_; unfold x; clear x; rotate_left; intro hx; clear_value x; rotate_right)
    | (extract_lets +onlyGivenNames x; clear_value x)
    | split

def execAspmL1Entry_touch : Nat := 0x40000000000000000000000600000000000000000000000000000000000000000
theorem execAspmL1Entry_keeps {tm : Nat} {z s : State} (hm : Sub execAspmL1Entry_touch tm) (hs : Keeps tm z s) (port : Fin 2) (substate : Fin 3) :
    KeepsO tm z (execAspmL1Entry port substate s) := by
  delta execAspmL1Entry
  repeat' first
    | with_reducible refine KeepsO.next ?_
    | with_reducible refine KeepsO.ite ?_ ?_
    | with_reducible assumption
    | (refine Sub.bit hm ?_; exact rfl)
    | (refine Sub.trans (Sub.of ?_) hm; exact rfl)
    | with_reducible refine Keeps.ite ?_ ?_
    | (refine (?_ : (_ : Bool) = true); exact rfl)
    | with_reducible refine wr_keeps ?_ ?_ ?_ _ _
    | with_reducible refine begin_keeps ?_ ?_
    | with_reducible refine emit_keeps ?_ ?_ _
    | with_reducible refine Keeps.idState ?_
    | (simp only [Field.up]; refine Sub.bit hm ?_; exact rfl)
    | (dsimp only; refine Sub.bit hm ?_; exact rfl)
    | with_reducible refine foldl_keeps ?_ _ (fun s a hs => ?_)
    | (extract_lets +onlyGivenNames x; refine Keeps.cut (x := x) (m := tm) (s0 := z) ?_ ?_; unfold x; clear x; rotate_left; intro hx; clear_value x; rotate_right)
    | (extract_lets +onlyGivenNames x; clear_value x)
    | split

def execBusMasterDisable_touch : Nat := 0x1040000000000000000001000000000000000000000000000000000000000000000
theorem execBusMasterDisable_keeps {tm : Nat} {z s : State} (hm : Sub execBusMasterDisable_touch tm) (hs : Keeps tm z s) (t : Sys2Proof.HostT) (enable : Bool) :
    KeepsO tm z (execBusMasterDisable t enable s) := by
  delta execBusMasterDisable
  repeat' first
    | with_reducible refine KeepsO.next ?_
    | with_reducible refine KeepsO.ite ?_ ?_
    | with_reducible assumption
    | (refine Sub.bit hm ?_; exact rfl)
    | (refine Sub.trans (Sub.of ?_) hm; exact rfl)
    | with_reducible refine Keeps.ite ?_ ?_
    | (refine (?_ : (_ : Bool) = true); exact rfl)
    | with_reducible refine put_keeps ?_ ?_ ?_ _ _
    | with_reducible refine onTenant_keeps ?_ ?_ _ _
    | with_reducible refine begin_keeps ?_ ?_
    | with_reducible refine Keeps.idState ?_
    | with_reducible refine foldl_keeps ?_ _ (fun s a hs => ?_)
    | (extract_lets +onlyGivenNames x; refine Keeps.cut (x := x) (m := tm) (s0 := z) ?_ ?_; unfold x; clear x; rotate_left; intro hx; clear_value x; rotate_right)
    | (extract_lets +onlyGivenNames x; clear_value x)
    | split

def execCqHeadDb_touch : Nat := 0x1017f97c000000000000000084a00060000006032043000002882008a00a105080000400
theorem execCqHeadDb_keeps {tm : Nat} {z s : State} (hm : Sub execCqHeadDb_touch tm) (hs : Keeps tm z s) (w : Sys2Proof.BusWrite) :
    KeepsO tm z (execCqHeadDb w s) := by
  delta execCqHeadDb
  repeat' first
    | with_reducible refine KeepsO.next ?_
    | with_reducible refine KeepsO.ite ?_ ?_
    | with_reducible assumption
    | (refine Sub.bit hm ?_; exact rfl)
    | (refine Sub.trans (Sub.of ?_) hm; exact rfl)
    | with_reducible refine Keeps.ite ?_ ?_
    | (refine (?_ : (_ : Bool) = true); exact rfl)
    | with_reducible refine settle_keeps ?_ ?_
    | with_reducible refine ownWrite_keeps ?_ ?_ _ _ (fun s a0 a1 hs => ?_)
    | with_reducible refine writeCqHead_keeps ?_ ?_ _ _
    | with_reducible refine Keeps.idState ?_
    | with_reducible refine foldl_keeps ?_ _ (fun s a hs => ?_)
    | (extract_lets +onlyGivenNames x; refine Keeps.cut (x := x) (m := tm) (s0 := z) ?_ ?_; unfold x; clear x; rotate_left; intro hx; clear_value x; rotate_right)
    | (extract_lets +onlyGivenNames x; clear_value x)
    | split

def execFunctionLevelReset_touch : Nat := 0x1817fd7c00000000003fffffffffffffffffffffffffffffffffffffffffffffffffffff
theorem execFunctionLevelReset_keeps {tm : Nat} {z s : State} (hm : Sub execFunctionLevelReset_touch tm) (hs : Keeps tm z s) (t : Sys2Proof.HostT) :
    KeepsO tm z (execFunctionLevelReset t s) := by
  delta execFunctionLevelReset
  repeat' first
    | with_reducible refine KeepsO.next ?_
    | with_reducible refine KeepsO.ite ?_ ?_
    | with_reducible assumption
    | (refine Sub.bit hm ?_; exact rfl)
    | (refine Sub.trans (Sub.of ?_) hm; exact rfl)
    | with_reducible refine Keeps.ite ?_ ?_
    | (refine (?_ : (_ : Bool) = true); exact rfl)
    | with_reducible refine settle_keeps ?_ ?_
    | with_reducible refine functionReset_keeps ?_ ?_ _
    | with_reducible refine begin_keeps ?_ ?_
    | with_reducible refine Keeps.idState ?_
    | with_reducible refine foldl_keeps ?_ _ (fun s a hs => ?_)
    | (extract_lets +onlyGivenNames x; refine Keeps.cut (x := x) (m := tm) (s0 := z) ?_ ?_; unfold x; clear x; rotate_left; intro hx; clear_value x; rotate_right)
    | (extract_lets +onlyGivenNames x; clear_value x)
    | split

def execHstCqCfg_touch : Nat := 0x1040000000000000000002200600000000000000000000000000000000000000000
theorem execHstCqCfg_keeps {tm : Nat} {z s : State} (hm : Sub execHstCqCfg_touch tm) (hs : Keeps tm z s) (w : Sys2Proof.BusWrite) :
    KeepsO tm z (execHstCqCfg w s) := by
  delta execHstCqCfg
  repeat' first
    | with_reducible refine KeepsO.next ?_
    | with_reducible refine KeepsO.ite ?_ ?_
    | with_reducible assumption
    | (refine Sub.bit hm ?_; exact rfl)
    | (refine Sub.trans (Sub.of ?_) hm; exact rfl)
    | with_reducible refine Keeps.ite ?_ ?_
    | (refine (?_ : (_ : Bool) = true); exact rfl)
    | with_reducible refine writeCqCfg_keeps ?_ ?_ _ _
    | with_reducible refine ownWrite_keeps ?_ ?_ _ _ (fun s a0 a1 hs => ?_)
    | with_reducible refine Keeps.idState ?_
    | with_reducible refine foldl_keeps ?_ _ (fun s a hs => ?_)
    | (extract_lets +onlyGivenNames x; refine Keeps.cut (x := x) (m := tm) (s0 := z) ?_ ?_; unfold x; clear x; rotate_left; intro hx; clear_value x; rotate_right)
    | (extract_lets +onlyGivenNames x; clear_value x)
    | split

def execHstSqCfg_touch : Nat := 0x1040000000000000000001040600000000000000000000000000000000000000000
theorem execHstSqCfg_keeps {tm : Nat} {z s : State} (hm : Sub execHstSqCfg_touch tm) (hs : Keeps tm z s) (w : Sys2Proof.BusWrite) :
    KeepsO tm z (execHstSqCfg w s) := by
  delta execHstSqCfg
  repeat' first
    | with_reducible refine KeepsO.next ?_
    | with_reducible refine KeepsO.ite ?_ ?_
    | with_reducible assumption
    | (refine Sub.bit hm ?_; exact rfl)
    | (refine Sub.trans (Sub.of ?_) hm; exact rfl)
    | with_reducible refine Keeps.ite ?_ ?_
    | (refine (?_ : (_ : Bool) = true); exact rfl)
    | with_reducible refine writeSqCfg_keeps ?_ ?_ _ _
    | with_reducible refine ownWrite_keeps ?_ ?_ _ _ (fun s a0 a1 hs => ?_)
    | with_reducible refine Keeps.idState ?_
    | with_reducible refine foldl_keeps ?_ _ (fun s a hs => ?_)
    | (extract_lets +onlyGivenNames x; refine Keeps.cut (x := x) (m := tm) (s0 := z) ?_ ?_; unfold x; clear x; rotate_left; intro hx; clear_value x; rotate_right)
    | (extract_lets +onlyGivenNames x; clear_value x)
    | split

def execIdentify_touch : Nat := 0x9f4000000000000000004a000600000000000010000000000000000000000000000
theorem execIdentify_keeps {tm : Nat} {z s : State} (hm : Sub execIdentify_touch tm) (hs : Keeps tm z s) (h : Sys2Proof.CmdHdr) :
    KeepsO tm z (execIdentify h s) := by
  delta execIdentify
  repeat' first
    | with_reducible refine KeepsO.next ?_
    | with_reducible refine KeepsO.ite ?_ ?_
    | with_reducible assumption
    | (refine Sub.bit hm ?_; exact rfl)
    | (refine Sub.trans (Sub.of ?_) hm; exact rfl)
    | with_reducible refine Keeps.ite ?_ ?_
    | (refine (?_ : (_ : Bool) = true); exact rfl)
    | with_reducible refine complete_keeps ?_ ?_ _ _ _
    | with_reducible refine dispatch_keeps ?_ ?_ _ _ _ (fun s a0 hs => ?_)
    | with_reducible refine writeBuf_keeps ?_ ?_ _ _
    | with_reducible refine Keeps.idState ?_
    | with_reducible refine foldl_keeps ?_ _ (fun s a hs => ?_)
    | (extract_lets +onlyGivenNames x; refine Keeps.cut (x := x) (m := tm) (s0 := z) ?_ ?_; unfold x; clear x; rotate_left; intro hx; clear_value x; rotate_right)
    | (extract_lets +onlyGivenNames x; clear_value x)
    | split

def execLinkTraining_touch : Nat := 0x2040000000000000000000000680000000000000000000000000000000000000000
theorem execLinkTraining_keeps {tm : Nat} {z s : State} (hm : Sub execLinkTraining_touch tm) (hs : Keeps tm z s) (port : Fin 2) :
    KeepsO tm z (execLinkTraining port s) := by
  delta execLinkTraining
  repeat' first
    | with_reducible refine KeepsO.next ?_
    | with_reducible refine KeepsO.ite ?_ ?_
    | with_reducible assumption
    | (refine Sub.bit hm ?_; exact rfl)
    | (refine Sub.trans (Sub.of ?_) hm; exact rfl)
    | with_reducible refine Keeps.ite ?_ ?_
    | (refine (?_ : (_ : Bool) = true); exact rfl)
    | with_reducible refine put_keeps ?_ ?_ ?_ _ _
    | with_reducible refine train_keeps ?_ ?_ _
    | with_reducible refine onPort_keeps ?_ ?_ _ _
    | with_reducible refine begin_keeps ?_ ?_
    | with_reducible refine emit_keeps ?_ ?_ _
    | with_reducible refine Keeps.idState ?_
    | with_reducible refine foldl_keeps ?_ _ (fun s a hs => ?_)
    | (extract_lets +onlyGivenNames x; refine Keeps.cut (x := x) (m := tm) (s0 := z) ?_ ?_; unfold x; clear x; rotate_left; intro hx; clear_value x; rotate_right)
    | (extract_lets +onlyGivenNames x; clear_value x)
    | split

def execLinkUp_touch : Nat := 0xf040000000000000000032000600000000000010000000000000000000000000000
theorem execLinkUp_keeps {tm : Nat} {z s : State} (hm : Sub execLinkUp_touch tm) (hs : Keeps tm z s) (port : Fin 2) (gen : Fin 4) (width : Fin 4) (ltrEn : Bool) (aspmEn : Bool) (fns : Vector Sys2Proof.FnConfig 4) :
    KeepsO tm z (execLinkUp port gen width ltrEn aspmEn fns s) := by
  delta execLinkUp
  repeat' first
    | with_reducible refine KeepsO.next ?_
    | with_reducible refine KeepsO.ite ?_ ?_
    | with_reducible assumption
    | (refine Sub.bit hm ?_; exact rfl)
    | (refine Sub.trans (Sub.of ?_) hm; exact rfl)
    | with_reducible refine Keeps.ite ?_ ?_
    | (refine (?_ : (_ : Bool) = true); exact rfl)
    | with_reducible refine setReg_keeps ?_ ?_ ?_ _ _
    | with_reducible refine forEach_keeps ?_ _ (fun s a hs => ?_)
    | with_reducible refine onTenant_keeps ?_ ?_ _ _
    | with_reducible refine onPort_keeps ?_ ?_ _ _
    | with_reducible refine begin_keeps ?_ ?_
    | with_reducible refine presence_keeps ?_ ?_
    | with_reducible refine Keeps.idState ?_
    | with_reducible refine foldl_keeps ?_ _ (fun s a hs => ?_)
    | (extract_lets +onlyGivenNames x; refine Keeps.cut (x := x) (m := tm) (s0 := z) ?_ ?_; unfold x; clear x; rotate_left; intro hx; clear_value x; rotate_right)
    | (extract_lets +onlyGivenNames x; clear_value x)
    | split

def execLtrIdle_touch : Nat := 0x40000000000000000000000600000000000000000000000000000000000000000
theorem execLtrIdle_keeps {tm : Nat} {z s : State} (hm : Sub execLtrIdle_touch tm) (hs : Keeps tm z s) (port : Fin 2) :
    KeepsO tm z (execLtrIdle port s) := by
  delta execLtrIdle
  repeat' first
    | with_reducible refine KeepsO.next ?_
    | with_reducible refine KeepsO.ite ?_ ?_
    | with_reducible assumption
    | (refine Sub.bit hm ?_; exact rfl)
    | (refine Sub.trans (Sub.of ?_) hm; exact rfl)
    | with_reducible refine Keeps.ite ?_ ?_
    | (refine (?_ : (_ : Bool) = true); exact rfl)
    | with_reducible refine put_keeps ?_ ?_ ?_ _ _
    | with_reducible refine begin_keeps ?_ ?_
    | with_reducible refine emit_keeps ?_ ?_ _
    | with_reducible refine Keeps.idState ?_
    | (simp only [Field.up]; refine Sub.bit hm ?_; exact rfl)
    | (dsimp only; refine Sub.bit hm ?_; exact rfl)
    | with_reducible refine foldl_keeps ?_ _ (fun s a hs => ?_)
    | (extract_lets +onlyGivenNames x; refine Keeps.cut (x := x) (m := tm) (s0 := z) ?_ ?_; unfold x; clear x; rotate_left; intro hx; clear_value x; rotate_right)
    | (extract_lets +onlyGivenNames x; clear_value x)
    | split

def execMsixCoalTimeout_touch : Nat := 0x1040000000000000000000000600000000000000000000000000000000000000000
theorem execMsixCoalTimeout_keeps {tm : Nat} {z s : State} (hm : Sub execMsixCoalTimeout_touch tm) (hs : Keeps tm z s) (t : Sys2Proof.HostT) :
    KeepsO tm z (execMsixCoalTimeout t s) := by
  delta execMsixCoalTimeout
  repeat' first
    | with_reducible refine KeepsO.next ?_
    | with_reducible refine KeepsO.ite ?_ ?_
    | with_reducible assumption
    | (refine Sub.bit hm ?_; exact rfl)
    | (refine Sub.trans (Sub.of ?_) hm; exact rfl)
    | with_reducible refine Keeps.ite ?_ ?_
    | (refine (?_ : (_ : Bool) = true); exact rfl)
    | with_reducible refine signalRing_keeps ?_ ?_ _
    | with_reducible refine begin_keeps ?_ ?_
    | with_reducible refine Keeps.idState ?_
    | with_reducible refine foldl_keeps ?_ _ (fun s a hs => ?_)
    | (extract_lets +onlyGivenNames x; refine Keeps.cut (x := x) (m := tm) (s0 := z) ?_ ?_; unfold x; clear x; rotate_left; intro hx; clear_value x; rotate_right)
    | (extract_lets +onlyGivenNames x; clear_value x)
    | split

def execPciPmD3hot_touch : Nat := 0xd040000000000000000032000600000000000010000000000000000000000000000
theorem execPciPmD3hot_keeps {tm : Nat} {z s : State} (hm : Sub execPciPmD3hot_touch tm) (hs : Keeps tm z s) (t : Sys2Proof.HostT) (enter : Bool) :
    KeepsO tm z (execPciPmD3hot t enter s) := by
  delta execPciPmD3hot
  repeat' first
    | with_reducible refine KeepsO.next ?_
    | with_reducible refine KeepsO.ite ?_ ?_
    | with_reducible assumption
    | (refine Sub.bit hm ?_; exact rfl)
    | (refine Sub.trans (Sub.of ?_) hm; exact rfl)
    | with_reducible refine Keeps.ite ?_ ?_
    | (refine (?_ : (_ : Bool) = true); exact rfl)
    | with_reducible refine onTenant_keeps ?_ ?_ _ _
    | with_reducible refine begin_keeps ?_ ?_
    | with_reducible refine presence_keeps ?_ ?_
    | with_reducible refine Keeps.idState ?_
    | with_reducible refine foldl_keeps ?_ _ (fun s a hs => ?_)
    | (extract_lets +onlyGivenNames x; refine Keeps.cut (x := x) (m := tm) (s0 := z) ?_ ?_; unfold x; clear x; rotate_left; intro hx; clear_value x; rotate_right)
    | (extract_lets +onlyGivenNames x; clear_value x)
    | split

def execPortReset_touch : Nat := 0x1817ff7c00000000003fffffffffffffffffffffffffffffffffffffffffffffffffffff
theorem execPortReset_keeps {tm : Nat} {z s : State} (hm : Sub execPortReset_touch tm) (hs : Keeps tm z s) (port : Fin 2) (kind : Fin 3) :
    KeepsO tm z (execPortReset port kind s) := by
  delta execPortReset
  repeat' first
    | with_reducible refine KeepsO.next ?_
    | with_reducible refine KeepsO.ite ?_ ?_
    | with_reducible assumption
    | (refine Sub.bit hm ?_; exact rfl)
    | (refine Sub.trans (Sub.of ?_) hm; exact rfl)
    | with_reducible refine Keeps.ite ?_ ?_
    | (refine (?_ : (_ : Bool) = true); exact rfl)
    | with_reducible refine put_keeps ?_ ?_ ?_ _ _
    | with_reducible refine forEach_keeps ?_ _ (fun s a hs => ?_)
    | with_reducible refine linkDown_keeps ?_ ?_ _
    | with_reducible refine train_keeps ?_ ?_ _
    | with_reducible refine settle_keeps ?_ ?_
    | with_reducible refine record_keeps ?_ ?_ _ _ _ _
    | with_reducible refine applyFnEn_keeps ?_ ?_ _
    | with_reducible refine functionReset_keeps ?_ ?_ _
    | with_reducible refine begin_keeps ?_ ?_
    | with_reducible refine Keeps.idState ?_
    | with_reducible refine foldl_keeps ?_ _ (fun s a hs => ?_)
    | (extract_lets +onlyGivenNames x; refine Keeps.cut (x := x) (m := tm) (s0 := z) ?_ ?_; unfold x; clear x; rotate_left; intro hx; clear_value x; rotate_right)
    | (extract_lets +onlyGivenNames x; clear_value x)
    | split

def execSqFetchDone_touch : Nat := 0x1017f97c000000000000000084b00e60000006032043000002882008a00a105080000400
theorem execSqFetchDone_keeps {tm : Nat} {z s : State} (hm : Sub execSqFetchDone_touch tm) (hs : Keeps tm z s) (t : Sys2Proof.HostT) (entries : List Sys2Proof.Fetched) (error : Option (Fin 5)) :
    KeepsO tm z (execSqFetchDone t entries error s) := by
  delta execSqFetchDone
  repeat' first
    | with_reducible refine KeepsO.next ?_
    | with_reducible refine KeepsO.ite ?_ ?_
    | with_reducible assumption
    | (refine Sub.bit hm ?_; exact rfl)
    | (refine Sub.trans (Sub.of ?_) hm; exact rfl)
    | with_reducible refine Keeps.ite ?_ ?_
    | (refine (?_ : (_ : Bool) = true); exact rfl)
    | with_reducible refine put_keeps ?_ ?_ ?_ _ _
    | with_reducible refine onTenant_keeps ?_ ?_ _ _
    | with_reducible refine dmaError_keeps ?_ ?_ _ _ _ _
    | with_reducible refine pushEvent_keeps ?_ ?_ _ _ _ _
    | with_reducible refine fetched_keeps ?_ ?_ _ _
    | with_reducible refine settle_keeps ?_ ?_
    | with_reducible refine violation_keeps ?_ ?_ _ _
    | with_reducible refine begin_keeps ?_ ?_
    | with_reducible refine Keeps.idState ?_
    | with_reducible refine foldl_keeps ?_ _ (fun s a hs => ?_)
    | (extract_lets +onlyGivenNames x; refine Keeps.cut (x := x) (m := tm) (s0 := z) ?_ ?_; unfold x; clear x; rotate_left; intro hx; clear_value x; rotate_right)
    | (extract_lets +onlyGivenNames x; clear_value x)
    | split

def execSqTailDb_touch : Nat := 0x1017f97c000000000000000084b00060000006032043000002882008a00a105080000400
theorem execSqTailDb_keeps {tm : Nat} {z s : State} (hm : Sub execSqTailDb_touch tm) (hs : Keeps tm z s) (w : Sys2Proof.BusWrite) :
    KeepsO tm z (execSqTailDb w s) := by
  delta execSqTailDb
  repeat' first
    | with_reducible refine KeepsO.next ?_
    | with_reducible refine KeepsO.ite ?_ ?_
    | with_reducible assumption
    | (refine Sub.bit hm ?_; exact rfl)
    | (refine Sub.trans (Sub.of ?_) hm; exact rfl)
    | with_reducible refine Keeps.ite ?_ ?_
    | (refine (?_ : (_ : Bool) = true); exact rfl)
    | with_reducible refine writeSqTail_keeps ?_ ?_ _ _
    | with_reducible refine settle_keeps ?_ ?_
    | with_reducible refine ownWrite_keeps ?_ ?_ _ _ (fun s a0 a1 hs => ?_)
    | with_reducible refine Keeps.idState ?_
    | with_reducible refine foldl_keeps ?_ _ (fun s a hs => ?_)
    | (extract_lets +onlyGivenNames x; refine Keeps.cut (x := x) (m := tm) (s0 := z) ?_ ?_; unfold x; clear x; rotate_left; intro hx; clear_value x; rotate_right)
    | (extract_lets +onlyGivenNames x; clear_value x)
    | split

def execTelemetrySample_touch : Nat := 0x1040000000000000000000000600000000000000000000000000000000000000000
theorem execTelemetrySample_keeps {tm : Nat} {z s : State} (hm : Sub execTelemetrySample_touch tm) (hs : Keeps tm z s) (t : Sys2Proof.HostT) (stream : Fin 4) (room : Nat) :
    KeepsO tm z (execTelemetrySample t stream room s) := by
  delta execTelemetrySample
  repeat' first
    | with_reducible refine KeepsO.next ?_
    | with_reducible refine KeepsO.ite ?_ ?_
    | with_reducible assumption
    | (refine Sub.bit hm ?_; exact rfl)
    | (refine Sub.trans (Sub.of ?_) hm; exact rfl)
    | with_reducible refine Keeps.ite ?_ ?_
    | (refine (?_ : (_ : Bool) = true); exact rfl)
    | with_reducible refine teleLanes_keeps ?_ ?_ _ _ _ _
    | with_reducible refine begin_keeps ?_ ?_
    | with_reducible refine Keeps.idState ?_
    | with_reducible refine foldl_keeps ?_ _ (fun s a hs => ?_)
    | (extract_lets +onlyGivenNames x; refine Keeps.cut (x := x) (m := tm) (s0 := z) ?_ ?_; unfold x; clear x; rotate_left; intro hx; clear_value x; rotate_right)
    | (extract_lets +onlyGivenNames x; clear_value x)
    | split

def execTelemetryStreamClose_touch : Nat := 0x9f4000000000000000004a001600000000000010000000000000000000000000000
theorem execTelemetryStreamClose_keeps {tm : Nat} {z s : State} (hm : Sub execTelemetryStreamClose_touch tm) (hs : Keeps tm z s) (h : Sys2Proof.CmdHdr) (stream : Sys2Proof.Byte) :
    KeepsO tm z (execTelemetryStreamClose h stream s) := by
  delta execTelemetryStreamClose
  repeat' first
    | with_reducible refine KeepsO.next ?_
    | with_reducible refine KeepsO.ite ?_ ?_
    | with_reducible assumption
    | (refine Sub.bit hm ?_; exact rfl)
    | (refine Sub.trans (Sub.of ?_) hm; exact rfl)
    | with_reducible refine Keeps.ite ?_ ?_
    | (refine (?_ : (_ : Bool) = true); exact rfl)
    | with_reducible refine onTenant_keeps ?_ ?_ _ _
    | with_reducible refine complete_keeps ?_ ?_ _ _ _
    | with_reducible refine showBudget_keeps ?_ ?_
    | with_reducible refine dispatch_keeps ?_ ?_ _ _ _ (fun s a0 hs => ?_)
    | with_reducible refine writeBack_keeps ?_ ?_ _ _
    | with_reducible refine Keeps.idState ?_
    | with_reducible refine foldl_keeps ?_ _ (fun s a hs => ?_)
    | (extract_lets +onlyGivenNames x; refine Keeps.cut (x := x) (m := tm) (s0 := z) ?_ ?_; unfold x; clear x; rotate_left; intro hx; clear_value x; rotate_right)
    | (extract_lets +onlyGivenNames x; clear_value x)
    | split

def execTelemetryStreamOpen_touch : Nat := 0x9f4000000000000000004a001600000000000010000000000000000000000000000
theorem execTelemetryStreamOpen_keeps {tm : Nat} {z s : State} (hm : Sub execTelemetryStreamOpen_touch tm) (hs : Keeps tm z s) (h : Sys2Proof.CmdHdr) (p : Sys2Proof.StreamOpen) :
    KeepsO tm z (execTelemetryStreamOpen h p s) := by
  delta execTelemetryStreamOpen
  repeat' first
    | with_reducible refine KeepsO.next ?_
    | with_reducible refine KeepsO.ite ?_ ?_
    | with_reducible assumption
    | (refine Sub.bit hm ?_; exact rfl)
    | (refine Sub.trans (Sub.of ?_) hm; exact rfl)
    | with_reducible refine Keeps.ite ?_ ?_
    | (refine (?_ : (_ : Bool) = true); exact rfl)
    | with_reducible refine onTenant_keeps ?_ ?_ _ _
    | with_reducible refine complete_keeps ?_ ?_ _ _ _
    | with_reducible refine showBudget_keeps ?_ ?_
    | with_reducible refine dispatch_keeps ?_ ?_ _ _ _ (fun s a0 hs => ?_)
    | with_reducible refine Keeps.idState ?_
    | with_reducible refine foldl_keeps ?_ _ (fun s a hs => ?_)
    | (extract_lets +onlyGivenNames x; refine Keeps.cut (x := x) (m := tm) (s0 := z) ?_ ?_; unfold x; clear x; rotate_left; intro hx; clear_value x; rotate_right)
    | (extract_lets +onlyGivenNames x; clear_value x)
    | split

end Sys2Proof.Machine
end

