-- ==== Sys2Proof/Laws/KeepsLink.lean ====
section
/-!
SUPPORT. Sys2Proof/Laws/KeepsLink.lean: what each function of Machine/Link.lean may change: its touch set, and one lemma per function.
-/
namespace Sys2Proof.Machine

open Sys2Proof

def putSuspect_touch : Nat := 0xc00000000000000000
theorem putSuspect_keeps {tm : Nat} {z s : State} (hm : Sub putSuspect_touch tm) (hs : Keeps tm z s) (l : Nat) (v : Bool) :
    Keeps tm z (State.putSuspect s l v) := by
  delta State.putSuspect
  repeat' first
    | with_reducible assumption
    | (refine Sub.bit hm ?_; exact rfl)
    | (refine Sub.trans (Sub.of ?_) hm; exact rfl)
    | with_reducible refine Keeps.ite ?_ ?_
    | (refine (?_ : (_ : Bool) = true); exact rfl)
    | with_reducible refine putBit_keeps ?_ ?_ ?_ _ _ _
    | with_reducible refine Keeps.idState ?_
    | with_reducible refine foldl_keeps ?_ _ (fun s a hs => ?_)
    | (extract_lets +onlyGivenNames x; refine Keeps.cut (x := x) (m := tm) (s0 := z) ?_ ?_; unfold x; clear x; rotate_left; intro hx; clear_value x; rotate_right)
    | (extract_lets +onlyGivenNames x; clear_value x)
    | split

def breaks_touch : Nat := 0x8000000000000000000000000000000000000010000000020000000000000000000
theorem breaks_keeps {tm : Nat} {z s : State} (hm : Sub breaks_touch tm) (hs : Keeps tm z s) (l : Nat) (code : Nat) (flags : Nat) :
    Keeps tm z (State.breaks s l code flags) := by
  delta State.breaks
  repeat' first
    | with_reducible assumption
    | (refine Sub.bit hm ?_; exact rfl)
    | (refine Sub.trans (Sub.of ?_) hm; exact rfl)
    | with_reducible refine Keeps.ite ?_ ?_
    | (refine (?_ : (_ : Bool) = true); exact rfl)
    | with_reducible refine put_keeps ?_ ?_ ?_ _ _
    | with_reducible refine record_keeps ?_ ?_ _ _ _ _
    | with_reducible refine Keeps.idState ?_
    | with_reducible refine foldl_keeps ?_ _ (fun s a hs => ?_)
    | (extract_lets +onlyGivenNames x; refine Keeps.cut (x := x) (m := tm) (s0 := z) ?_ ?_; unfold x; clear x; rotate_left; intro hx; clear_value x; rotate_right)
    | (extract_lets +onlyGivenNames x; clear_value x)
    | split

def badFields_touch : Nat := 0x8000000000000000000000000000000000000010000000020000000000000000000
theorem badFields_keeps {tm : Nat} {z s : State} (hm : Sub badFields_touch tm) (hs : Keeps tm z s) (l type n : Nat) :
    Keeps tm z (State.badFields s l type n) := by
  induction n generalizing s with
  | zero => exact hs
  | succ n ih => exact ih (breaks_keeps (Sub.trans (Sub.of rfl) hm) hs _ _ _)

def checkSoc_touch : Nat := 0x48000000000000000000000000000000000000010000000000c00000000000000000
theorem checkSoc_keeps {tm : Nat} {z s : State} (hm : Sub checkSoc_touch tm) (hs : Keeps tm z s) (l : Nat) (new : Nat) :
    Keeps tm z (State.checkSoc s l new) := by
  delta State.checkSoc
  repeat' first
    | with_reducible assumption
    | (refine Sub.bit hm ?_; exact rfl)
    | (refine Sub.trans (Sub.of ?_) hm; exact rfl)
    | with_reducible refine Keeps.ite ?_ ?_
    | (refine (?_ : (_ : Bool) = true); exact rfl)
    | with_reducible refine putSuspect_keeps ?_ ?_ _ _
    | with_reducible refine record_keeps ?_ ?_ _ _ _ _
    | with_reducible refine onLane_keeps ?_ ?_ _ _
    | with_reducible refine Keeps.idState ?_
    | with_reducible refine foldl_keeps ?_ _ (fun s a hs => ?_)
    | (extract_lets +onlyGivenNames x; refine Keeps.cut (x := x) (m := tm) (s0 := z) ?_ ?_; unfold x; clear x; rotate_left; intro hx; clear_value x; rotate_right)
    | (extract_lets +onlyGivenNames x; clear_value x)
    | split

def takeRecord_touch : Nat := 0x48000000000000000000000000000000000000010000000020c00000000000000000
theorem takeRecord_keeps {tm : Nat} {z s : State} (hm : Sub takeRecord_touch tm) (hs : Keeps tm z s) (l : Nat) (type : Nat) (c : Sys2Proof.Machine.Contract) (p : List Sys2Proof.Byte) :
    Keeps tm z (State.takeRecord s l type c p) := by
  delta State.takeRecord
  repeat' first
    | with_reducible assumption
    | (refine Sub.bit hm ?_; exact rfl)
    | (refine Sub.trans (Sub.of ?_) hm; exact rfl)
    | with_reducible refine Keeps.ite ?_ ?_
    | (refine (?_ : (_ : Bool) = true); exact rfl)
    | with_reducible refine badFields_keeps ?_ ?_ _ _ _
    | with_reducible refine checkSoc_keeps ?_ ?_ _ _
    | with_reducible refine onLane_keeps ?_ ?_ _ _
    | with_reducible refine Keeps.idState ?_
    | with_reducible refine foldl_keeps ?_ _ (fun s a hs => ?_)
    | (extract_lets +onlyGivenNames x; refine Keeps.cut (x := x) (m := tm) (s0 := z) ?_ ?_; unfold x; clear x; rotate_left; intro hx; clear_value x; rotate_right)
    | (extract_lets +onlyGivenNames x; clear_value x)
    | split

def queue_touch : Nat := 0x40000000000000000000000000000000000000000000000000000000000000000000
theorem queue_keeps {tm : Nat} {z s : State} (hm : Sub queue_touch tm) (hs : Keeps tm z s) (l : Nat) (m : Sys2Proof.Machine.Move) :
    Keeps tm z (State.queue s l m) := by
  delta State.queue
  repeat' first
    | with_reducible assumption
    | (refine Sub.bit hm ?_; exact rfl)
    | (refine Sub.trans (Sub.of ?_) hm; exact rfl)
    | with_reducible refine Keeps.ite ?_ ?_
    | (refine (?_ : (_ : Bool) = true); exact rfl)
    | with_reducible refine onLane_keeps ?_ ?_ _ _
    | with_reducible refine Keeps.idState ?_
    | with_reducible refine foldl_keeps ?_ _ (fun s a hs => ?_)
    | (extract_lets +onlyGivenNames x; refine Keeps.cut (x := x) (m := tm) (s0 := z) ?_ ?_; unfold x; clear x; rotate_left; intro hx; clear_value x; rotate_right)
    | (extract_lets +onlyGivenNames x; clear_value x)
    | split

def accept_touch : Nat := 0x48000000000000000000000000000000000000010000000020c08000000000000000
theorem accept_keeps {tm : Nat} {z s : State} (hm : Sub accept_touch tm) (hs : Keeps tm z s) (l : Nat) (type : Nat) (c : Sys2Proof.Machine.Contract) (p : List Sys2Proof.Byte) :
    Keeps tm z (State.accept s l type c p) := by
  delta State.accept
  repeat' first
    | with_reducible assumption
    | (refine Sub.bit hm ?_; exact rfl)
    | (refine Sub.trans (Sub.of ?_) hm; exact rfl)
    | with_reducible refine Keeps.ite ?_ ?_
    | (refine (?_ : (_ : Bool) = true); exact rfl)
    | with_reducible refine wr_keeps ?_ ?_ ?_ _ _
    | with_reducible refine put_keeps ?_ ?_ ?_ _ _
    | with_reducible refine putSuspect_keeps ?_ ?_ _ _
    | with_reducible refine takeRecord_keeps ?_ ?_ _ _ _ _
    | with_reducible refine record_keeps ?_ ?_ _ _ _ _
    | with_reducible refine onLane_keeps ?_ ?_ _ _
    | with_reducible refine queue_keeps ?_ ?_ _ _
    | with_reducible refine Keeps.idState ?_
    | with_reducible refine foldl_keeps ?_ _ (fun s a hs => ?_)
    | (extract_lets +onlyGivenNames x; refine Keeps.cut (x := x) (m := tm) (s0 := z) ?_ ?_; unfold x; clear x; rotate_left; intro hx; clear_value x; rotate_right)
    | (extract_lets +onlyGivenNames x; clear_value x)
    | split

def onJml_touch : Nat := 0x40000000000000000000000000000000000000000000000000000000000000000000
theorem onJml_keeps {tm : Nat} {z s : State} (hm : Sub onJml_touch tm) (hs : Keeps tm z s) (l : Nat) (f : Sys2Proof.Machine.Jml → Sys2Proof.Machine.Jml) :
    Keeps tm z (State.onJml s l f) := by
  delta State.onJml
  repeat' first
    | with_reducible assumption
    | (refine Sub.bit hm ?_; exact rfl)
    | (refine Sub.trans (Sub.of ?_) hm; exact rfl)
    | with_reducible refine Keeps.ite ?_ ?_
    | (refine (?_ : (_ : Bool) = true); exact rfl)
    | with_reducible refine onLane_keeps ?_ ?_ _ _
    | with_reducible refine Keeps.idState ?_
    | with_reducible refine foldl_keeps ?_ _ (fun s a hs => ?_)
    | (extract_lets +onlyGivenNames x; refine Keeps.cut (x := x) (m := tm) (s0 := z) ?_ ?_; unfold x; clear x; rotate_left; intro hx; clear_value x; rotate_right)
    | (extract_lets +onlyGivenNames x; clear_value x)
    | split

def answered_touch : Nat := 0x40000000000000000000000000000000000000000000000000000000000000000000
theorem answered_keeps {tm : Nat} {z s : State} (hm : Sub answered_touch tm) (hs : Keeps tm z s) (l : Nat) :
    Keeps tm z (State.answered s l) := by
  delta State.answered
  repeat' first
    | with_reducible assumption
    | (refine Sub.bit hm ?_; exact rfl)
    | (refine Sub.trans (Sub.of ?_) hm; exact rfl)
    | with_reducible refine Keeps.ite ?_ ?_
    | (refine (?_ : (_ : Bool) = true); exact rfl)
    | with_reducible refine onJml_keeps ?_ ?_ _ _
    | with_reducible refine Keeps.idState ?_
    | with_reducible refine foldl_keeps ?_ _ (fun s a hs => ?_)
    | (extract_lets +onlyGivenNames x; refine Keeps.cut (x := x) (m := tm) (s0 := z) ?_ ?_; unfold x; clear x; rotate_left; intro hx; clear_value x; rotate_right)
    | (extract_lets +onlyGivenNames x; clear_value x)
    | split

def ask_touch : Nat := 0x40000000000000000000000000000000000000000000000000000000000000000000
theorem ask_keeps {tm : Nat} {z s : State} (hm : Sub ask_touch tm) (hs : Keeps tm z s) (l : Nat) (type : Nat) (payload : List Sys2Proof.Byte) :
    Keeps tm z (State.ask s l type payload) := by
  delta State.ask
  repeat' first
    | with_reducible assumption
    | (refine Sub.bit hm ?_; exact rfl)
    | (refine Sub.trans (Sub.of ?_) hm; exact rfl)
    | with_reducible refine Keeps.ite ?_ ?_
    | (refine (?_ : (_ : Bool) = true); exact rfl)
    | with_reducible refine onJml_keeps ?_ ?_ _ _
    | with_reducible refine Keeps.idState ?_
    | with_reducible refine foldl_keeps ?_ _ (fun s a hs => ?_)
    | (extract_lets +onlyGivenNames x; refine Keeps.cut (x := x) (m := tm) (s0 := z) ?_ ?_; unfold x; clear x; rotate_left; intro hx; clear_value x; rotate_right)
    | (extract_lets +onlyGivenNames x; clear_value x)
    | split

def claimAux_touch : Nat := 0x48000000000000000000000000000000000000010000000000000000000000000000
theorem claimAux_keeps {tm : Nat} {z s : State} (hm : Sub claimAux_touch tm) (hs : Keeps tm z s) (l : Nat) (p : List Sys2Proof.Byte) :
    Keeps tm z (State.claimAux s l p).1 := by
  delta State.claimAux
  repeat' first
    | with_reducible assumption
    | (dsimp only; with_reducible assumption)
    | (refine Sub.bit hm ?_; exact rfl)
    | (refine Sub.trans (Sub.of ?_) hm; exact rfl)
    | with_reducible refine Keeps.ite ?_ ?_
    | (refine (?_ : (_ : Bool) = true); exact rfl)
    | with_reducible refine setAux_keeps ?_ ?_ _ _
    | with_reducible refine record_keeps ?_ ?_ _ _ _ _
    | with_reducible refine Keeps.idState ?_
    | with_reducible refine foldl_keeps ?_ _ (fun s a hs => ?_)
    | (extract_lets +onlyGivenNames x; refine Keeps.cut (x := x) (m := tm) (s0 := z) ?_ ?_; unfold x; clear x; rotate_left; intro hx; clear_value x; rotate_right)
    | (extract_lets +onlyGivenNames x; clear_value x)
    | split
    | dsimp only

def freeAux_touch : Nat := 0x40000000000000000000000000000000000000000000000000000000000000000000
theorem freeAux_keeps {tm : Nat} {z s : State} (hm : Sub freeAux_touch tm) (hs : Keeps tm z s) (l : Nat) :
    Keeps tm z (State.freeAux s l) := by
  delta State.freeAux
  repeat' first
    | with_reducible assumption
    | (refine Sub.bit hm ?_; exact rfl)
    | (refine Sub.trans (Sub.of ?_) hm; exact rfl)
    | with_reducible refine Keeps.ite ?_ ?_
    | (refine (?_ : (_ : Bool) = true); exact rfl)
    | with_reducible refine setAux_keeps ?_ ?_ _ _
    | with_reducible refine Keeps.idState ?_
    | with_reducible refine foldl_keeps ?_ _ (fun s a hs => ?_)
    | (extract_lets +onlyGivenNames x; refine Keeps.cut (x := x) (m := tm) (s0 := z) ?_ ?_; unfold x; clear x; rotate_left; intro hx; clear_value x; rotate_right)
    | (extract_lets +onlyGivenNames x; clear_value x)
    | split

def dropContract_touch : Nat := 0x40000000000000000000000000000000000000000000000020008000000000000000
theorem dropContract_keeps {tm : Nat} {z s : State} (hm : Sub dropContract_touch tm) (hs : Keeps tm z s) (l : Nat) :
    Keeps tm z (State.dropContract s l) := by
  delta State.dropContract
  repeat' first
    | with_reducible assumption
    | (refine Sub.bit hm ?_; exact rfl)
    | (refine Sub.trans (Sub.of ?_) hm; exact rfl)
    | with_reducible refine Keeps.ite ?_ ?_
    | (refine (?_ : (_ : Bool) = true); exact rfl)
    | with_reducible refine wr_keeps ?_ ?_ ?_ _ _
    | with_reducible refine put_keeps ?_ ?_ ?_ _ _
    | with_reducible refine freeAux_keeps ?_ ?_ _
    | with_reducible refine onLane_keeps ?_ ?_ _ _
    | with_reducible refine Keeps.idState ?_
    | with_reducible refine foldl_keeps ?_ _ (fun s a hs => ?_)
    | (extract_lets +onlyGivenNames x; refine Keeps.cut (x := x) (m := tm) (s0 := z) ?_ ?_; unfold x; clear x; rotate_left; intro hx; clear_value x; rotate_right)
    | (extract_lets +onlyGivenNames x; clear_value x)
    | split

def dropEnded_touch : Nat := 0x40000000000000000000000000000000000000000000000000000000000000000000
theorem dropEnded_keeps {tm : Nat} {z s : State} (hm : Sub dropEnded_touch tm) (hs : Keeps tm z s) (l : Nat) :
    Keeps tm z (State.dropEnded s l) := by
  delta State.dropEnded
  repeat' first
    | with_reducible assumption
    | (refine Sub.bit hm ?_; exact rfl)
    | (refine Sub.trans (Sub.of ?_) hm; exact rfl)
    | with_reducible refine Keeps.ite ?_ ?_
    | (refine (?_ : (_ : Bool) = true); exact rfl)
    | with_reducible refine onJml_keeps ?_ ?_ _ _
    | with_reducible refine queue_keeps ?_ ?_ _ _
    | with_reducible refine Keeps.idState ?_
    | with_reducible refine foldl_keeps ?_ _ (fun s a hs => ?_)
    | (extract_lets +onlyGivenNames x; refine Keeps.cut (x := x) (m := tm) (s0 := z) ?_ ?_; unfold x; clear x; rotate_left; intro hx; clear_value x; rotate_right)
    | (extract_lets +onlyGivenNames x; clear_value x)
    | split

def dropFrames_touch : Nat := 0x497c000000000000000004a000600000000000010000000000000000000000000000
theorem dropFrames_keeps {tm : Nat} {z s : State} (hm : Sub dropFrames_touch tm) (hs : Keeps tm z s) (l : Nat) (st : Nat) :
    Keeps tm z (State.dropFrames s l st) := by
  delta State.dropFrames
  repeat' first
    | with_reducible assumption
    | (refine Sub.bit hm ?_; exact rfl)
    | (refine Sub.trans (Sub.of ?_) hm; exact rfl)
    | with_reducible refine Keeps.ite ?_ ?_
    | (refine (?_ : (_ : Bool) = true); exact rfl)
    | with_reducible refine onJml_keeps ?_ ?_ _ _
    | with_reducible refine finish_keeps ?_ ?_ _ _ _
    | with_reducible refine Keeps.idState ?_
    | with_reducible refine foldl_keeps ?_ _ (fun s a hs => ?_)
    | (extract_lets +onlyGivenNames x; refine Keeps.cut (x := x) (m := tm) (s0 := z) ?_ ?_; unfold x; clear x; rotate_left; intro hx; clear_value x; rotate_right)
    | (extract_lets +onlyGivenNames x; clear_value x)
    | split

def hardReset_touch : Nat := 0x497c000000000000000004a000600000000000010000000020008000000000000000
theorem hardReset_keeps {tm : Nat} {z s : State} (hm : Sub hardReset_touch tm) (hs : Keeps tm z s) (l : Nat) (flags : Nat) :
    Keeps tm z (State.hardReset s l flags) := by
  delta State.hardReset
  repeat' first
    | with_reducible assumption
    | (refine Sub.bit hm ?_; exact rfl)
    | (refine Sub.trans (Sub.of ?_) hm; exact rfl)
    | with_reducible refine Keeps.ite ?_ ?_
    | (refine (?_ : (_ : Bool) = true); exact rfl)
    | with_reducible refine put_keeps ?_ ?_ ?_ _ _
    | with_reducible refine bump_keeps ?_ ?_ ?_ _ _
    | with_reducible refine dropFrames_keeps ?_ ?_ _ _
    | with_reducible refine onJml_keeps ?_ ?_ _ _
    | with_reducible refine dropContract_keeps ?_ ?_ _
    | with_reducible refine record_keeps ?_ ?_ _ _ _ _
    | with_reducible refine queue_keeps ?_ ?_ _ _
    | with_reducible refine Keeps.idState ?_
    | with_reducible refine foldl_keeps ?_ _ (fun s a hs => ?_)
    | (extract_lets +onlyGivenNames x; refine Keeps.cut (x := x) (m := tm) (s0 := z) ?_ ?_; unfold x; clear x; rotate_left; intro hx; clear_value x; rotate_right)
    | (extract_lets +onlyGivenNames x; clear_value x)
    | split

def hardFails_touch : Nat := 0x497c000000000000000004a000600000000000010000000020008000000000000000
theorem hardFails_keeps {tm : Nat} {z s : State} (hm : Sub hardFails_touch tm) (hs : Keeps tm z s) (l : Nat) (flags : Nat) :
    Keeps tm z (State.hardFails s l flags) := by
  delta State.hardFails
  repeat' first
    | with_reducible assumption
    | (refine Sub.bit hm ?_; exact rfl)
    | (refine Sub.trans (Sub.of ?_) hm; exact rfl)
    | with_reducible refine Keeps.ite ?_ ?_
    | (refine (?_ : (_ : Bool) = true); exact rfl)
    | with_reducible refine dropFrames_keeps ?_ ?_ _ _
    | with_reducible refine hardReset_keeps ?_ ?_ _ _
    | with_reducible refine onJml_keeps ?_ ?_ _ _
    | with_reducible refine dropContract_keeps ?_ ?_ _
    | with_reducible refine record_keeps ?_ ?_ _ _ _ _
    | with_reducible refine queue_keeps ?_ ?_ _ _
    | with_reducible refine Keeps.idState ?_
    | with_reducible refine foldl_keeps ?_ _ (fun s a hs => ?_)
    | (extract_lets +onlyGivenNames x; refine Keeps.cut (x := x) (m := tm) (s0 := z) ?_ ?_; unfold x; clear x; rotate_left; intro hx; clear_value x; rotate_right)
    | (extract_lets +onlyGivenNames x; clear_value x)
    | split

def endEntry_touch : Nat := 0x497c000000000000000004a000600000000000010000000020008000000000000000
theorem endEntry_keeps {tm : Nat} {z s : State} (hm : Sub endEntry_touch tm) (hs : Keeps tm z s) (l : Nat) :
    Keeps tm z (State.endEntry s l) := by
  delta State.endEntry
  repeat' first
    | with_reducible assumption
    | (refine Sub.bit hm ?_; exact rfl)
    | (refine Sub.trans (Sub.of ?_) hm; exact rfl)
    | with_reducible refine Keeps.ite ?_ ?_
    | (refine (?_ : (_ : Bool) = true); exact rfl)
    | with_reducible refine wr_keeps ?_ ?_ ?_ _ _
    | with_reducible refine freeAux_keeps ?_ ?_ _
    | with_reducible refine onJml_keeps ?_ ?_ _ _
    | with_reducible refine hardFails_keeps ?_ ?_ _ _
    | with_reducible refine queue_keeps ?_ ?_ _ _
    | with_reducible refine Keeps.idState ?_
    | with_reducible refine foldl_keeps ?_ _ (fun s a hs => ?_)
    | (extract_lets +onlyGivenNames x; refine Keeps.cut (x := x) (m := tm) (s0 := z) ?_ ?_; unfold x; clear x; rotate_left; intro hx; clear_value x; rotate_right)
    | (extract_lets +onlyGivenNames x; clear_value x)
    | split

def softReset_touch : Nat := 0x48000000000000000000000000000000000000010000000000000000000000000000
theorem softReset_keeps {tm : Nat} {z s : State} (hm : Sub softReset_touch tm) (hs : Keeps tm z s) (l : Nat) (reason : Nat) :
    Keeps tm z (State.softReset s l reason) := by
  delta State.softReset
  repeat' first
    | with_reducible assumption
    | (refine Sub.bit hm ?_; exact rfl)
    | (refine Sub.trans (Sub.of ?_) hm; exact rfl)
    | with_reducible refine Keeps.ite ?_ ?_
    | (refine (?_ : (_ : Bool) = true); exact rfl)
    | with_reducible refine onJml_keeps ?_ ?_ _ _
    | with_reducible refine record_keeps ?_ ?_ _ _ _ _
    | with_reducible refine Keeps.idState ?_
    | with_reducible refine foldl_keeps ?_ _ (fun s a hs => ?_)
    | (extract_lets +onlyGivenNames x; refine Keeps.cut (x := x) (m := tm) (s0 := z) ?_ ?_; unfold x; clear x; rotate_left; intro hx; clear_value x; rotate_right)
    | (extract_lets +onlyGivenNames x; clear_value x)
    | split

def exhausted_touch : Nat := 0x497c000000000000000004a000600000000000010000000020008000000000000000
theorem exhausted_keeps {tm : Nat} {z s : State} (hm : Sub exhausted_touch tm) (hs : Keeps tm z s) (l : Nat) (type : Nat) :
    Keeps tm z (State.exhausted s l type) := by
  delta State.exhausted
  repeat' first
    | with_reducible assumption
    | (refine Sub.bit hm ?_; exact rfl)
    | (refine Sub.trans (Sub.of ?_) hm; exact rfl)
    | with_reducible refine Keeps.ite ?_ ?_
    | (refine (?_ : (_ : Bool) = true); exact rfl)
    | with_reducible refine freeAux_keeps ?_ ?_ _
    | with_reducible refine hardReset_keeps ?_ ?_ _ _
    | with_reducible refine onJml_keeps ?_ ?_ _ _
    | with_reducible refine dropEnded_keeps ?_ ?_ _
    | with_reducible refine finish_keeps ?_ ?_ _ _ _
    | with_reducible refine softReset_keeps ?_ ?_ _ _
    | with_reducible refine Keeps.idState ?_
    | with_reducible refine foldl_keeps ?_ _ (fun s a hs => ?_)
    | (extract_lets +onlyGivenNames x; refine Keeps.cut (x := x) (m := tm) (s0 := z) ?_ ?_; unfold x; clear x; rotate_left; intro hx; clear_value x; rotate_right)
    | (extract_lets +onlyGivenNames x; clear_value x)
    | split

def failed_touch : Nat := 0x497c000000000000000004a000600000000000010000000020008000000000000000
theorem failed_keeps {tm : Nat} {z s : State} (hm : Sub failed_touch tm) (hs : Keeps tm z s) (l : Nat) :
    Keeps tm z (State.failed s l) := by
  delta State.failed
  repeat' first
    | with_reducible assumption
    | (refine Sub.bit hm ?_; exact rfl)
    | (refine Sub.trans (Sub.of ?_) hm; exact rfl)
    | with_reducible refine Keeps.ite ?_ ?_
    | (refine (?_ : (_ : Bool) = true); exact rfl)
    | with_reducible refine onJml_keeps ?_ ?_ _ _
    | with_reducible refine record_keeps ?_ ?_ _ _ _ _
    | with_reducible refine exhausted_keeps ?_ ?_ _ _
    | with_reducible refine Keeps.idState ?_
    | with_reducible refine foldl_keeps ?_ _ (fun s a hs => ?_)
    | (extract_lets +onlyGivenNames x; refine Keeps.cut (x := x) (m := tm) (s0 := z) ?_ ?_; unfold x; clear x; rotate_left; intro hx; clear_value x; rotate_right)
    | (extract_lets +onlyGivenNames x; clear_value x)
    | split

def refused_touch : Nat := 0x497c000000000000000004a000600000000000010000000020008000000000000000
theorem refused_keeps {tm : Nat} {z s : State} (hm : Sub refused_touch tm) (hs : Keeps tm z s) (l : Nat) (flags : Nat) :
    Keeps tm z (State.refused s l flags) := by
  delta State.refused
  repeat' first
    | with_reducible assumption
    | (refine Sub.bit hm ?_; exact rfl)
    | (refine Sub.trans (Sub.of ?_) hm; exact rfl)
    | with_reducible refine Keeps.ite ?_ ?_
    | (refine (?_ : (_ : Bool) = true); exact rfl)
    | with_reducible refine freeAux_keeps ?_ ?_ _
    | with_reducible refine onJml_keeps ?_ ?_ _ _
    | with_reducible refine endEntry_keeps ?_ ?_ _
    | with_reducible refine record_keeps ?_ ?_ _ _ _ _
    | with_reducible refine finish_keeps ?_ ?_ _ _ _
    | with_reducible refine Keeps.idState ?_
    | with_reducible refine foldl_keeps ?_ _ (fun s a hs => ?_)
    | (extract_lets +onlyGivenNames x; refine Keeps.cut (x := x) (m := tm) (s0 := z) ?_ ?_; unfold x; clear x; rotate_left; intro hx; clear_value x; rotate_right)
    | (extract_lets +onlyGivenNames x; clear_value x)
    | split

def formRequest_touch : Nat := 0x497c000000000000000004a000600000000000010000000020008000000000000000
theorem formRequest_keeps {tm : Nat} {z s : State} (hm : Sub formRequest_touch tm) (hs : Keeps tm z s) (l : Nat) (p : List Sys2Proof.Byte) :
    Keeps tm z (State.formRequest s l p) := by
  delta State.formRequest
  repeat' first
    | with_reducible assumption
    | (refine Sub.bit hm ?_; exact rfl)
    | (refine Sub.trans (Sub.of ?_) hm; exact rfl)
    | with_reducible refine Keeps.ite ?_ ?_
    | (refine (?_ : (_ : Bool) = true); exact rfl)
    | with_reducible refine onJml_keeps ?_ ?_ _ _
    | with_reducible refine ask_keeps ?_ ?_ _ _ _
    | with_reducible refine refused_keeps ?_ ?_ _ _
    | with_reducible refine claimAux_keeps ?_ ?_ _ _
    | with_reducible refine Keeps.idState ?_
    | with_reducible refine foldl_keeps ?_ _ (fun s a hs => ?_)
    | (extract_lets +onlyGivenNames x; refine Keeps.cut (x := x) (m := tm) (s0 := z) ?_ ?_; unfold x; clear x; rotate_left; intro hx; clear_value x; rotate_right)
    | (extract_lets +onlyGivenNames x; clear_value x)
    | split
    | dsimp only

def startEntry_touch : Nat := 0x40000000000000000000000000000000000000000000000000000000000000000000
theorem startEntry_keeps {tm : Nat} {z s : State} (hm : Sub startEntry_touch tm) (hs : Keeps tm z s) (l : Nat) (afterHard : Bool) :
    Keeps tm z (State.startEntry s l afterHard) := by
  delta State.startEntry
  repeat' first
    | with_reducible assumption
    | (refine Sub.bit hm ?_; exact rfl)
    | (refine Sub.trans (Sub.of ?_) hm; exact rfl)
    | with_reducible refine Keeps.ite ?_ ?_
    | (refine (?_ : (_ : Bool) = true); exact rfl)
    | with_reducible refine onJml_keeps ?_ ?_ _ _
    | with_reducible refine ask_keeps ?_ ?_ _ _ _
    | with_reducible refine Keeps.idState ?_
    | with_reducible refine foldl_keeps ?_ _ (fun s a hs => ?_)
    | (extract_lets +onlyGivenNames x; refine Keeps.cut (x := x) (m := tm) (s0 := z) ?_ ?_; unfold x; clear x; rotate_left; intro hx; clear_value x; rotate_right)
    | (extract_lets +onlyGivenNames x; clear_value x)
    | split

def lateHeard_touch : Nat := 0x8000000000000000000000000000000000000010000000020000000000000000000
theorem lateHeard_keeps {tm : Nat} {z s : State} (hm : Sub lateHeard_touch tm) (hs : Keeps tm z s) (l : Nat) :
    Keeps tm z (State.lateHeard s l) := by
  delta State.lateHeard
  repeat' first
    | with_reducible assumption
    | (refine Sub.bit hm ?_; exact rfl)
    | (refine Sub.trans (Sub.of ?_) hm; exact rfl)
    | with_reducible refine Keeps.ite ?_ ?_
    | (refine (?_ : (_ : Bool) = true); exact rfl)
    | with_reducible refine put_keeps ?_ ?_ ?_ _ _
    | with_reducible refine record_keeps ?_ ?_ _ _ _ _
    | with_reducible refine Keeps.idState ?_
    | with_reducible refine foldl_keeps ?_ _ (fun s a hs => ?_)
    | (extract_lets +onlyGivenNames x; refine Keeps.cut (x := x) (m := tm) (s0 := z) ?_ ?_; unfold x; clear x; rotate_left; intro hx; clear_value x; rotate_right)
    | (extract_lets +onlyGivenNames x; clear_value x)
    | split

def heard_touch : Nat := 0x48040000000000000000000000000000000000010000000020000000000000000000
theorem heard_keeps {tm : Nat} {z s : State} (hm : Sub heard_touch tm) (hs : Keeps tm z s) (l : Nat) (f : Sys2Proof.Machine.State → Sys2Proof.Machine.State) (hf : ∀ s, Keeps tm z s → Keeps tm z (f s)) :
    Keeps tm z (State.heard s l f) := by
  delta State.heard
  repeat' first
    | with_reducible assumption
    | (refine Sub.bit hm ?_; exact rfl)
    | (refine Sub.trans (Sub.of ?_) hm; exact rfl)
    | with_reducible refine Keeps.ite ?_ ?_
    | (refine (?_ : (_ : Bool) = true); exact rfl)
    | with_reducible refine hf _ ?_
    | with_reducible refine startEntry_keeps ?_ ?_ _ _
    | with_reducible refine lateHeard_keeps ?_ ?_ _
    | with_reducible refine begin_keeps ?_ ?_
    | with_reducible refine Keeps.idState ?_
    | with_reducible refine foldl_keeps ?_ _ (fun s a hs => ?_)
    | (extract_lets +onlyGivenNames x; refine Keeps.cut (x := x) (m := tm) (s0 := z) ?_ ?_; unfold x; clear x; rotate_left; intro hx; clear_value x; rotate_right)
    | (extract_lets +onlyGivenNames x; clear_value x)
    | split

def idInvalid_touch : Nat := 0x48000000000000000000000000000000000000010000000000000000000000000000
theorem idInvalid_keeps {tm : Nat} {z s : State} (hm : Sub idInvalid_touch tm) (hs : Keeps tm z s) (l : Nat) (flags : Nat) :
    Keeps tm z (State.idInvalid s l flags) := by
  delta State.idInvalid
  repeat' first
    | with_reducible assumption
    | (refine Sub.bit hm ?_; exact rfl)
    | (refine Sub.trans (Sub.of ?_) hm; exact rfl)
    | with_reducible refine Keeps.ite ?_ ?_
    | (refine (?_ : (_ : Bool) = true); exact rfl)
    | with_reducible refine onJml_keeps ?_ ?_ _ _
    | with_reducible refine record_keeps ?_ ?_ _ _ _ _
    | with_reducible refine Keeps.idState ?_
    | with_reducible refine foldl_keeps ?_ _ (fun s a hs => ?_)
    | (extract_lets +onlyGivenNames x; refine Keeps.cut (x := x) (m := tm) (s0 := z) ?_ ?_; unfold x; clear x; rotate_left; intro hx; clear_value x; rotate_right)
    | (extract_lets +onlyGivenNames x; clear_value x)
    | split

def moduleAsks_touch : Nat := 0x49040000000000000000002000600000000000010000000000000000000000000000
theorem moduleAsks_keeps {tm : Nat} {z s : State} (hm : Sub moduleAsks_touch tm) (hs : Keeps tm z s) (l : Nat) (reason : Nat) :
    Keeps tm z (State.moduleAsks s l reason) := by
  delta State.moduleAsks
  repeat' first
    | with_reducible assumption
    | (refine Sub.bit hm ?_; exact rfl)
    | (refine Sub.trans (Sub.of ?_) hm; exact rfl)
    | with_reducible refine Keeps.ite ?_ ?_
    | (refine (?_ : (_ : Bool) = true); exact rfl)
    | with_reducible refine ask_keeps ?_ ?_ _ _ _
    | with_reducible refine record_keeps ?_ ?_ _ _ _ _
    | with_reducible refine notice_keeps ?_ ?_ _ _ _
    | with_reducible refine Keeps.idState ?_
    | with_reducible refine foldl_keeps ?_ _ (fun s a hs => ?_)
    | (extract_lets +onlyGivenNames x; refine Keeps.cut (x := x) (m := tm) (s0 := z) ?_ ?_; unfold x; clear x; rotate_left; intro hx; clear_value x; rotate_right)
    | (extract_lets +onlyGivenNames x; clear_value x)
    | split

def reply_touch : Nat := 0x40000000000000000000000000000000000000000000000000000000000000000000
theorem reply_keeps {tm : Nat} {z s : State} (hm : Sub reply_touch tm) (hs : Keeps tm z s) (l : Nat) (type : Nat) (payload : List Sys2Proof.Byte) (seq : Nat) :
    Keeps tm z (State.reply s l type payload seq) := by
  delta State.reply
  repeat' first
    | with_reducible assumption
    | (refine Sub.bit hm ?_; exact rfl)
    | (refine Sub.trans (Sub.of ?_) hm; exact rfl)
    | with_reducible refine Keeps.ite ?_ ?_
    | (refine (?_ : (_ : Bool) = true); exact rfl)
    | with_reducible refine onJml_keeps ?_ ?_ _ _
    | with_reducible refine Keeps.idState ?_
    | with_reducible refine foldl_keeps ?_ _ (fun s a hs => ?_)
    | (extract_lets +onlyGivenNames x; refine Keeps.cut (x := x) (m := tm) (s0 := z) ?_ ?_; unfold x; clear x; rotate_left; intro hx; clear_value x; rotate_right)
    | (extract_lets +onlyGivenNames x; clear_value x)
    | split

def notAllowed_touch : Nat := 0x48000000000000000000000000000000000000010000000020000000000000000000
theorem notAllowed_keeps {tm : Nat} {z s : State} (hm : Sub notAllowed_touch tm) (hs : Keeps tm z s) (l : Nat) (type : Nat) (f : Sys2Proof.JmlRx) :
    Keeps tm z (State.notAllowed s l type f) := by
  delta State.notAllowed
  repeat' first
    | with_reducible assumption
    | (refine Sub.bit hm ?_; exact rfl)
    | (refine Sub.trans (Sub.of ?_) hm; exact rfl)
    | with_reducible refine Keeps.ite ?_ ?_
    | (refine (?_ : (_ : Bool) = true); exact rfl)
    | with_reducible refine reply_keeps ?_ ?_ _ _ _ _
    | with_reducible refine breaks_keeps ?_ ?_ _ _ _
    | with_reducible refine Keeps.idState ?_
    | with_reducible refine foldl_keeps ?_ _ (fun s a hs => ?_)
    | (extract_lets +onlyGivenNames x; refine Keeps.cut (x := x) (m := tm) (s0 := z) ?_ ?_; unfold x; clear x; rotate_left; intro hx; clear_value x; rotate_right)
    | (extract_lets +onlyGivenNames x; clear_value x)
    | split

def pollAttn_touch : Nat := 0x40000000000000000000000000000000000000000000000000000000000000000000
theorem pollAttn_keeps {tm : Nat} {z s : State} (hm : Sub pollAttn_touch tm) (hs : Keeps tm z s) (l : Nat) :
    Keeps tm z (State.pollAttn s l) := by
  delta State.pollAttn
  repeat' first
    | with_reducible assumption
    | (refine Sub.bit hm ?_; exact rfl)
    | (refine Sub.trans (Sub.of ?_) hm; exact rfl)
    | with_reducible refine Keeps.ite ?_ ?_
    | (refine (?_ : (_ : Bool) = true); exact rfl)
    | with_reducible refine ask_keeps ?_ ?_ _ _ _
    | with_reducible refine Keeps.idState ?_
    | with_reducible refine foldl_keeps ?_ _ (fun s a hs => ?_)
    | (extract_lets +onlyGivenNames x; refine Keeps.cut (x := x) (m := tm) (s0 := z) ?_ ?_; unfold x; clear x; rotate_left; intro hx; clear_value x; rotate_right)
    | (extract_lets +onlyGivenNames x; clear_value x)
    | split

def recordIn_touch : Nat := 0x48000000000000000000000000000000000000010000000020c08000000000000000
theorem recordIn_keeps {tm : Nat} {z s : State} (hm : Sub recordIn_touch tm) (hs : Keeps tm z s) (l : Nat) (type : Nat) (p : List Sys2Proof.Byte) :
    Keeps tm z (State.recordIn s l type p).1 := by
  delta State.recordIn
  repeat' first
    | with_reducible assumption
    | (dsimp only; with_reducible assumption)
    | (refine Sub.bit hm ?_; exact rfl)
    | (refine Sub.trans (Sub.of ?_) hm; exact rfl)
    | with_reducible refine Keeps.ite ?_ ?_
    | (refine (?_ : (_ : Bool) = true); exact rfl)
    | with_reducible refine breaks_keeps ?_ ?_ _ _ _
    | with_reducible refine takeRecord_keeps ?_ ?_ _ _ _ _
    | with_reducible refine accept_keeps ?_ ?_ _ _ _ _
    | with_reducible refine Keeps.idState ?_
    | with_reducible refine foldl_keeps ?_ _ (fun s a hs => ?_)
    | (extract_lets +onlyGivenNames x; refine Keeps.cut (x := x) (m := tm) (s0 := z) ?_ ?_; unfold x; clear x; rotate_left; intro hx; clear_value x; rotate_right)
    | (extract_lets +onlyGivenNames x; clear_value x)
    | split
    | dsimp only

def renegotiated_touch : Nat := 0x497c000000000000000004a000600000000000010000000020c00000000000000000
theorem renegotiated_keeps {tm : Nat} {z s : State} (hm : Sub renegotiated_touch tm) (hs : Keeps tm z s) (l : Nat) (c : Sys2Proof.Machine.Contract) :
    Keeps tm z (State.renegotiated s l c) := by
  delta State.renegotiated
  repeat' first
    | with_reducible assumption
    | (refine Sub.bit hm ?_; exact rfl)
    | (refine Sub.trans (Sub.of ?_) hm; exact rfl)
    | with_reducible refine Keeps.ite ?_ ?_
    | (refine (?_ : (_ : Bool) = true); exact rfl)
    | with_reducible refine wr_keeps ?_ ?_ ?_ _ _
    | with_reducible refine freeAux_keeps ?_ ?_ _
    | with_reducible refine putSuspect_keeps ?_ ?_ _ _
    | with_reducible refine record_keeps ?_ ?_ _ _ _ _
    | with_reducible refine finish_keeps ?_ ?_ _ _ _
    | with_reducible refine onLane_keeps ?_ ?_ _ _
    | with_reducible refine Keeps.idState ?_
    | with_reducible refine foldl_keeps ?_ _ (fun s a hs => ?_)
    | (extract_lets +onlyGivenNames x; refine Keeps.cut (x := x) (m := tm) (s0 := z) ?_ ?_; unfold x; clear x; rotate_left; intro hx; clear_value x; rotate_right)
    | (extract_lets +onlyGivenNames x; clear_value x)
    | split

def unsolicited_touch : Nat := 0x8000000000000000000000000000000000000010000000020000000000000000000
theorem unsolicited_keeps {tm : Nat} {z s : State} (hm : Sub unsolicited_touch tm) (hs : Keeps tm z s) (l : Nat) (type : Nat) :
    Keeps tm z (State.unsolicited s l type) := by
  delta State.unsolicited
  repeat' first
    | with_reducible assumption
    | (refine Sub.bit hm ?_; exact rfl)
    | (refine Sub.trans (Sub.of ?_) hm; exact rfl)
    | with_reducible refine Keeps.ite ?_ ?_
    | (refine (?_ : (_ : Bool) = true); exact rfl)
    | with_reducible refine breaks_keeps ?_ ?_ _ _ _
    | with_reducible refine Keeps.idState ?_
    | with_reducible refine foldl_keeps ?_ _ (fun s a hs => ?_)
    | (extract_lets +onlyGivenNames x; refine Keeps.cut (x := x) (m := tm) (s0 := z) ?_ ?_; unfold x; clear x; rotate_left; intro hx; clear_value x; rotate_right)
    | (extract_lets +onlyGivenNames x; clear_value x)
    | split

def request_touch : Nat := 0x48040000000000000000000000000000000000010000000020000000000000000000
theorem request_keeps {tm : Nat} {z s : State} (hm : Sub request_touch tm) (hs : Keeps tm z s) (l : Nat) (type : Nat) (fr : Sys2Proof.JmlRx) (f : Sys2Proof.Machine.State → Nat → Sys2Proof.Machine.State) (hf : ∀ s a0, Keeps tm z s → Keeps tm z (f s a0)) :
    Keeps tm z (State.request s l type fr f) := by
  delta State.request
  repeat' first
    | with_reducible assumption
    | (refine Sub.bit hm ?_; exact rfl)
    | (refine Sub.trans (Sub.of ?_) hm; exact rfl)
    | with_reducible refine Keeps.ite ?_ ?_
    | (refine (?_ : (_ : Bool) = true); exact rfl)
    | with_reducible refine hf _ _ ?_
    | with_reducible refine unsolicited_keeps ?_ ?_ _ _
    | with_reducible refine reply_keeps ?_ ?_ _ _ _ _
    | with_reducible refine onJml_keeps ?_ ?_ _ _
    | with_reducible refine breaks_keeps ?_ ?_ _ _ _
    | with_reducible refine heard_keeps ?_ ?_ _ _ (fun s hs => ?_)
    | with_reducible refine Keeps.idState ?_
    | with_reducible refine foldl_keeps ?_ _ (fun s a hs => ?_)
    | (extract_lets +onlyGivenNames x; refine Keeps.cut (x := x) (m := tm) (s0 := z) ?_ ?_; unfold x; clear x; rotate_left; intro hx; clear_value x; rotate_right)
    | (extract_lets +onlyGivenNames x; clear_value x)
    | split

def response_touch : Nat := 0x497c000000000000000004a000600000000000010000000020008000000000000000
theorem response_keeps {tm : Nat} {z s : State} (hm : Sub response_touch tm) (hs : Keeps tm z s) (l : Nat) (type : Nat) (fr : Sys2Proof.JmlRx) (asked : List Nat) (f : Sys2Proof.Machine.State → Sys2Proof.Machine.JFrame → Sys2Proof.Machine.State) (hf : ∀ s a0, Keeps tm z s → Keeps tm z (f s a0)) :
    Keeps tm z (State.response s l type fr asked f) := by
  delta State.response
  repeat' first
    | with_reducible assumption
    | (refine Sub.bit hm ?_; exact rfl)
    | (refine Sub.trans (Sub.of ?_) hm; exact rfl)
    | with_reducible refine Keeps.ite ?_ ?_
    | (refine (?_ : (_ : Bool) = true); exact rfl)
    | with_reducible refine hf _ _ ?_
    | with_reducible refine unsolicited_keeps ?_ ?_ _ _
    | with_reducible refine breaks_keeps ?_ ?_ _ _ _
    | with_reducible refine heard_keeps ?_ ?_ _ _ (fun s hs => ?_)
    | with_reducible refine failed_keeps ?_ ?_ _
    | with_reducible refine Keeps.idState ?_
    | with_reducible refine foldl_keeps ?_ _ (fun s a hs => ?_)
    | (extract_lets +onlyGivenNames x; refine Keeps.cut (x := x) (m := tm) (s0 := z) ?_ ?_; unfold x; clear x; rotate_left; intro hx; clear_value x; rotate_right)
    | (extract_lets +onlyGivenNames x; clear_value x)
    | split

def rolesBack_touch : Nat := 0x497c000000000000000004a000600000000000010000000020000000000000000000
theorem rolesBack_keeps {tm : Nat} {z s : State} (hm : Sub rolesBack_touch tm) (hs : Keeps tm z s) (l : Nat) :
    Keeps tm z (State.rolesBack s l) := by
  delta State.rolesBack
  repeat' first
    | with_reducible assumption
    | (refine Sub.bit hm ?_; exact rfl)
    | (refine Sub.trans (Sub.of ?_) hm; exact rfl)
    | with_reducible refine Keeps.ite ?_ ?_
    | (refine (?_ : (_ : Bool) = true); exact rfl)
    | with_reducible refine put_keeps ?_ ?_ ?_ _ _
    | with_reducible refine onJml_keeps ?_ ?_ _ _
    | with_reducible refine record_keeps ?_ ?_ _ _ _ _
    | with_reducible refine finish_keeps ?_ ?_ _ _ _
    | with_reducible refine Keeps.idState ?_
    | with_reducible refine foldl_keeps ?_ _ (fun s a hs => ?_)
    | (extract_lets +onlyGivenNames x; refine Keeps.cut (x := x) (m := tm) (s0 := z) ?_ ?_; unfold x; clear x; rotate_left; intro hx; clear_value x; rotate_right)
    | (extract_lets +onlyGivenNames x; clear_value x)
    | split

def softDone_touch : Nat := 0x497c000000000000000004a000600000000000010000000020000000000000000000
theorem softDone_keeps {tm : Nat} {z s : State} (hm : Sub softDone_touch tm) (hs : Keeps tm z s) (l : Nat) :
    Keeps tm z (State.softDone s l) := by
  delta State.softDone
  repeat' first
    | with_reducible assumption
    | (refine Sub.bit hm ?_; exact rfl)
    | (refine Sub.trans (Sub.of ?_) hm; exact rfl)
    | with_reducible refine Keeps.ite ?_ ?_
    | (refine (?_ : (_ : Bool) = true); exact rfl)
    | with_reducible refine onJml_keeps ?_ ?_ _ _
    | with_reducible refine rolesBack_keeps ?_ ?_ _
    | with_reducible refine ask_keeps ?_ ?_ _ _ _
    | with_reducible refine Keeps.idState ?_
    | with_reducible refine foldl_keeps ?_ _ (fun s a hs => ?_)
    | (extract_lets +onlyGivenNames x; refine Keeps.cut (x := x) (m := tm) (s0 := z) ?_ ?_; unfold x; clear x; rotate_left; intro hx; clear_value x; rotate_right)
    | (extract_lets +onlyGivenNames x; clear_value x)
    | split

def stopLink_touch : Nat := 0x497c000000000000000004a000600000000000010000000020008000000000000000
theorem stopLink_keeps {tm : Nat} {z s : State} (hm : Sub stopLink_touch tm) (hs : Keeps tm z s) (l : Nat) :
    Keeps tm z (State.stopLink s l) := by
  delta State.stopLink
  repeat' first
    | with_reducible assumption
    | (refine Sub.bit hm ?_; exact rfl)
    | (refine Sub.trans (Sub.of ?_) hm; exact rfl)
    | with_reducible refine Keeps.ite ?_ ?_
    | (refine (?_ : (_ : Bool) = true); exact rfl)
    | with_reducible refine put_keeps ?_ ?_ ?_ _ _
    | with_reducible refine dropFrames_keeps ?_ ?_ _ _
    | with_reducible refine onJml_keeps ?_ ?_ _ _
    | with_reducible refine dropContract_keeps ?_ ?_ _
    | with_reducible refine Keeps.idState ?_
    | with_reducible refine foldl_keeps ?_ _ (fun s a hs => ?_)
    | (extract_lets +onlyGivenNames x; refine Keeps.cut (x := x) (m := tm) (s0 := z) ?_ ?_; unfold x; clear x; rotate_left; intro hx; clear_value x; rotate_right)
    | (extract_lets +onlyGivenNames x; clear_value x)
    | split

def execAck_touch : Nat := 0x497c000000000000000004a000600000000000010000000020008000000000000000
theorem execAck_keeps {tm : Nat} {z s : State} (hm : Sub execAck_touch tm) (hs : Keeps tm z s) (l : Sys2Proof.Lane) (f : Sys2Proof.JmlRx) :
    KeepsO tm z (execAck l f s) := by
  delta execAck
  repeat' first
    | with_reducible refine KeepsO.next ?_
    | with_reducible refine KeepsO.ite ?_ ?_
    | with_reducible assumption
    | (refine Sub.bit hm ?_; exact rfl)
    | (refine Sub.trans (Sub.of ?_) hm; exact rfl)
    | with_reducible refine Keeps.ite ?_ ?_
    | (refine (?_ : (_ : Bool) = true); exact rfl)
    | with_reducible refine dropEnded_keeps ?_ ?_ _
    | with_reducible refine breaks_keeps ?_ ?_ _ _ _
    | with_reducible refine response_keeps ?_ ?_ _ _ _ _ _ (fun s a0 hs => ?_)
    | with_reducible refine answered_keeps ?_ ?_ _
    | with_reducible refine failed_keeps ?_ ?_ _
    | with_reducible refine softDone_keeps ?_ ?_ _
    | with_reducible refine Keeps.idState ?_
    | with_reducible refine foldl_keeps ?_ _ (fun s a hs => ?_)
    | (extract_lets +onlyGivenNames x; refine Keeps.cut (x := x) (m := tm) (s0 := z) ?_ ?_; unfold x; clear x; rotate_left; intro hx; clear_value x; rotate_right)
    | (extract_lets +onlyGivenNames x; clear_value x)
    | split

def execAttentionPulse_touch : Nat := 0x48040000000000000000000000000000000000010000000020000000000000000000
theorem execAttentionPulse_keeps {tm : Nat} {z s : State} (hm : Sub execAttentionPulse_touch tm) (hs : Keeps tm z s) (l : Sys2Proof.Lane) (widthNs : Nat) :
    KeepsO tm z (execAttentionPulse l widthNs s) := by
  delta execAttentionPulse
  repeat' first
    | with_reducible refine KeepsO.next ?_
    | with_reducible refine KeepsO.ite ?_ ?_
    | with_reducible assumption
    | (refine Sub.bit hm ?_; exact rfl)
    | (refine Sub.trans (Sub.of ?_) hm; exact rfl)
    | with_reducible refine Keeps.ite ?_ ?_
    | (refine (?_ : (_ : Bool) = true); exact rfl)
    | with_reducible refine put_keeps ?_ ?_ ?_ _ _
    | with_reducible refine heard_keeps ?_ ?_ _ _ (fun s hs => ?_)
    | with_reducible refine pollAttn_keeps ?_ ?_ _
    | with_reducible refine begin_keeps ?_ ?_
    | with_reducible refine Keeps.idState ?_
    | with_reducible refine foldl_keeps ?_ _ (fun s a hs => ?_)
    | (extract_lets +onlyGivenNames x; refine Keeps.cut (x := x) (m := tm) (s0 := z) ?_ ?_; unfold x; clear x; rotate_left; intro hx; clear_value x; rotate_right)
    | (extract_lets +onlyGivenNames x; clear_value x)
    | split

def execAttnCollision_touch : Nat := 0x40040000000000000000000000000000000000000000000020000000000000000000
theorem execAttnCollision_keeps {tm : Nat} {z s : State} (hm : Sub execAttnCollision_touch tm) (hs : Keeps tm z s) (l : Sys2Proof.Lane) :
    KeepsO tm z (execAttnCollision l s) := by
  delta execAttnCollision
  repeat' first
    | with_reducible refine KeepsO.next ?_
    | with_reducible refine KeepsO.ite ?_ ?_
    | with_reducible assumption
    | (refine Sub.bit hm ?_; exact rfl)
    | (refine Sub.trans (Sub.of ?_) hm; exact rfl)
    | with_reducible refine Keeps.ite ?_ ?_
    | (refine (?_ : (_ : Bool) = true); exact rfl)
    | with_reducible refine put_keeps ?_ ?_ ?_ _ _
    | with_reducible refine onJml_keeps ?_ ?_ _ _
    | with_reducible refine pollAttn_keeps ?_ ?_ _
    | with_reducible refine begin_keeps ?_ ?_
    | with_reducible refine Keeps.idState ?_
    | with_reducible refine foldl_keeps ?_ _ (fun s a hs => ?_)
    | (extract_lets +onlyGivenNames x; refine Keeps.cut (x := x) (m := tm) (s0 := z) ?_ ?_; unfold x; clear x; rotate_left; intro hx; clear_value x; rotate_right)
    | (extract_lets +onlyGivenNames x; clear_value x)
    | split

def execAttnInfo_touch : Nat := 0x1017f97c000000000000000084a000600000060320430000028820c8a00a105080000400
theorem execAttnInfo_keeps {tm : Nat} {z s : State} (hm : Sub execAttnInfo_touch tm) (hs : Keeps tm z s) (l : Sys2Proof.Lane) (f : Sys2Proof.JmlRx) :
    KeepsO tm z (execAttnInfo l f s) := by
  delta execAttnInfo
  repeat' first
    | with_reducible refine KeepsO.next ?_
    | with_reducible refine KeepsO.ite ?_ ?_
    | with_reducible assumption
    | (refine Sub.bit hm ?_; exact rfl)
    | (refine Sub.trans (Sub.of ?_) hm; exact rfl)
    | with_reducible refine Keeps.ite ?_ ?_
    | (refine (?_ : (_ : Bool) = true); exact rfl)
    | with_reducible refine put_keeps ?_ ?_ ?_ _ _
    | with_reducible refine breaks_keeps ?_ ?_ _ _ _
    | with_reducible refine response_keeps ?_ ?_ _ _ _ _ _ (fun s a0 hs => ?_)
    | with_reducible refine settle_keeps ?_ ?_
    | with_reducible refine moduleAsks_keeps ?_ ?_ _ _
    | with_reducible refine answered_keeps ?_ ?_ _
    | with_reducible refine failed_keeps ?_ ?_ _
    | with_reducible refine recordIn_keeps ?_ ?_ _ _ _
    | with_reducible refine Keeps.idState ?_
    | with_reducible refine foldl_keeps ?_ _ (fun s a hs => ?_)
    | (extract_lets +onlyGivenNames x; refine Keeps.cut (x := x) (m := tm) (s0 := z) ?_ ?_; unfold x; clear x; rotate_left; intro hx; clear_value x; rotate_right)
    | (extract_lets +onlyGivenNames x; clear_value x)
    | split
    | dsimp only

def execBadFrame_touch : Nat := 0x1017f97c000000000000000084a00060000006032043000002882008a00a105080000400
theorem execBadFrame_keeps {tm : Nat} {z s : State} (hm : Sub execBadFrame_touch tm) (hs : Keeps tm z s) (l : Sys2Proof.Lane) (kind : Fin 4) :
    KeepsO tm z (execBadFrame l kind s) := by
  delta execBadFrame
  repeat' first
    | with_reducible refine KeepsO.next ?_
    | with_reducible refine KeepsO.ite ?_ ?_
    | with_reducible assumption
    | (refine Sub.bit hm ?_; exact rfl)
    | (refine Sub.trans (Sub.of ?_) hm; exact rfl)
    | with_reducible refine Keeps.ite ?_ ?_
    | (refine (?_ : (_ : Bool) = true); exact rfl)
    | with_reducible refine breaks_keeps ?_ ?_ _ _ _
    | with_reducible refine settle_keeps ?_ ?_
    | with_reducible refine failed_keeps ?_ ?_ _
    | with_reducible refine begin_keeps ?_ ?_
    | with_reducible refine Keeps.idState ?_
    | with_reducible refine foldl_keeps ?_ _ (fun s a hs => ?_)
    | (extract_lets +onlyGivenNames x; refine Keeps.cut (x := x) (m := tm) (s0 := z) ?_ ?_; unfold x; clear x; rotate_left; intro hx; clear_value x; rotate_right)
    | (extract_lets +onlyGivenNames x; clear_value x)
    | split

def execCaps_touch : Nat := 0x1017f97c000000000000000084a00060000006032043000002882008a00a105080000400
theorem execCaps_keeps {tm : Nat} {z s : State} (hm : Sub execCaps_touch tm) (hs : Keeps tm z s) (l : Sys2Proof.Lane) (f : Sys2Proof.JmlRx) :
    KeepsO tm z (execCaps l f s) := by
  delta execCaps
  repeat' first
    | with_reducible refine KeepsO.next ?_
    | with_reducible refine KeepsO.ite ?_ ?_
    | with_reducible assumption
    | (refine Sub.bit hm ?_; exact rfl)
    | (refine Sub.trans (Sub.of ?_) hm; exact rfl)
    | with_reducible refine Keeps.ite ?_ ?_
    | (refine (?_ : (_ : Bool) = true); exact rfl)
    | with_reducible refine hardReset_keeps ?_ ?_ _ _
    | with_reducible refine reply_keeps ?_ ?_ _ _ _ _
    | with_reducible refine onJml_keeps ?_ ?_ _ _
    | with_reducible refine refused_keeps ?_ ?_ _ _
    | with_reducible refine breaks_keeps ?_ ?_ _ _ _
    | with_reducible refine formRequest_keeps ?_ ?_ _ _
    | with_reducible refine response_keeps ?_ ?_ _ _ _ _ _ (fun s a0 hs => ?_)
    | with_reducible refine settle_keeps ?_ ?_
    | with_reducible refine answered_keeps ?_ ?_ _
    | with_reducible refine Keeps.idState ?_
    | with_reducible refine foldl_keeps ?_ _ (fun s a hs => ?_)
    | (extract_lets +onlyGivenNames x; refine Keeps.cut (x := x) (m := tm) (s0 := z) ?_ ?_; unfold x; clear x; rotate_left; intro hx; clear_value x; rotate_right)
    | (extract_lets +onlyGivenNames x; clear_value x)
    | split

def execContactorTimeout_touch : Nat := 0x1017f97c000000000000000084a00060000006032043000002882008a00a105080000400
theorem execContactorTimeout_keeps {tm : Nat} {z s : State} (hm : Sub execContactorTimeout_touch tm) (hs : Keeps tm z s) (l : Sys2Proof.Lane) :
    KeepsO tm z (execContactorTimeout l s) := by
  delta execContactorTimeout
  repeat' first
    | with_reducible refine KeepsO.next ?_
    | with_reducible refine KeepsO.ite ?_ ?_
    | with_reducible assumption
    | (refine Sub.bit hm ?_; exact rfl)
    | (refine Sub.trans (Sub.of ?_) hm; exact rfl)
    | with_reducible refine Keeps.ite ?_ ?_
    | (refine (?_ : (_ : Bool) = true); exact rfl)
    | with_reducible refine ask_keeps ?_ ?_ _ _ _
    | with_reducible refine refused_keeps ?_ ?_ _ _
    | with_reducible refine settle_keeps ?_ ?_
    | with_reducible refine begin_keeps ?_ ?_
    | with_reducible refine Keeps.idState ?_
    | with_reducible refine foldl_keeps ?_ _ (fun s a hs => ?_)
    | (extract_lets +onlyGivenNames x; refine Keeps.cut (x := x) (m := tm) (s0 := z) ?_ ?_; unfold x; clear x; rotate_left; intro hx; clear_value x; rotate_right)
    | (extract_lets +onlyGivenNames x; clear_value x)
    | split

def execContractAck_touch : Nat := 0x1017f97c000000000000000084a000600000060320430000028820c8a00a105080000400
theorem execContractAck_keeps {tm : Nat} {z s : State} (hm : Sub execContractAck_touch tm) (hs : Keeps tm z s) (l : Sys2Proof.Lane) (f : Sys2Proof.JmlRx) :
    KeepsO tm z (execContractAck l f s) := by
  delta execContractAck
  repeat' first
    | with_reducible refine KeepsO.next ?_
    | with_reducible refine KeepsO.ite ?_ ?_
    | with_reducible assumption
    | (refine Sub.bit hm ?_; exact rfl)
    | (refine Sub.trans (Sub.of ?_) hm; exact rfl)
    | with_reducible refine Keeps.ite ?_ ?_
    | (refine (?_ : (_ : Bool) = true); exact rfl)
    | with_reducible refine wr_keeps ?_ ?_ ?_ _ _
    | with_reducible refine onJml_keeps ?_ ?_ _ _
    | with_reducible refine refused_keeps ?_ ?_ _ _
    | with_reducible refine breaks_keeps ?_ ?_ _ _ _
    | with_reducible refine response_keeps ?_ ?_ _ _ _ _ _ (fun s a0 hs => ?_)
    | with_reducible refine settle_keeps ?_ ?_
    | with_reducible refine answered_keeps ?_ ?_ _
    | with_reducible refine renegotiated_keeps ?_ ?_ _ _
    | with_reducible refine Keeps.idState ?_
    | with_reducible refine foldl_keeps ?_ _ (fun s a hs => ?_)
    | (extract_lets +onlyGivenNames x; refine Keeps.cut (x := x) (m := tm) (s0 := z) ?_ ?_; unfold x; clear x; rotate_left; intro hx; clear_value x; rotate_right)
    | (extract_lets +onlyGivenNames x; clear_value x)
    | split

def execContractBreach_touch : Nat := 0x1017f97c000000000000000084a00060000006032043000002882008a00a105080000400
theorem execContractBreach_keeps {tm : Nat} {z s : State} (hm : Sub execContractBreach_touch tm) (hs : Keeps tm z s) (l : Sys2Proof.Lane) :
    KeepsO tm z (execContractBreach l s) := by
  delta execContractBreach
  repeat' first
    | with_reducible refine KeepsO.next ?_
    | with_reducible refine KeepsO.ite ?_ ?_
    | with_reducible assumption
    | (refine Sub.bit hm ?_; exact rfl)
    | (refine Sub.trans (Sub.of ?_) hm; exact rfl)
    | with_reducible refine Keeps.ite ?_ ?_
    | (refine (?_ : (_ : Bool) = true); exact rfl)
    | with_reducible refine hardReset_keeps ?_ ?_ _ _
    | with_reducible refine breaks_keeps ?_ ?_ _ _ _
    | with_reducible refine settle_keeps ?_ ?_
    | with_reducible refine begin_keeps ?_ ?_
    | with_reducible refine Keeps.idState ?_
    | with_reducible refine foldl_keeps ?_ _ (fun s a hs => ?_)
    | (extract_lets +onlyGivenNames x; refine Keeps.cut (x := x) (m := tm) (s0 := z) ?_ ?_; unfold x; clear x; rotate_left; intro hx; clear_value x; rotate_right)
    | (extract_lets +onlyGivenNames x; clear_value x)
    | split

def execFrameReleased_touch : Nat := 0x497c000000000000000004a000600000000000010000000020000000000000000000
theorem execFrameReleased_keeps {tm : Nat} {z s : State} (hm : Sub execFrameReleased_touch tm) (hs : Keeps tm z s) (l : Sys2Proof.Lane) :
    KeepsO tm z (execFrameReleased l s) := by
  delta execFrameReleased
  repeat' first
    | with_reducible refine KeepsO.next ?_
    | with_reducible refine KeepsO.ite ?_ ?_
    | with_reducible assumption
    | (refine Sub.bit hm ?_; exact rfl)
    | (refine Sub.trans (Sub.of ?_) hm; exact rfl)
    | with_reducible refine Keeps.ite ?_ ?_
    | (refine (?_ : (_ : Bool) = true); exact rfl)
    | with_reducible refine onJml_keeps ?_ ?_ _ _
    | with_reducible refine rolesBack_keeps ?_ ?_ _
    | with_reducible refine begin_keeps ?_ ?_
    | with_reducible refine Keeps.idState ?_
    | with_reducible refine foldl_keeps ?_ _ (fun s a hs => ?_)
    | (extract_lets +onlyGivenNames x; refine Keeps.cut (x := x) (m := tm) (s0 := z) ?_ ?_; unfold x; clear x; rotate_left; intro hx; clear_value x; rotate_right)
    | (extract_lets +onlyGivenNames x; clear_value x)
    | split

def execGraceExpiry_touch : Nat := 0x1017f97c000000000000000084a00060000006032043000002882008a00a105080000400
theorem execGraceExpiry_keeps {tm : Nat} {z s : State} (hm : Sub execGraceExpiry_touch tm) (hs : Keeps tm z s) (l : Sys2Proof.Lane) :
    KeepsO tm z (execGraceExpiry l s) := by
  delta execGraceExpiry
  repeat' first
    | with_reducible refine KeepsO.next ?_
    | with_reducible refine KeepsO.ite ?_ ?_
    | with_reducible assumption
    | (refine Sub.bit hm ?_; exact rfl)
    | (refine Sub.trans (Sub.of ?_) hm; exact rfl)
    | with_reducible refine Keeps.ite ?_ ?_
    | (refine (?_ : (_ : Bool) = true); exact rfl)
    | with_reducible refine hardReset_keeps ?_ ?_ _ _
    | with_reducible refine settle_keeps ?_ ?_
    | with_reducible refine begin_keeps ?_ ?_
    | with_reducible refine Keeps.idState ?_
    | with_reducible refine foldl_keeps ?_ _ (fun s a hs => ?_)
    | (extract_lets +onlyGivenNames x; refine Keeps.cut (x := x) (m := tm) (s0 := z) ?_ ?_; unfold x; clear x; rotate_left; intro hx; clear_value x; rotate_right)
    | (extract_lets +onlyGivenNames x; clear_value x)
    | split

def execHardResetDrive_touch : Nat := 0x40040000000000000000000000600000000000000000000000000000000000000000
theorem execHardResetDrive_keeps {tm : Nat} {z s : State} (hm : Sub execHardResetDrive_touch tm) (hs : Keeps tm z s) (l : Sys2Proof.Lane) :
    KeepsO tm z (execHardResetDrive l s) := by
  delta execHardResetDrive
  repeat' first
    | with_reducible refine KeepsO.next ?_
    | with_reducible refine KeepsO.ite ?_ ?_
    | with_reducible assumption
    | (refine Sub.bit hm ?_; exact rfl)
    | (refine Sub.trans (Sub.of ?_) hm; exact rfl)
    | with_reducible refine Keeps.ite ?_ ?_
    | (refine (?_ : (_ : Bool) = true); exact rfl)
    | with_reducible refine onJml_keeps ?_ ?_ _ _
    | with_reducible refine begin_keeps ?_ ?_
    | with_reducible refine emit_keeps ?_ ?_ _
    | with_reducible refine Keeps.idState ?_
    | with_reducible refine foldl_keeps ?_ _ (fun s a hs => ?_)
    | (extract_lets +onlyGivenNames x; refine Keeps.cut (x := x) (m := tm) (s0 := z) ?_ ?_; unfold x; clear x; rotate_left; intro hx; clear_value x; rotate_right)
    | (extract_lets +onlyGivenNames x; clear_value x)
    | split

def execHardResetRelease_touch : Nat := 0x40040000000000000000000000600000000000000000000000000000000000000000
theorem execHardResetRelease_keeps {tm : Nat} {z s : State} (hm : Sub execHardResetRelease_touch tm) (hs : Keeps tm z s) (l : Sys2Proof.Lane) :
    KeepsO tm z (execHardResetRelease l s) := by
  delta execHardResetRelease
  repeat' first
    | with_reducible refine KeepsO.next ?_
    | with_reducible refine KeepsO.ite ?_ ?_
    | with_reducible assumption
    | (refine Sub.bit hm ?_; exact rfl)
    | (refine Sub.trans (Sub.of ?_) hm; exact rfl)
    | with_reducible refine Keeps.ite ?_ ?_
    | (refine (?_ : (_ : Bool) = true); exact rfl)
    | with_reducible refine onJml_keeps ?_ ?_ _ _
    | with_reducible refine begin_keeps ?_ ?_
    | with_reducible refine emit_keeps ?_ ?_ _
    | with_reducible refine Keeps.idState ?_
    | with_reducible refine foldl_keeps ?_ _ (fun s a hs => ?_)
    | (extract_lets +onlyGivenNames x; refine Keeps.cut (x := x) (m := tm) (s0 := z) ?_ ?_; unfold x; clear x; rotate_left; intro hx; clear_value x; rotate_right)
    | (extract_lets +onlyGivenNames x; clear_value x)
    | split

def execIdAverage_touch : Nat := 0x48040000000000000000000000000000000000010000000020000000000000000000
theorem execIdAverage_keeps {tm : Nat} {z s : State} (hm : Sub execIdAverage_touch tm) (hs : Keeps tm z s) (l : Sys2Proof.Lane) (mv : BitVec 12) :
    KeepsO tm z (execIdAverage l mv s) := by
  delta execIdAverage
  repeat' first
    | with_reducible refine KeepsO.next ?_
    | with_reducible refine KeepsO.ite ?_ ?_
    | with_reducible assumption
    | (refine Sub.bit hm ?_; exact rfl)
    | (refine Sub.trans (Sub.of ?_) hm; exact rfl)
    | with_reducible refine Keeps.ite ?_ ?_
    | (refine (?_ : (_ : Bool) = true); exact rfl)
    | with_reducible refine wr_keeps ?_ ?_ ?_ _ _
    | with_reducible refine onJml_keeps ?_ ?_ _ _
    | with_reducible refine idInvalid_keeps ?_ ?_ _ _
    | with_reducible refine queue_keeps ?_ ?_ _ _
    | with_reducible refine begin_keeps ?_ ?_
    | with_reducible refine Keeps.idState ?_
    | with_reducible refine foldl_keeps ?_ _ (fun s a hs => ?_)
    | (extract_lets +onlyGivenNames x; refine Keeps.cut (x := x) (m := tm) (s0 := z) ?_ ?_; unfold x; clear x; rotate_left; intro hx; clear_value x; rotate_right)
    | (extract_lets +onlyGivenNames x; clear_value x)
    | split

def execIdRestart_touch : Nat := 0x40040000000000000000000000000000000000000000000000000000000000000000
theorem execIdRestart_keeps {tm : Nat} {z s : State} (hm : Sub execIdRestart_touch tm) (hs : Keeps tm z s) (l : Sys2Proof.Lane) :
    KeepsO tm z (execIdRestart l s) := by
  delta execIdRestart
  repeat' first
    | with_reducible refine KeepsO.next ?_
    | with_reducible refine KeepsO.ite ?_ ?_
    | with_reducible assumption
    | (refine Sub.bit hm ?_; exact rfl)
    | (refine Sub.trans (Sub.of ?_) hm; exact rfl)
    | with_reducible refine Keeps.ite ?_ ?_
    | (refine (?_ : (_ : Bool) = true); exact rfl)
    | with_reducible refine onJml_keeps ?_ ?_ _ _
    | with_reducible refine begin_keeps ?_ ?_
    | with_reducible refine Keeps.idState ?_
    | with_reducible refine foldl_keeps ?_ _ (fun s a hs => ?_)
    | (extract_lets +onlyGivenNames x; refine Keeps.cut (x := x) (m := tm) (s0 := z) ?_ ?_; unfold x; clear x; rotate_left; intro hx; clear_value x; rotate_right)
    | (extract_lets +onlyGivenNames x; clear_value x)
    | split

def execIdleGuard_touch : Nat := 0x40040000000000000000000000600000000000000000000000000000000000000000
theorem execIdleGuard_keeps {tm : Nat} {z s : State} (hm : Sub execIdleGuard_touch tm) (hs : Keeps tm z s) (l : Sys2Proof.Lane) :
    KeepsO tm z (execIdleGuard l s) := by
  delta execIdleGuard
  repeat' first
    | with_reducible refine KeepsO.next ?_
    | with_reducible refine KeepsO.ite ?_ ?_
    | with_reducible assumption
    | (refine Sub.bit hm ?_; exact rfl)
    | (refine Sub.trans (Sub.of ?_) hm; exact rfl)
    | with_reducible refine Keeps.ite ?_ ?_
    | (refine (?_ : (_ : Bool) = true); exact rfl)
    | with_reducible refine onJml_keeps ?_ ?_ _ _
    | with_reducible refine begin_keeps ?_ ?_
    | with_reducible refine emit_keeps ?_ ?_ _
    | with_reducible refine Keeps.idState ?_
    | with_reducible refine foldl_keeps ?_ _ (fun s a hs => ?_)
    | (extract_lets +onlyGivenNames x; refine Keeps.cut (x := x) (m := tm) (s0 := z) ?_ ?_; unfold x; clear x; rotate_left; intro hx; clear_value x; rotate_right)
    | (extract_lets +onlyGivenNames x; clear_value x)
    | split

def execKaDev_touch : Nat := 0x40040000000000000000000000000000000000000000000000000000000000000000
theorem execKaDev_keeps {tm : Nat} {z s : State} (hm : Sub execKaDev_touch tm) (hs : Keeps tm z s) (l : Sys2Proof.Lane) :
    KeepsO tm z (execKaDev l s) := by
  delta execKaDev
  repeat' first
    | with_reducible refine KeepsO.next ?_
    | with_reducible refine KeepsO.ite ?_ ?_
    | with_reducible assumption
    | (refine Sub.bit hm ?_; exact rfl)
    | (refine Sub.trans (Sub.of ?_) hm; exact rfl)
    | with_reducible refine Keeps.ite ?_ ?_
    | (refine (?_ : (_ : Bool) = true); exact rfl)
    | with_reducible refine ask_keeps ?_ ?_ _ _ _
    | with_reducible refine begin_keeps ?_ ?_
    | with_reducible refine Keeps.idState ?_
    | with_reducible refine foldl_keeps ?_ _ (fun s a hs => ?_)
    | (extract_lets +onlyGivenNames x; refine Keeps.cut (x := x) (m := tm) (s0 := z) ?_ ?_; unfold x; clear x; rotate_left; intro hx; clear_value x; rotate_right)
    | (extract_lets +onlyGivenNames x; clear_value x)
    | split

def execKaMod_touch : Nat := 0x1017f97c000000000000000084a000600000060320430000028820c8a00a105080000400
theorem execKaMod_keeps {tm : Nat} {z s : State} (hm : Sub execKaMod_touch tm) (hs : Keeps tm z s) (l : Sys2Proof.Lane) (f : Sys2Proof.JmlRx) :
    KeepsO tm z (execKaMod l f s) := by
  delta execKaMod
  repeat' first
    | with_reducible refine KeepsO.next ?_
    | with_reducible refine KeepsO.ite ?_ ?_
    | with_reducible assumption
    | (refine Sub.bit hm ?_; exact rfl)
    | (refine Sub.trans (Sub.of ?_) hm; exact rfl)
    | with_reducible refine Keeps.ite ?_ ?_
    | (refine (?_ : (_ : Bool) = true); exact rfl)
    | with_reducible refine reply_keeps ?_ ?_ _ _ _ _
    | with_reducible refine onJml_keeps ?_ ?_ _ _
    | with_reducible refine breaks_keeps ?_ ?_ _ _ _
    | with_reducible refine response_keeps ?_ ?_ _ _ _ _ _ (fun s a0 hs => ?_)
    | with_reducible refine settle_keeps ?_ ?_
    | with_reducible refine answered_keeps ?_ ?_ _
    | with_reducible refine request_keeps ?_ ?_ _ _ _ _ (fun s a0 hs => ?_)
    | with_reducible refine failed_keeps ?_ ?_ _
    | with_reducible refine recordIn_keeps ?_ ?_ _ _ _
    | with_reducible refine Keeps.idState ?_
    | with_reducible refine foldl_keeps ?_ _ (fun s a hs => ?_)
    | (extract_lets +onlyGivenNames x; refine Keeps.cut (x := x) (m := tm) (s0 := z) ?_ ?_; unfold x; clear x; rotate_left; intro hx; clear_value x; rotate_right)
    | (extract_lets +onlyGivenNames x; clear_value x)
    | split
    | dsimp only

def execLinkData_touch : Nat := 0x497c000000000000000004a000600000000000010000000020008000000000000000
theorem execLinkData_keeps {tm : Nat} {z s : State} (hm : Sub execLinkData_touch tm) (hs : Keeps tm z s) (l : Sys2Proof.Lane) (f : Sys2Proof.JmlRx) :
    KeepsO tm z (execLinkData l f s) := by
  delta execLinkData
  repeat' first
    | with_reducible refine KeepsO.next ?_
    | with_reducible refine KeepsO.ite ?_ ?_
    | with_reducible assumption
    | (refine Sub.bit hm ?_; exact rfl)
    | (refine Sub.trans (Sub.of ?_) hm; exact rfl)
    | with_reducible refine Keeps.ite ?_ ?_
    | (refine (?_ : (_ : Bool) = true); exact rfl)
    | with_reducible refine breaks_keeps ?_ ?_ _ _ _
    | with_reducible refine response_keeps ?_ ?_ _ _ _ _ _ (fun s a0 hs => ?_)
    | with_reducible refine finish_keeps ?_ ?_ _ _ _
    | with_reducible refine answered_keeps ?_ ?_ _
    | with_reducible refine failed_keeps ?_ ?_ _
    | with_reducible refine writeBuf_keeps ?_ ?_ _ _
    | with_reducible refine Keeps.idState ?_
    | with_reducible refine foldl_keeps ?_ _ (fun s a hs => ?_)
    | (extract_lets +onlyGivenNames x; refine Keeps.cut (x := x) (m := tm) (s0 := z) ?_ ?_; unfold x; clear x; rotate_left; intro hx; clear_value x; rotate_right)
    | (extract_lets +onlyGivenNames x; clear_value x)
    | split

def execLinkRenegotiate_touch : Nat := 0x49fc000000000000000004a000600000000000010000000000000000000000000000
theorem execLinkRenegotiate_keeps {tm : Nat} {z s : State} (hm : Sub execLinkRenegotiate_touch tm) (hs : Keeps tm z s) (h : Sys2Proof.CmdHdr) :
    KeepsO tm z (execLinkRenegotiate h s) := by
  delta execLinkRenegotiate
  repeat' first
    | with_reducible refine KeepsO.next ?_
    | with_reducible refine KeepsO.ite ?_ ?_
    | with_reducible assumption
    | (refine Sub.bit hm ?_; exact rfl)
    | (refine Sub.trans (Sub.of ?_) hm; exact rfl)
    | with_reducible refine Keeps.ite ?_ ?_
    | (refine (?_ : (_ : Bool) = true); exact rfl)
    | with_reducible refine onJml_keeps ?_ ?_ _ _
    | with_reducible refine ask_keeps ?_ ?_ _ _ _
    | with_reducible refine complete_keeps ?_ ?_ _ _ _
    | with_reducible refine dispatch_keeps ?_ ?_ _ _ _ (fun s a0 hs => ?_)
    | with_reducible refine queue_keeps ?_ ?_ _ _
    | with_reducible refine hold_keeps ?_ ?_ _ _
    | with_reducible refine softReset_keeps ?_ ?_ _ _
    | with_reducible refine Keeps.idState ?_
    | with_reducible refine foldl_keeps ?_ _ (fun s a hs => ?_)
    | (extract_lets +onlyGivenNames x; refine Keeps.cut (x := x) (m := tm) (s0 := z) ?_ ?_; unfold x; clear x; rotate_left; intro hx; clear_value x; rotate_right)
    | (extract_lets +onlyGivenNames x; clear_value x)
    | split

def execLinkRoleSwap_touch : Nat := 0x49fc000000000000000004a000600000000000010000000000000000000000000000
theorem execLinkRoleSwap_keeps {tm : Nat} {z s : State} (hm : Sub execLinkRoleSwap_touch tm) (hs : Keeps tm z s) (h : Sys2Proof.CmdHdr) (dir : Sys2Proof.Byte) :
    KeepsO tm z (execLinkRoleSwap h dir s) := by
  delta execLinkRoleSwap
  repeat' first
    | with_reducible refine KeepsO.next ?_
    | with_reducible refine KeepsO.ite ?_ ?_
    | with_reducible assumption
    | (refine Sub.bit hm ?_; exact rfl)
    | (refine Sub.trans (Sub.of ?_) hm; exact rfl)
    | with_reducible refine Keeps.ite ?_ ?_
    | (refine (?_ : (_ : Bool) = true); exact rfl)
    | with_reducible refine ask_keeps ?_ ?_ _ _ _
    | with_reducible refine complete_keeps ?_ ?_ _ _ _
    | with_reducible refine dispatch_keeps ?_ ?_ _ _ _ (fun s a0 hs => ?_)
    | with_reducible refine hold_keeps ?_ ?_ _ _
    | with_reducible refine softReset_keeps ?_ ?_ _ _
    | with_reducible refine Keeps.idState ?_
    | with_reducible refine foldl_keeps ?_ _ (fun s a hs => ?_)
    | (extract_lets +onlyGivenNames x; refine Keeps.cut (x := x) (m := tm) (s0 := z) ?_ ?_; unfold x; clear x; rotate_left; intro hx; clear_value x; rotate_right)
    | (extract_lets +onlyGivenNames x; clear_value x)
    | split

def execLinkSend_touch : Nat := 0x49fc000000000000000004a000600000000000010000000000000000000000000000
theorem execLinkSend_keeps {tm : Nat} {z s : State} (hm : Sub execLinkSend_touch tm) (hs : Keeps tm z s) (h : Sys2Proof.CmdHdr) (chan : Sys2Proof.Byte) (len : Sys2Proof.Byte) (data : Vector Sys2Proof.Byte 32) :
    KeepsO tm z (execLinkSend h chan len data s) := by
  delta execLinkSend
  repeat' first
    | with_reducible refine KeepsO.next ?_
    | with_reducible refine KeepsO.ite ?_ ?_
    | with_reducible assumption
    | (refine Sub.bit hm ?_; exact rfl)
    | (refine Sub.trans (Sub.of ?_) hm; exact rfl)
    | with_reducible refine Keeps.ite ?_ ?_
    | (refine (?_ : (_ : Bool) = true); exact rfl)
    | with_reducible refine ask_keeps ?_ ?_ _ _ _
    | with_reducible refine complete_keeps ?_ ?_ _ _ _
    | with_reducible refine dispatch_keeps ?_ ?_ _ _ _ (fun s a0 hs => ?_)
    | with_reducible refine hold_keeps ?_ ?_ _ _
    | with_reducible refine Keeps.idState ?_
    | with_reducible refine foldl_keeps ?_ _ (fun s a hs => ?_)
    | (extract_lets +onlyGivenNames x; refine Keeps.cut (x := x) (m := tm) (s0 := z) ?_ ?_; unfold x; clear x; rotate_left; intro hx; clear_value x; rotate_right)
    | (extract_lets +onlyGivenNames x; clear_value x)
    | split

def execNak_touch : Nat := 0x1017f97c000000000000000084a00060000006032043000002882008a00a105080000400
theorem execNak_keeps {tm : Nat} {z s : State} (hm : Sub execNak_touch tm) (hs : Keeps tm z s) (l : Sys2Proof.Lane) (f : Sys2Proof.JmlRx) :
    KeepsO tm z (execNak l f s) := by
  delta execNak
  repeat' first
    | with_reducible refine KeepsO.next ?_
    | with_reducible refine KeepsO.ite ?_ ?_
    | with_reducible assumption
    | (refine Sub.bit hm ?_; exact rfl)
    | (refine Sub.trans (Sub.of ?_) hm; exact rfl)
    | with_reducible refine Keeps.ite ?_ ?_
    | (refine (?_ : (_ : Bool) = true); exact rfl)
    | with_reducible refine refused_keeps ?_ ?_ _ _
    | with_reducible refine response_keeps ?_ ?_ _ _ _ _ _ (fun s a0 hs => ?_)
    | with_reducible refine settle_keeps ?_ ?_
    | with_reducible refine finish_keeps ?_ ?_ _ _ _
    | with_reducible refine answered_keeps ?_ ?_ _
    | with_reducible refine failed_keeps ?_ ?_ _
    | with_reducible refine Keeps.idState ?_
    | with_reducible refine foldl_keeps ?_ _ (fun s a hs => ?_)
    | (extract_lets +onlyGivenNames x; refine Keeps.cut (x := x) (m := tm) (s0 := z) ?_ ?_; unfold x; clear x; rotate_left; intro hx; clear_value x; rotate_right)
    | (extract_lets +onlyGivenNames x; clear_value x)
    | split

def execPilotNoise_touch : Nat := 0x8040000000000000000000000000000000000010000000020000000000000000000
theorem execPilotNoise_keeps {tm : Nat} {z s : State} (hm : Sub execPilotNoise_touch tm) (hs : Keeps tm z s) (l : Sys2Proof.Lane) :
    KeepsO tm z (execPilotNoise l s) := by
  delta execPilotNoise
  repeat' first
    | with_reducible refine KeepsO.next ?_
    | with_reducible refine KeepsO.ite ?_ ?_
    | with_reducible assumption
    | (refine Sub.bit hm ?_; exact rfl)
    | (refine Sub.trans (Sub.of ?_) hm; exact rfl)
    | with_reducible refine Keeps.ite ?_ ?_
    | (refine (?_ : (_ : Bool) = true); exact rfl)
    | with_reducible refine breaks_keeps ?_ ?_ _ _ _
    | with_reducible refine begin_keeps ?_ ?_
    | with_reducible refine Keeps.idState ?_
    | with_reducible refine foldl_keeps ?_ _ (fun s a hs => ?_)
    | (extract_lets +onlyGivenNames x; refine Keeps.cut (x := x) (m := tm) (s0 := z) ?_ ?_; unfold x; clear x; rotate_left; intro hx; clear_value x; rotate_right)
    | (extract_lets +onlyGivenNames x; clear_value x)
    | split

def execPilotTrunc_touch : Nat := 0x1017f97c000000000000000084a00060000006032043000002882008a00a105080000400
theorem execPilotTrunc_keeps {tm : Nat} {z s : State} (hm : Sub execPilotTrunc_touch tm) (hs : Keeps tm z s) (l : Sys2Proof.Lane) :
    KeepsO tm z (execPilotTrunc l s) := by
  delta execPilotTrunc
  repeat' first
    | with_reducible refine KeepsO.next ?_
    | with_reducible refine KeepsO.ite ?_ ?_
    | with_reducible assumption
    | (refine Sub.bit hm ?_; exact rfl)
    | (refine Sub.trans (Sub.of ?_) hm; exact rfl)
    | with_reducible refine Keeps.ite ?_ ?_
    | (refine (?_ : (_ : Bool) = true); exact rfl)
    | with_reducible refine breaks_keeps ?_ ?_ _ _ _
    | with_reducible refine settle_keeps ?_ ?_
    | with_reducible refine failed_keeps ?_ ?_ _
    | with_reducible refine begin_keeps ?_ ?_
    | with_reducible refine Keeps.idState ?_
    | with_reducible refine foldl_keeps ?_ _ (fun s a hs => ?_)
    | (extract_lets +onlyGivenNames x; refine Keeps.cut (x := x) (m := tm) (s0 := z) ?_ ?_; unfold x; clear x; rotate_left; intro hx; clear_value x; rotate_right)
    | (extract_lets +onlyGivenNames x; clear_value x)
    | split

def execPreambleStart_touch : Nat := 0x40040000000000000000000000000000000000000000000000000000000000000000
theorem execPreambleStart_keeps {tm : Nat} {z s : State} (hm : Sub execPreambleStart_touch tm) (hs : Keeps tm z s) (l : Sys2Proof.Lane) :
    KeepsO tm z (execPreambleStart l s) := by
  delta execPreambleStart
  repeat' first
    | with_reducible refine KeepsO.next ?_
    | with_reducible refine KeepsO.ite ?_ ?_
    | with_reducible assumption
    | (refine Sub.bit hm ?_; exact rfl)
    | (refine Sub.trans (Sub.of ?_) hm; exact rfl)
    | with_reducible refine Keeps.ite ?_ ?_
    | (refine (?_ : (_ : Bool) = true); exact rfl)
    | with_reducible refine onJml_keeps ?_ ?_ _ _
    | with_reducible refine begin_keeps ?_ ?_
    | with_reducible refine Keeps.idState ?_
    | with_reducible refine foldl_keeps ?_ _ (fun s a hs => ?_)
    | (extract_lets +onlyGivenNames x; refine Keeps.cut (x := x) (m := tm) (s0 := z) ?_ ?_; unfold x; clear x; rotate_left; intro hx; clear_value x; rotate_right)
    | (extract_lets +onlyGivenNames x; clear_value x)
    | split

def execPresenceTimeout_touch : Nat := 0x1017f97c000000000000000084a00060000006032043000002882008a00a105080000400
theorem execPresenceTimeout_keeps {tm : Nat} {z s : State} (hm : Sub execPresenceTimeout_touch tm) (hs : Keeps tm z s) (l : Sys2Proof.Lane) :
    KeepsO tm z (execPresenceTimeout l s) := by
  delta execPresenceTimeout
  repeat' first
    | with_reducible refine KeepsO.next ?_
    | with_reducible refine KeepsO.ite ?_ ?_
    | with_reducible assumption
    | (refine Sub.bit hm ?_; exact rfl)
    | (refine Sub.trans (Sub.of ?_) hm; exact rfl)
    | with_reducible refine Keeps.ite ?_ ?_
    | (refine (?_ : (_ : Bool) = true); exact rfl)
    | with_reducible refine hardFails_keeps ?_ ?_ _ _
    | with_reducible refine settle_keeps ?_ ?_
    | with_reducible refine begin_keeps ?_ ?_
    | with_reducible refine Keeps.idState ?_
    | with_reducible refine foldl_keeps ?_ _ (fun s a hs => ?_)
    | (extract_lets +onlyGivenNames x; refine Keeps.cut (x := x) (m := tm) (s0 := z) ?_ ?_; unfold x; clear x; rotate_left; intro hx; clear_value x; rotate_right)
    | (extract_lets +onlyGivenNames x; clear_value x)
    | split

def execResponseTimeout_touch : Nat := 0x1017f97c000000000000000084a00060000006032043000002882008a00a105080000400
theorem execResponseTimeout_keeps {tm : Nat} {z s : State} (hm : Sub execResponseTimeout_touch tm) (hs : Keeps tm z s) (l : Sys2Proof.Lane) :
    KeepsO tm z (execResponseTimeout l s) := by
  delta execResponseTimeout
  repeat' first
    | with_reducible refine KeepsO.next ?_
    | with_reducible refine KeepsO.ite ?_ ?_
    | with_reducible assumption
    | (refine Sub.bit hm ?_; exact rfl)
    | (refine Sub.trans (Sub.of ?_) hm; exact rfl)
    | with_reducible refine Keeps.ite ?_ ?_
    | (refine (?_ : (_ : Bool) = true); exact rfl)
    | with_reducible refine settle_keeps ?_ ?_
    | with_reducible refine failed_keeps ?_ ?_ _
    | with_reducible refine begin_keeps ?_ ?_
    | with_reducible refine Keeps.idState ?_
    | with_reducible refine foldl_keeps ?_ _ (fun s a hs => ?_)
    | (extract_lets +onlyGivenNames x; refine Keeps.cut (x := x) (m := tm) (s0 := z) ?_ ?_; unfold x; clear x; rotate_left; intro hx; clear_value x; rotate_right)
    | (extract_lets +onlyGivenNames x; clear_value x)
    | split

def execSwapAck_touch : Nat := 0x497c000000000000000004a000600000000000010000000020008000000000000000
theorem execSwapAck_keeps {tm : Nat} {z s : State} (hm : Sub execSwapAck_touch tm) (hs : Keeps tm z s) (l : Sys2Proof.Lane) (f : Sys2Proof.JmlRx) :
    KeepsO tm z (execSwapAck l f s) := by
  delta execSwapAck
  repeat' first
    | with_reducible refine KeepsO.next ?_
    | with_reducible refine KeepsO.ite ?_ ?_
    | with_reducible assumption
    | (refine Sub.bit hm ?_; exact rfl)
    | (refine Sub.trans (Sub.of ?_) hm; exact rfl)
    | with_reducible refine Keeps.ite ?_ ?_
    | (refine (?_ : (_ : Bool) = true); exact rfl)
    | with_reducible refine put_keeps ?_ ?_ ?_ _ _
    | with_reducible refine onJml_keeps ?_ ?_ _ _
    | with_reducible refine breaks_keeps ?_ ?_ _ _ _
    | with_reducible refine response_keeps ?_ ?_ _ _ _ _ _ (fun s a0 hs => ?_)
    | with_reducible refine record_keeps ?_ ?_ _ _ _ _
    | with_reducible refine finish_keeps ?_ ?_ _ _ _
    | with_reducible refine answered_keeps ?_ ?_ _
    | with_reducible refine failed_keeps ?_ ?_ _
    | with_reducible refine Keeps.idState ?_
    | with_reducible refine foldl_keeps ?_ _ (fun s a hs => ?_)
    | (extract_lets +onlyGivenNames x; refine Keeps.cut (x := x) (m := tm) (s0 := z) ?_ ?_; unfold x; clear x; rotate_left; intro hx; clear_value x; rotate_right)
    | (extract_lets +onlyGivenNames x; clear_value x)
    | split

def execSwapReq_touch : Nat := 0x48040000000000000000000000000000000000010000000020000000000000000000
theorem execSwapReq_keeps {tm : Nat} {z s : State} (hm : Sub execSwapReq_touch tm) (hs : Keeps tm z s) (l : Sys2Proof.Lane) (f : Sys2Proof.JmlRx) :
    KeepsO tm z (execSwapReq l f s) := by
  delta execSwapReq
  repeat' first
    | with_reducible refine KeepsO.next ?_
    | with_reducible refine KeepsO.ite ?_ ?_
    | with_reducible assumption
    | (refine Sub.bit hm ?_; exact rfl)
    | (refine Sub.trans (Sub.of ?_) hm; exact rfl)
    | with_reducible refine Keeps.ite ?_ ?_
    | (refine (?_ : (_ : Bool) = true); exact rfl)
    | with_reducible refine notAllowed_keeps ?_ ?_ _ _ _
    | with_reducible refine reply_keeps ?_ ?_ _ _ _ _
    | with_reducible refine breaks_keeps ?_ ?_ _ _ _
    | with_reducible refine heard_keeps ?_ ?_ _ _ (fun s hs => ?_)
    | with_reducible refine request_keeps ?_ ?_ _ _ _ _ (fun s a0 hs => ?_)
    | with_reducible refine Keeps.idState ?_
    | with_reducible refine foldl_keeps ?_ _ (fun s a hs => ?_)
    | (extract_lets +onlyGivenNames x; refine Keeps.cut (x := x) (m := tm) (s0 := z) ?_ ?_; unfold x; clear x; rotate_left; intro hx; clear_value x; rotate_right)
    | (extract_lets +onlyGivenNames x; clear_value x)
    | split

def execSwapTimeout_touch : Nat := 0x1017f97c000000000000000084a00060000006032043000002882008a00a105080000400
theorem execSwapTimeout_keeps {tm : Nat} {z s : State} (hm : Sub execSwapTimeout_touch tm) (hs : Keeps tm z s) (l : Sys2Proof.Lane) :
    KeepsO tm z (execSwapTimeout l s) := by
  delta execSwapTimeout
  repeat' first
    | with_reducible refine KeepsO.next ?_
    | with_reducible refine KeepsO.ite ?_ ?_
    | with_reducible assumption
    | (refine Sub.bit hm ?_; exact rfl)
    | (refine Sub.trans (Sub.of ?_) hm; exact rfl)
    | with_reducible refine Keeps.ite ?_ ?_
    | (refine (?_ : (_ : Bool) = true); exact rfl)
    | with_reducible refine settle_keeps ?_ ?_
    | with_reducible refine begin_keeps ?_ ?_
    | with_reducible refine softReset_keeps ?_ ?_ _ _
    | with_reducible refine Keeps.idState ?_
    | with_reducible refine foldl_keeps ?_ _ (fun s a hs => ?_)
    | (extract_lets +onlyGivenNames x; refine Keeps.cut (x := x) (m := tm) (s0 := z) ?_ ?_; unfold x; clear x; rotate_left; intro hx; clear_value x; rotate_right)
    | (extract_lets +onlyGivenNames x; clear_value x)
    | split

def execUnknownType_touch : Nat := 0x1017f97c000000000000000084a00060000006032043000002882008a00a105080000400
theorem execUnknownType_keeps {tm : Nat} {z s : State} (hm : Sub execUnknownType_touch tm) (hs : Keeps tm z s) (l : Sys2Proof.Lane) (type : Sys2Proof.Byte) (f : Sys2Proof.JmlRx) :
    KeepsO tm z (execUnknownType l type f s) := by
  delta execUnknownType
  repeat' first
    | with_reducible refine KeepsO.next ?_
    | with_reducible refine KeepsO.ite ?_ ?_
    | with_reducible assumption
    | (refine Sub.bit hm ?_; exact rfl)
    | (refine Sub.trans (Sub.of ?_) hm; exact rfl)
    | with_reducible refine Keeps.ite ?_ ?_
    | (refine (?_ : (_ : Bool) = true); exact rfl)
    | with_reducible refine notAllowed_keeps ?_ ?_ _ _ _
    | with_reducible refine unsolicited_keeps ?_ ?_ _ _
    | with_reducible refine reply_keeps ?_ ?_ _ _ _ _
    | with_reducible refine breaks_keeps ?_ ?_ _ _ _
    | with_reducible refine heard_keeps ?_ ?_ _ _ (fun s hs => ?_)
    | with_reducible refine settle_keeps ?_ ?_
    | with_reducible refine failed_keeps ?_ ?_ _
    | with_reducible refine Keeps.idState ?_
    | with_reducible refine foldl_keeps ?_ _ (fun s a hs => ?_)
    | (extract_lets +onlyGivenNames x; refine Keeps.cut (x := x) (m := tm) (s0 := z) ?_ ?_; unfold x; clear x; rotate_left; intro hx; clear_value x; rotate_right)
    | (extract_lets +onlyGivenNames x; clear_value x)
    | split

end Sys2Proof.Machine
end

