-- ==== Sys2Proof/Laws/KeepsLoops.lean ====
section
/-!
SUPPORT. Sys2Proof/Laws/KeepsLoops.lean: what each function of Machine/Loops.lean may change: its touch set, and one lemma per function.
-/
namespace Sys2Proof.Machine

open Sys2Proof

def applyCoefs_touch : Nat := 0x48000000000000000000000000000000000000010000000000000000000020000000
theorem applyCoefs_keeps {tm : Nat} {z s : State} (hm : Sub applyCoefs_touch tm) (hs : Keeps tm z s) (l : Nat) :
    Keeps tm z (State.applyCoefs s l) := by
  delta State.applyCoefs
  repeat' first
    | with_reducible assumption
    | (refine Sub.bit hm ?_; exact rfl)
    | (refine Sub.trans (Sub.of ?_) hm; exact rfl)
    | with_reducible refine Keeps.ite ?_ ?_
    | (refine (?_ : (_ : Bool) = true); exact rfl)
    | with_reducible refine put_keeps ?_ ?_ ?_ _ _
    | with_reducible refine record_keeps ?_ ?_ _ _ _ _
    | with_reducible refine onLane_keeps ?_ ?_ _ _
    | with_reducible refine Keeps.idState ?_
    | with_reducible refine foldl_keeps ?_ _ (fun s a hs => ?_)
    | (extract_lets +onlyGivenNames x; refine Keeps.cut (x := x) (m := tm) (s0 := z) ?_ ?_; unfold x; clear x; rotate_left; intro hx; clear_value x; rotate_right)
    | (extract_lets +onlyGivenNames x; clear_value x)
    | split

def putRefs_touch : Nat := 0x80000000000000000000000000000000000000000000000000000000000000000000
theorem putRefs_keeps {tm : Nat} {z s : State} (hm : Sub putRefs_touch tm) (hs : Keeps tm z s) (ps : List (Nat × Int)) :
    Keeps tm z (State.putRefs s ps) := by
  induction ps generalizing s with
  | nil => exact hs
  | cons p ps ih => exact ih (onPh_keeps (Sub.trans (Sub.of rfl) hm) hs _ _)

def formGains_touch : Nat := 0x80000000000000000000000000000000000000000000000000000000000000000000
theorem formGains_keeps {tm : Nat} {z s : State} (hm : Sub formGains_touch tm) (hs : Keeps tm z s) (l : Nat) :
    Keeps tm z (State.formGains s l) := by
  delta State.formGains
  repeat' first
    | with_reducible assumption
    | (refine Sub.bit hm ?_; exact rfl)
    | (refine Sub.trans (Sub.of ?_) hm; exact rfl)
    | with_reducible refine Keeps.ite ?_ ?_
    | (refine (?_ : (_ : Bool) = true); exact rfl)
    | with_reducible refine forEach_keeps ?_ _ (fun s a hs => ?_)
    | with_reducible refine onPh_keeps ?_ ?_ _ _
    | with_reducible refine Keeps.idState ?_
    | with_reducible refine foldl_keeps ?_ _ (fun s a hs => ?_)
    | (extract_lets +onlyGivenNames x; refine Keeps.cut (x := x) (m := tm) (s0 := z) ?_ ?_; unfold x; clear x; rotate_left; intro hx; clear_value x; rotate_right)
    | (extract_lets +onlyGivenNames x; clear_value x)
    | split

def isnSample_touch : Nat := 0x88000000000000000000000000000000000000010000000000000000000000000000
theorem isnSample_keeps {tm : Nat} {z s : State} (hm : Sub isnSample_touch tm) (hs : Keeps tm z s) (p : Nat) (c : Int) (i : Int) :
    Keeps tm z (State.isnSample s p c i) := by
  delta State.isnSample
  repeat' first
    | with_reducible assumption
    | (refine Sub.bit hm ?_; exact rfl)
    | (refine Sub.trans (Sub.of ?_) hm; exact rfl)
    | with_reducible refine Keeps.ite ?_ ?_
    | (refine (?_ : (_ : Bool) = true); exact rfl)
    | with_reducible refine record_keeps ?_ ?_ _ _ _ _
    | with_reducible refine onPh_keeps ?_ ?_ _ _
    | with_reducible refine Keeps.idState ?_
    | with_reducible refine foldl_keeps ?_ _ (fun s a hs => ?_)
    | (extract_lets +onlyGivenNames x; refine Keeps.cut (x := x) (m := tm) (s0 := z) ?_ ?_; unfold x; clear x; rotate_left; intro hx; clear_value x; rotate_right)
    | (extract_lets +onlyGivenNames x; clear_value x)
    | split

def writeCoefData_touch : Nat := 0x40000000000000000000000000000000000000000000000000000000000000000000
theorem writeCoefData_keeps {tm : Nat} {z s : State} (hm : Sub writeCoefData_touch tm) (hs : Keeps tm z s) (l : Nat) (w : Nat) :
    Keeps tm z (State.writeCoefData s l w) := by
  delta State.writeCoefData
  repeat' first
    | with_reducible assumption
    | (refine Sub.bit hm ?_; exact rfl)
    | (refine Sub.trans (Sub.of ?_) hm; exact rfl)
    | with_reducible refine Keeps.ite ?_ ?_
    | (refine (?_ : (_ : Bool) = true); exact rfl)
    | with_reducible refine onLane_keeps ?_ ?_ _ _
    | with_reducible refine Keeps.idState ?_
    | with_reducible refine foldl_keeps ?_ _ (fun s a hs => ?_)
    | (extract_lets +onlyGivenNames x; refine Keeps.cut (x := x) (m := tm) (s0 := z) ?_ ?_; unfold x; clear x; rotate_left; intro hx; clear_value x; rotate_right)
    | (extract_lets +onlyGivenNames x; clear_value x)
    | split

def writeCoefSel_touch : Nat := 0x48000000000000000000000000000000000000010000000000000000000020000000
theorem writeCoefSel_keeps {tm : Nat} {z s : State} (hm : Sub writeCoefSel_touch tm) (hs : Keeps tm z s) (l : Nat) (w : Nat) :
    Keeps tm z (State.writeCoefSel s l w) := by
  delta State.writeCoefSel
  repeat' first
    | with_reducible assumption
    | (refine Sub.bit hm ?_; exact rfl)
    | (refine Sub.trans (Sub.of ?_) hm; exact rfl)
    | with_reducible refine Keeps.ite ?_ ?_
    | (refine (?_ : (_ : Bool) = true); exact rfl)
    | with_reducible refine put_keeps ?_ ?_ ?_ _ _
    | with_reducible refine record_keeps ?_ ?_ _ _ _ _
    | with_reducible refine plainWrite_keeps ?_ ?_ _ _ _ ?_
    | with_reducible refine onLane_keeps ?_ ?_ _ _
    | with_reducible refine Keeps.idState ?_
    | with_reducible refine foldl_keeps ?_ _ (fun s a hs => ?_)
    | (extract_lets +onlyGivenNames x; refine Keeps.cut (x := x) (m := tm) (s0 := z) ?_ ?_; unfold x; clear x; rotate_left; intro hx; clear_value x; rotate_right)
    | (extract_lets +onlyGivenNames x; clear_value x)
    | split

def writeBusCoefData_touch : Nat := 0x200000000000000000000000000000000000000000000000000000000000000000000
theorem writeBusCoefData_keeps {tm : Nat} {z s : State} (hm : Sub writeBusCoefData_touch tm) (hs : Keeps tm z s) (w : Nat) :
    Keeps tm z (State.writeBusCoefData s w) := by
  delta State.writeBusCoefData
  repeat' first
    | with_reducible assumption
    | (refine Sub.bit hm ?_; exact rfl)
    | (refine Sub.trans (Sub.of ?_) hm; exact rfl)
    | with_reducible refine Keeps.ite ?_ ?_
    | (refine (?_ : (_ : Bool) = true); exact rfl)
    | with_reducible refine onSeg_keeps ?_ ?_ _ _
    | with_reducible refine Keeps.idState ?_
    | with_reducible refine foldl_keeps ?_ _ (fun s a hs => ?_)
    | (extract_lets +onlyGivenNames x; refine Keeps.cut (x := x) (m := tm) (s0 := z) ?_ ?_; unfold x; clear x; rotate_left; intro hx; clear_value x; rotate_right)
    | (extract_lets +onlyGivenNames x; clear_value x)
    | split

def writeBusCoefSel_touch : Nat := 0x200000000000000000000000000000000000000000000000000000000000400000000
theorem writeBusCoefSel_keeps {tm : Nat} {z s : State} (hm : Sub writeBusCoefSel_touch tm) (hs : Keeps tm z s) (w : Nat) :
    Keeps tm z (State.writeBusCoefSel s w) := by
  delta State.writeBusCoefSel
  repeat' first
    | with_reducible assumption
    | (refine Sub.bit hm ?_; exact rfl)
    | (refine Sub.trans (Sub.of ?_) hm; exact rfl)
    | with_reducible refine Keeps.ite ?_ ?_
    | (refine (?_ : (_ : Bool) = true); exact rfl)
    | with_reducible refine put_keeps ?_ ?_ ?_ _ _
    | with_reducible refine plainWrite_keeps ?_ ?_ _ _ _ ?_
    | with_reducible refine onSeg_keeps ?_ ?_ _ _
    | with_reducible refine Keeps.idState ?_
    | with_reducible refine foldl_keeps ?_ _ (fun s a hs => ?_)
    | (extract_lets +onlyGivenNames x; refine Keeps.cut (x := x) (m := tm) (s0 := z) ?_ ?_; unfold x; clear x; rotate_left; intro hx; clear_value x; rotate_right)
    | (extract_lets +onlyGivenNames x; clear_value x)
    | split

def phaseLoop_touch : Nat := 0x88000000000000000000000000000000000000010000000000000000000082000000
theorem phaseLoop_keeps {tm : Nat} {z s : State} (hm : Sub phaseLoop_touch tm) (hs : Keeps tm z s) (l : Nat) (p : Nat) (i : Int) :
    Keeps tm z (State.phaseLoop s l p i) := by
  delta State.phaseLoop
  repeat' first
    | with_reducible assumption
    | (refine Sub.bit hm ?_; exact rfl)
    | (refine Sub.trans (Sub.of ?_) hm; exact rfl)
    | with_reducible refine Keeps.ite ?_ ?_
    | (refine (?_ : (_ : Bool) = true); exact rfl)
    | with_reducible refine put_keeps ?_ ?_ ?_ _ _
    | with_reducible refine record_keeps ?_ ?_ _ _ _ _
    | with_reducible refine onPh_keeps ?_ ?_ _ _
    | with_reducible refine Keeps.idState ?_
    | with_reducible refine foldl_keeps ?_ _ (fun s a hs => ?_)
    | (extract_lets +onlyGivenNames x; refine Keeps.cut (x := x) (m := tm) (s0 := z) ?_ ?_; unfold x; clear x; rotate_left; intro hx; clear_value x; rotate_right)
    | (extract_lets +onlyGivenNames x; clear_value x)
    | split

def execBusCoefCommit_touch : Nat := 0x20904000000000000000004a000600000000000010000000000000000000400000000
theorem execBusCoefCommit_keeps {tm : Nat} {z s : State} (hm : Sub execBusCoefCommit_touch tm) (hs : Keeps tm z s) (w : Sys2Proof.BusWrite) :
    KeepsO tm z (execBusCoefCommit w s) := by
  delta execBusCoefCommit
  repeat' first
    | with_reducible refine KeepsO.next ?_
    | with_reducible refine KeepsO.ite ?_ ?_
    | with_reducible assumption
    | (refine Sub.bit hm ?_; exact rfl)
    | (refine Sub.trans (Sub.of ?_) hm; exact rfl)
    | with_reducible refine Keeps.ite ?_ ?_
    | (refine (?_ : (_ : Bool) = true); exact rfl)
    | with_reducible refine gate_keeps ?_ ?_ _ _ (fun s a0 hs => ?_)
    | with_reducible refine writeBusCoefSel_keeps ?_ ?_ _
    | with_reducible refine Keeps.idState ?_
    | with_reducible refine foldl_keeps ?_ _ (fun s a hs => ?_)
    | (extract_lets +onlyGivenNames x; refine Keeps.cut (x := x) (m := tm) (s0 := z) ?_ ?_; unfold x; clear x; rotate_left; intro hx; clear_value x; rotate_right)
    | (extract_lets +onlyGivenNames x; clear_value x)
    | split

def execDutySaturated_touch : Nat := 0x88040000000000000000000000000000000000010000000000000000000000000000
theorem execDutySaturated_keeps {tm : Nat} {z s : State} (hm : Sub execDutySaturated_touch tm) (hs : Keeps tm z s) (p : Sys2Proof.Phase) :
    KeepsO tm z (execDutySaturated p s) := by
  delta execDutySaturated
  repeat' first
    | with_reducible refine KeepsO.next ?_
    | with_reducible refine KeepsO.ite ?_ ?_
    | with_reducible assumption
    | (refine Sub.bit hm ?_; exact rfl)
    | (refine Sub.trans (Sub.of ?_) hm; exact rfl)
    | with_reducible refine Keeps.ite ?_ ?_
    | (refine (?_ : (_ : Bool) = true); exact rfl)
    | with_reducible refine record_keeps ?_ ?_ _ _ _ _
    | with_reducible refine onPh_keeps ?_ ?_ _ _
    | with_reducible refine begin_keeps ?_ ?_
    | with_reducible refine Keeps.idState ?_
    | with_reducible refine foldl_keeps ?_ _ (fun s a hs => ?_)
    | (extract_lets +onlyGivenNames x; refine Keeps.cut (x := x) (m := tm) (s0 := z) ?_ ?_; unfold x; clear x; rotate_left; intro hx; clear_value x; rotate_right)
    | (extract_lets +onlyGivenNames x; clear_value x)
    | split

def execHeadroomLost_touch : Nat := 0x1017f97c000000000000000084a00060000006032043000002882008a00a105080000400
theorem execHeadroomLost_keeps {tm : Nat} {z s : State} (hm : Sub execHeadroomLost_touch tm) (hs : Keeps tm z s) (l : Sys2Proof.Lane) :
    KeepsO tm z (execHeadroomLost l s) := by
  delta execHeadroomLost
  repeat' first
    | with_reducible refine KeepsO.next ?_
    | with_reducible refine KeepsO.ite ?_ ?_
    | with_reducible assumption
    | (refine Sub.bit hm ?_; exact rfl)
    | (refine Sub.trans (Sub.of ?_) hm; exact rfl)
    | with_reducible refine Keeps.ite ?_ ?_
    | (refine (?_ : (_ : Bool) = true); exact rfl)
    | with_reducible refine put_keeps ?_ ?_ ?_ _ _
    | with_reducible refine setLaneLatch_keeps ?_ ?_ _ _
    | with_reducible refine settle_keeps ?_ ?_
    | with_reducible refine record_keeps ?_ ?_ _ _ _ _
    | with_reducible refine begin_keeps ?_ ?_
    | with_reducible refine Keeps.idState ?_
    | with_reducible refine foldl_keeps ?_ _ (fun s a hs => ?_)
    | (extract_lets +onlyGivenNames x; refine Keeps.cut (x := x) (m := tm) (s0 := z) ?_ ?_; unfold x; clear x; rotate_left; intro hx; clear_value x; rotate_right)
    | (extract_lets +onlyGivenNames x; clear_value x)
    | split

def execLnCoefCommit_touch : Nat := 0x4904000000000000000004a000600000000000010000000000000000000020000000
theorem execLnCoefCommit_keeps {tm : Nat} {z s : State} (hm : Sub execLnCoefCommit_touch tm) (hs : Keeps tm z s) (l : Sys2Proof.Lane) (w : Sys2Proof.BusWrite) :
    KeepsO tm z (execLnCoefCommit l w s) := by
  delta execLnCoefCommit
  repeat' first
    | with_reducible refine KeepsO.next ?_
    | with_reducible refine KeepsO.ite ?_ ?_
    | with_reducible assumption
    | (refine Sub.bit hm ?_; exact rfl)
    | (refine Sub.trans (Sub.of ?_) hm; exact rfl)
    | with_reducible refine Keeps.ite ?_ ?_
    | (refine (?_ : (_ : Bool) = true); exact rfl)
    | with_reducible refine gate_keeps ?_ ?_ _ _ (fun s a0 hs => ?_)
    | with_reducible refine writeCoefSel_keeps ?_ ?_ _ _
    | with_reducible refine Keeps.idState ?_
    | with_reducible refine foldl_keeps ?_ _ (fun s a hs => ?_)
    | (extract_lets +onlyGivenNames x; refine Keeps.cut (x := x) (m := tm) (s0 := z) ?_ ?_; unfold x; clear x; rotate_left; intro hx; clear_value x; rotate_right)
    | (extract_lets +onlyGivenNames x; clear_value x)
    | split

def execPhaseUpdate_touch : Nat := 0x88040000000000000000000000000000000000010000000000000000000082000000
theorem execPhaseUpdate_keeps {tm : Nat} {z s : State} (hm : Sub execPhaseUpdate_touch tm) (hs : Keeps tm z s) (p : Sys2Proof.Phase) (code : BitVec 12) :
    KeepsO tm z (execPhaseUpdate p code s) := by
  delta execPhaseUpdate
  repeat' first
    | with_reducible refine KeepsO.next ?_
    | with_reducible refine KeepsO.ite ?_ ?_
    | with_reducible assumption
    | (refine Sub.bit hm ?_; exact rfl)
    | (refine Sub.trans (Sub.of ?_) hm; exact rfl)
    | with_reducible refine Keeps.ite ?_ ?_
    | (refine (?_ : (_ : Bool) = true); exact rfl)
    | with_reducible refine phaseLoop_keeps ?_ ?_ _ _ _
    | with_reducible refine record_keeps ?_ ?_ _ _ _ _
    | with_reducible refine onPh_keeps ?_ ?_ _ _
    | with_reducible refine isnSample_keeps ?_ ?_ _ _ _
    | with_reducible refine begin_keeps ?_ ?_
    | with_reducible refine Keeps.idState ?_
    | with_reducible refine foldl_keeps ?_ _ (fun s a hs => ?_)
    | (extract_lets +onlyGivenNames x; refine Keeps.cut (x := x) (m := tm) (s0 := z) ?_ ?_; unfold x; clear x; rotate_left; intro hx; clear_value x; rotate_right)
    | (extract_lets +onlyGivenNames x; clear_value x)
    | split

end Sys2Proof.Machine
end

