-- ==== Sys2Proof/Laws/KeepsWarping.lean ====
section
/-!
SUPPORT. Sys2Proof/Laws/KeepsWarping.lean: what each function of Machine/Warping.lean may change: its touch set, and one lemma per function.
-/
namespace Sys2Proof.Machine

open Sys2Proof

def requestSurvey_touch : Nat := 0x100000000000000000000000000000000000000000000000000002000000000000000
theorem requestSurvey_keeps {tm : Nat} {z s : State} (hm : Sub requestSurvey_touch tm) (hs : Keeps tm z s) (l : Nat) (k : Sys2Proof.Machine.Kind) :
    Keeps tm z (State.requestSurvey s l k) := by
  delta State.requestSurvey
  repeat' first
    | with_reducible assumption
    | (refine Sub.bit hm ?_; exact rfl)
    | (refine Sub.trans (Sub.of ?_) hm; exact rfl)
    | with_reducible refine Keeps.ite ?_ ?_
    | (refine (?_ : (_ : Bool) = true); exact rfl)
    | with_reducible refine wr_keeps ?_ ?_ ?_ _ _
    | with_reducible refine put_keeps ?_ ?_ ?_ _ _
    | with_reducible refine onBay_keeps ?_ ?_ _ _
    | with_reducible refine Keeps.idState ?_
    | with_reducible refine foldl_keeps ?_ _ (fun s a hs => ?_)
    | (extract_lets +onlyGivenNames x; refine Keeps.cut (x := x) (m := tm) (s0 := z) ?_ ?_; unfold x; clear x; rotate_left; intro hx; clear_value x; rotate_right)
    | (extract_lets +onlyGivenNames x; clear_value x)
    | split

def putPhase_touch : Nat := 0x80000000000000000000000000000000000000000000000000002200000002002000
theorem putPhase_keeps {tm : Nat} {z s : State} (hm : Sub putPhase_touch tm) (hs : Keeps tm z s) (l : Nat) (x : Sys2Proof.Machine.SvPhase) (lnom : Nat) (cal : Bool) :
    Keeps tm z (State.putPhase s l x lnom cal) := by
  delta State.putPhase
  repeat' first
    | with_reducible assumption
    | (refine Sub.bit hm ?_; exact rfl)
    | (refine Sub.trans (Sub.of ?_) hm; exact rfl)
    | with_reducible refine Keeps.ite ?_ ?_
    | (refine (?_ : (_ : Bool) = true); exact rfl)
    | with_reducible refine wr_keeps ?_ ?_ ?_ _ _
    | with_reducible refine wrS_keeps ?_ ?_ ?_ _ _
    | with_reducible refine putBit_keeps ?_ ?_ ?_ _ _ _
    | with_reducible refine onPh_keeps ?_ ?_ _ _
    | with_reducible refine Keeps.idState ?_
    | with_reducible refine foldl_keeps ?_ _ (fun s a hs => ?_)
    | (extract_lets +onlyGivenNames x; refine Keeps.cut (x := x) (m := tm) (s0 := z) ?_ ?_; unfold x; clear x; rotate_left; intro hx; clear_value x; rotate_right)
    | (extract_lets +onlyGivenNames x; clear_value x)
    | split

def applySurvey_touch : Nat := 0x1005e97c000000000000000004a00060000006000001000000082008a200008082002000
theorem applySurvey_keeps {tm : Nat} {z s : State} (hm : Sub applySurvey_touch tm) (hs : Keeps tm z s) (v : Sys2Proof.Machine.Survey) (lnom : Nat) (w : Sys2Proof.Machine.SvWords) :
    Keeps tm z (State.applySurvey s v lnom w) := by
  delta State.applySurvey
  repeat' first
    | with_reducible assumption
    | (refine Sub.bit hm ?_; exact rfl)
    | (refine Sub.trans (Sub.of ?_) hm; exact rfl)
    | with_reducible refine Keeps.ite ?_ ?_
    | (refine (?_ : (_ : Bool) = true); exact rfl)
    | with_reducible refine wr_keeps ?_ ?_ ?_ _ _
    | with_reducible refine put_keeps ?_ ?_ ?_ _ _
    | with_reducible refine putPhase_keeps ?_ ?_ _ _ _ _
    | with_reducible refine endSurvey_keeps ?_ ?_ _
    | with_reducible refine record_keeps ?_ ?_ _ _ _ _
    | with_reducible refine finish_keeps ?_ ?_ _ _ _
    | with_reducible refine onLane_keeps ?_ ?_ _ _
    | with_reducible refine enter_keeps ?_ ?_ _ _
    | with_reducible refine Keeps.idState ?_
    | with_reducible refine foldl_keeps ?_ _ (fun s a hs => ?_)
    | (extract_lets +onlyGivenNames x; refine Keeps.cut (x := x) (m := tm) (s0 := z) ?_ ?_; unfold x; clear x; rotate_left; intro hx; clear_value x; rotate_right)
    | (extract_lets +onlyGivenNames x; clear_value x)
    | split

def setStep_touch : Nat := 0x44104000000000000000000200060000000000000000000000000a000000000000000
theorem setStep_keeps {tm : Nat} {z s : State} (hm : Sub setStep_touch tm) (hs : Keeps tm z s) (l : Nat) (n : Nat) :
    Keeps tm z (State.setStep s l n) := by
  delta State.setStep
  repeat' first
    | with_reducible assumption
    | (refine Sub.bit hm ?_; exact rfl)
    | (refine Sub.trans (Sub.of ?_) hm; exact rfl)
    | with_reducible refine Keeps.ite ?_ ?_
    | (refine (?_ : (_ : Bool) = true); exact rfl)
    | with_reducible refine wr_keeps ?_ ?_ ?_ _ _
    | with_reducible refine show_keeps ?_ ?_ _ _
    | with_reducible refine Keeps.idState ?_
    | with_reducible refine foldl_keeps ?_ _ (fun s a hs => ?_)
    | (extract_lets +onlyGivenNames x; refine Keeps.cut (x := x) (m := tm) (s0 := z) ?_ ?_; unfold x; clear x; rotate_left; intro hx; clear_value x; rotate_right)
    | (extract_lets +onlyGivenNames x; clear_value x)
    | split

def onSurvey_touch : Nat := 0x100000000000000000000000000000000000000000000000000000000000000000000
theorem onSurvey_keeps {tm : Nat} {z s : State} (hm : Sub onSurvey_touch tm) (hs : Keeps tm z s) (b : Nat) (f : Sys2Proof.Machine.Survey → Sys2Proof.Machine.Survey) :
    Keeps tm z (State.onSurvey s b f) := by
  delta State.onSurvey
  repeat' first
    | with_reducible assumption
    | (refine Sub.bit hm ?_; exact rfl)
    | (refine Sub.trans (Sub.of ?_) hm; exact rfl)
    | with_reducible refine Keeps.ite ?_ ?_
    | (refine (?_ : (_ : Bool) = true); exact rfl)
    | with_reducible refine onBay_keeps ?_ ?_ _ _
    | with_reducible refine Keeps.idState ?_
    | with_reducible refine foldl_keeps ?_ _ (fun s a hs => ?_)
    | (extract_lets +onlyGivenNames x; refine Keeps.cut (x := x) (m := tm) (s0 := z) ?_ ?_; unfold x; clear x; rotate_left; intro hx; clear_value x; rotate_right)
    | (extract_lets +onlyGivenNames x; clear_value x)
    | split

def endSteps_touch : Nat := 0x54104000000000000000000200060000000000000000000000000a000000000000000
theorem endSteps_keeps {tm : Nat} {z s : State} (hm : Sub endSteps_touch tm) (hs : Keeps tm z s) (b : Nat) (l : Nat) :
    Keeps tm z (State.endSteps s b l) := by
  delta State.endSteps
  repeat' first
    | with_reducible assumption
    | (refine Sub.bit hm ?_; exact rfl)
    | (refine Sub.trans (Sub.of ?_) hm; exact rfl)
    | with_reducible refine Keeps.ite ?_ ?_
    | (refine (?_ : (_ : Bool) = true); exact rfl)
    | with_reducible refine setStep_keeps ?_ ?_ _ _
    | with_reducible refine onSurvey_keeps ?_ ?_ _ _
    | with_reducible refine Keeps.idState ?_
    | with_reducible refine foldl_keeps ?_ _ (fun s a hs => ?_)
    | (extract_lets +onlyGivenNames x; refine Keeps.cut (x := x) (m := tm) (s0 := z) ?_ ?_; unfold x; clear x; rotate_left; intro hx; clear_value x; rotate_right)
    | (extract_lets +onlyGivenNames x; clear_value x)
    | split

def claimTerm_touch : Nat := 0x148000000000000000000000000000000000000010000000000000000000000000000
theorem claimTerm_keeps {tm : Nat} {z s : State} (hm : Sub claimTerm_touch tm) (hs : Keeps tm z s) (b : Nat) (l : Nat) :
    Keeps tm z (State.claimTerm s b l) := by
  delta State.claimTerm
  repeat' first
    | with_reducible assumption
    | (refine Sub.bit hm ?_; exact rfl)
    | (refine Sub.trans (Sub.of ?_) hm; exact rfl)
    | with_reducible refine Keeps.ite ?_ ?_
    | (refine (?_ : (_ : Bool) = true); exact rfl)
    | with_reducible refine setAux_keeps ?_ ?_ _ _
    | with_reducible refine record_keeps ?_ ?_ _ _ _ _
    | with_reducible refine onSurvey_keeps ?_ ?_ _ _
    | with_reducible refine Keeps.idState ?_
    | with_reducible refine foldl_keeps ?_ _ (fun s a hs => ?_)
    | (extract_lets +onlyGivenNames x; refine Keeps.cut (x := x) (m := tm) (s0 := z) ?_ ?_; unfold x; clear x; rotate_left; intro hx; clear_value x; rotate_right)
    | (extract_lets +onlyGivenNames x; clear_value x)
    | split

def beginS_touch : Nat := 0x5c904000000000000000000200060000000000001000000000000a000000000000400
theorem beginS_keeps {tm : Nat} {z s : State} (hm : Sub beginS_touch tm) (hs : Keeps tm z s) (b : Nat) (v : Sys2Proof.Machine.Survey) :
    Keeps tm z (State.beginS s b v) := by
  delta State.beginS
  repeat' first
    | with_reducible assumption
    | (refine Sub.bit hm ?_; exact rfl)
    | (refine Sub.trans (Sub.of ?_) hm; exact rfl)
    | with_reducible refine Keeps.ite ?_ ?_
    | (refine (?_ : (_ : Bool) = true); exact rfl)
    | with_reducible refine forEach_keeps ?_ _ (fun s a hs => ?_)
    | with_reducible refine endSteps_keeps ?_ ?_ _ _
    | with_reducible refine setStep_keeps ?_ ?_ _ _
    | with_reducible refine beginPhase_keeps ?_ ?_ _ _ _
    | with_reducible refine setDriven_keeps ?_ ?_ _ _
    | with_reducible refine claimTerm_keeps ?_ ?_ _ _
    | with_reducible refine onSurvey_keeps ?_ ?_ _ _
    | with_reducible refine Keeps.idState ?_
    | with_reducible refine foldl_keeps ?_ _ (fun s a hs => ?_)
    | (extract_lets +onlyGivenNames x; refine Keeps.cut (x := x) (m := tm) (s0 := z) ?_ ?_; unfold x; clear x; rotate_left; intro hx; clear_value x; rotate_right)
    | (extract_lets +onlyGivenNames x; clear_value x)
    | split

def endProbes_touch : Nat := 0x54104000000000000000000200060000000000000000000000000a000000000000000
theorem endProbes_keeps {tm : Nat} {z s : State} (hm : Sub endProbes_touch tm) (hs : Keeps tm z s) (b : Nat) (v : Sys2Proof.Machine.Survey) :
    Keeps tm z (State.endProbes s b v) := by
  delta State.endProbes
  repeat' first
    | with_reducible assumption
    | (refine Sub.bit hm ?_; exact rfl)
    | (refine Sub.trans (Sub.of ?_) hm; exact rfl)
    | with_reducible refine Keeps.ite ?_ ?_
    | (refine (?_ : (_ : Bool) = true); exact rfl)
    | with_reducible refine endSteps_keeps ?_ ?_ _ _
    | with_reducible refine onSurvey_keeps ?_ ?_ _ _
    | with_reducible refine Keeps.idState ?_
    | with_reducible refine foldl_keeps ?_ _ (fun s a hs => ?_)
    | (extract_lets +onlyGivenNames x; refine Keeps.cut (x := x) (m := tm) (s0 := z) ?_ ?_; unfold x; clear x; rotate_left; intro hx; clear_value x; rotate_right)
    | (extract_lets +onlyGivenNames x; clear_value x)
    | split

def failSurvey_touch : Nat := 0x1005e97c000000000000000004a00060000006000001000000082008a000004080000400
theorem failSurvey_keeps {tm : Nat} {z s : State} (hm : Sub failSurvey_touch tm) (hs : Keeps tm z s) (v : Sys2Proof.Machine.Survey) (code : Nat) (k : Nat) :
    Keeps tm z (State.failSurvey s v code k) := by
  delta State.failSurvey
  repeat' first
    | with_reducible assumption
    | (refine Sub.bit hm ?_; exact rfl)
    | (refine Sub.trans (Sub.of ?_) hm; exact rfl)
    | with_reducible refine Keeps.ite ?_ ?_
    | (refine (?_ : (_ : Bool) = true); exact rfl)
    | with_reducible refine wr_keeps ?_ ?_ ?_ _ _
    | with_reducible refine put_keeps ?_ ?_ ?_ _ _
    | with_reducible refine endSurvey_keeps ?_ ?_ _
    | with_reducible refine record_keeps ?_ ?_ _ _ _ _
    | with_reducible refine finish_keeps ?_ ?_ _ _ _
    | with_reducible refine faultLane_keeps ?_ ?_ _ _
    | with_reducible refine Keeps.idState ?_
    | with_reducible refine foldl_keeps ?_ _ (fun s a hs => ?_)
    | (extract_lets +onlyGivenNames x; refine Keeps.cut (x := x) (m := tm) (s0 := z) ?_ ?_; unfold x; clear x; rotate_left; intro hx; clear_value x; rotate_right)
    | (extract_lets +onlyGivenNames x; clear_value x)
    | split

def writeWarpData_touch : Nat := 0x40000000000000000000000000000000000000000000000000000000000000000000
theorem writeWarpData_keeps {tm : Nat} {z s : State} (hm : Sub writeWarpData_touch tm) (hs : Keeps tm z s) (l : Nat) (w : Nat) :
    Keeps tm z (State.writeWarpData s l w) := by
  delta State.writeWarpData
  repeat' first
    | with_reducible assumption
    | (refine Sub.bit hm ?_; exact rfl)
    | (refine Sub.trans (Sub.of ?_) hm; exact rfl)
    | with_reducible refine Keeps.ite ?_ ?_
    | (refine (?_ : (_ : Bool) = true); exact rfl)
    | with_reducible refine onLane_keeps ?_ ?_ _ _
    | with_reducible refine Keeps.idState ?_
    | with_reducible refine foldl_keeps ?_ _ (fun s a hs => ?_)
    | (extract_lets +onlyGivenNames x; refine Keeps.cut (x := x) (m := tm) (s0 := z) ?_ ?_; unfold x; clear x; rotate_left; intro hx; clear_value x; rotate_right)
    | (extract_lets +onlyGivenNames x; clear_value x)
    | split

def perMillion_touch : Nat := 0x20000000000000000000000000000000000000000000000000000000000000000
theorem perMillion_keeps {tm : Nat} {z s : State} (hm : Sub perMillion_touch tm) (hs : Keeps tm z s) (a : Int) (c : Int) :
    Keeps tm z (State.perMillion s a c).2 := by
  delta State.perMillion
  repeat' first
    | with_reducible assumption
    | (dsimp only; with_reducible assumption)
    | (refine Sub.bit hm ?_; exact rfl)
    | (refine Sub.trans (Sub.of ?_) hm; exact rfl)
    | with_reducible refine Keeps.ite ?_ ?_
    | (refine (?_ : (_ : Bool) = true); exact rfl)
    | with_reducible refine draw_keeps ?_ ?_
    | with_reducible refine Keeps.idState ?_
    | with_reducible refine foldl_keeps ?_ _ (fun s a hs => ?_)
    | (extract_lets +onlyGivenNames x; refine Keeps.cut (x := x) (m := tm) (s0 := z) ?_ ?_; unfold x; clear x; rotate_left; intro hx; clear_value x; rotate_right)
    | (extract_lets +onlyGivenNames x; clear_value x)
    | split
    | dsimp only

def rampDown_touch : Nat := 0x140000000000000000000000000000000000000000000000000000000000000000000
theorem rampDown_keeps {tm : Nat} {z s : State} (hm : Sub rampDown_touch tm) (hs : Keeps tm z s) (b : Nat) (l : Nat) :
    Keeps tm z (State.rampDown s b l) := by
  delta State.rampDown
  repeat' first
    | with_reducible assumption
    | (refine Sub.bit hm ?_; exact rfl)
    | (refine Sub.trans (Sub.of ?_) hm; exact rfl)
    | with_reducible refine Keeps.ite ?_ ?_
    | (refine (?_ : (_ : Bool) = true); exact rfl)
    | with_reducible refine onLane_keeps ?_ ?_ _ _
    | with_reducible refine onSurvey_keeps ?_ ?_ _ _
    | with_reducible refine Keeps.idState ?_
    | with_reducible refine foldl_keeps ?_ _ (fun s a hs => ?_)
    | (extract_lets +onlyGivenNames x; refine Keeps.cut (x := x) (m := tm) (s0 := z) ?_ ?_; unfold x; clear x; rotate_left; intro hx; clear_value x; rotate_right)
    | (extract_lets +onlyGivenNames x; clear_value x)
    | split

def slopeL_touch : Nat := 0x20000000000000000000000000000000000000000000000000000000000000000
theorem slopeL_keeps {tm : Nat} {z s : State} (hm : Sub slopeL_touch tm) (hs : Keeps tm z s) (l : Nat) (high : Bool) (dt : Nat) (di : Int) :
    Keeps tm z (State.slopeL s l high dt di).2 := by
  delta State.slopeL
  repeat' first
    | with_reducible assumption
    | (dsimp only; with_reducible assumption)
    | (refine Sub.bit hm ?_; exact rfl)
    | (refine Sub.trans (Sub.of ?_) hm; exact rfl)
    | with_reducible refine Keeps.ite ?_ ?_
    | (refine (?_ : (_ : Bool) = true); exact rfl)
    | with_reducible refine draw_keeps ?_ ?_
    | with_reducible refine Keeps.idState ?_
    | with_reducible refine foldl_keeps ?_ _ (fun s a hs => ?_)
    | (extract_lets +onlyGivenNames x; refine Keeps.cut (x := x) (m := tm) (s0 := z) ?_ ?_; unfold x; clear x; rotate_left; intro hx; clear_value x; rotate_right)
    | (extract_lets +onlyGivenNames x; clear_value x)
    | split
    | dsimp only

def stepPulse_touch : Nat := 0x54906000000000000000000200060000000000001000000000000a000000000000000
theorem stepPulse_keeps {tm : Nat} {z s : State} (hm : Sub stepPulse_touch tm) (hs : Keeps tm z s) (b : Nat) (v : Sys2Proof.Machine.Survey) (vals : List Int) :
    Keeps tm z (State.stepPulse s b v vals) := by
  delta State.stepPulse
  repeat' first
    | with_reducible assumption
    | (refine Sub.bit hm ?_; exact rfl)
    | (refine Sub.trans (Sub.of ?_) hm; exact rfl)
    | with_reducible refine Keeps.ite ?_ ?_
    | (refine (?_ : (_ : Bool) = true); exact rfl)
    | with_reducible refine draw_keeps ?_ ?_
    | with_reducible refine endProbes_keeps ?_ ?_ _ _
    | with_reducible refine record_keeps ?_ ?_ _ _ _ _
    | with_reducible refine onSurvey_keeps ?_ ?_ _ _
    | with_reducible refine Keeps.idState ?_
    | with_reducible refine foldl_keeps ?_ _ (fun s a hs => ?_)
    | (extract_lets +onlyGivenNames x; refine Keeps.cut (x := x) (m := tm) (s0 := z) ?_ ?_; unfold x; clear x; rotate_left; intro hx; clear_value x; rotate_right)
    | (extract_lets +onlyGivenNames x; clear_value x)
    | split
    | dsimp only

def stepQ_touch : Nat := 0x54104000000000000000000200060000000000000000000000000a000000000000000
theorem stepQ_keeps {tm : Nat} {z s : State} (hm : Sub stepQ_touch tm) (hs : Keeps tm z s) (b : Nat) (v : Sys2Proof.Machine.Survey) (vals : List Int) :
    Keeps tm z (State.stepQ s b v vals) := by
  delta State.stepQ
  repeat' first
    | with_reducible assumption
    | (refine Sub.bit hm ?_; exact rfl)
    | (refine Sub.trans (Sub.of ?_) hm; exact rfl)
    | with_reducible refine Keeps.ite ?_ ?_
    | (refine (?_ : (_ : Bool) = true); exact rfl)
    | with_reducible refine endSteps_keeps ?_ ?_ _ _
    | with_reducible refine endProbes_keeps ?_ ?_ _ _
    | with_reducible refine setStep_keeps ?_ ?_ _ _
    | with_reducible refine onSurvey_keeps ?_ ?_ _ _
    | with_reducible refine Keeps.idState ?_
    | with_reducible refine foldl_keeps ?_ _ (fun s a hs => ?_)
    | (extract_lets +onlyGivenNames x; refine Keeps.cut (x := x) (m := tm) (s0 := z) ?_ ?_; unfold x; clear x; rotate_left; intro hx; clear_value x; rotate_right)
    | (extract_lets +onlyGivenNames x; clear_value x)
    | split

def stepS_touch : Nat := 0x5c906000000000000000000200060000000000001000000000000a000000000000400
theorem stepS_keeps {tm : Nat} {z s : State} (hm : Sub stepS_touch tm) (hs : Keeps tm z s) (b : Nat) (v : Sys2Proof.Machine.Survey) (k : Nat) (vals : List Int) :
    Keeps tm z (State.stepS s b v k vals) := by
  delta State.stepS
  repeat' first
    | with_reducible assumption
    | (refine Sub.bit hm ?_; exact rfl)
    | (refine Sub.trans (Sub.of ?_) hm; exact rfl)
    | with_reducible refine Keeps.ite ?_ ?_
    | (refine (?_ : (_ : Bool) = true); exact rfl)
    | with_reducible refine beginS_keeps ?_ ?_ _ _
    | with_reducible refine rampDown_keeps ?_ ?_ _ _
    | with_reducible refine onSurvey_keeps ?_ ?_ _ _
    | with_reducible refine perMillion_keeps ?_ ?_ _ _
    | with_reducible refine Keeps.idState ?_
    | with_reducible refine foldl_keeps ?_ _ (fun s a hs => ?_)
    | (extract_lets +onlyGivenNames x; refine Keeps.cut (x := x) (m := tm) (s0 := z) ?_ ?_; unfold x; clear x; rotate_left; intro hx; clear_value x; rotate_right)
    | (extract_lets +onlyGivenNames x; clear_value x)
    | split
    | dsimp only

def stepTPhase_touch : Nat := 0x100020000000000000000000000000000000000000000000000000000000000000000
theorem stepTPhase_keeps {tm : Nat} {z s : State} (hm : Sub stepTPhase_touch tm) (hs : Keeps tm z s) (b : Nat) (l : Nat) (vals : List Int) (e : Sys2Proof.Machine.SvPhase × Nat) :
    Keeps tm z (State.stepTPhase s b l vals e) := by
  delta State.stepTPhase
  repeat' first
    | with_reducible assumption
    | (refine Sub.bit hm ?_; exact rfl)
    | (refine Sub.trans (Sub.of ?_) hm; exact rfl)
    | with_reducible refine Keeps.ite ?_ ?_
    | (refine (?_ : (_ : Bool) = true); exact rfl)
    | with_reducible refine slopeL_keeps ?_ ?_ _ _ _ _
    | with_reducible refine onSurvey_keeps ?_ ?_ _ _
    | with_reducible refine Keeps.idState ?_
    | with_reducible refine foldl_keeps ?_ _ (fun s a hs => ?_)
    | (extract_lets +onlyGivenNames x; refine Keeps.cut (x := x) (m := tm) (s0 := z) ?_ ?_; unfold x; clear x; rotate_left; intro hx; clear_value x; rotate_right)
    | (extract_lets +onlyGivenNames x; clear_value x)
    | split
    | dsimp only

def stepT_touch : Nat := 0x54906000000000000000000200060000000000001000000000000a000000000000000
theorem stepT_keeps {tm : Nat} {z s : State} (hm : Sub stepT_touch tm) (hs : Keeps tm z s) (b : Nat) (v : Sys2Proof.Machine.Survey) (vals : List Int) :
    Keeps tm z (State.stepT s b v vals) := by
  delta State.stepT
  repeat' first
    | with_reducible assumption
    | (refine Sub.bit hm ?_; exact rfl)
    | (refine Sub.trans (Sub.of ?_) hm; exact rfl)
    | with_reducible refine Keeps.ite ?_ ?_
    | (refine (?_ : (_ : Bool) = true); exact rfl)
    | with_reducible refine endSteps_keeps ?_ ?_ _ _
    | with_reducible refine setStep_keeps ?_ ?_ _ _
    | with_reducible refine stepTPhase_keeps ?_ ?_ _ _ _ _
    | with_reducible refine claimTerm_keeps ?_ ?_ _ _
    | with_reducible refine onSurvey_keeps ?_ ?_ _ _
    | with_reducible refine Keeps.idState ?_
    | with_reducible refine foldl_keeps ?_ _ (fun s a hs => ?_)
    | (extract_lets +onlyGivenNames x; refine Keeps.cut (x := x) (m := tm) (s0 := z) ?_ ?_; unfold x; clear x; rotate_left; intro hx; clear_value x; rotate_right)
    | (extract_lets +onlyGivenNames x; clear_value x)
    | split

def stepX_touch : Nat := 0x54106000000000000000000200060000000000000000000000000a000000000000000
theorem stepX_keeps {tm : Nat} {z s : State} (hm : Sub stepX_touch tm) (hs : Keeps tm z s) (b : Nat) (v : Sys2Proof.Machine.Survey) (vals : List Int) :
    Keeps tm z (State.stepX s b v vals) := by
  delta State.stepX
  repeat' first
    | with_reducible assumption
    | (refine Sub.bit hm ?_; exact rfl)
    | (refine Sub.trans (Sub.of ?_) hm; exact rfl)
    | with_reducible refine Keeps.ite ?_ ?_
    | (refine (?_ : (_ : Bool) = true); exact rfl)
    | with_reducible refine endSteps_keeps ?_ ?_ _ _
    | with_reducible refine onSurvey_keeps ?_ ?_ _ _
    | with_reducible refine perMillion_keeps ?_ ?_ _ _
    | with_reducible refine Keeps.idState ?_
    | with_reducible refine foldl_keeps ?_ _ (fun s a hs => ?_)
    | (extract_lets +onlyGivenNames x; refine Keeps.cut (x := x) (m := tm) (s0 := z) ?_ ?_; unfold x; clear x; rotate_left; intro hx; clear_value x; rotate_right)
    | (extract_lets +onlyGivenNames x; clear_value x)
    | split
    | dsimp only

def execAdaptEstimate_touch : Nat := 0x1017f97e000000000000000084a00060000006032043000002882008a20a105082000400
theorem execAdaptEstimate_keeps {tm : Nat} {z s : State} (hm : Sub execAdaptEstimate_touch tm) (hs : Keeps tm z s) (p : Sys2Proof.Phase) (high : Bool) (dt : Nat) (di : Int) :
    KeepsO tm z (execAdaptEstimate p high dt di s) := by
  delta execAdaptEstimate
  repeat' first
    | with_reducible refine KeepsO.next ?_
    | with_reducible refine KeepsO.ite ?_ ?_
    | with_reducible assumption
    | (refine Sub.bit hm ?_; exact rfl)
    | (refine Sub.trans (Sub.of ?_) hm; exact rfl)
    | with_reducible refine Keeps.ite ?_ ?_
    | (refine (?_ : (_ : Bool) = true); exact rfl)
    | with_reducible refine wr_keeps ?_ ?_ ?_ _ _
    | with_reducible refine putBit_keeps ?_ ?_ ?_ _ _ _
    | with_reducible refine slopeL_keeps ?_ ?_ _ _ _ _
    | with_reducible refine settle_keeps ?_ ?_
    | with_reducible refine record_keeps ?_ ?_ _ _ _ _
    | with_reducible refine onPh_keeps ?_ ?_ _ _
    | with_reducible refine begin_keeps ?_ ?_
    | with_reducible refine Keeps.idState ?_
    | with_reducible refine foldl_keeps ?_ _ (fun s a hs => ?_)
    | (extract_lets +onlyGivenNames x; refine Keeps.cut (x := x) (m := tm) (s0 := z) ?_ ?_; unfold x; clear x; rotate_left; intro hx; clear_value x; rotate_right)
    | (extract_lets +onlyGivenNames x; clear_value x)
    | split
    | dsimp only

def execLaneWarp_touch : Nat := 0x149fc000000000000000004a000600000000000010000000000002000000000000000
theorem execLaneWarp_keeps {tm : Nat} {z s : State} (hm : Sub execLaneWarp_touch tm) (hs : Keeps tm z s) (h : Sys2Proof.CmdHdr) :
    KeepsO tm z (execLaneWarp h s) := by
  delta execLaneWarp
  repeat' first
    | with_reducible refine KeepsO.next ?_
    | with_reducible refine KeepsO.ite ?_ ?_
    | with_reducible assumption
    | (refine Sub.bit hm ?_; exact rfl)
    | (refine Sub.trans (Sub.of ?_) hm; exact rfl)
    | with_reducible refine Keeps.ite ?_ ?_
    | (refine (?_ : (_ : Bool) = true); exact rfl)
    | with_reducible refine put_keeps ?_ ?_ ?_ _ _
    | with_reducible refine complete_keeps ?_ ?_ _ _ _
    | with_reducible refine requestSurvey_keeps ?_ ?_ _ _
    | with_reducible refine dispatch_keeps ?_ ?_ _ _ _ (fun s a0 hs => ?_)
    | with_reducible refine queue_keeps ?_ ?_ _ _
    | with_reducible refine hold_keeps ?_ ?_ _ _
    | with_reducible refine Keeps.idState ?_
    | with_reducible refine foldl_keeps ?_ _ (fun s a hs => ?_)
    | (extract_lets +onlyGivenNames x; refine Keeps.cut (x := x) (m := tm) (s0 := z) ?_ ?_; unfold x; clear x; rotate_left; intro hx; clear_value x; rotate_right)
    | (extract_lets +onlyGivenNames x; clear_value x)
    | split

def execPhaseReadmit_touch : Nat := 0x109fc000000000000000004a000600000000000010000000000002000000000000000
theorem execPhaseReadmit_keeps {tm : Nat} {z s : State} (hm : Sub execPhaseReadmit_touch tm) (hs : Keeps tm z s) (h : Sys2Proof.CmdHdr) :
    KeepsO tm z (execPhaseReadmit h s) := by
  delta execPhaseReadmit
  repeat' first
    | with_reducible refine KeepsO.next ?_
    | with_reducible refine KeepsO.ite ?_ ?_
    | with_reducible assumption
    | (refine Sub.bit hm ?_; exact rfl)
    | (refine Sub.trans (Sub.of ?_) hm; exact rfl)
    | with_reducible refine Keeps.ite ?_ ?_
    | (refine (?_ : (_ : Bool) = true); exact rfl)
    | with_reducible refine complete_keeps ?_ ?_ _ _ _
    | with_reducible refine requestSurvey_keeps ?_ ?_ _ _
    | with_reducible refine dispatch_keeps ?_ ?_ _ _ _ (fun s a0 hs => ?_)
    | with_reducible refine hold_keeps ?_ ?_ _ _
    | with_reducible refine Keeps.idState ?_
    | with_reducible refine foldl_keeps ?_ _ (fun s a hs => ?_)
    | (extract_lets +onlyGivenNames x; refine Keeps.cut (x := x) (m := tm) (s0 := z) ?_ ?_; unfold x; clear x; rotate_left; intro hx; clear_value x; rotate_right)
    | (extract_lets +onlyGivenNames x; clear_value x)
    | split

def execReadmitPassed_touch : Nat := 0x1017f97c000000000000000084a00060000006032043000002882008a20a105082002400
theorem execReadmitPassed_keeps {tm : Nat} {z s : State} (hm : Sub execReadmitPassed_touch tm) (hs : Keeps tm z s) (b : Sys2Proof.Bay) :
    KeepsO tm z (execReadmitPassed b s) := by
  delta execReadmitPassed
  repeat' first
    | with_reducible refine KeepsO.next ?_
    | with_reducible refine KeepsO.ite ?_ ?_
    | with_reducible assumption
    | (refine Sub.bit hm ?_; exact rfl)
    | (refine Sub.trans (Sub.of ?_) hm; exact rfl)
    | with_reducible refine Keeps.ite ?_ ?_
    | (refine (?_ : (_ : Bool) = true); exact rfl)
    | with_reducible refine putBit_keeps ?_ ?_ ?_ _ _ _
    | with_reducible refine putPhase_keeps ?_ ?_ _ _ _ _
    | with_reducible refine endSurvey_keeps ?_ ?_ _
    | with_reducible refine settle_keeps ?_ ?_
    | with_reducible refine record_keeps ?_ ?_ _ _ _ _
    | with_reducible refine finish_keeps ?_ ?_ _ _ _
    | with_reducible refine onLane_keeps ?_ ?_ _ _
    | with_reducible refine begin_keeps ?_ ?_
    | with_reducible refine Keeps.idState ?_
    | with_reducible refine foldl_keeps ?_ _ (fun s a hs => ?_)
    | (extract_lets +onlyGivenNames x; refine Keeps.cut (x := x) (m := tm) (s0 := z) ?_ ?_; unfold x; clear x; rotate_left; intro hx; clear_value x; rotate_right)
    | (extract_lets +onlyGivenNames x; clear_value x)
    | split

def execSurveyDone_touch : Nat := 0x1017f97c000000000000000084a00060000006032043000002882008a20a10d082002400
theorem execSurveyDone_keeps {tm : Nat} {z s : State} (hm : Sub execSurveyDone_touch tm) (hs : Keeps tm z s) (b : Sys2Proof.Bay) :
    KeepsO tm z (execSurveyDone b s) := by
  delta execSurveyDone
  repeat' first
    | with_reducible refine KeepsO.next ?_
    | with_reducible refine KeepsO.ite ?_ ?_
    | with_reducible assumption
    | (refine Sub.bit hm ?_; exact rfl)
    | (refine Sub.trans (Sub.of ?_) hm; exact rfl)
    | with_reducible refine Keeps.ite ?_ ?_
    | (refine (?_ : (_ : Bool) = true); exact rfl)
    | with_reducible refine failSurvey_keeps ?_ ?_ _ _ _
    | with_reducible refine applySurvey_keeps ?_ ?_ _ _ _
    | with_reducible refine settle_keeps ?_ ?_
    | with_reducible refine begin_keeps ?_ ?_
    | with_reducible refine Keeps.idState ?_
    | with_reducible refine foldl_keeps ?_ _ (fun s a hs => ?_)
    | (extract_lets +onlyGivenNames x; refine Keeps.cut (x := x) (m := tm) (s0 := z) ?_ ?_; unfold x; clear x; rotate_left; intro hx; clear_value x; rotate_right)
    | (extract_lets +onlyGivenNames x; clear_value x)
    | split

def execSurveyStart_touch : Nat := 0x54104000000000000000000200060000000000000000000000000a000000000000000
theorem execSurveyStart_keeps {tm : Nat} {z s : State} (hm : Sub execSurveyStart_touch tm) (hs : Keeps tm z s) (b : Sys2Proof.Bay) :
    KeepsO tm z (execSurveyStart b s) := by
  delta execSurveyStart
  repeat' first
    | with_reducible refine KeepsO.next ?_
    | with_reducible refine KeepsO.ite ?_ ?_
    | with_reducible assumption
    | (refine Sub.bit hm ?_; exact rfl)
    | (refine Sub.trans (Sub.of ?_) hm; exact rfl)
    | with_reducible refine Keeps.ite ?_ ?_
    | (refine (?_ : (_ : Bool) = true); exact rfl)
    | with_reducible refine endSteps_keeps ?_ ?_ _ _
    | with_reducible refine setStep_keeps ?_ ?_ _ _
    | with_reducible refine begin_keeps ?_ ?_
    | with_reducible refine onSurvey_keeps ?_ ?_ _ _
    | with_reducible refine onBay_keeps ?_ ?_ _ _
    | with_reducible refine Keeps.idState ?_
    | with_reducible refine foldl_keeps ?_ _ (fun s a hs => ?_)
    | (extract_lets +onlyGivenNames x; refine Keeps.cut (x := x) (m := tm) (s0 := z) ?_ ?_; unfold x; clear x; rotate_left; intro hx; clear_value x; rotate_right)
    | (extract_lets +onlyGivenNames x; clear_value x)
    | split

def execSurveyStep_touch : Nat := 0x5c906000000000000000000200060000000000001000000000000a000000000000400
theorem execSurveyStep_keeps {tm : Nat} {z s : State} (hm : Sub execSurveyStep_touch tm) (hs : Keeps tm z s) (b : Sys2Proof.Bay) (values : List Int) :
    KeepsO tm z (execSurveyStep b values s) := by
  delta execSurveyStep
  repeat' first
    | with_reducible refine KeepsO.next ?_
    | with_reducible refine KeepsO.ite ?_ ?_
    | with_reducible assumption
    | (refine Sub.bit hm ?_; exact rfl)
    | (refine Sub.trans (Sub.of ?_) hm; exact rfl)
    | with_reducible refine Keeps.ite ?_ ?_
    | (refine (?_ : (_ : Bool) = true); exact rfl)
    | with_reducible refine stepS_keeps ?_ ?_ _ _ _ _
    | with_reducible refine stepT_keeps ?_ ?_ _ _ _
    | with_reducible refine stepPulse_keeps ?_ ?_ _ _ _
    | with_reducible refine stepQ_keeps ?_ ?_ _ _ _
    | with_reducible refine stepX_keeps ?_ ?_ _ _ _
    | with_reducible refine begin_keeps ?_ ?_
    | with_reducible refine Keeps.idState ?_
    | with_reducible refine foldl_keeps ?_ _ (fun s a hs => ?_)
    | (extract_lets +onlyGivenNames x; refine Keeps.cut (x := x) (m := tm) (s0 := z) ?_ ?_; unfold x; clear x; rotate_left; intro hx; clear_value x; rotate_right)
    | (extract_lets +onlyGivenNames x; clear_value x)
    | split

end Sys2Proof.Machine
end

