-- ==== Sys2Proof/Laws/KeepsLanes.lean ====
section
/-!
SUPPORT. Sys2Proof/Laws/KeepsLanes.lean: what each function of Machine/Lanes.lean may change: its touch set, and one lemma per function.
-/
namespace Sys2Proof.Machine

open Sys2Proof

def afterContract_touch : Nat := 0x1005697c000000000000000004a00060000006000001000000082008a000000080000000
theorem afterContract_keeps {tm : Nat} {z s : State} (hm : Sub afterContract_touch tm) (hs : Keeps tm z s) (l : Nat) :
    Keeps tm z (State.afterContract s l) := by
  delta State.afterContract
  repeat' first
    | with_reducible assumption
    | (refine Sub.bit hm ?_; exact rfl)
    | (refine Sub.trans (Sub.of ?_) hm; exact rfl)
    | with_reducible refine Keeps.ite ?_ ?_
    | (refine (?_ : (_ : Bool) = true); exact rfl)
    | with_reducible refine put_keeps ?_ ?_ ?_ _ _
    | with_reducible refine requestSurvey_keeps ?_ ?_ _ _
    | with_reducible refine enter_keeps ?_ ?_ _ _
    | with_reducible refine Keeps.idState ?_
    | with_reducible refine foldl_keeps ?_ _ (fun s a hs => ?_)
    | (extract_lets +onlyGivenNames x; refine Keeps.cut (x := x) (m := tm) (s0 := z) ?_ ?_; unfold x; clear x; rotate_left; intro hx; clear_value x; rotate_right)
    | (extract_lets +onlyGivenNames x; clear_value x)
    | split

def compSat_touch : Nat := 0x8000000000000000000000000000000000000010000000000000000000080000000
theorem compSat_keeps {tm : Nat} {z s : State} (hm : Sub compSat_touch tm) (hs : Keeps tm z s) (l : Nat) (hit : Bool) :
    Keeps tm z (State.compSat s l hit) := by
  delta State.compSat
  repeat' first
    | with_reducible assumption
    | (refine Sub.bit hm ?_; exact rfl)
    | (refine Sub.trans (Sub.of ?_) hm; exact rfl)
    | with_reducible refine Keeps.ite ?_ ?_
    | (refine (?_ : (_ : Bool) = true); exact rfl)
    | with_reducible refine put_keeps ?_ ?_ ?_ _ _
    | with_reducible refine record_keeps ?_ ?_ _ _ _ _
    | with_reducible refine Keeps.idState ?_
    | with_reducible refine foldl_keeps ?_ _ (fun s a hs => ?_)
    | (extract_lets +onlyGivenNames x; refine Keeps.cut (x := x) (m := tm) (s0 := z) ?_ ?_; unfold x; clear x; rotate_left; intro hx; clear_value x; rotate_right)
    | (extract_lets +onlyGivenNames x; clear_value x)
    | split

def endSelect_touch : Nat := 0x48000000000000000000000000000000000000010000000000000000000080000000
theorem endSelect_keeps {tm : Nat} {z s : State} (hm : Sub endSelect_touch tm) (hs : Keeps tm z s) (l : Nat) (r : List (Option Int × Sys2Proof.Machine.Comp)) (hit : Bool) (i : Int) :
    Keeps tm z (State.endSelect s l r hit i) := by
  delta State.endSelect
  repeat' first
    | with_reducible assumption
    | (refine Sub.bit hm ?_; exact rfl)
    | (refine Sub.trans (Sub.of ?_) hm; exact rfl)
    | with_reducible refine Keeps.ite ?_ ?_
    | (refine (?_ : (_ : Bool) = true); exact rfl)
    | with_reducible refine compSat_keeps ?_ ?_ _ _
    | with_reducible refine onLane_keeps ?_ ?_ _ _
    | with_reducible refine Keeps.idState ?_
    | with_reducible refine foldl_keeps ?_ _ (fun s a hs => ?_)
    | (extract_lets +onlyGivenNames x; refine Keeps.cut (x := x) (m := tm) (s0 := z) ?_ ?_; unfold x; clear x; rotate_left; intro hx; clear_value x; rotate_right)
    | (extract_lets +onlyGivenNames x; clear_value x)
    | split

def showPick_touch : Nat := 0x48000000000000000000000000000000000000010000000000000000000080000000
theorem showPick_keeps {tm : Nat} {z s : State} (hm : Sub showPick_touch tm) (hs : Keeps tm z s) (l : Nat) (k : Sys2Proof.Machine.Pick) (iref : Int) :
    Keeps tm z (State.showPick s l k iref) := by
  delta State.showPick
  repeat' first
    | with_reducible assumption
    | (refine Sub.bit hm ?_; exact rfl)
    | (refine Sub.trans (Sub.of ?_) hm; exact rfl)
    | with_reducible refine Keeps.ite ?_ ?_
    | (refine (?_ : (_ : Bool) = true); exact rfl)
    | with_reducible refine wr_keeps ?_ ?_ ?_ _ _
    | with_reducible refine wrS_keeps ?_ ?_ ?_ _ _
    | with_reducible refine put_keeps ?_ ?_ ?_ _ _
    | with_reducible refine record_keeps ?_ ?_ _ _ _ _
    | with_reducible refine onLane_keeps ?_ ?_ _ _
    | with_reducible refine Keeps.idState ?_
    | with_reducible refine foldl_keeps ?_ _ (fun s a hs => ?_)
    | (extract_lets +onlyGivenNames x; refine Keeps.cut (x := x) (m := tm) (s0 := z) ?_ ?_; unfold x; clear x; rotate_left; intro hx; clear_value x; rotate_right)
    | (extract_lets +onlyGivenNames x; clear_value x)
    | split

def split_touch : Nat := 0x80000000000000000000000000000000000000000000000000000000000000000000
theorem split_keeps {tm : Nat} {z s : State} (hm : Sub split_touch tm) (hs : Keeps tm z s) (l : Nat) (i : Int) :
    Keeps tm z (State.split s l i) := by
  delta State.split
  repeat' first
    | with_reducible assumption
    | (refine Sub.bit hm ?_; exact rfl)
    | (refine Sub.trans (Sub.of ?_) hm; exact rfl)
    | with_reducible refine Keeps.ite ?_ ?_
    | (refine (?_ : (_ : Bool) = true); exact rfl)
    | with_reducible refine putRefs_keeps ?_ ?_ _
    | with_reducible refine Keeps.idState ?_
    | with_reducible refine foldl_keeps ?_ _ (fun s a hs => ?_)
    | (extract_lets +onlyGivenNames x; refine Keeps.cut (x := x) (m := tm) (s0 := z) ?_ ?_; unfold x; clear x; rotate_left; intro hx; clear_value x; rotate_right)
    | (extract_lets +onlyGivenNames x; clear_value x)
    | split

def applyPick_touch : Nat := 0xc8000000000000000000000000000000000000010000000000000000000080000000
theorem applyPick_keeps {tm : Nat} {z s : State} (hm : Sub applyPick_touch tm) (hs : Keeps tm z s) (l : Nat) (n : Nat) (r : List (Option Int × Sys2Proof.Machine.Comp)) (hit : Bool) (t : Int) :
    Keeps tm z (State.applyPick s l n r hit t) := by
  delta State.applyPick
  repeat' first
    | with_reducible assumption
    | (refine Sub.bit hm ?_; exact rfl)
    | (refine Sub.trans (Sub.of ?_) hm; exact rfl)
    | with_reducible refine Keeps.ite ?_ ?_
    | (refine (?_ : (_ : Bool) = true); exact rfl)
    | with_reducible refine endSelect_keeps ?_ ?_ _ _ _ _
    | with_reducible refine showPick_keeps ?_ ?_ _ _ _
    | with_reducible refine split_keeps ?_ ?_ _ _
    | with_reducible refine Keeps.idState ?_
    | with_reducible refine foldl_keeps ?_ _ (fun s a hs => ?_)
    | (extract_lets +onlyGivenNames x; refine Keeps.cut (x := x) (m := tm) (s0 := z) ?_ ?_; unfold x; clear x; rotate_left; intro hx; clear_value x; rotate_right)
    | (extract_lets +onlyGivenNames x; clear_value x)
    | split

def breachTest_touch : Nat := 0x40000000000000000000000000000000000000000000000000000000000000000000
theorem breachTest_keeps {tm : Nat} {z s : State} (hm : Sub breachTest_touch tm) (hs : Keeps tm z s) (l : Nat) :
    Keeps tm z (State.breachTest s l) := by
  delta State.breachTest
  repeat' first
    | with_reducible assumption
    | (refine Sub.bit hm ?_; exact rfl)
    | (refine Sub.trans (Sub.of ?_) hm; exact rfl)
    | with_reducible refine Keeps.ite ?_ ?_
    | (refine (?_ : (_ : Bool) = true); exact rfl)
    | with_reducible refine onLane_keeps ?_ ?_ _ _
    | with_reducible refine Keeps.idState ?_
    | with_reducible refine foldl_keeps ?_ _ (fun s a hs => ?_)
    | (extract_lets +onlyGivenNames x; refine Keeps.cut (x := x) (m := tm) (s0 := z) ?_ ?_; unfold x; clear x; rotate_left; intro hx; clear_value x; rotate_right)
    | (extract_lets +onlyGivenNames x; clear_value x)
    | split

def cutRamp_touch : Nat := 0xc97c000000000000000004a000600000000000010000000000008000000080000000
theorem cutRamp_keeps {tm : Nat} {z s : State} (hm : Sub cutRamp_touch tm) (hs : Keeps tm z s) (l : Nat) :
    Keeps tm z (State.cutRamp s l) := by
  delta State.cutRamp
  repeat' first
    | with_reducible assumption
    | (refine Sub.bit hm ?_; exact rfl)
    | (refine Sub.trans (Sub.of ?_) hm; exact rfl)
    | with_reducible refine Keeps.ite ?_ ?_
    | (refine (?_ : (_ : Bool) = true); exact rfl)
    | with_reducible refine put_keeps ?_ ?_ ?_ _ _
    | with_reducible refine forEach_keeps ?_ _ (fun s a hs => ?_)
    | with_reducible refine clearLoops_keeps ?_ ?_ _
    | with_reducible refine cutPhase_keeps ?_ ?_ _
    | with_reducible refine finish_keeps ?_ ?_ _ _ _
    | with_reducible refine Keeps.idState ?_
    | with_reducible refine foldl_keeps ?_ _ (fun s a hs => ?_)
    | (extract_lets +onlyGivenNames x; refine Keeps.cut (x := x) (m := tm) (s0 := z) ?_ ?_; unfold x; clear x; rotate_left; intro hx; clear_value x; rotate_right)
    | (extract_lets +onlyGivenNames x; clear_value x)
    | split

def driveSet_touch : Nat := 0x80000000000000000000000000000000000000000000000000000000000000000400
theorem driveSet_keeps {tm : Nat} {z s : State} (hm : Sub driveSet_touch tm) (hs : Keeps tm z s) (l : Nat) (ds : List Nat) (keep : Bool) :
    Keeps tm z (State.driveSet s l ds keep) := by
  delta State.driveSet
  repeat' first
    | with_reducible assumption
    | (refine Sub.bit hm ?_; exact rfl)
    | (refine Sub.trans (Sub.of ?_) hm; exact rfl)
    | with_reducible refine Keeps.ite ?_ ?_
    | (refine (?_ : (_ : Bool) = true); exact rfl)
    | with_reducible refine forEach_keeps ?_ _ (fun s a hs => ?_)
    | with_reducible refine beginPhase_keeps ?_ ?_ _ _ _
    | with_reducible refine stopPhase_keeps ?_ ?_ _ _
    | with_reducible refine setDriven_keeps ?_ ?_ _ _
    | with_reducible refine Keeps.idState ?_
    | with_reducible refine foldl_keeps ?_ _ (fun s a hs => ?_)
    | (extract_lets +onlyGivenNames x; refine Keeps.cut (x := x) (m := tm) (s0 := z) ?_ ?_; unfold x; clear x; rotate_left; intro hx; clear_value x; rotate_right)
    | (extract_lets +onlyGivenNames x; clear_value x)
    | split

def fallBack_touch : Nat := 0x1005e97c000000000000000004a00060000006000001000000082008a000004080000400
theorem fallBack_keeps {tm : Nat} {z s : State} (hm : Sub fallBack_touch tm) (hs : Keeps tm z s) (l : Nat) :
    Keeps tm z (State.fallBack s l) := by
  delta State.fallBack
  repeat' first
    | with_reducible assumption
    | (refine Sub.bit hm ?_; exact rfl)
    | (refine Sub.trans (Sub.of ?_) hm; exact rfl)
    | with_reducible refine Keeps.ite ?_ ?_
    | (refine (?_ : (_ : Bool) = true); exact rfl)
    | with_reducible refine put_keeps ?_ ?_ ?_ _ _
    | with_reducible refine parkLane_keeps ?_ ?_ _ _
    | with_reducible refine record_keeps ?_ ?_ _ _ _ _
    | with_reducible refine onLane_keeps ?_ ?_ _ _
    | with_reducible refine Keeps.idState ?_
    | with_reducible refine foldl_keeps ?_ _ (fun s a hs => ?_)
    | (extract_lets +onlyGivenNames x; refine Keeps.cut (x := x) (m := tm) (s0 := z) ?_ ?_; unfold x; clear x; rotate_left; intro hx; clear_value x; rotate_right)
    | (extract_lets +onlyGivenNames x; clear_value x)
    | split

def giveUp_touch : Nat := 0x49040000000000000000002000600000000000010000000000000000000000000000
theorem giveUp_keeps {tm : Nat} {z s : State} (hm : Sub giveUp_touch tm) (hs : Keeps tm z s) (l : Nat) (by' : Nat) :
    Keeps tm z (State.giveUp s l by') := by
  delta State.giveUp
  repeat' first
    | with_reducible assumption
    | (refine Sub.bit hm ?_; exact rfl)
    | (refine Sub.trans (Sub.of ?_) hm; exact rfl)
    | with_reducible refine Keeps.ite ?_ ?_
    | (refine (?_ : (_ : Bool) = true); exact rfl)
    | with_reducible refine onTenant_keeps ?_ ?_ _ _
    | with_reducible refine record_keeps ?_ ?_ _ _ _ _
    | with_reducible refine onLane_keeps ?_ ?_ _ _
    | with_reducible refine notice_keeps ?_ ?_ _ _ _
    | with_reducible refine Keeps.idState ?_
    | with_reducible refine foldl_keeps ?_ _ (fun s a hs => ?_)
    | (extract_lets +onlyGivenNames x; refine Keeps.cut (x := x) (m := tm) (s0 := z) ?_ ?_; unfold x; clear x; rotate_left; intro hx; clear_value x; rotate_right)
    | (extract_lets +onlyGivenNames x; clear_value x)
    | split

def headTest_touch : Nat := 0x40000000000000000000000000000000000000000000000000000000000080000000
theorem headTest_keeps {tm : Nat} {z s : State} (hm : Sub headTest_touch tm) (hs : Keeps tm z s) (l : Nat) :
    Keeps tm z (State.headTest s l) := by
  delta State.headTest
  repeat' first
    | with_reducible assumption
    | (refine Sub.bit hm ?_; exact rfl)
    | (refine Sub.trans (Sub.of ?_) hm; exact rfl)
    | with_reducible refine Keeps.ite ?_ ?_
    | (refine (?_ : (_ : Bool) = true); exact rfl)
    | with_reducible refine put_keeps ?_ ?_ ?_ _ _
    | with_reducible refine onLane_keeps ?_ ?_ _ _
    | with_reducible refine Keeps.idState ?_
    | with_reducible refine foldl_keeps ?_ _ (fun s a hs => ?_)
    | (extract_lets +onlyGivenNames x; refine Keeps.cut (x := x) (m := tm) (s0 := z) ?_ ?_; unfold x; clear x; rotate_left; intro hx; clear_value x; rotate_right)
    | (extract_lets +onlyGivenNames x; clear_value x)
    | split

def keepFull_touch : Nat := 0x40000000000000000000000000000000000000000000000000000000000000000000
theorem keepFull_keeps {tm : Nat} {z s : State} (hm : Sub keepFull_touch tm) (hs : Keeps tm z s) (l : Nat) (k : Sys2Proof.Machine.Pick) :
    Keeps tm z (State.keepFull s l k) := by
  delta State.keepFull
  repeat' first
    | with_reducible assumption
    | (refine Sub.bit hm ?_; exact rfl)
    | (refine Sub.trans (Sub.of ?_) hm; exact rfl)
    | with_reducible refine Keeps.ite ?_ ?_
    | (refine (?_ : (_ : Bool) = true); exact rfl)
    | with_reducible refine onLane_keeps ?_ ?_ _ _
    | with_reducible refine Keeps.idState ?_
    | with_reducible refine foldl_keeps ?_ _ (fun s a hs => ?_)
    | (extract_lets +onlyGivenNames x; refine Keeps.cut (x := x) (m := tm) (s0 := z) ?_ ?_; unfold x; clear x; rotate_left; intro hx; clear_value x; rotate_right)
    | (extract_lets +onlyGivenNames x; clear_value x)
    | split

def takeLosses_touch : Nat := 0x1005e97c000000000000000004a00060000006000001000000082008a000004080000400
theorem takeLosses_keeps {tm : Nat} {z s : State} (hm : Sub takeLosses_touch tm) (hs : Keeps tm z s) (l : Nat) :
    Keeps tm z (State.takeLosses s l) := by
  delta State.takeLosses
  repeat' first
    | with_reducible assumption
    | (refine Sub.bit hm ?_; exact rfl)
    | (refine Sub.trans (Sub.of ?_) hm; exact rfl)
    | with_reducible refine Keeps.ite ?_ ?_
    | (refine (?_ : (_ : Bool) = true); exact rfl)
    | with_reducible refine show_keeps ?_ ?_ _ _
    | with_reducible refine reorder_keeps ?_ ?_ _
    | with_reducible refine lostPhase_keeps ?_ ?_ _ _
    | with_reducible refine onLane_keeps ?_ ?_ _ _
    | with_reducible refine Keeps.idState ?_
    | with_reducible refine foldl_keeps ?_ _ (fun s a hs => ?_)
    | (extract_lets +onlyGivenNames x; refine Keeps.cut (x := x) (m := tm) (s0 := z) ?_ ?_; unfold x; clear x; rotate_left; intro hx; clear_value x; rotate_right)
    | (extract_lets +onlyGivenNames x; clear_value x)
    | split

def svGainsIn_touch : Nat := 0x80000000000000000000000000000000000000000000000000000000000000000000
theorem svGainsIn_keeps {tm : Nat} {z s : State} (hm : Sub svGainsIn_touch tm) (hs : Keeps tm z s) (v : Sys2Proof.Machine.Survey) :
    Keeps tm z (State.svGainsIn s v) := by
  delta State.svGainsIn
  repeat' first
    | with_reducible assumption
    | (refine Sub.bit hm ?_; exact rfl)
    | (refine Sub.trans (Sub.of ?_) hm; exact rfl)
    | with_reducible refine Keeps.ite ?_ ?_
    | (refine (?_ : (_ : Bool) = true); exact rfl)
    | with_reducible refine onPh_keeps ?_ ?_ _ _
    | with_reducible refine Keeps.idState ?_
    | with_reducible refine foldl_keeps ?_ _ (fun s a hs => ?_)
    | (extract_lets +onlyGivenNames x; refine Keeps.cut (x := x) (m := tm) (s0 := z) ?_ ?_; unfold x; clear x; rotate_left; intro hx; clear_value x; rotate_right)
    | (extract_lets +onlyGivenNames x; clear_value x)
    | split

def latchLane_touch : Nat := 0x1005e97c000000000000000004a00060000006000001000000082008a0000040a0000400
theorem latchLane_keeps {tm : Nat} {z s : State} (hm : Sub latchLane_touch tm) (hs : Keeps tm z s) (l : Nat) :
    Keeps tm z (State.latchLane s l) := by
  delta State.latchLane
  repeat' first
    | with_reducible assumption
    | (refine Sub.bit hm ?_; exact rfl)
    | (refine Sub.trans (Sub.of ?_) hm; exact rfl)
    | with_reducible refine Keeps.ite ?_ ?_
    | (refine (?_ : (_ : Bool) = true); exact rfl)
    | with_reducible refine formGains_keeps ?_ ?_ _
    | with_reducible refine onLane_keeps ?_ ?_ _ _
    | with_reducible refine applyCoefs_keeps ?_ ?_ _
    | with_reducible refine takeLosses_keeps ?_ ?_ _
    | with_reducible refine svGainsIn_keeps ?_ ?_ _
    | with_reducible refine Keeps.idState ?_
    | with_reducible refine foldl_keeps ?_ _ (fun s a hs => ?_)
    | (extract_lets +onlyGivenNames x; refine Keeps.cut (x := x) (m := tm) (s0 := z) ?_ ?_; unfold x; clear x; rotate_left; intro hx; clear_value x; rotate_right)
    | (extract_lets +onlyGivenNames x; clear_value x)
    | split

def leaveOff_touch : Nat := 0x1005e97c000000000000000004a00060000006000001000000082008a000004080000400
theorem leaveOff_keeps {tm : Nat} {z s : State} (hm : Sub leaveOff_touch tm) (hs : Keeps tm z s) (l : Nat) :
    Keeps tm z (State.leaveOff s l) := by
  delta State.leaveOff
  repeat' first
    | with_reducible assumption
    | (refine Sub.bit hm ?_; exact rfl)
    | (refine Sub.trans (Sub.of ?_) hm; exact rfl)
    | with_reducible refine Keeps.ite ?_ ?_
    | (refine (?_ : (_ : Bool) = true); exact rfl)
    | with_reducible refine reorder_keeps ?_ ?_ _
    | with_reducible refine onLane_keeps ?_ ?_ _ _
    | with_reducible refine enter_keeps ?_ ?_ _ _
    | with_reducible refine recheckTrip_keeps ?_ ?_ _
    | with_reducible refine Keeps.idState ?_
    | with_reducible refine foldl_keeps ?_ _ (fun s a hs => ?_)
    | (extract_lets +onlyGivenNames x; refine Keeps.cut (x := x) (m := tm) (s0 := z) ?_ ?_; unfold x; clear x; rotate_left; intro hx; clear_value x; rotate_right)
    | (extract_lets +onlyGivenNames x; clear_value x)
    | split

def startCheck_touch : Nat := 0x40000000000000000000000000000000000000000000000000008000000000000000
theorem startCheck_keeps {tm : Nat} {z s : State} (hm : Sub startCheck_touch tm) (hs : Keeps tm z s) (l : Nat) :
    Keeps tm z (State.startCheck s l) := by
  delta State.startCheck
  repeat' first
    | with_reducible assumption
    | (refine Sub.bit hm ?_; exact rfl)
    | (refine Sub.trans (Sub.of ?_) hm; exact rfl)
    | with_reducible refine Keeps.ite ?_ ?_
    | (refine (?_ : (_ : Bool) = true); exact rfl)
    | with_reducible refine put_keeps ?_ ?_ ?_ _ _
    | with_reducible refine onLane_keeps ?_ ?_ _ _
    | with_reducible refine Keeps.idState ?_
    | with_reducible refine foldl_keeps ?_ _ (fun s a hs => ?_)
    | (extract_lets +onlyGivenNames x; refine Keeps.cut (x := x) (m := tm) (s0 := z) ?_ ?_; unfold x; clear x; rotate_left; intro hx; clear_value x; rotate_right)
    | (extract_lets +onlyGivenNames x; clear_value x)
    | split

def moveTo_touch : Nat := 0x1005e97c000000000000000004a00060000006000001000000082008a000000080000400
theorem moveTo_keeps {tm : Nat} {z s : State} (hm : Sub moveTo_touch tm) (hs : Keeps tm z s) (l : Nat) (c : Sys2Proof.Machine.Cand) :
    Keeps tm z (State.moveTo s l c) := by
  delta State.moveTo
  repeat' first
    | with_reducible assumption
    | (refine Sub.bit hm ?_; exact rfl)
    | (refine Sub.trans (Sub.of ?_) hm; exact rfl)
    | with_reducible refine Keeps.ite ?_ ?_
    | (refine (?_ : (_ : Bool) = true); exact rfl)
    | with_reducible refine wr_keeps ?_ ?_ ?_ _ _
    | with_reducible refine put_keeps ?_ ?_ ?_ _ _
    | with_reducible refine forEach_keeps ?_ _ (fun s a hs => ?_)
    | with_reducible refine show_keeps ?_ ?_ _ _
    | with_reducible refine beginPhase_keeps ?_ ?_ _ _ _
    | with_reducible refine onPh_keeps ?_ ?_ _ _
    | with_reducible refine driveSet_keeps ?_ ?_ _ _ _
    | with_reducible refine stopPhase_keeps ?_ ?_ _ _
    | with_reducible refine setDriven_keeps ?_ ?_ _ _
    | with_reducible refine stopLane_keeps ?_ ?_ _
    | with_reducible refine onLane_keeps ?_ ?_ _ _
    | with_reducible refine startCheck_keeps ?_ ?_ _
    | with_reducible refine enter_keeps ?_ ?_ _ _
    | with_reducible refine Keeps.idState ?_
    | with_reducible refine foldl_keeps ?_ _ (fun s a hs => ?_)
    | (extract_lets +onlyGivenNames x; refine Keeps.cut (x := x) (m := tm) (s0 := z) ?_ ?_; unfold x; clear x; rotate_left; intro hx; clear_value x; rotate_right)
    | (extract_lets +onlyGivenNames x; clear_value x)
    | split

def policy_touch : Nat := 0x1005e97c000000000000000004a00060000006000001000000082008a000000080000400
theorem policy_keeps {tm : Nat} {z s : State} (hm : Sub policy_touch tm) (hs : Keeps tm z s) (l : Nat) (d : Nat) :
    Keeps tm z (State.policy s l d) := by
  delta State.policy
  repeat' first
    | with_reducible assumption
    | (refine Sub.bit hm ?_; exact rfl)
    | (refine Sub.trans (Sub.of ?_) hm; exact rfl)
    | with_reducible refine Keeps.ite ?_ ?_
    | (refine (?_ : (_ : Bool) = true); exact rfl)
    | with_reducible refine onLane_keeps ?_ ?_ _ _
    | with_reducible refine moveTo_keeps ?_ ?_ _ _
    | with_reducible refine Keeps.idState ?_
    | with_reducible refine foldl_keeps ?_ _ (fun s a hs => ?_)
    | (extract_lets +onlyGivenNames x; refine Keeps.cut (x := x) (m := tm) (s0 := z) ?_ ?_; unfold x; clear x; rotate_left; intro hx; clear_value x; rotate_right)
    | (extract_lets +onlyGivenNames x; clear_value x)
    | split

def selectRun_touch : Nat := 0x1c8000000000000000000000000000000000000010000000000000000004080000000
theorem selectRun_keeps {tm : Nat} {z s : State} (hm : Sub selectRun_touch tm) (hs : Keeps tm z s) (l : Nat) (n : Nat) (r : List (Option Int × Sys2Proof.Machine.Comp)) (t : Int) :
    Keeps tm z (State.selectRun s l n r t).1 := by
  delta State.selectRun
  repeat' first
    | with_reducible assumption
    | (dsimp only; with_reducible assumption)
    | (refine Sub.bit hm ?_; exact rfl)
    | (refine Sub.trans (Sub.of ?_) hm; exact rfl)
    | with_reducible refine Keeps.ite ?_ ?_
    | (refine (?_ : (_ : Bool) = true); exact rfl)
    | with_reducible refine shCheck_keeps ?_ ?_ _ _ _ _
    | with_reducible refine offer_keeps ?_ ?_ _ _
    | with_reducible refine showPick_keeps ?_ ?_ _ _ _
    | with_reducible refine onLane_keeps ?_ ?_ _ _
    | with_reducible refine onBay_keeps ?_ ?_ _ _
    | with_reducible refine split_keeps ?_ ?_ _ _
    | with_reducible refine Keeps.idState ?_
    | with_reducible refine foldl_keeps ?_ _ (fun s a hs => ?_)
    | (extract_lets +onlyGivenNames x; refine Keeps.cut (x := x) (m := tm) (s0 := z) ?_ ?_; unfold x; clear x; rotate_left; intro hx; clear_value x; rotate_right)
    | (extract_lets +onlyGivenNames x; clear_value x)
    | split
    | dsimp only

def selectNone_touch : Nat := 0x40000000000000000000000000000000000000000000000000000000000080000000
theorem selectNone_keeps {tm : Nat} {z s : State} (hm : Sub selectNone_touch tm) (hs : Keeps tm z s) (l : Nat) :
    Keeps tm z (State.selectNone s l) := by
  delta State.selectNone
  repeat' first
    | with_reducible assumption
    | (refine Sub.bit hm ?_; exact rfl)
    | (refine Sub.trans (Sub.of ?_) hm; exact rfl)
    | with_reducible refine Keeps.ite ?_ ?_
    | (refine (?_ : (_ : Bool) = true); exact rfl)
    | with_reducible refine wr_keeps ?_ ?_ ?_ _ _
    | with_reducible refine put_keeps ?_ ?_ ?_ _ _
    | with_reducible refine onLane_keeps ?_ ?_ _ _
    | with_reducible refine Keeps.idState ?_
    | with_reducible refine foldl_keeps ?_ _ (fun s a hs => ?_)
    | (extract_lets +onlyGivenNames x; refine Keeps.cut (x := x) (m := tm) (s0 := z) ?_ ?_; unfold x; clear x; rotate_left; intro hx; clear_value x; rotate_right)
    | (extract_lets +onlyGivenNames x; clear_value x)
    | split

def selectRamp_touch : Nat := 0x1005e97c000000000000000004a00060000006000001000000082008a000000080000000
theorem selectRamp_keeps {tm : Nat} {z s : State} (hm : Sub selectRamp_touch tm) (hs : Keeps tm z s) (l : Nat) (n : Nat) (r : List (Option Int × Sys2Proof.Machine.Comp)) (t : Int) :
    Keeps tm z (State.selectRamp s l n r t).1 := by
  delta State.selectRamp
  repeat' first
    | with_reducible assumption
    | (dsimp only; with_reducible assumption)
    | (refine Sub.bit hm ?_; exact rfl)
    | (refine Sub.trans (Sub.of ?_) hm; exact rfl)
    | with_reducible refine Keeps.ite ?_ ?_
    | (refine (?_ : (_ : Bool) = true); exact rfl)
    | with_reducible refine showPick_keeps ?_ ?_ _ _ _
    | with_reducible refine onLane_keeps ?_ ?_ _ _
    | with_reducible refine enter_keeps ?_ ?_ _ _
    | with_reducible refine split_keeps ?_ ?_ _ _
    | with_reducible refine Keeps.idState ?_
    | with_reducible refine foldl_keeps ?_ _ (fun s a hs => ?_)
    | (extract_lets +onlyGivenNames x; refine Keeps.cut (x := x) (m := tm) (s0 := z) ?_ ?_; unfold x; clear x; rotate_left; intro hx; clear_value x; rotate_right)
    | (extract_lets +onlyGivenNames x; clear_value x)
    | split
    | dsimp only

def selectFor_touch : Nat := 0x1005e97c000000000000000004a00060000006000001000000082008a000004080000000
theorem selectFor_keeps {tm : Nat} {z s : State} (hm : Sub selectFor_touch tm) (hs : Keeps tm z s) (l : Nat) (r : List (Option Int × Sys2Proof.Machine.Comp)) (hit : Bool) (t : Int) (full : Sys2Proof.Machine.Pick) :
    Keeps tm z (State.selectFor s l r hit t full) := by
  delta State.selectFor
  repeat' first
    | with_reducible assumption
    | (refine Sub.bit hm ?_; exact rfl)
    | (refine Sub.trans (Sub.of ?_) hm; exact rfl)
    | with_reducible refine Keeps.ite ?_ ?_
    | (refine (?_ : (_ : Bool) = true); exact rfl)
    | with_reducible refine selectRun_keeps ?_ ?_ _ _ _ _
    | with_reducible refine endSelect_keeps ?_ ?_ _ _ _ _
    | with_reducible refine selectNone_keeps ?_ ?_ _
    | with_reducible refine applyPick_keeps ?_ ?_ _ _ _ _ _
    | with_reducible refine selectRamp_keeps ?_ ?_ _ _ _ _
    | with_reducible refine onLane_keeps ?_ ?_ _ _
    | with_reducible refine keepFull_keeps ?_ ?_ _ _
    | with_reducible refine Keeps.idState ?_
    | with_reducible refine foldl_keeps ?_ _ (fun s a hs => ?_)
    | (extract_lets +onlyGivenNames x; refine Keeps.cut (x := x) (m := tm) (s0 := z) ?_ ?_; unfold x; clear x; rotate_left; intro hx; clear_value x; rotate_right)
    | (extract_lets +onlyGivenNames x; clear_value x)
    | split
    | dsimp only

def selectLane_touch : Nat := 0x1005e97c000000000000000004a00060000006000001000000082008a000004080000400
theorem selectLane_keeps {tm : Nat} {z s : State} (hm : Sub selectLane_touch tm) (hs : Keeps tm z s) (l : Nat) :
    Keeps tm z (State.selectLane s l) := by
  delta State.selectLane
  repeat' first
    | with_reducible assumption
    | (refine Sub.bit hm ?_; exact rfl)
    | (refine Sub.trans (Sub.of ?_) hm; exact rfl)
    | with_reducible refine Keeps.ite ?_ ?_
    | (refine (?_ : (_ : Bool) = true); exact rfl)
    | with_reducible refine selectFor_keeps ?_ ?_ _ _ _ _ _
    | with_reducible refine policy_keeps ?_ ?_ _ _
    | with_reducible refine onLane_keeps ?_ ?_ _ _
    | with_reducible refine Keeps.idState ?_
    | with_reducible refine foldl_keeps ?_ _ (fun s a hs => ?_)
    | (extract_lets +onlyGivenNames x; refine Keeps.cut (x := x) (m := tm) (s0 := z) ?_ ?_; unfold x; clear x; rotate_left; intro hx; clear_value x; rotate_right)
    | (extract_lets +onlyGivenNames x; clear_value x)
    | split

def selectSurvey_touch : Nat := 0x5c904000000000000000000200060000000000001000000000000a000000080000400
theorem selectSurvey_keeps {tm : Nat} {z s : State} (hm : Sub selectSurvey_touch tm) (hs : Keeps tm z s) (l : Nat) (v : Sys2Proof.Machine.Survey) :
    Keeps tm z (State.selectSurvey s l v) := by
  delta State.selectSurvey
  repeat' first
    | with_reducible assumption
    | (refine Sub.bit hm ?_; exact rfl)
    | (refine Sub.trans (Sub.of ?_) hm; exact rfl)
    | with_reducible refine Keeps.ite ?_ ?_
    | (refine (?_ : (_ : Bool) = true); exact rfl)
    | with_reducible refine dropWarpAux_keeps ?_ ?_ _
    | with_reducible refine endSteps_keeps ?_ ?_ _ _
    | with_reducible refine record_keeps ?_ ?_ _ _ _ _
    | with_reducible refine showPick_keeps ?_ ?_ _ _ _
    | with_reducible refine rampDown_keeps ?_ ?_ _ _
    | with_reducible refine stopLane_keeps ?_ ?_ _
    | with_reducible refine onLane_keeps ?_ ?_ _ _
    | with_reducible refine onSurvey_keeps ?_ ?_ _ _
    | with_reducible refine split_keeps ?_ ?_ _ _
    | with_reducible refine Keeps.idState ?_
    | with_reducible refine foldl_keeps ?_ _ (fun s a hs => ?_)
    | (extract_lets +onlyGivenNames x; refine Keeps.cut (x := x) (m := tm) (s0 := z) ?_ ?_; unfold x; clear x; rotate_left; intro hx; clear_value x; rotate_right)
    | (extract_lets +onlyGivenNames x; clear_value x)
    | split

def takeMove_touch : Nat := 0x1005e97c000000000000000004a00060000006000001000000082008a000004080000400
theorem takeMove_keeps {tm : Nat} {z s : State} (hm : Sub takeMove_touch tm) (hs : Keeps tm z s) (l : Nat) (m : Sys2Proof.Machine.Move) :
    Keeps tm z (State.takeMove s l m) := by
  delta State.takeMove
  repeat' first
    | with_reducible assumption
    | (refine Sub.bit hm ?_; exact rfl)
    | (refine Sub.trans (Sub.of ?_) hm; exact rfl)
    | with_reducible refine Keeps.ite ?_ ?_
    | (refine (?_ : (_ : Bool) = true); exact rfl)
    | with_reducible refine wr_keeps ?_ ?_ ?_ _ _
    | with_reducible refine put_keeps ?_ ?_ ?_ _ _
    | with_reducible refine halt_keeps ?_ ?_ _ _
    | with_reducible refine onJml_keeps ?_ ?_ _ _
    | with_reducible refine loseLane_keeps ?_ ?_ _
    | with_reducible refine stopLink_keeps ?_ ?_ _
    | with_reducible refine reorder_keeps ?_ ?_ _
    | with_reducible refine startEntry_keeps ?_ ?_ _ _
    | with_reducible refine requestSurvey_keeps ?_ ?_ _ _
    | with_reducible refine parkLane_keeps ?_ ?_ _ _
    | with_reducible refine giveUp_keeps ?_ ?_ _ _
    | with_reducible refine record_keeps ?_ ?_ _ _ _ _
    | with_reducible refine finish_keeps ?_ ?_ _ _ _
    | with_reducible refine noStart_keeps ?_ ?_ _
    | with_reducible refine onLane_keeps ?_ ?_ _ _
    | with_reducible refine cutRamp_keeps ?_ ?_ _
    | with_reducible refine startCheck_keeps ?_ ?_ _
    | with_reducible refine enter_keeps ?_ ?_ _ _
    | with_reducible refine recheckTrip_keeps ?_ ?_ _
    | with_reducible refine afterContract_keeps ?_ ?_ _
    | with_reducible refine Keeps.idState ?_
    | with_reducible refine foldl_keeps ?_ _ (fun s a hs => ?_)
    | (extract_lets +onlyGivenNames x; refine Keeps.cut (x := x) (m := tm) (s0 := z) ?_ ?_; unfold x; clear x; rotate_left; intro hx; clear_value x; rotate_right)
    | (extract_lets +onlyGivenNames x; clear_value x)
    | split

def takeMoves_touch : Nat := 0x1005e97c000000000000000004a00060000006000001000000082008a000004080000400
theorem takeMoves_keeps {tm : Nat} {z s : State} (hm : Sub takeMoves_touch tm) (hs : Keeps tm z s) (l : Nat) :
    Keeps tm z (State.takeMoves s l) := by
  delta State.takeMoves
  repeat' first
    | with_reducible assumption
    | (refine Sub.bit hm ?_; exact rfl)
    | (refine Sub.trans (Sub.of ?_) hm; exact rfl)
    | with_reducible refine Keeps.ite ?_ ?_
    | (refine (?_ : (_ : Bool) = true); exact rfl)
    | with_reducible refine takeMove_keeps ?_ ?_ _ _
    | with_reducible refine onLane_keeps ?_ ?_ _ _
    | with_reducible refine Keeps.idState ?_
    | with_reducible refine foldl_keeps ?_ _ (fun s a hs => ?_)
    | (extract_lets +onlyGivenNames x; refine Keeps.cut (x := x) (m := tm) (s0 := z) ?_ ?_; unfold x; clear x; rotate_left; intro hx; clear_value x; rotate_right)
    | (extract_lets +onlyGivenNames x; clear_value x)
    | split

def execHeartbeatLapsed_touch : Nat := 0x1017f97c000000000000000084a00060000006032043000002882008a00a105080000400
theorem execHeartbeatLapsed_keeps {tm : Nat} {z s : State} (hm : Sub execHeartbeatLapsed_touch tm) (hs : Keeps tm z s) (t : Sys2Proof.HostT) :
    KeepsO tm z (execHeartbeatLapsed t s) := by
  delta execHeartbeatLapsed
  repeat' first
    | with_reducible refine KeepsO.next ?_
    | with_reducible refine KeepsO.ite ?_ ?_
    | with_reducible assumption
    | (refine Sub.bit hm ?_; exact rfl)
    | (refine Sub.trans (Sub.of ?_) hm; exact rfl)
    | with_reducible refine Keeps.ite ?_ ?_
    | (refine (?_ : (_ : Bool) = true); exact rfl)
    | with_reducible refine putBit_keeps ?_ ?_ ?_ _ _ _
    | with_reducible refine forEach_keeps ?_ _ (fun s a hs => ?_)
    | with_reducible refine settle_keeps ?_ ?_
    | with_reducible refine record_keeps ?_ ?_ _ _ _ _
    | with_reducible refine fallBack_keeps ?_ ?_ _
    | with_reducible refine begin_keeps ?_ ?_
    | with_reducible refine notice_keeps ?_ ?_ _ _ _
    | with_reducible refine Keeps.idState ?_
    | with_reducible refine foldl_keeps ?_ _ (fun s a hs => ?_)
    | (extract_lets +onlyGivenNames x; refine Keeps.cut (x := x) (m := tm) (s0 := z) ?_ ?_; unfold x; clear x; rotate_left; intro hx; clear_value x; rotate_right)
    | (extract_lets +onlyGivenNames x; clear_value x)
    | split

def execLaneUpdate_touch : Nat := 0x1017f97c000000000000000084a00060000006032043000002882008a00a1050a0000400
theorem execLaneUpdate_keeps {tm : Nat} {z s : State} (hm : Sub execLaneUpdate_touch tm) (hs : Keeps tm z s) (l : Sys2Proof.Lane) :
    KeepsO tm z (execLaneUpdate l s) := by
  delta execLaneUpdate
  repeat' first
    | with_reducible refine KeepsO.next ?_
    | with_reducible refine KeepsO.ite ?_ ?_
    | with_reducible assumption
    | (refine Sub.bit hm ?_; exact rfl)
    | (refine Sub.trans (Sub.of ?_) hm; exact rfl)
    | with_reducible refine Keeps.ite ?_ ?_
    | (refine (?_ : (_ : Bool) = true); exact rfl)
    | with_reducible refine breachTest_keeps ?_ ?_ _
    | with_reducible refine takeMoves_keeps ?_ ?_ _
    | with_reducible refine selectSurvey_keeps ?_ ?_ _ _
    | with_reducible refine leaveOff_keeps ?_ ?_ _
    | with_reducible refine selectNone_keeps ?_ ?_ _
    | with_reducible refine settle_keeps ?_ ?_
    | with_reducible refine latchLane_keeps ?_ ?_ _
    | with_reducible refine selectLane_keeps ?_ ?_ _
    | with_reducible refine begin_keeps ?_ ?_
    | with_reducible refine headTest_keeps ?_ ?_ _
    | with_reducible refine Keeps.idState ?_
    | with_reducible refine foldl_keeps ?_ _ (fun s a hs => ?_)
    | (extract_lets +onlyGivenNames x; refine Keeps.cut (x := x) (m := tm) (s0 := z) ?_ ?_; unfold x; clear x; rotate_left; intro hx; clear_value x; rotate_right)
    | (extract_lets +onlyGivenNames x; clear_value x)
    | split

def execParkRampEnd_touch : Nat := 0x1017f97c000000000000000084a00060000006032043000002882008a00a105080000400
theorem execParkRampEnd_keeps {tm : Nat} {z s : State} (hm : Sub execParkRampEnd_touch tm) (hs : Keeps tm z s) (l : Sys2Proof.Lane) :
    KeepsO tm z (execParkRampEnd l s) := by
  delta execParkRampEnd
  repeat' first
    | with_reducible refine KeepsO.next ?_
    | with_reducible refine KeepsO.ite ?_ ?_
    | with_reducible assumption
    | (refine Sub.bit hm ?_; exact rfl)
    | (refine Sub.trans (Sub.of ?_) hm; exact rfl)
    | with_reducible refine Keeps.ite ?_ ?_
    | (refine (?_ : (_ : Bool) = true); exact rfl)
    | with_reducible refine forEach_keeps ?_ _ (fun s a hs => ?_)
    | with_reducible refine parkDone_keeps ?_ ?_ _
    | with_reducible refine settle_keeps ?_ ?_
    | with_reducible refine stopPhase_keeps ?_ ?_ _ _
    | with_reducible refine begin_keeps ?_ ?_
    | with_reducible refine Keeps.idState ?_
    | with_reducible refine foldl_keeps ?_ _ (fun s a hs => ?_)
    | (extract_lets +onlyGivenNames x; refine Keeps.cut (x := x) (m := tm) (s0 := z) ?_ ?_; unfold x; clear x; rotate_left; intro hx; clear_value x; rotate_right)
    | (extract_lets +onlyGivenNames x; clear_value x)
    | split

def execPolicyMove_touch : Nat := 0x1017f97c000000000000000084a00060000006032043000002882008a00a105080000400
theorem execPolicyMove_keeps {tm : Nat} {z s : State} (hm : Sub execPolicyMove_touch tm) (hs : Keeps tm z s) (l : Sys2Proof.Lane) :
    KeepsO tm z (execPolicyMove l s) := by
  delta execPolicyMove
  repeat' first
    | with_reducible refine KeepsO.next ?_
    | with_reducible refine KeepsO.ite ?_ ?_
    | with_reducible assumption
    | (refine Sub.bit hm ?_; exact rfl)
    | (refine Sub.trans (Sub.of ?_) hm; exact rfl)
    | with_reducible refine Keeps.ite ?_ ?_
    | (refine (?_ : (_ : Bool) = true); exact rfl)
    | with_reducible refine settle_keeps ?_ ?_
    | with_reducible refine moveTo_keeps ?_ ?_ _ _
    | with_reducible refine begin_keeps ?_ ?_
    | with_reducible refine Keeps.idState ?_
    | with_reducible refine foldl_keeps ?_ _ (fun s a hs => ?_)
    | (extract_lets +onlyGivenNames x; refine Keeps.cut (x := x) (m := tm) (s0 := z) ?_ ?_; unfold x; clear x; rotate_left; intro hx; clear_value x; rotate_right)
    | (extract_lets +onlyGivenNames x; clear_value x)
    | split

def execPrestartEnd_touch : Nat := 0x1004497c000000000000000004a000600000000000010000000000088000000000000000
theorem execPrestartEnd_keeps {tm : Nat} {z s : State} (hm : Sub execPrestartEnd_touch tm) (hs : Keeps tm z s) (l : Sys2Proof.Lane) :
    KeepsO tm z (execPrestartEnd l s) := by
  delta execPrestartEnd
  repeat' first
    | with_reducible refine KeepsO.next ?_
    | with_reducible refine KeepsO.ite ?_ ?_
    | with_reducible assumption
    | (refine Sub.bit hm ?_; exact rfl)
    | (refine Sub.trans (Sub.of ?_) hm; exact rfl)
    | with_reducible refine Keeps.ite ?_ ?_
    | (refine (?_ : (_ : Bool) = true); exact rfl)
    | with_reducible refine wr_keeps ?_ ?_ ?_ _ _
    | with_reducible refine put_keeps ?_ ?_ ?_ _ _
    | with_reducible refine show_keeps ?_ ?_ _ _
    | with_reducible refine record_keeps ?_ ?_ _ _ _ _
    | with_reducible refine finish_keeps ?_ ?_ _ _ _
    | with_reducible refine onLane_keeps ?_ ?_ _ _
    | with_reducible refine begin_keeps ?_ ?_
    | with_reducible refine Keeps.idState ?_
    | with_reducible refine foldl_keeps ?_ _ (fun s a hs => ?_)
    | (extract_lets +onlyGivenNames x; refine Keeps.cut (x := x) (m := tm) (s0 := z) ?_ ?_; unfold x; clear x; rotate_left; intro hx; clear_value x; rotate_right)
    | (extract_lets +onlyGivenNames x; clear_value x)
    | split
    | with_reducible refine upd_tokenQ_keeps ?_ ?_ _

def execPulsePeriod_touch : Nat := 0xc0040000000000000000000000000000000000000000000000000000000000000000
theorem execPulsePeriod_keeps {tm : Nat} {z s : State} (hm : Sub execPulsePeriod_touch tm) (hs : Keeps tm z s) (l : Sys2Proof.Lane) :
    KeepsO tm z (execPulsePeriod l s) := by
  delta execPulsePeriod
  repeat' first
    | with_reducible refine KeepsO.next ?_
    | with_reducible refine KeepsO.ite ?_ ?_
    | with_reducible assumption
    | (refine Sub.bit hm ?_; exact rfl)
    | (refine Sub.trans (Sub.of ?_) hm; exact rfl)
    | with_reducible refine Keeps.ite ?_ ?_
    | (refine (?_ : (_ : Bool) = true); exact rfl)
    | with_reducible refine beginPhase_keeps ?_ ?_ _ _ _
    | with_reducible refine onPh_keeps ?_ ?_ _ _
    | with_reducible refine onLane_keeps ?_ ?_ _ _
    | with_reducible refine begin_keeps ?_ ?_
    | with_reducible refine Keeps.idState ?_
    | with_reducible refine foldl_keeps ?_ _ (fun s a hs => ?_)
    | (extract_lets +onlyGivenNames x; refine Keeps.cut (x := x) (m := tm) (s0 := z) ?_ ?_; unfold x; clear x; rotate_left; intro hx; clear_value x; rotate_right)
    | (extract_lets +onlyGivenNames x; clear_value x)
    | split

def execStartTokenGrant_touch : Nat := 0x3017f97c000000000000000084a00060000006032043000002882008a00a105080000400
theorem execStartTokenGrant_keeps {tm : Nat} {z s : State} (hm : Sub execStartTokenGrant_touch tm) (hs : Keeps tm z s)  :
    KeepsO tm z (execStartTokenGrant s) := by
  delta execStartTokenGrant
  repeat' first
    | with_reducible refine KeepsO.next ?_
    | with_reducible refine KeepsO.ite ?_ ?_
    | with_reducible assumption
    | (refine Sub.bit hm ?_; exact rfl)
    | (refine Sub.trans (Sub.of ?_) hm; exact rfl)
    | with_reducible refine Keeps.ite ?_ ?_
    | (refine (?_ : (_ : Bool) = true); exact rfl)
    | with_reducible refine wr_keeps ?_ ?_ ?_ _ _
    | with_reducible refine put_keeps ?_ ?_ ?_ _ _
    | with_reducible refine forEach_keeps ?_ _ (fun s a hs => ?_)
    | with_reducible refine clearLoops_keeps ?_ ?_ _
    | with_reducible refine beginPhase_keeps ?_ ?_ _ _ _
    | with_reducible refine settle_keeps ?_ ?_
    | with_reducible refine finish_keeps ?_ ?_ _ _ _
    | with_reducible refine setDriven_keeps ?_ ?_ _ _
    | with_reducible refine enter_keeps ?_ ?_ _ _
    | with_reducible refine begin_keeps ?_ ?_
    | with_reducible refine Keeps.idState ?_
    | with_reducible refine foldl_keeps ?_ _ (fun s a hs => ?_)
    | (extract_lets +onlyGivenNames x; refine Keeps.cut (x := x) (m := tm) (s0 := z) ?_ ?_; unfold x; clear x; rotate_left; intro hx; clear_value x; rotate_right)
    | (extract_lets +onlyGivenNames x; clear_value x)
    | split
    | with_reducible refine upd_tokenQ_keeps ?_ ?_ _
    | with_reducible refine upd_lastGrant_keeps ?_ ?_ _
    | with_reducible refine upd_tokenQ_lastGrant_keeps ?_ ?_ ?_ _ _ 

end Sys2Proof.Machine
end

