-- ==== Sys2Proof/Laws/KeepsTimers.lean ====
section
/-!
SUPPORT. Sys2Proof/Laws/KeepsTimers.lean: what each function of Machine/Timers.lean may change: its touch set, and one lemma per function.
-/
namespace Sys2Proof.Machine

open Sys2Proof

def onTimer_touch : Nat := 0x20000000000000000000000000000000000000000000000000000000000000000000000
theorem onTimer_keeps {tm : Nat} {z s : State} (hm : Sub onTimer_touch tm) (hs : Keeps tm z s) (g : Nat) (f : Sys2Proof.Machine.TimerSt → Sys2Proof.Machine.TimerSt) :
    Keeps tm z (State.onTimer s g f) := by
  delta State.onTimer
  repeat' first
    | with_reducible assumption
    | (refine Sub.bit hm ?_; exact rfl)
    | (refine Sub.trans (Sub.of ?_) hm; exact rfl)
    | with_reducible refine Keeps.ite ?_ ?_
    | (refine (?_ : (_ : Bool) = true); exact rfl)
    | with_reducible refine Keeps.idState ?_
    | with_reducible refine foldl_keeps ?_ _ (fun s a hs => ?_)
    | (extract_lets +onlyGivenNames x; refine Keeps.cut (x := x) (m := tm) (s0 := z) ?_ ?_; unfold x; clear x; rotate_left; intro hx; clear_value x; rotate_right)
    | (extract_lets +onlyGivenNames x; clear_value x)
    | split
    | with_reducible refine upd_timers_keeps ?_ ?_ _

def armTimer_touch : Nat := 0x20000000000000000000000000000000000000000000000000000000000000000000000
theorem armTimer_keeps {tm : Nat} {z s : State} (hm : Sub armTimer_touch tm) (hs : Keeps tm z s) (g : Nat) :
    Keeps tm z (State.armTimer s g) := by
  delta State.armTimer
  repeat' first
    | with_reducible assumption
    | (refine Sub.bit hm ?_; exact rfl)
    | (refine Sub.trans (Sub.of ?_) hm; exact rfl)
    | with_reducible refine Keeps.ite ?_ ?_
    | (refine (?_ : (_ : Bool) = true); exact rfl)
    | with_reducible refine forEach_keeps ?_ _ (fun s a hs => ?_)
    | with_reducible refine onTimer_keeps ?_ ?_ _ _
    | with_reducible refine Keeps.idState ?_
    | with_reducible refine foldl_keeps ?_ _ (fun s a hs => ?_)
    | (extract_lets +onlyGivenNames x; refine Keeps.cut (x := x) (m := tm) (s0 := z) ?_ ?_; unfold x; clear x; rotate_left; intro hx; clear_value x; rotate_right)
    | (extract_lets +onlyGivenNames x; clear_value x)
    | split

def chDrop_touch : Nat := 0x20000000000000000000000000000000000000000000000000000000000000000000000
theorem chDrop_keeps {tm : Nat} {z s : State} (hm : Sub chDrop_touch tm) (hs : Keeps tm z s) (g : Nat) (c : Nat) (n : Nat) :
    Keeps tm z (State.chDrop s g c n) := by
  delta State.chDrop
  repeat' first
    | with_reducible assumption
    | (refine Sub.bit hm ?_; exact rfl)
    | (refine Sub.trans (Sub.of ?_) hm; exact rfl)
    | with_reducible refine Keeps.ite ?_ ?_
    | (refine (?_ : (_ : Bool) = true); exact rfl)
    | with_reducible refine onTimer_keeps ?_ ?_ _ _
    | with_reducible refine Keeps.idState ?_
    | with_reducible refine foldl_keeps ?_ _ (fun s a hs => ?_)
    | (extract_lets +onlyGivenNames x; refine Keeps.cut (x := x) (m := tm) (s0 := z) ?_ ?_; unfold x; clear x; rotate_left; intro hx; clear_value x; rotate_right)
    | (extract_lets +onlyGivenNames x; clear_value x)
    | split

def chLost_touch : Nat := 0x20008000000000000000000000000000008000000010000000000000000000000000000
theorem chLost_keeps {tm : Nat} {z s : State} (hm : Sub chLost_touch tm) (hs : Keeps tm z s) (g : Nat) (c : Nat) (code : Nat) :
    Keeps tm z (State.chLost s g c code) := by
  delta State.chLost
  repeat' first
    | with_reducible assumption
    | (refine Sub.bit hm ?_; exact rfl)
    | (refine Sub.trans (Sub.of ?_) hm; exact rfl)
    | with_reducible refine Keeps.ite ?_ ?_
    | (refine (?_ : (_ : Bool) = true); exact rfl)
    | with_reducible refine putBit_keeps ?_ ?_ ?_ _ _ _
    | with_reducible refine record_keeps ?_ ?_ _ _ _ _
    | with_reducible refine chDrop_keeps ?_ ?_ _ _ _
    | with_reducible refine Keeps.idState ?_
    | with_reducible refine foldl_keeps ?_ _ (fun s a hs => ?_)
    | (extract_lets +onlyGivenNames x; refine Keeps.cut (x := x) (m := tm) (s0 := z) ?_ ?_; unfold x; clear x; rotate_left; intro hx; clear_value x; rotate_right)
    | (extract_lets +onlyGivenNames x; clear_value x)
    | split

def driveTio_touch : Nat := 0x40000040000000000000000000000600000000000000000000000000000000000000000
theorem driveTio_keeps {tm : Nat} {z s : State} (hm : Sub driveTio_touch tm) (hs : Keeps tm z s) (n : Nat) (high : Bool) :
    Keeps tm z (State.driveTio s n high) := by
  delta State.driveTio
  repeat' first
    | with_reducible assumption
    | (refine Sub.bit hm ?_; exact rfl)
    | (refine Sub.trans (Sub.of ?_) hm; exact rfl)
    | with_reducible refine Keeps.ite ?_ ?_
    | (refine (?_ : (_ : Bool) = true); exact rfl)
    | with_reducible refine emit_keeps ?_ ?_ _
    | with_reducible refine Keeps.idState ?_
    | with_reducible refine foldl_keeps ?_ _ (fun s a hs => ?_)
    | (extract_lets +onlyGivenNames x; refine Keeps.cut (x := x) (m := tm) (s0 := z) ?_ ?_; unfold x; clear x; rotate_left; intro hx; clear_value x; rotate_right)
    | (extract_lets +onlyGivenNames x; clear_value x)
    | split
    | with_reducible refine upd_tioDrv_keeps ?_ ?_ _

def chPinAct_touch : Nat := 0x40000040000000000000000000000600000000000000000000000000000000000000000
theorem chPinAct_keeps {tm : Nat} {z s : State} (hm : Sub chPinAct_touch tm) (hs : Keeps tm z s) (g : Nat) (c : Nat) :
    Keeps tm z (State.chPinAct s g c) := by
  delta State.chPinAct
  repeat' first
    | with_reducible assumption
    | (refine Sub.bit hm ?_; exact rfl)
    | (refine Sub.trans (Sub.of ?_) hm; exact rfl)
    | with_reducible refine Keeps.ite ?_ ?_
    | (refine (?_ : (_ : Bool) = true); exact rfl)
    | with_reducible refine driveTio_keeps ?_ ?_ _ _
    | with_reducible refine Keeps.idState ?_
    | with_reducible refine foldl_keeps ?_ _ (fun s a hs => ?_)
    | (extract_lets +onlyGivenNames x; refine Keeps.cut (x := x) (m := tm) (s0 := z) ?_ ?_; unfold x; clear x; rotate_left; intro hx; clear_value x; rotate_right)
    | (extract_lets +onlyGivenNames x; clear_value x)
    | split

def chMatch_touch : Nat := 0x6000804000000000000000000000060000c000000010000000000000000000000000000
theorem chMatch_keeps {tm : Nat} {z s : State} (hm : Sub chMatch_touch tm) (hs : Keeps tm z s) (g : Nat) (c : Nat) :
    Keeps tm z (State.chMatch s g c) := by
  delta State.chMatch
  repeat' first
    | with_reducible assumption
    | (refine Sub.bit hm ?_; exact rfl)
    | (refine Sub.trans (Sub.of ?_) hm; exact rfl)
    | with_reducible refine Keeps.ite ?_ ?_
    | (refine (?_ : (_ : Bool) = true); exact rfl)
    | with_reducible refine putBit_keeps ?_ ?_ ?_ _ _ _
    | with_reducible refine chPinAct_keeps ?_ ?_ _ _
    | with_reducible refine onTimer_keeps ?_ ?_ _ _
    | with_reducible refine chLost_keeps ?_ ?_ _ _ _
    | with_reducible refine Keeps.idState ?_
    | with_reducible refine foldl_keeps ?_ _ (fun s a hs => ?_)
    | (extract_lets +onlyGivenNames x; refine Keeps.cut (x := x) (m := tm) (s0 := z) ?_ ?_; unfold x; clear x; rotate_left; intro hx; clear_value x; rotate_right)
    | (extract_lets +onlyGivenNames x; clear_value x)
    | split

def increment_touch : Nat := 0x6000804000000000000000000000060000c000000010000000000000000000000000000
theorem increment_keeps {tm : Nat} {z s : State} (hm : Sub increment_touch tm) (hs : Keeps tm z s) (g : Nat) :
    Keeps tm z (State.increment s g) := by
  delta State.increment
  repeat' first
    | with_reducible assumption
    | (refine Sub.bit hm ?_; exact rfl)
    | (refine Sub.trans (Sub.of ?_) hm; exact rfl)
    | with_reducible refine Keeps.ite ?_ ?_
    | (refine (?_ : (_ : Bool) = true); exact rfl)
    | with_reducible refine putBit_keeps ?_ ?_ ?_ _ _ _
    | with_reducible refine forEach_keeps ?_ _ (fun s a hs => ?_)
    | with_reducible refine onTimer_keeps ?_ ?_ _ _
    | with_reducible refine chMatch_keeps ?_ ?_ _ _
    | with_reducible refine Keeps.idState ?_
    | with_reducible refine foldl_keeps ?_ _ (fun s a hs => ?_)
    | (extract_lets +onlyGivenNames x; refine Keeps.cut (x := x) (m := tm) (s0 := z) ?_ ?_; unfold x; clear x; rotate_left; intro hx; clear_value x; rotate_right)
    | (extract_lets +onlyGivenNames x; clear_value x)
    | split

def tickTimer_touch : Nat := 0x6000804000000000000000000000060000c000000010000000000000000000000000000
theorem tickTimer_keeps {tm : Nat} {z s : State} (hm : Sub tickTimer_touch tm) (hs : Keeps tm z s) (g : Nat) :
    Keeps tm z (State.tickTimer s g) := by
  delta State.tickTimer
  repeat' first
    | with_reducible assumption
    | (refine Sub.bit hm ?_; exact rfl)
    | (refine Sub.trans (Sub.of ?_) hm; exact rfl)
    | with_reducible refine Keeps.ite ?_ ?_
    | (refine (?_ : (_ : Bool) = true); exact rfl)
    | with_reducible refine onTimer_keeps ?_ ?_ _ _
    | with_reducible refine increment_keeps ?_ ?_ _
    | with_reducible refine Keeps.idState ?_
    | with_reducible refine foldl_keeps ?_ _ (fun s a hs => ?_)
    | (extract_lets +onlyGivenNames x; refine Keeps.cut (x := x) (m := tm) (s0 := z) ?_ ?_; unfold x; clear x; rotate_left; intro hx; clear_value x; rotate_right)
    | (extract_lets +onlyGivenNames x; clear_value x)
    | split

def idleTick_touch : Nat := 0x1617f97d000000000000000084a00060000c06032043000002882008a00a105080000400
theorem idleTick_keeps {tm : Nat} {z s : State} (hm : Sub idleTick_touch tm) (hs : Keeps tm z s)  :
    Keeps tm z (State.idleTick s) := by
  delta State.idleTick
  repeat' first
    | with_reducible assumption
    | (refine Sub.bit hm ?_; exact rfl)
    | (refine Sub.trans (Sub.of ?_) hm; exact rfl)
    | with_reducible refine Keeps.ite ?_ ?_
    | (refine (?_ : (_ : Bool) = true); exact rfl)
    | with_reducible refine forEach_keeps ?_ _ (fun s a hs => ?_)
    | with_reducible refine onCtr_keeps ?_ ?_ _ _
    | with_reducible refine settle_keeps ?_ ?_
    | with_reducible refine begin_keeps ?_ ?_
    | with_reducible refine tickTimer_keeps ?_ ?_ _
    | with_reducible refine Keeps.idState ?_
    | with_reducible refine foldl_keeps ?_ _ (fun s a hs => ?_)
    | (extract_lets +onlyGivenNames x; refine Keeps.cut (x := x) (m := tm) (s0 := z) ?_ ?_; unfold x; clear x; rotate_left; intro hx; clear_value x; rotate_right)
    | (extract_lets +onlyGivenNames x; clear_value x)
    | split
    | with_reducible refine upd_tb_keeps ?_ ?_ _

def writeTmrCtl_touch : Nat := 0x20000000000000000000000000000000000000000000000000000000000000000000000
theorem writeTmrCtl_keeps {tm : Nat} {z s : State} (hm : Sub writeTmrCtl_touch tm) (hs : Keeps tm z s) (w : Nat) :
    Keeps tm z (State.writeTmrCtl s w) := by
  delta State.writeTmrCtl
  repeat' first
    | with_reducible assumption
    | (refine Sub.bit hm ?_; exact rfl)
    | (refine Sub.trans (Sub.of ?_) hm; exact rfl)
    | with_reducible refine Keeps.ite ?_ ?_
    | (refine (?_ : (_ : Bool) = true); exact rfl)
    | with_reducible refine forEach_keeps ?_ _ (fun s a hs => ?_)
    | with_reducible refine onTimer_keeps ?_ ?_ _ _
    | with_reducible refine armTimer_keeps ?_ ?_ _
    | with_reducible refine Keeps.idState ?_
    | with_reducible refine foldl_keeps ?_ _ (fun s a hs => ?_)
    | (extract_lets +onlyGivenNames x; refine Keeps.cut (x := x) (m := tm) (s0 := z) ?_ ?_; unfold x; clear x; rotate_left; intro hx; clear_value x; rotate_right)
    | (extract_lets +onlyGivenNames x; clear_value x)
    | split

def writeTmrCfg_touch : Nat := 0x20000000000000000000000000000000040000000000000000000000000000000000000
theorem writeTmrCfg_keeps {tm : Nat} {z s : State} (hm : Sub writeTmrCfg_touch tm) (hs : Keeps tm z s) (g : Nat) (w : Nat) :
    Keeps tm z (State.writeTmrCfg s g w) := by
  delta State.writeTmrCfg
  repeat' first
    | with_reducible assumption
    | (refine Sub.bit hm ?_; exact rfl)
    | (refine Sub.trans (Sub.of ?_) hm; exact rfl)
    | with_reducible refine Keeps.ite ?_ ?_
    | (refine (?_ : (_ : Bool) = true); exact rfl)
    | with_reducible refine onTimer_keeps ?_ ?_ _ _
    | with_reducible refine plainWrite_keeps ?_ ?_ _ _ _ ?_
    | with_reducible refine Keeps.idState ?_
    | with_reducible refine foldl_keeps ?_ _ (fun s a hs => ?_)
    | (extract_lets +onlyGivenNames x; refine Keeps.cut (x := x) (m := tm) (s0 := z) ?_ ?_; unfold x; clear x; rotate_left; intro hx; clear_value x; rotate_right)
    | (extract_lets +onlyGivenNames x; clear_value x)
    | split

def writeTmrCnt_touch : Nat := 0x20000000000000000000000000000000000000000000000000000000000000000000000
theorem writeTmrCnt_keeps {tm : Nat} {z s : State} (hm : Sub writeTmrCnt_touch tm) (hs : Keeps tm z s) (g : Nat) (w : Nat) :
    Keeps tm z (State.writeTmrCnt s g w) := by
  delta State.writeTmrCnt
  repeat' first
    | with_reducible assumption
    | (refine Sub.bit hm ?_; exact rfl)
    | (refine Sub.trans (Sub.of ?_) hm; exact rfl)
    | with_reducible refine Keeps.ite ?_ ?_
    | (refine (?_ : (_ : Bool) = true); exact rfl)
    | with_reducible refine onTimer_keeps ?_ ?_ _ _
    | with_reducible refine Keeps.idState ?_
    | with_reducible refine foldl_keeps ?_ _ (fun s a hs => ?_)
    | (extract_lets +onlyGivenNames x; refine Keeps.cut (x := x) (m := tm) (s0 := z) ?_ ?_; unfold x; clear x; rotate_left; intro hx; clear_value x; rotate_right)
    | (extract_lets +onlyGivenNames x; clear_value x)
    | split

def writeChannel_touch : Nat := 0x60008040000000000000000000000600200000000010000000000000000000000000000
theorem writeChannel_keeps {tm : Nat} {z s : State} (hm : Sub writeChannel_touch tm) (hs : Keeps tm z s) (g : Nat) (c : Nat) (b : Nat) :
    Keeps tm z (State.writeChannel s g c b) := by
  delta State.writeChannel
  repeat' first
    | with_reducible assumption
    | (refine Sub.bit hm ?_; exact rfl)
    | (refine Sub.trans (Sub.of ?_) hm; exact rfl)
    | with_reducible refine Keeps.ite ?_ ?_
    | (refine (?_ : (_ : Bool) = true); exact rfl)
    | with_reducible refine wr_keeps ?_ ?_ ?_ _ _
    | with_reducible refine onTimer_keeps ?_ ?_ _ _
    | with_reducible refine record_keeps ?_ ?_ _ _ _ _
    | with_reducible refine driveTio_keeps ?_ ?_ _ _
    | with_reducible refine Keeps.idState ?_
    | (simp only [Field.up]; refine Sub.bit hm ?_; exact rfl)
    | (dsimp only; refine Sub.bit hm ?_; exact rfl)
    | with_reducible refine foldl_keeps ?_ _ (fun s a hs => ?_)
    | (extract_lets +onlyGivenNames x; refine Keeps.cut (x := x) (m := tm) (s0 := z) ?_ ?_; unfold x; clear x; rotate_left; intro hx; clear_value x; rotate_right)
    | (extract_lets +onlyGivenNames x; clear_value x)
    | split

def writeTmrCcfg_touch : Nat := 0x60008040000000000000000000000600200000000010000000000000000000000000000
theorem writeTmrCcfg_keeps {tm : Nat} {z s : State} (hm : Sub writeTmrCcfg_touch tm) (hs : Keeps tm z s) (g : Nat) (w : Nat) :
    Keeps tm z (State.writeTmrCcfg s g w) := by
  delta State.writeTmrCcfg
  repeat' first
    | with_reducible assumption
    | (refine Sub.bit hm ?_; exact rfl)
    | (refine Sub.trans (Sub.of ?_) hm; exact rfl)
    | with_reducible refine Keeps.ite ?_ ?_
    | (refine (?_ : (_ : Bool) = true); exact rfl)
    | with_reducible refine forEach_keeps ?_ _ (fun s a hs => ?_)
    | with_reducible refine writeChannel_keeps ?_ ?_ _ _ _
    | with_reducible refine Keeps.idState ?_
    | with_reducible refine foldl_keeps ?_ _ (fun s a hs => ?_)
    | (extract_lets +onlyGivenNames x; refine Keeps.cut (x := x) (m := tm) (s0 := z) ?_ ?_; unfold x; clear x; rotate_left; intro hx; clear_value x; rotate_right)
    | (extract_lets +onlyGivenNames x; clear_value x)
    | split

def writeTmrCv_touch : Nat := 0x20000000000000000000000000000000000000000000000000000000000000000000000
theorem writeTmrCv_keeps {tm : Nat} {z s : State} (hm : Sub writeTmrCv_touch tm) (hs : Keeps tm z s) (g : Nat) (w : Nat) :
    Keeps tm z (State.writeTmrCv s g w) := by
  delta State.writeTmrCv
  repeat' first
    | with_reducible assumption
    | (refine Sub.bit hm ?_; exact rfl)
    | (refine Sub.trans (Sub.of ?_) hm; exact rfl)
    | with_reducible refine Keeps.ite ?_ ?_
    | (refine (?_ : (_ : Bool) = true); exact rfl)
    | with_reducible refine onTimer_keeps ?_ ?_ _ _
    | with_reducible refine Keeps.idState ?_
    | with_reducible refine foldl_keeps ?_ _ (fun s a hs => ?_)
    | (extract_lets +onlyGivenNames x; refine Keeps.cut (x := x) (m := tm) (s0 := z) ?_ ?_; unfold x; clear x; rotate_left; intro hx; clear_value x; rotate_right)
    | (extract_lets +onlyGivenNames x; clear_value x)
    | split

def passChannel_touch : Nat := 0x60000040000000000000000000000600004000000000000000000000000000000000000
theorem passChannel_keeps {tm : Nat} {z s : State} (hm : Sub passChannel_touch tm) (hs : Keeps tm z s) (g : Nat) (c : Nat) (adv : Nat) (dist : Nat) :
    Keeps tm z (State.passChannel s g c adv dist) := by
  delta State.passChannel
  repeat' first
    | with_reducible assumption
    | (refine Sub.bit hm ?_; exact rfl)
    | (refine Sub.trans (Sub.of ?_) hm; exact rfl)
    | with_reducible refine Keeps.ite ?_ ?_
    | (refine (?_ : (_ : Bool) = true); exact rfl)
    | with_reducible refine putBit_keeps ?_ ?_ ?_ _ _ _
    | with_reducible refine chPinAct_keeps ?_ ?_ _ _
    | with_reducible refine onTimer_keeps ?_ ?_ _ _
    | with_reducible refine chDrop_keeps ?_ ?_ _ _ _
    | with_reducible refine Keeps.idState ?_
    | with_reducible refine foldl_keeps ?_ _ (fun s a hs => ?_)
    | (extract_lets +onlyGivenNames x; refine Keeps.cut (x := x) (m := tm) (s0 := z) ?_ ?_; unfold x; clear x; rotate_left; intro hx; clear_value x; rotate_right)
    | (extract_lets +onlyGivenNames x; clear_value x)
    | split

def makeupTimer_touch : Nat := 0x6000004000000000000000000000060000c000000000000000000000000000000000000
theorem makeupTimer_keeps {tm : Nat} {z s : State} (hm : Sub makeupTimer_touch tm) (hs : Keeps tm z s) (g : Nat) (m : Nat) :
    Keeps tm z (State.makeupTimer s g m).2.2 := by
  delta State.makeupTimer
  repeat' first
    | with_reducible assumption
    | (dsimp only; with_reducible assumption)
    | (refine Sub.bit hm ?_; exact rfl)
    | (refine Sub.trans (Sub.of ?_) hm; exact rfl)
    | with_reducible refine Keeps.ite ?_ ?_
    | (refine (?_ : (_ : Bool) = true); exact rfl)
    | with_reducible refine putBit_keeps ?_ ?_ ?_ _ _ _
    | with_reducible refine forEach_keeps ?_ _ (fun s a hs => ?_)
    | with_reducible refine onTimer_keeps ?_ ?_ _ _
    | with_reducible refine passChannel_keeps ?_ ?_ _ _ _ _
    | with_reducible refine Keeps.idState ?_
    | with_reducible refine foldl_keeps ?_ _ (fun s a hs => ?_)
    | (extract_lets +onlyGivenNames x; refine Keeps.cut (x := x) (m := tm) (s0 := z) ?_ ?_; unfold x; clear x; rotate_left; intro hx; clear_value x; rotate_right)
    | (extract_lets +onlyGivenNames x; clear_value x)
    | split
    | dsimp only

def makeup_touch : Nat := 0x6000805000000000000000000000060003c000000010000000000000000000000000000
theorem makeup_keeps {tm : Nat} {z s : State} (hm : Sub makeup_touch tm) (hs : Keeps tm z s) (ticks : Nat) :
    Keeps tm z (State.makeup s ticks) := by
  refine record_keeps (Sub.trans (Sub.of rfl) hm) ?_ _ _ _ _
  refine foldl_proj_keeps (fun a : Bool × Bool × State => a.2.2) ?_ _ (fun a g ha => ?_)
  · refine upd_tb_keeps (hm.bit rfl) ?_ _
    exact wr_keeps (f := F.TMR_MKUP_TICKS) (hm.bit rfl) rfl (wr_keeps (f := F.TMR_MKFR_FRAC) (hm.bit rfl) rfl hs _ _) _ _
  · exact makeupTimer_keeps (Sub.trans (Sub.of rfl) hm) ha _ _

def execArm_touch : Nat := 0x2000904000000000000000004a000600000000000010000000000000000000000000000
theorem execArm_keeps {tm : Nat} {z s : State} (hm : Sub execArm_touch tm) (hs : Keeps tm z s) (w : Sys2Proof.BusWrite) :
    KeepsO tm z (execArm w s) := by
  delta execArm
  repeat' first
    | with_reducible refine KeepsO.next ?_
    | with_reducible refine KeepsO.ite ?_ ?_
    | with_reducible assumption
    | (refine Sub.bit hm ?_; exact rfl)
    | (refine Sub.trans (Sub.of ?_) hm; exact rfl)
    | with_reducible refine Keeps.ite ?_ ?_
    | (refine (?_ : (_ : Bool) = true); exact rfl)
    | with_reducible refine writeTmrCtl_keeps ?_ ?_ _
    | with_reducible refine gate_keeps ?_ ?_ _ _ (fun s a0 hs => ?_)
    | with_reducible refine Keeps.idState ?_
    | with_reducible refine foldl_keeps ?_ _ (fun s a hs => ?_)
    | (extract_lets +onlyGivenNames x; refine Keeps.cut (x := x) (m := tm) (s0 := z) ?_ ?_; unfold x; clear x; rotate_left; intro hx; clear_value x; rotate_right)
    | (extract_lets +onlyGivenNames x; clear_value x)
    | split

def execDropClr_touch : Nat := 0x2000904000000000000000004a000600000000000010000000000000000000000000000
theorem execDropClr_keeps {tm : Nat} {z s : State} (hm : Sub execDropClr_touch tm) (hs : Keeps tm z s) (w : Sys2Proof.BusWrite) :
    KeepsO tm z (execDropClr w s) := by
  delta execDropClr
  repeat' first
    | with_reducible refine KeepsO.next ?_
    | with_reducible refine KeepsO.ite ?_ ?_
    | with_reducible assumption
    | (refine Sub.bit hm ?_; exact rfl)
    | (refine Sub.trans (Sub.of ?_) hm; exact rfl)
    | with_reducible refine Keeps.ite ?_ ?_
    | (refine (?_ : (_ : Bool) = true); exact rfl)
    | with_reducible refine writeTmrCtl_keeps ?_ ?_ _
    | with_reducible refine gate_keeps ?_ ?_ _ _ (fun s a0 hs => ?_)
    | with_reducible refine Keeps.idState ?_
    | with_reducible refine foldl_keeps ?_ _ (fun s a hs => ?_)
    | (extract_lets +onlyGivenNames x; refine Keeps.cut (x := x) (m := tm) (s0 := z) ?_ ?_; unfold x; clear x; rotate_left; intro hx; clear_value x; rotate_right)
    | (extract_lets +onlyGivenNames x; clear_value x)
    | split

def execPop_touch : Nat := 0x2000904000000000000000004a000600040000000010000000000000000000000000000
theorem execPop_keeps {tm : Nat} {z s : State} (hm : Sub execPop_touch tm) (hs : Keeps tm z s) (w : Sys2Proof.BusWrite) (g : Sys2Proof.TimerIx) :
    KeepsO tm z (execPop w g s) := by
  delta execPop
  repeat' first
    | with_reducible refine KeepsO.next ?_
    | with_reducible refine KeepsO.ite ?_ ?_
    | with_reducible assumption
    | (refine Sub.bit hm ?_; exact rfl)
    | (refine Sub.trans (Sub.of ?_) hm; exact rfl)
    | with_reducible refine Keeps.ite ?_ ?_
    | (refine (?_ : (_ : Bool) = true); exact rfl)
    | with_reducible refine writeTmrCfg_keeps ?_ ?_ _ _
    | with_reducible refine gate_keeps ?_ ?_ _ _ (fun s a0 hs => ?_)
    | with_reducible refine Keeps.idState ?_
    | with_reducible refine foldl_keeps ?_ _ (fun s a hs => ?_)
    | (extract_lets +onlyGivenNames x; refine Keeps.cut (x := x) (m := tm) (s0 := z) ?_ ?_; unfold x; clear x; rotate_left; intro hx; clear_value x; rotate_right)
    | (extract_lets +onlyGivenNames x; clear_value x)
    | split

def execTimerCapture_touch : Nat := 0x1217f97c000000000000000084a00060000c06032043000002882008a00a105080000400
theorem execTimerCapture_keeps {tm : Nat} {z s : State} (hm : Sub execTimerCapture_touch tm) (hs : Keeps tm z s) (g : Sys2Proof.TimerIx) (c : Fin 4) (rising : Bool) :
    KeepsO tm z (execTimerCapture g c rising s) := by
  delta execTimerCapture
  repeat' first
    | with_reducible refine KeepsO.next ?_
    | with_reducible refine KeepsO.ite ?_ ?_
    | with_reducible assumption
    | (refine Sub.bit hm ?_; exact rfl)
    | (refine Sub.trans (Sub.of ?_) hm; exact rfl)
    | with_reducible refine Keeps.ite ?_ ?_
    | (refine (?_ : (_ : Bool) = true); exact rfl)
    | with_reducible refine putBit_keeps ?_ ?_ ?_ _ _ _
    | with_reducible refine onTimer_keeps ?_ ?_ _ _
    | with_reducible refine settle_keeps ?_ ?_
    | with_reducible refine chLost_keeps ?_ ?_ _ _ _
    | with_reducible refine begin_keeps ?_ ?_
    | with_reducible refine Keeps.idState ?_
    | with_reducible refine foldl_keeps ?_ _ (fun s a hs => ?_)
    | (extract_lets +onlyGivenNames x; refine Keeps.cut (x := x) (m := tm) (s0 := z) ?_ ?_; unfold x; clear x; rotate_left; intro hx; clear_value x; rotate_right)
    | (extract_lets +onlyGivenNames x; clear_value x)
    | split

def execTimerMatch_touch : Nat := 0x1617f97c000000000000000084a00060000c06032043000002882008a00a105080000400
theorem execTimerMatch_keeps {tm : Nat} {z s : State} (hm : Sub execTimerMatch_touch tm) (hs : Keeps tm z s) (g : Sys2Proof.TimerIx) (c : Fin 4) :
    KeepsO tm z (execTimerMatch g c s) := by
  delta execTimerMatch
  repeat' first
    | with_reducible refine KeepsO.next ?_
    | with_reducible refine KeepsO.ite ?_ ?_
    | with_reducible assumption
    | (refine Sub.bit hm ?_; exact rfl)
    | (refine Sub.trans (Sub.of ?_) hm; exact rfl)
    | with_reducible refine Keeps.ite ?_ ?_
    | (refine (?_ : (_ : Bool) = true); exact rfl)
    | with_reducible refine onTimer_keeps ?_ ?_ _ _
    | with_reducible refine chMatch_keeps ?_ ?_ _ _
    | with_reducible refine settle_keeps ?_ ?_
    | with_reducible refine begin_keeps ?_ ?_
    | with_reducible refine Keeps.idState ?_
    | with_reducible refine foldl_keeps ?_ _ (fun s a hs => ?_)
    | (extract_lets +onlyGivenNames x; refine Keeps.cut (x := x) (m := tm) (s0 := z) ?_ ?_; unfold x; clear x; rotate_left; intro hx; clear_value x; rotate_right)
    | (extract_lets +onlyGivenNames x; clear_value x)
    | split

def execTimerOverflow_touch : Nat := 0x1217f97c000000000000000084a00060000806032043000002882008a00a105080000400
theorem execTimerOverflow_keeps {tm : Nat} {z s : State} (hm : Sub execTimerOverflow_touch tm) (hs : Keeps tm z s) (g : Sys2Proof.TimerIx) :
    KeepsO tm z (execTimerOverflow g s) := by
  delta execTimerOverflow
  repeat' first
    | with_reducible refine KeepsO.next ?_
    | with_reducible refine KeepsO.ite ?_ ?_
    | with_reducible assumption
    | (refine Sub.bit hm ?_; exact rfl)
    | (refine Sub.trans (Sub.of ?_) hm; exact rfl)
    | with_reducible refine Keeps.ite ?_ ?_
    | (refine (?_ : (_ : Bool) = true); exact rfl)
    | with_reducible refine putBit_keeps ?_ ?_ ?_ _ _ _
    | with_reducible refine onTimer_keeps ?_ ?_ _ _
    | with_reducible refine settle_keeps ?_ ?_
    | with_reducible refine begin_keeps ?_ ?_
    | with_reducible refine Keeps.idState ?_
    | with_reducible refine foldl_keeps ?_ _ (fun s a hs => ?_)
    | (extract_lets +onlyGivenNames x; refine Keeps.cut (x := x) (m := tm) (s0 := z) ?_ ?_; unfold x; clear x; rotate_left; intro hx; clear_value x; rotate_right)
    | (extract_lets +onlyGivenNames x; clear_value x)
    | split

def execTmrCcfg_touch : Nat := 0x1617f97c000000000000000084a00060020006032043000002882008a00a105080000400
theorem execTmrCcfg_keeps {tm : Nat} {z s : State} (hm : Sub execTmrCcfg_touch tm) (hs : Keeps tm z s) (g : Sys2Proof.TimerIx) (w : Sys2Proof.BusWrite) :
    KeepsO tm z (execTmrCcfg g w s) := by
  delta execTmrCcfg
  repeat' first
    | with_reducible refine KeepsO.next ?_
    | with_reducible refine KeepsO.ite ?_ ?_
    | with_reducible assumption
    | (refine Sub.bit hm ?_; exact rfl)
    | (refine Sub.trans (Sub.of ?_) hm; exact rfl)
    | with_reducible refine Keeps.ite ?_ ?_
    | (refine (?_ : (_ : Bool) = true); exact rfl)
    | with_reducible refine settle_keeps ?_ ?_
    | with_reducible refine writeTmrCcfg_keeps ?_ ?_ _ _
    | with_reducible refine gate_keeps ?_ ?_ _ _ (fun s a0 hs => ?_)
    | with_reducible refine Keeps.idState ?_
    | with_reducible refine foldl_keeps ?_ _ (fun s a hs => ?_)
    | (extract_lets +onlyGivenNames x; refine Keeps.cut (x := x) (m := tm) (s0 := z) ?_ ?_; unfold x; clear x; rotate_left; intro hx; clear_value x; rotate_right)
    | (extract_lets +onlyGivenNames x; clear_value x)
    | split

def execTmrCfg_touch : Nat := 0x2000904000000000000000004a000600040000000010000000000000000000000000000
theorem execTmrCfg_keeps {tm : Nat} {z s : State} (hm : Sub execTmrCfg_touch tm) (hs : Keeps tm z s) (g : Sys2Proof.TimerIx) (w : Sys2Proof.BusWrite) :
    KeepsO tm z (execTmrCfg g w s) := by
  delta execTmrCfg
  repeat' first
    | with_reducible refine KeepsO.next ?_
    | with_reducible refine KeepsO.ite ?_ ?_
    | with_reducible assumption
    | (refine Sub.bit hm ?_; exact rfl)
    | (refine Sub.trans (Sub.of ?_) hm; exact rfl)
    | with_reducible refine Keeps.ite ?_ ?_
    | (refine (?_ : (_ : Bool) = true); exact rfl)
    | with_reducible refine writeTmrCfg_keeps ?_ ?_ _ _
    | with_reducible refine gate_keeps ?_ ?_ _ _ (fun s a0 hs => ?_)
    | with_reducible refine Keeps.idState ?_
    | with_reducible refine foldl_keeps ?_ _ (fun s a hs => ?_)
    | (extract_lets +onlyGivenNames x; refine Keeps.cut (x := x) (m := tm) (s0 := z) ?_ ?_; unfold x; clear x; rotate_left; intro hx; clear_value x; rotate_right)
    | (extract_lets +onlyGivenNames x; clear_value x)
    | split

def execTmrCnt_touch : Nat := 0x2000904000000000000000004a000600000000000010000000000000000000000000000
theorem execTmrCnt_keeps {tm : Nat} {z s : State} (hm : Sub execTmrCnt_touch tm) (hs : Keeps tm z s) (g : Sys2Proof.TimerIx) (w : Sys2Proof.BusWrite) :
    KeepsO tm z (execTmrCnt g w s) := by
  delta execTmrCnt
  repeat' first
    | with_reducible refine KeepsO.next ?_
    | with_reducible refine KeepsO.ite ?_ ?_
    | with_reducible assumption
    | (refine Sub.bit hm ?_; exact rfl)
    | (refine Sub.trans (Sub.of ?_) hm; exact rfl)
    | with_reducible refine Keeps.ite ?_ ?_
    | (refine (?_ : (_ : Bool) = true); exact rfl)
    | with_reducible refine writeTmrCnt_keeps ?_ ?_ _ _
    | with_reducible refine gate_keeps ?_ ?_ _ _ (fun s a0 hs => ?_)
    | with_reducible refine Keeps.idState ?_
    | with_reducible refine foldl_keeps ?_ _ (fun s a hs => ?_)
    | (extract_lets +onlyGivenNames x; refine Keeps.cut (x := x) (m := tm) (s0 := z) ?_ ?_; unfold x; clear x; rotate_left; intro hx; clear_value x; rotate_right)
    | (extract_lets +onlyGivenNames x; clear_value x)
    | split

def execTmrCv_touch : Nat := 0x2000904000000000000000004a000600000000000010000000000000000000000000000
theorem execTmrCv_keeps {tm : Nat} {z s : State} (hm : Sub execTmrCv_touch tm) (hs : Keeps tm z s) (g : Sys2Proof.TimerIx) (w : Sys2Proof.BusWrite) :
    KeepsO tm z (execTmrCv g w s) := by
  delta execTmrCv
  repeat' first
    | with_reducible refine KeepsO.next ?_
    | with_reducible refine KeepsO.ite ?_ ?_
    | with_reducible assumption
    | (refine Sub.bit hm ?_; exact rfl)
    | (refine Sub.trans (Sub.of ?_) hm; exact rfl)
    | with_reducible refine Keeps.ite ?_ ?_
    | (refine (?_ : (_ : Bool) = true); exact rfl)
    | with_reducible refine gate_keeps ?_ ?_ _ _ (fun s a0 hs => ?_)
    | with_reducible refine writeTmrCv_keeps ?_ ?_ _ _
    | with_reducible refine Keeps.idState ?_
    | with_reducible refine foldl_keeps ?_ _ (fun s a hs => ?_)
    | (extract_lets +onlyGivenNames x; refine Keeps.cut (x := x) (m := tm) (s0 := z) ?_ ?_; unfold x; clear x; rotate_left; intro hx; clear_value x; rotate_right)
    | (extract_lets +onlyGivenNames x; clear_value x)
    | split

end Sys2Proof.Machine
end

