-- ==== Sys2Proof/Laws/KeepsSegments.lean ====
section
/-!
SUPPORT. Sys2Proof/Laws/KeepsSegments.lean: what each function of Machine/Segments.lean may change: its touch set, and one lemma per function.
-/
namespace Sys2Proof.Machine

open Sys2Proof

def setHolder_touch : Nat := 0x4100000000000000000
theorem setHolder_keeps {tm : Nat} {z s : State} (hm : Sub setHolder_touch tm) (hs : Keeps tm z s) (g : Nat) (n : Nat) :
    Keeps tm z (State.setHolder s g n) := by
  delta State.setHolder
  repeat' first
    | with_reducible assumption
    | (refine Sub.bit hm ?_; exact rfl)
    | (refine Sub.trans (Sub.of ?_) hm; exact rfl)
    | with_reducible refine Keeps.ite ?_ ?_
    | (refine (?_ : (_ : Bool) = true); exact rfl)
    | with_reducible refine wr_keeps ?_ ?_ ?_ _ _
    | with_reducible refine putBit_keeps ?_ ?_ ?_ _ _ _
    | with_reducible refine Keeps.idState ?_
    | (simp only [Field.up]; refine Sub.bit hm ?_; exact rfl)
    | (dsimp only; refine Sub.bit hm ?_; exact rfl)
    | with_reducible refine foldl_keeps ?_ _ (fun s a hs => ?_)
    | (extract_lets +onlyGivenNames x; refine Keeps.cut (x := x) (m := tm) (s0 := z) ?_ ?_; unfold x; clear x; rotate_left; intro hx; clear_value x; rotate_right)
    | (extract_lets +onlyGivenNames x; clear_value x)
    | split

def claimSeg_touch : Nat := 0x8000000000000000000000000000000000000010000000004100000000000000000
theorem claimSeg_keeps {tm : Nat} {z s : State} (hm : Sub claimSeg_touch tm) (hs : Keeps tm z s) (g : Nat) (who : Nat) :
    Keeps tm z (State.claimSeg s g who) := by
  delta State.claimSeg
  repeat' first
    | with_reducible assumption
    | (refine Sub.bit hm ?_; exact rfl)
    | (refine Sub.trans (Sub.of ?_) hm; exact rfl)
    | with_reducible refine Keeps.ite ?_ ?_
    | (refine (?_ : (_ : Bool) = true); exact rfl)
    | with_reducible refine record_keeps ?_ ?_ _ _ _ _
    | with_reducible refine setHolder_keeps ?_ ?_ _ _
    | with_reducible refine Keeps.idState ?_
    | with_reducible refine foldl_keeps ?_ _ (fun s a hs => ?_)
    | (extract_lets +onlyGivenNames x; refine Keeps.cut (x := x) (m := tm) (s0 := z) ?_ ?_; unfold x; clear x; rotate_left; intro hx; clear_value x; rotate_right)
    | (extract_lets +onlyGivenNames x; clear_value x)
    | split

def releaseSeg_touch : Nat := 0x208000000000000000000000000000000000000010000000004100000000000000000
theorem releaseSeg_keeps {tm : Nat} {z s : State} (hm : Sub releaseSeg_touch tm) (hs : Keeps tm z s) (g : Nat) :
    Keeps tm z (State.releaseSeg s g) := by
  delta State.releaseSeg
  repeat' first
    | with_reducible assumption
    | (refine Sub.bit hm ?_; exact rfl)
    | (refine Sub.trans (Sub.of ?_) hm; exact rfl)
    | with_reducible refine Keeps.ite ?_ ?_
    | (refine (?_ : (_ : Bool) = true); exact rfl)
    | with_reducible refine alert_keeps ?_ ?_ _ _
    | with_reducible refine record_keeps ?_ ?_ _ _ _ _
    | with_reducible refine setHolder_keeps ?_ ?_ _ _
    | with_reducible refine Keeps.idState ?_
    | with_reducible refine foldl_keeps ?_ _ (fun s a hs => ?_)
    | (extract_lets +onlyGivenNames x; refine Keeps.cut (x := x) (m := tm) (s0 := z) ?_ ?_; unfold x; clear x; rotate_left; intro hx; clear_value x; rotate_right)
    | (extract_lets +onlyGivenNames x; clear_value x)
    | split

def showSeg_touch : Nat := 0x1000000000
theorem showSeg_keeps {tm : Nat} {z s : State} (hm : Sub showSeg_touch tm) (hs : Keeps tm z s) (g : Nat) (i : Int) (lim : Bool) :
    Keeps tm z (State.showSeg s g i lim) := by
  delta State.showSeg
  repeat' first
    | with_reducible assumption
    | (refine Sub.bit hm ?_; exact rfl)
    | (refine Sub.trans (Sub.of ?_) hm; exact rfl)
    | with_reducible refine Keeps.ite ?_ ?_
    | (refine (?_ : (_ : Bool) = true); exact rfl)
    | with_reducible refine wrS_keeps ?_ ?_ ?_ _ _
    | with_reducible refine put_keeps ?_ ?_ ?_ _ _
    | with_reducible refine Keeps.idState ?_
    | with_reducible refine foldl_keeps ?_ _ (fun s a hs => ?_)
    | (extract_lets +onlyGivenNames x; refine Keeps.cut (x := x) (m := tm) (s0 := z) ?_ ?_; unfold x; clear x; rotate_left; intro hx; clear_value x; rotate_right)
    | (extract_lets +onlyGivenNames x; clear_value x)
    | split

def enterFollow_touch : Nat := 0x248000000000000000000000000000000000000010000000004100000001000000000
theorem enterFollow_keeps {tm : Nat} {z s : State} (hm : Sub enterFollow_touch tm) (hs : Keeps tm z s) (g : Nat) :
    Keeps tm z (State.enterFollow s g) := by
  delta State.enterFollow
  repeat' first
    | with_reducible assumption
    | (refine Sub.bit hm ?_; exact rfl)
    | (refine Sub.trans (Sub.of ?_) hm; exact rfl)
    | with_reducible refine Keeps.ite ?_ ?_
    | (refine (?_ : (_ : Bool) = true); exact rfl)
    | with_reducible refine wr_keeps ?_ ?_ ?_ _ _
    | with_reducible refine forEach_keeps ?_ _ (fun s a hs => ?_)
    | with_reducible refine releaseSeg_keeps ?_ ?_ _
    | with_reducible refine clearSeg_keeps ?_ ?_ _
    | with_reducible refine showSeg_keeps ?_ ?_ _ _ _
    | with_reducible refine onLane_keeps ?_ ?_ _ _
    | with_reducible refine onSeg_keeps ?_ ?_ _ _
    | with_reducible refine Keeps.idState ?_
    | (simp only [Field.up]; refine Sub.bit hm ?_; exact rfl)
    | (dsimp only; refine Sub.bit hm ?_; exact rfl)
    | with_reducible refine foldl_keeps ?_ _ (fun s a hs => ?_)
    | (extract_lets +onlyGivenNames x; refine Keeps.cut (x := x) (m := tm) (s0 := z) ?_ ?_; unfold x; clear x; rotate_left; intro hx; clear_value x; rotate_right)
    | (extract_lets +onlyGivenNames x; clear_value x)
    | split

def enterForm_touch : Nat := 0x200000000000000000000000000000000000000000000000000100000001000000000
theorem enterForm_keeps {tm : Nat} {z s : State} (hm : Sub enterForm_touch tm) (hs : Keeps tm z s) (g : Nat) :
    Keeps tm z (State.enterForm s g) := by
  delta State.enterForm
  repeat' first
    | with_reducible assumption
    | (refine Sub.bit hm ?_; exact rfl)
    | (refine Sub.trans (Sub.of ?_) hm; exact rfl)
    | with_reducible refine Keeps.ite ?_ ?_
    | (refine (?_ : (_ : Bool) = true); exact rfl)
    | with_reducible refine wr_keeps ?_ ?_ ?_ _ _
    | with_reducible refine showSeg_keeps ?_ ?_ _ _ _
    | with_reducible refine onSeg_keeps ?_ ?_ _ _
    | with_reducible refine Keeps.idState ?_
    | (simp only [Field.up]; refine Sub.bit hm ?_; exact rfl)
    | (dsimp only; refine Sub.bit hm ?_; exact rfl)
    | with_reducible refine foldl_keeps ?_ _ (fun s a hs => ?_)
    | (extract_lets +onlyGivenNames x; refine Keeps.cut (x := x) (m := tm) (s0 := z) ?_ ?_; unfold x; clear x; rotate_left; intro hx; clear_value x; rotate_right)
    | (extract_lets +onlyGivenNames x; clear_value x)
    | split

def writeTrdCfg_touch : Nat := 0x20800000000000000000000000000000000000001000000000e100000000000000000
theorem writeTrdCfg_keeps {tm : Nat} {z s : State} (hm : Sub writeTrdCfg_touch tm) (hs : Keeps tm z s) (w : Nat) :
    Keeps tm z (State.writeTrdCfg s w) := by
  delta State.writeTrdCfg
  repeat' first
    | with_reducible assumption
    | (refine Sub.bit hm ?_; exact rfl)
    | (refine Sub.trans (Sub.of ?_) hm; exact rfl)
    | with_reducible refine Keeps.ite ?_ ?_
    | (refine (?_ : (_ : Bool) = true); exact rfl)
    | with_reducible refine setReg_keeps ?_ ?_ ?_ _ _
    | with_reducible refine forEach_keeps ?_ _ (fun s a hs => ?_)
    | with_reducible refine releaseSeg_keeps ?_ ?_ _
    | with_reducible refine plainWrite_keeps ?_ ?_ _ _ _ ?_
    | with_reducible refine Keeps.idState ?_
    | with_reducible refine foldl_keeps ?_ _ (fun s a hs => ?_)
    | (extract_lets +onlyGivenNames x; refine Keeps.cut (x := x) (m := tm) (s0 := z) ?_ ?_; unfold x; clear x; rotate_left; intro hx; clear_value x; rotate_right)
    | (extract_lets +onlyGivenNames x; clear_value x)
    | split

def segLoop_touch : Nat := 0x208000000000000000000000000000000000000010000000000000000001000000000
theorem segLoop_keeps {tm : Nat} {z s : State} (hm : Sub segLoop_touch tm) (hs : Keeps tm z s) (g : Nat) :
    Keeps tm z (State.segLoop s g) := by
  delta State.segLoop
  repeat' first
    | with_reducible assumption
    | (refine Sub.bit hm ?_; exact rfl)
    | (refine Sub.trans (Sub.of ?_) hm; exact rfl)
    | with_reducible refine Keeps.ite ?_ ?_
    | (refine (?_ : (_ : Bool) = true); exact rfl)
    | with_reducible refine showSeg_keeps ?_ ?_ _ _ _
    | with_reducible refine record_keeps ?_ ?_ _ _ _ _
    | with_reducible refine onSeg_keeps ?_ ?_ _ _
    | with_reducible refine Keeps.idState ?_
    | with_reducible refine foldl_keeps ?_ _ (fun s a hs => ?_)
    | (extract_lets +onlyGivenNames x; refine Keeps.cut (x := x) (m := tm) (s0 := z) ?_ ?_; unfold x; clear x; rotate_left; intro hx; clear_value x; rotate_right)
    | (extract_lets +onlyGivenNames x; clear_value x)
    | split

def trdAnswer_touch : Nat := 0x4000000000000000000000060000000000000000000000c000000000000000000
theorem trdAnswer_keeps {tm : Nat} {z s : State} (hm : Sub trdAnswer_touch tm) (hs : Keeps tm z s) (status : Nat) (data : Nat) :
    Keeps tm z (State.trdAnswer s status data) := by
  delta State.trdAnswer
  repeat' first
    | with_reducible assumption
    | (refine Sub.bit hm ?_; exact rfl)
    | (refine Sub.trans (Sub.of ?_) hm; exact rfl)
    | with_reducible refine Keeps.ite ?_ ?_
    | (refine (?_ : (_ : Bool) = true); exact rfl)
    | with_reducible refine put_keeps ?_ ?_ ?_ _ _
    | with_reducible refine bump_keeps ?_ ?_ ?_ _ _
    | with_reducible refine emit_keeps ?_ ?_ _
    | with_reducible refine Keeps.idState ?_
    | with_reducible refine foldl_keeps ?_ _ (fun s a hs => ?_)
    | (extract_lets +onlyGivenNames x; refine Keeps.cut (x := x) (m := tm) (s0 := z) ?_ ?_; unfold x; clear x; rotate_left; intro hx; clear_value x; rotate_right)
    | (extract_lets +onlyGivenNames x; clear_value x)
    | split

def trdFrameIn_touch : Nat := 0x804000000000000000000000060000000000001000000001c000000000000000000
theorem trdFrameIn_keeps {tm : Nat} {z s : State} (hm : Sub trdFrameIn_touch tm) (hs : Keeps tm z s) (g : Nat) (cmd : Nat) (payload : Nat) (ok : Bool) (f : Sys2Proof.Machine.State → Sys2Proof.Machine.State) (hf : ∀ s, Keeps tm z s → Keeps tm z (f s)) :
    Keeps tm z (State.trdFrameIn s g cmd payload ok f) := by
  delta State.trdFrameIn
  repeat' first
    | with_reducible assumption
    | (refine Sub.bit hm ?_; exact rfl)
    | (refine Sub.trans (Sub.of ?_) hm; exact rfl)
    | with_reducible refine Keeps.ite ?_ ?_
    | (refine (?_ : (_ : Bool) = true); exact rfl)
    | with_reducible refine hf _ ?_
    | with_reducible refine wr_keeps ?_ ?_ ?_ _ _
    | with_reducible refine put_keeps ?_ ?_ ?_ _ _
    | with_reducible refine bump_keeps ?_ ?_ ?_ _ _
    | with_reducible refine record_keeps ?_ ?_ _ _ _ _
    | with_reducible refine begin_keeps ?_ ?_
    | with_reducible refine trdAnswer_keeps ?_ ?_ _ _
    | with_reducible refine Keeps.idState ?_
    | with_reducible refine foldl_keeps ?_ _ (fun s a hs => ?_)
    | (extract_lets +onlyGivenNames x; refine Keeps.cut (x := x) (m := tm) (s0 := z) ?_ ?_; unfold x; clear x; rotate_left; intro hx; clear_value x; rotate_right)
    | (extract_lets +onlyGivenNames x; clear_value x)
    | split

def trdRefuse_touch : Nat := 0x804000000000000000000000060000000000001000000000c000000000000000000
theorem trdRefuse_keeps {tm : Nat} {z s : State} (hm : Sub trdRefuse_touch tm) (hs : Keeps tm z s) (g : Nat) (status : Nat) :
    Keeps tm z (State.trdRefuse s g status) := by
  delta State.trdRefuse
  repeat' first
    | with_reducible assumption
    | (refine Sub.bit hm ?_; exact rfl)
    | (refine Sub.trans (Sub.of ?_) hm; exact rfl)
    | with_reducible refine Keeps.ite ?_ ?_
    | (refine (?_ : (_ : Bool) = true); exact rfl)
    | with_reducible refine record_keeps ?_ ?_ _ _ _ _
    | with_reducible refine trdAnswer_keeps ?_ ?_ _ _
    | with_reducible refine Keeps.idState ?_
    | with_reducible refine foldl_keeps ?_ _ (fun s a hs => ?_)
    | (extract_lets +onlyGivenNames x; refine Keeps.cut (x := x) (m := tm) (s0 := z) ?_ ?_; unfold x; clear x; rotate_left; intro hx; clear_value x; rotate_right)
    | (extract_lets +onlyGivenNames x; clear_value x)
    | split

def trdSet_touch : Nat := 0x20804000000000000000000000060000000000001000000001c100000000000000000
theorem trdSet_keeps {tm : Nat} {z s : State} (hm : Sub trdSet_touch tm) (hs : Keeps tm z s) (g : Nat) (cmd : Nat) (payload : Nat) (ok : Bool) (inRange : Bool) (f : Sys2Proof.Machine.SegSt → Sys2Proof.Machine.SegSt) :
    Keeps tm z (State.trdSet s g cmd payload ok inRange f) := by
  delta State.trdSet
  repeat' first
    | with_reducible assumption
    | (refine Sub.bit hm ?_; exact rfl)
    | (refine Sub.trans (Sub.of ?_) hm; exact rfl)
    | with_reducible refine Keeps.ite ?_ ?_
    | (refine (?_ : (_ : Bool) = true); exact rfl)
    | with_reducible refine claimSeg_keeps ?_ ?_ _ _
    | with_reducible refine record_keeps ?_ ?_ _ _ _ _
    | with_reducible refine trdRefuse_keeps ?_ ?_ _ _
    | with_reducible refine trdFrameIn_keeps ?_ ?_ _ _ _ _ _ (fun s hs => ?_)
    | with_reducible refine trdAnswer_keeps ?_ ?_ _ _
    | with_reducible refine onSeg_keeps ?_ ?_ _ _
    | with_reducible refine Keeps.idState ?_
    | with_reducible refine foldl_keeps ?_ _ (fun s a hs => ?_)
    | (extract_lets +onlyGivenNames x; refine Keeps.cut (x := x) (m := tm) (s0 := z) ?_ ?_; unfold x; clear x; rotate_left; intro hx; clear_value x; rotate_right)
    | (extract_lets +onlyGivenNames x; clear_value x)
    | split

def execGetIbus_touch : Nat := 0x804000000000000000000000060000000000001000000001c000000000000000000
theorem execGetIbus_keeps {tm : Nat} {z s : State} (hm : Sub execGetIbus_touch tm) (hs : Keeps tm z s) (sg : Sys2Proof.Seg) (value : BitVec 24) (parityOk : Bool) :
    KeepsO tm z (execGetIbus sg value parityOk s) := by
  delta execGetIbus
  repeat' first
    | with_reducible refine KeepsO.next ?_
    | with_reducible refine KeepsO.ite ?_ ?_
    | with_reducible assumption
    | (refine Sub.bit hm ?_; exact rfl)
    | (refine Sub.trans (Sub.of ?_) hm; exact rfl)
    | with_reducible refine Keeps.ite ?_ ?_
    | (refine (?_ : (_ : Bool) = true); exact rfl)
    | with_reducible refine trdFrameIn_keeps ?_ ?_ _ _ _ _ _ (fun s hs => ?_)
    | with_reducible refine trdAnswer_keeps ?_ ?_ _ _
    | with_reducible refine Keeps.idState ?_
    | with_reducible refine foldl_keeps ?_ _ (fun s a hs => ?_)
    | (extract_lets +onlyGivenNames x; refine Keeps.cut (x := x) (m := tm) (s0 := z) ?_ ?_; unfold x; clear x; rotate_left; intro hx; clear_value x; rotate_right)
    | (extract_lets +onlyGivenNames x; clear_value x)
    | split

def execGetStatus_touch : Nat := 0x20804000000000000000000000060000000000001000000001c000000000000000000
theorem execGetStatus_keeps {tm : Nat} {z s : State} (hm : Sub execGetStatus_touch tm) (hs : Keeps tm z s) (sg : Sys2Proof.Seg) (value : BitVec 24) (parityOk : Bool) :
    KeepsO tm z (execGetStatus sg value parityOk s) := by
  delta execGetStatus
  repeat' first
    | with_reducible refine KeepsO.next ?_
    | with_reducible refine KeepsO.ite ?_ ?_
    | with_reducible assumption
    | (refine Sub.bit hm ?_; exact rfl)
    | (refine Sub.trans (Sub.of ?_) hm; exact rfl)
    | with_reducible refine Keeps.ite ?_ ?_
    | (refine (?_ : (_ : Bool) = true); exact rfl)
    | with_reducible refine trdFrameIn_keeps ?_ ?_ _ _ _ _ _ (fun s hs => ?_)
    | with_reducible refine trdAnswer_keeps ?_ ?_ _ _
    | with_reducible refine onSeg_keeps ?_ ?_ _ _
    | with_reducible refine Keeps.idState ?_
    | with_reducible refine foldl_keeps ?_ _ (fun s a hs => ?_)
    | (extract_lets +onlyGivenNames x; refine Keeps.cut (x := x) (m := tm) (s0 := z) ?_ ?_; unfold x; clear x; rotate_left; intro hx; clear_value x; rotate_right)
    | (extract_lets +onlyGivenNames x; clear_value x)
    | split

def execSegCapacity_touch : Nat := 0x208040000000000000000000000000000000000010000000000000000001000000000
theorem execSegCapacity_keeps {tm : Nat} {z s : State} (hm : Sub execSegCapacity_touch tm) (hs : Keeps tm z s) (sg : Sys2Proof.Seg) :
    KeepsO tm z (execSegCapacity sg s) := by
  delta execSegCapacity
  repeat' first
    | with_reducible refine KeepsO.next ?_
    | with_reducible refine KeepsO.ite ?_ ?_
    | with_reducible assumption
    | (refine Sub.bit hm ?_; exact rfl)
    | (refine Sub.trans (Sub.of ?_) hm; exact rfl)
    | with_reducible refine Keeps.ite ?_ ?_
    | (refine (?_ : (_ : Bool) = true); exact rfl)
    | with_reducible refine put_keeps ?_ ?_ ?_ _ _
    | with_reducible refine alert_keeps ?_ ?_ _ _
    | with_reducible refine record_keeps ?_ ?_ _ _ _ _
    | with_reducible refine begin_keeps ?_ ?_
    | with_reducible refine onSeg_keeps ?_ ?_ _ _
    | with_reducible refine Keeps.idState ?_
    | with_reducible refine foldl_keeps ?_ _ (fun s a hs => ?_)
    | (extract_lets +onlyGivenNames x; refine Keeps.cut (x := x) (m := tm) (s0 := z) ?_ ?_; unfold x; clear x; rotate_left; intro hx; clear_value x; rotate_right)
    | (extract_lets +onlyGivenNames x; clear_value x)
    | split

def execSegmentSetMode_touch : Nat := 0x209fc000000000000000004a000600000000000010000000000000000000000000000
theorem execSegmentSetMode_keeps {tm : Nat} {z s : State} (hm : Sub execSegmentSetMode_touch tm) (hs : Keeps tm z s) (h : Sys2Proof.CmdHdr) (mode : Sys2Proof.Byte) :
    KeepsO tm z (execSegmentSetMode h mode s) := by
  delta execSegmentSetMode
  repeat' first
    | with_reducible refine KeepsO.next ?_
    | with_reducible refine KeepsO.ite ?_ ?_
    | with_reducible assumption
    | (refine Sub.bit hm ?_; exact rfl)
    | (refine Sub.trans (Sub.of ?_) hm; exact rfl)
    | with_reducible refine Keeps.ite ?_ ?_
    | (refine (?_ : (_ : Bool) = true); exact rfl)
    | with_reducible refine complete_keeps ?_ ?_ _ _ _
    | with_reducible refine dispatch_keeps ?_ ?_ _ _ _ (fun s a0 hs => ?_)
    | with_reducible refine hold_keeps ?_ ?_ _ _
    | with_reducible refine onSeg_keeps ?_ ?_ _ _
    | with_reducible refine Keeps.idState ?_
    | with_reducible refine foldl_keeps ?_ _ (fun s a hs => ?_)
    | (extract_lets +onlyGivenNames x; refine Keeps.cut (x := x) (m := tm) (s0 := z) ?_ ?_; unfold x; clear x; rotate_left; intro hx; clear_value x; rotate_right)
    | (extract_lets +onlyGivenNames x; clear_value x)
    | split

def execSegmentSetSharing_touch : Nat := 0x49f4000000000000000004a00e600000000000010000000000100000000000000000
theorem execSegmentSetSharing_keeps {tm : Nat} {z s : State} (hm : Sub execSegmentSetSharing_touch tm) (hs : Keeps tm z s) (h : Sys2Proof.CmdHdr) (policy : Sys2Proof.Byte) (buf : Sys2Proof.Dma) :
    KeepsO tm z (execSegmentSetSharing h policy buf s) := by
  delta execSegmentSetSharing
  repeat' first
    | with_reducible refine KeepsO.next ?_
    | with_reducible refine KeepsO.ite ?_ ?_
    | with_reducible assumption
    | (refine Sub.bit hm ?_; exact rfl)
    | (refine Sub.trans (Sub.of ?_) hm; exact rfl)
    | with_reducible refine Keeps.ite ?_ ?_
    | (refine (?_ : (_ : Bool) = true); exact rfl)
    | with_reducible refine wr_keeps ?_ ?_ ?_ _ _
    | with_reducible refine forEach_keeps ?_ _ (fun s a hs => ?_)
    | with_reducible refine withBuf_keeps ?_ ?_ _ _ _ (fun s a0 hs => ?_)
    | with_reducible refine complete_keeps ?_ ?_ _ _ _
    | with_reducible refine dispatch_keeps ?_ ?_ _ _ _ (fun s a0 hs => ?_)
    | with_reducible refine onLane_keeps ?_ ?_ _ _
    | with_reducible refine Keeps.idState ?_
    | (simp only [Field.up]; refine Sub.bit hm ?_; exact rfl)
    | (dsimp only; refine Sub.bit hm ?_; exact rfl)
    | with_reducible refine foldl_keeps ?_ _ (fun s a hs => ?_)
    | (extract_lets +onlyGivenNames x; refine Keeps.cut (x := x) (m := tm) (s0 := z) ?_ ?_; unfold x; clear x; rotate_left; intro hx; clear_value x; rotate_right)
    | (extract_lets +onlyGivenNames x; clear_value x)
    | split

def execSegmentSetTarget_touch : Nat := 0x209f4000000000000000004a000600000000000010000000004100000000000000000
theorem execSegmentSetTarget_keeps {tm : Nat} {z s : State} (hm : Sub execSegmentSetTarget_touch tm) (hs : Keeps tm z s) (h : Sys2Proof.CmdHdr) (mask : Sys2Proof.Byte) (cmdV : Sys2Proof.Word) (slew : Sys2Proof.Word) (droop : Sys2Proof.Word) (plim : Sys2Proof.Word) :
    KeepsO tm z (execSegmentSetTarget h mask cmdV slew droop plim s) := by
  delta execSegmentSetTarget
  repeat' first
    | with_reducible refine KeepsO.next ?_
    | with_reducible refine KeepsO.ite ?_ ?_
    | with_reducible assumption
    | (refine Sub.bit hm ?_; exact rfl)
    | (refine Sub.trans (Sub.of ?_) hm; exact rfl)
    | with_reducible refine Keeps.ite ?_ ?_
    | (refine (?_ : (_ : Bool) = true); exact rfl)
    | with_reducible refine complete_keeps ?_ ?_ _ _ _
    | with_reducible refine claimSeg_keeps ?_ ?_ _ _
    | with_reducible refine record_keeps ?_ ?_ _ _ _ _
    | with_reducible refine dispatch_keeps ?_ ?_ _ _ _ (fun s a0 hs => ?_)
    | with_reducible refine onSeg_keeps ?_ ?_ _ _
    | with_reducible refine Keeps.idState ?_
    | with_reducible refine foldl_keeps ?_ _ (fun s a hs => ?_)
    | (extract_lets +onlyGivenNames x; refine Keeps.cut (x := x) (m := tm) (s0 := z) ?_ ?_; unfold x; clear x; rotate_left; intro hx; clear_value x; rotate_right)
    | (extract_lets +onlyGivenNames x; clear_value x)
    | split

def execSegmentUpdate_touch : Nat := 0x1017f97c000000000000000084a00060000006032043000002882418a00a105480000400
theorem execSegmentUpdate_keeps {tm : Nat} {z s : State} (hm : Sub execSegmentUpdate_touch tm) (hs : Keeps tm z s) (sg : Sys2Proof.Seg) :
    KeepsO tm z (execSegmentUpdate sg s) := by
  delta execSegmentUpdate
  repeat' first
    | with_reducible refine KeepsO.next ?_
    | with_reducible refine KeepsO.ite ?_ ?_
    | with_reducible assumption
    | (refine Sub.bit hm ?_; exact rfl)
    | (refine Sub.trans (Sub.of ?_) hm; exact rfl)
    | with_reducible refine Keeps.ite ?_ ?_
    | (refine (?_ : (_ : Bool) = true); exact rfl)
    | with_reducible refine put_keeps ?_ ?_ ?_ _ _
    | with_reducible refine segLoop_keeps ?_ ?_ _
    | with_reducible refine enterFollow_keeps ?_ ?_ _
    | with_reducible refine settle_keeps ?_ ?_
    | with_reducible refine record_keeps ?_ ?_ _ _ _ _
    | with_reducible refine finish_keeps ?_ ?_ _ _ _
    | with_reducible refine enterForm_keeps ?_ ?_ _
    | with_reducible refine begin_keeps ?_ ?_
    | with_reducible refine onSeg_keeps ?_ ?_ _ _
    | with_reducible refine Keeps.idState ?_
    | with_reducible refine foldl_keeps ?_ _ (fun s a hs => ?_)
    | (extract_lets +onlyGivenNames x; refine Keeps.cut (x := x) (m := tm) (s0 := z) ?_ ?_; unfold x; clear x; rotate_left; intro hx; clear_value x; rotate_right)
    | (extract_lets +onlyGivenNames x; clear_value x)
    | split

def execSetDroop_touch : Nat := 0x20804000000000000000000000060000000000001000000001c100000000000000000
theorem execSetDroop_keeps {tm : Nat} {z s : State} (hm : Sub execSetDroop_touch tm) (hs : Keeps tm z s) (sg : Sys2Proof.Seg) (value : BitVec 24) (parityOk : Bool) :
    KeepsO tm z (execSetDroop sg value parityOk s) := by
  delta execSetDroop
  repeat' first
    | with_reducible refine KeepsO.next ?_
    | with_reducible refine KeepsO.ite ?_ ?_
    | with_reducible assumption
    | (refine Sub.bit hm ?_; exact rfl)
    | (refine Sub.trans (Sub.of ?_) hm; exact rfl)
    | with_reducible refine Keeps.ite ?_ ?_
    | (refine (?_ : (_ : Bool) = true); exact rfl)
    | with_reducible refine trdSet_keeps ?_ ?_ _ _ _ _ _ _
    | with_reducible refine Keeps.idState ?_
    | with_reducible refine foldl_keeps ?_ _ (fun s a hs => ?_)
    | (extract_lets +onlyGivenNames x; refine Keeps.cut (x := x) (m := tm) (s0 := z) ?_ ?_; unfold x; clear x; rotate_left; intro hx; clear_value x; rotate_right)
    | (extract_lets +onlyGivenNames x; clear_value x)
    | split

def execSetPlimit_touch : Nat := 0x20804000000000000000000000060000000000001000000001c100000000000000000
theorem execSetPlimit_keeps {tm : Nat} {z s : State} (hm : Sub execSetPlimit_touch tm) (hs : Keeps tm z s) (sg : Sys2Proof.Seg) (value : BitVec 24) (parityOk : Bool) :
    KeepsO tm z (execSetPlimit sg value parityOk s) := by
  delta execSetPlimit
  repeat' first
    | with_reducible refine KeepsO.next ?_
    | with_reducible refine KeepsO.ite ?_ ?_
    | with_reducible assumption
    | (refine Sub.bit hm ?_; exact rfl)
    | (refine Sub.trans (Sub.of ?_) hm; exact rfl)
    | with_reducible refine Keeps.ite ?_ ?_
    | (refine (?_ : (_ : Bool) = true); exact rfl)
    | with_reducible refine trdSet_keeps ?_ ?_ _ _ _ _ _ _
    | with_reducible refine Keeps.idState ?_
    | with_reducible refine foldl_keeps ?_ _ (fun s a hs => ?_)
    | (extract_lets +onlyGivenNames x; refine Keeps.cut (x := x) (m := tm) (s0 := z) ?_ ?_; unfold x; clear x; rotate_left; intro hx; clear_value x; rotate_right)
    | (extract_lets +onlyGivenNames x; clear_value x)
    | split

def execSetSlew_touch : Nat := 0x20804000000000000000000000060000000000001000000001c100000000000000000
theorem execSetSlew_keeps {tm : Nat} {z s : State} (hm : Sub execSetSlew_touch tm) (hs : Keeps tm z s) (sg : Sys2Proof.Seg) (value : BitVec 24) (parityOk : Bool) :
    KeepsO tm z (execSetSlew sg value parityOk s) := by
  delta execSetSlew
  repeat' first
    | with_reducible refine KeepsO.next ?_
    | with_reducible refine KeepsO.ite ?_ ?_
    | with_reducible assumption
    | (refine Sub.bit hm ?_; exact rfl)
    | (refine Sub.trans (Sub.of ?_) hm; exact rfl)
    | with_reducible refine Keeps.ite ?_ ?_
    | (refine (?_ : (_ : Bool) = true); exact rfl)
    | with_reducible refine trdSet_keeps ?_ ?_ _ _ _ _ _ _
    | with_reducible refine Keeps.idState ?_
    | with_reducible refine foldl_keeps ?_ _ (fun s a hs => ?_)
    | (extract_lets +onlyGivenNames x; refine Keeps.cut (x := x) (m := tm) (s0 := z) ?_ ?_; unfold x; clear x; rotate_left; intro hx; clear_value x; rotate_right)
    | (extract_lets +onlyGivenNames x; clear_value x)
    | split

def execSetVbus_touch : Nat := 0x20804000000000000000000000060000000000001000000001c100000000000000000
theorem execSetVbus_keeps {tm : Nat} {z s : State} (hm : Sub execSetVbus_touch tm) (hs : Keeps tm z s) (sg : Sys2Proof.Seg) (value : BitVec 24) (parityOk : Bool) :
    KeepsO tm z (execSetVbus sg value parityOk s) := by
  delta execSetVbus
  repeat' first
    | with_reducible refine KeepsO.next ?_
    | with_reducible refine KeepsO.ite ?_ ?_
    | with_reducible assumption
    | (refine Sub.bit hm ?_; exact rfl)
    | (refine Sub.trans (Sub.of ?_) hm; exact rfl)
    | with_reducible refine Keeps.ite ?_ ?_
    | (refine (?_ : (_ : Bool) = true); exact rfl)
    | with_reducible refine trdSet_keeps ?_ ?_ _ _ _ _ _ _
    | with_reducible refine Keeps.idState ?_
    | with_reducible refine foldl_keeps ?_ _ (fun s a hs => ?_)
    | (extract_lets +onlyGivenNames x; refine Keeps.cut (x := x) (m := tm) (s0 := z) ?_ ?_; unfold x; clear x; rotate_left; intro hx; clear_value x; rotate_right)
    | (extract_lets +onlyGivenNames x; clear_value x)
    | split

def execSharingCompute_touch : Nat := 0x40040000000000000000000000000000000000000000000000000000000000000000
theorem execSharingCompute_keeps {tm : Nat} {z s : State} (hm : Sub execSharingCompute_touch tm) (hs : Keeps tm z s) (sg : Sys2Proof.Seg) :
    KeepsO tm z (execSharingCompute sg s) := by
  delta execSharingCompute
  repeat' first
    | with_reducible refine KeepsO.next ?_
    | with_reducible refine KeepsO.ite ?_ ?_
    | with_reducible assumption
    | (refine Sub.bit hm ?_; exact rfl)
    | (refine Sub.trans (Sub.of ?_) hm; exact rfl)
    | with_reducible refine Keeps.ite ?_ ?_
    | (refine (?_ : (_ : Bool) = true); exact rfl)
    | with_reducible refine onLane_keeps ?_ ?_ _ _
    | with_reducible refine begin_keeps ?_ ?_
    | with_reducible refine Keeps.idState ?_
    | with_reducible refine foldl_keeps ?_ _ (fun s a hs => ?_)
    | (extract_lets +onlyGivenNames x; refine Keeps.cut (x := x) (m := tm) (s0 := z) ?_ ?_; unfold x; clear x; rotate_left; intro hx; clear_value x; rotate_right)
    | (extract_lets +onlyGivenNames x; clear_value x)
    | split

def execTrdAbort_touch : Nat := 0x804000000000000000000000000000000000001000000000c000000000000000000
theorem execTrdAbort_keeps {tm : Nat} {z s : State} (hm : Sub execTrdAbort_touch tm) (hs : Keeps tm z s) (response : Bool) :
    KeepsO tm z (execTrdAbort response s) := by
  delta execTrdAbort
  repeat' first
    | with_reducible refine KeepsO.next ?_
    | with_reducible refine KeepsO.ite ?_ ?_
    | with_reducible assumption
    | (refine Sub.bit hm ?_; exact rfl)
    | (refine Sub.trans (Sub.of ?_) hm; exact rfl)
    | with_reducible refine Keeps.ite ?_ ?_
    | (refine (?_ : (_ : Bool) = true); exact rfl)
    | with_reducible refine put_keeps ?_ ?_ ?_ _ _
    | with_reducible refine bump_keeps ?_ ?_ ?_ _ _
    | with_reducible refine record_keeps ?_ ?_ _ _ _ _
    | with_reducible refine begin_keeps ?_ ?_
    | with_reducible refine Keeps.idState ?_
    | with_reducible refine foldl_keeps ?_ _ (fun s a hs => ?_)
    | (extract_lets +onlyGivenNames x; refine Keeps.cut (x := x) (m := tm) (s0 := z) ?_ ?_; unfold x; clear x; rotate_left; intro hx; clear_value x; rotate_right)
    | (extract_lets +onlyGivenNames x; clear_value x)
    | split

def execTrdCfg_touch : Nat := 0x20904000000000000000004a00060000000000001000000000e100000000000000000
theorem execTrdCfg_keeps {tm : Nat} {z s : State} (hm : Sub execTrdCfg_touch tm) (hs : Keeps tm z s) (w : Sys2Proof.BusWrite) :
    KeepsO tm z (execTrdCfg w s) := by
  delta execTrdCfg
  repeat' first
    | with_reducible refine KeepsO.next ?_
    | with_reducible refine KeepsO.ite ?_ ?_
    | with_reducible assumption
    | (refine Sub.bit hm ?_; exact rfl)
    | (refine Sub.trans (Sub.of ?_) hm; exact rfl)
    | with_reducible refine Keeps.ite ?_ ?_
    | (refine (?_ : (_ : Bool) = true); exact rfl)
    | with_reducible refine writeTrdCfg_keeps ?_ ?_ _
    | with_reducible refine gate_keeps ?_ ?_ _ _ (fun s a0 hs => ?_)
    | with_reducible refine Keeps.idState ?_
    | with_reducible refine foldl_keeps ?_ _ (fun s a hs => ?_)
    | (extract_lets +onlyGivenNames x; refine Keeps.cut (x := x) (m := tm) (s0 := z) ?_ ?_; unfold x; clear x; rotate_left; intro hx; clear_value x; rotate_right)
    | (extract_lets +onlyGivenNames x; clear_value x)
    | split

def execTrdCntClr_touch : Nat := 0x20904000000000000000004a00060000000000001000000000e100000000000000000
theorem execTrdCntClr_keeps {tm : Nat} {z s : State} (hm : Sub execTrdCntClr_touch tm) (hs : Keeps tm z s) (w : Sys2Proof.BusWrite) :
    KeepsO tm z (execTrdCntClr w s) := by
  delta execTrdCntClr
  repeat' first
    | with_reducible refine KeepsO.next ?_
    | with_reducible refine KeepsO.ite ?_ ?_
    | with_reducible assumption
    | (refine Sub.bit hm ?_; exact rfl)
    | (refine Sub.trans (Sub.of ?_) hm; exact rfl)
    | with_reducible refine Keeps.ite ?_ ?_
    | (refine (?_ : (_ : Bool) = true); exact rfl)
    | with_reducible refine writeTrdCfg_keeps ?_ ?_ _
    | with_reducible refine gate_keeps ?_ ?_ _ _ (fun s a0 hs => ?_)
    | with_reducible refine Keeps.idState ?_
    | with_reducible refine foldl_keeps ?_ _ (fun s a hs => ?_)
    | (extract_lets +onlyGivenNames x; refine Keeps.cut (x := x) (m := tm) (s0 := z) ?_ ?_; unfold x; clear x; rotate_left; intro hx; clear_value x; rotate_right)
    | (extract_lets +onlyGivenNames x; clear_value x)
    | split

def execTrdUnknown_touch : Nat := 0x804000000000000000000000060000000000001000000001c000000000000000000
theorem execTrdUnknown_keeps {tm : Nat} {z s : State} (hm : Sub execTrdUnknown_touch tm) (hs : Keeps tm z s) (sg : Sys2Proof.Seg) (code : BitVec 4) (value : BitVec 24) (parityOk : Bool) :
    KeepsO tm z (execTrdUnknown sg code value parityOk s) := by
  delta execTrdUnknown
  repeat' first
    | with_reducible refine KeepsO.next ?_
    | with_reducible refine KeepsO.ite ?_ ?_
    | with_reducible assumption
    | (refine Sub.bit hm ?_; exact rfl)
    | (refine Sub.trans (Sub.of ?_) hm; exact rfl)
    | with_reducible refine Keeps.ite ?_ ?_
    | (refine (?_ : (_ : Bool) = true); exact rfl)
    | with_reducible refine trdRefuse_keeps ?_ ?_ _ _
    | with_reducible refine trdFrameIn_keeps ?_ ?_ _ _ _ _ _ (fun s hs => ?_)
    | with_reducible refine begin_keeps ?_ ?_
    | with_reducible refine Keeps.idState ?_
    | with_reducible refine foldl_keeps ?_ _ (fun s a hs => ?_)
    | (extract_lets +onlyGivenNames x; refine Keeps.cut (x := x) (m := tm) (s0 := z) ?_ ?_; unfold x; clear x; rotate_left; intro hx; clear_value x; rotate_right)
    | (extract_lets +onlyGivenNames x; clear_value x)
    | split

end Sys2Proof.Machine
end

