-- ==== Sys2Proof/Laws/KeepsWrites.lean ====
section
/-!
SUPPORT. Sys2Proof/Laws/KeepsWrites.lean: what each function of Machine/Writes.lean may change: its touch set, and one lemma per function.
-/
namespace Sys2Proof.Machine

open Sys2Proof

def enterStage_touch : Nat := 0x800000000000000000000000000000000000000000000000000000000000000000000
theorem enterStage_keeps {tm : Nat} {z s : State} (hm : Sub enterStage_touch tm) (hs : Keeps tm z s) (x : Sys2Proof.Machine.Stage) :
    Keeps tm z (State.enterStage s x) := by
  delta State.enterStage
  repeat' first
    | with_reducible assumption
    | (refine Sub.bit hm ?_; exact rfl)
    | (refine Sub.trans (Sub.of ?_) hm; exact rfl)
    | with_reducible refine Keeps.ite ?_ ?_
    | (refine (?_ : (_ : Bool) = true); exact rfl)
    | with_reducible refine Keeps.idState ?_
    | with_reducible refine foldl_keeps ?_ _ (fun s a hs => ?_)
    | (extract_lets +onlyGivenNames x; refine Keeps.cut (x := x) (m := tm) (s0 := z) ?_ ?_; unfold x; clear x; rotate_left; intro hx; clear_value x; rotate_right)
    | (extract_lets +onlyGivenNames x; clear_value x)
    | split
    | with_reducible refine upd_power_keeps ?_ ?_ _

def startDormant_touch : Nat := 0x8081974000000000000002004a000600000000000430000028000000000000000000000
theorem startDormant_keeps {tm : Nat} {z s : State} (hm : Sub startDormant_touch tm) (hs : Keeps tm z s)  :
    Keeps tm z (State.startDormant s) := by
  delta State.startDormant
  repeat' first
    | with_reducible assumption
    | (refine Sub.bit hm ?_; exact rfl)
    | (refine Sub.trans (Sub.of ?_) hm; exact rfl)
    | with_reducible refine Keeps.ite ?_ ?_
    | (refine (?_ : (_ : Bool) = true); exact rfl)
    | with_reducible refine closingSave_keeps ?_ ?_ _
    | with_reducible refine enterStage_keeps ?_ ?_ _
    | with_reducible refine record_keeps ?_ ?_ _ _ _ _
    | with_reducible refine pmCut_keeps ?_ ?_
    | with_reducible refine Keeps.idState ?_
    | with_reducible refine foldl_keeps ?_ _ (fun s a hs => ?_)
    | (extract_lets +onlyGivenNames x; refine Keeps.cut (x := x) (m := tm) (s0 := z) ?_ ?_; unfold x; clear x; rotate_left; intro hx; clear_value x; rotate_right)
    | (extract_lets +onlyGivenNames x; clear_value x)
    | split

def writePwrCtl_touch : Nat := 0x8081974000000000000002004a000604000000000430000028000000000000000000000
theorem writePwrCtl_keeps {tm : Nat} {z s : State} (hm : Sub writePwrCtl_touch tm) (hs : Keeps tm z s) (w : Nat) :
    Keeps tm z (State.writePwrCtl s w) := by
  delta State.writePwrCtl
  repeat' first
    | with_reducible assumption
    | (refine Sub.bit hm ?_; exact rfl)
    | (refine Sub.trans (Sub.of ?_) hm; exact rfl)
    | with_reducible refine Keeps.ite ?_ ?_
    | (refine (?_ : (_ : Bool) = true); exact rfl)
    | with_reducible refine wr_keeps ?_ ?_ ?_ _ _
    | with_reducible refine put_keeps ?_ ?_ ?_ _ _
    | with_reducible refine record_keeps ?_ ?_ _ _ _ _
    | with_reducible refine startDormant_keeps ?_ ?_
    | with_reducible refine Keeps.idState ?_
    | with_reducible refine foldl_keeps ?_ _ (fun s a hs => ?_)
    | (extract_lets +onlyGivenNames x; refine Keeps.cut (x := x) (m := tm) (s0 := z) ?_ ?_; unfold x; clear x; rotate_left; intro hx; clear_value x; rotate_right)
    | (extract_lets +onlyGivenNames x; clear_value x)
    | split

def writeLnShtl_touch : Nat := 0x40000000000000000000000000000000000000000000000000000000008000000000
theorem writeLnShtl_keeps {tm : Nat} {z s : State} (hm : Sub writeLnShtl_touch tm) (hs : Keeps tm z s) (l : Nat) (w : Nat) :
    Keeps tm z (State.writeLnShtl s l w) := by
  delta State.writeLnShtl
  repeat' first
    | with_reducible assumption
    | (refine Sub.bit hm ?_; exact rfl)
    | (refine Sub.trans (Sub.of ?_) hm; exact rfl)
    | with_reducible refine Keeps.ite ?_ ?_
    | (refine (?_ : (_ : Bool) = true); exact rfl)
    | with_reducible refine plainWrite_keeps ?_ ?_ _ _ _ ?_
    | with_reducible refine onLane_keeps ?_ ?_ _ _
    | with_reducible refine Keeps.idState ?_
    | with_reducible refine foldl_keeps ?_ _ (fun s a hs => ?_)
    | (extract_lets +onlyGivenNames x; refine Keeps.cut (x := x) (m := tm) (s0 := z) ?_ ?_; unfold x; clear x; rotate_left; intro hx; clear_value x; rotate_right)
    | (extract_lets +onlyGivenNames x; clear_value x)
    | split

def writePhLoop_touch : Nat := 0x80000000000000000000000000000000000000000000000000000000000002000000
theorem writePhLoop_keeps {tm : Nat} {z s : State} (hm : Sub writePhLoop_touch tm) (hs : Keeps tm z s) (p : Nat) (w : Nat) :
    Keeps tm z (State.writePhLoop s p w) := by
  delta State.writePhLoop
  repeat' first
    | with_reducible assumption
    | (refine Sub.bit hm ?_; exact rfl)
    | (refine Sub.trans (Sub.of ?_) hm; exact rfl)
    | with_reducible refine Keeps.ite ?_ ?_
    | (refine (?_ : (_ : Bool) = true); exact rfl)
    | with_reducible refine onPh_keeps ?_ ?_ _ _
    | with_reducible refine plainWrite_keeps ?_ ?_ _ _ _ ?_
    | with_reducible refine Keeps.idState ?_
    | with_reducible refine foldl_keeps ?_ _ (fun s a hs => ?_)
    | (extract_lets +onlyGivenNames x; refine Keeps.cut (x := x) (m := tm) (s0 := z) ?_ ?_; unfold x; clear x; rotate_left; intro hx; clear_value x; rotate_right)
    | (extract_lets +onlyGivenNames x; clear_value x)
    | split

def writeSamp_touch : Nat := 0x80000000000000000000000000000000000000000000000000000000000000000800
theorem writeSamp_keeps {tm : Nat} {z s : State} (hm : Sub writeSamp_touch tm) (hs : Keeps tm z s) (p : Nat) (w : Nat) :
    Keeps tm z (State.writeSamp s p w) := by
  delta State.writeSamp
  repeat' first
    | with_reducible assumption
    | (refine Sub.bit hm ?_; exact rfl)
    | (refine Sub.trans (Sub.of ?_) hm; exact rfl)
    | with_reducible refine Keeps.ite ?_ ?_
    | (refine (?_ : (_ : Bool) = true); exact rfl)
    | with_reducible refine onPh_keeps ?_ ?_ _ _
    | with_reducible refine plainWrite_keeps ?_ ?_ _ _ _ ?_
    | with_reducible refine Keeps.idState ?_
    | with_reducible refine foldl_keeps ?_ _ (fun s a hs => ?_)
    | (extract_lets +onlyGivenNames x; refine Keeps.cut (x := x) (m := tm) (s0 := z) ?_ ?_; unfold x; clear x; rotate_left; intro hx; clear_value x; rotate_right)
    | (extract_lets +onlyGivenNames x; clear_value x)
    | split

def writeUnit_touch : Nat := 0x1005e97c000000000000000004a0006000000600000100000018a008a10b40c0a20c0c80
theorem writeUnit_keeps {tm : Nat} {z s : State} (hm : Sub writeUnit_touch tm) (hs : Keeps tm z s) (r : Sys2Proof.Machine.Reg) (i : Nat) (w : Nat) (hr : tm.testBit r.ctorIdx = true) :
    Keeps tm z (State.writeUnit s r i w) := by
  delta State.writeUnit
  repeat' first
    | with_reducible assumption
    | (refine Sub.bit hm ?_; exact rfl)
    | (refine Sub.trans (Sub.of ?_) hm; exact rfl)
    | with_reducible refine Keeps.ite ?_ ?_
    | (refine (?_ : (_ : Bool) = true); exact rfl)
    | with_reducible refine writeLnReed_keeps ?_ ?_ _ _
    | with_reducible refine writePwmCtl_keeps ?_ ?_ _ _
    | with_reducible refine writeLnShtl_keeps ?_ ?_ _ _
    | with_reducible refine writeLnTrip_keeps ?_ ?_ _ _
    | with_reducible refine writePhTrip_keeps ?_ ?_ _ _
    | with_reducible refine writeCommit_keeps ?_ ?_ _ _
    | with_reducible refine writePhLoop_keeps ?_ ?_ _ _
    | with_reducible refine plainWrite_keeps ?_ ?_ _ _ _ ?_
    | with_reducible refine writeRbCtl_keeps ?_ ?_ _ _
    | with_reducible refine writeWarpData_keeps ?_ ?_ _ _
    | with_reducible refine writeMtrCfg_keeps ?_ ?_ _ _
    | with_reducible refine writeSafe_keeps ?_ ?_ _ _
    | with_reducible refine writeCoefData_keeps ?_ ?_ _ _
    | with_reducible refine writeMtrData_keeps ?_ ?_ _ _
    | with_reducible refine writeCoefSel_keeps ?_ ?_ _ _
    | with_reducible refine writeSamp_keeps ?_ ?_ _ _
    | with_reducible refine writeMtrStat_keeps ?_ ?_ _ _
    | with_reducible refine writeShtlStat_keeps ?_ ?_ _ _
    | with_reducible refine Keeps.idState ?_
    | (simp only [Field.up]; refine Sub.bit hm ?_; exact rfl)
    | (dsimp only; refine Sub.bit hm ?_; exact rfl)
    | with_reducible refine foldl_keeps ?_ _ (fun s a hs => ?_)
    | (extract_lets +onlyGivenNames x; refine Keeps.cut (x := x) (m := tm) (s0 := z) ?_ ?_; unfold x; clear x; rotate_left; intro hx; clear_value x; rotate_right)
    | (extract_lets +onlyGivenNames x; clear_value x)
    | split

def writeNvmCtl_touch : Nat := 0x18000000000000000000000000000000000000011400028000000000000000000000
theorem writeNvmCtl_keeps {tm : Nat} {z s : State} (hm : Sub writeNvmCtl_touch tm) (hs : Keeps tm z s) (w : Nat) :
    Keeps tm z (State.writeNvmCtl s w) := by
  delta State.writeNvmCtl
  repeat' first
    | with_reducible assumption
    | (refine Sub.bit hm ?_; exact rfl)
    | (refine Sub.trans (Sub.of ?_) hm; exact rfl)
    | with_reducible refine Keeps.ite ?_ ?_
    | (refine (?_ : (_ : Bool) = true); exact rfl)
    | with_reducible refine setReg_keeps ?_ ?_ ?_ _ _
    | with_reducible refine checkpoint_keeps ?_ ?_
    | with_reducible refine Keeps.idState ?_
    | with_reducible refine foldl_keeps ?_ _ (fun s a hs => ?_)
    | (extract_lets +onlyGivenNames x; refine Keeps.cut (x := x) (m := tm) (s0 := z) ?_ ?_; unfold x; clear x; rotate_left; intro hx; clear_value x; rotate_right)
    | (extract_lets +onlyGivenNames x; clear_value x)
    | split

def writeSlvCtl_touch : Nat := 0x18000000000000000000000000000000000000410000000000000000000000000000
theorem writeSlvCtl_keeps {tm : Nat} {z s : State} (hm : Sub writeSlvCtl_touch tm) (hs : Keeps tm z s) (w : Nat) :
    Keeps tm z (State.writeSlvCtl s w) := by
  delta State.writeSlvCtl
  repeat' first
    | with_reducible assumption
    | (refine Sub.bit hm ?_; exact rfl)
    | (refine Sub.trans (Sub.of ?_) hm; exact rfl)
    | with_reducible refine Keeps.ite ?_ ?_
    | (refine (?_ : (_ : Bool) = true); exact rfl)
    | with_reducible refine wr_keeps ?_ ?_ ?_ _ _
    | with_reducible refine setReg_keeps ?_ ?_ ?_ _ _
    | with_reducible refine forEach_keeps ?_ _ (fun s a hs => ?_)
    | with_reducible refine startFlush_keeps ?_ ?_ _
    | with_reducible refine Keeps.idState ?_
    | with_reducible refine foldl_keeps ?_ _ (fun s a hs => ?_)
    | (extract_lets +onlyGivenNames x; refine Keeps.cut (x := x) (m := tm) (s0 := z) ?_ ?_; unfold x; clear x; rotate_left; intro hx; clear_value x; rotate_right)
    | (extract_lets +onlyGivenNames x; clear_value x)
    | split

def writeClkCfg_touch : Nat := 0x6
theorem writeClkCfg_keeps {tm : Nat} {z s : State} (hm : Sub writeClkCfg_touch tm) (hs : Keeps tm z s) (w : Nat) :
    Keeps tm z (State.writeClkCfg s w) := by
  delta State.writeClkCfg
  repeat' first
    | with_reducible assumption
    | (refine Sub.bit hm ?_; exact rfl)
    | (refine Sub.trans (Sub.of ?_) hm; exact rfl)
    | with_reducible refine Keeps.ite ?_ ?_
    | (refine (?_ : (_ : Bool) = true); exact rfl)
    | with_reducible refine put_keeps ?_ ?_ ?_ _ _
    | with_reducible refine plainWrite_keeps ?_ ?_ _ _ _ ?_
    | with_reducible refine Keeps.idState ?_
    | with_reducible refine foldl_keeps ?_ _ (fun s a hs => ?_)
    | (extract_lets +onlyGivenNames x; refine Keeps.cut (x := x) (m := tm) (s0 := z) ?_ ?_; unfold x; clear x; rotate_left; intro hx; clear_value x; rotate_right)
    | (extract_lets +onlyGivenNames x; clear_value x)
    | split

def putSel_touch : Nat := 0x8000000000000000000000000000000000000000000000000000000000000000000
theorem putSel_keeps {tm : Nat} {z s : State} (hm : Sub putSel_touch tm) (hs : Keeps tm z s) (i : Nat) (w : Nat) :
    Keeps tm z (State.putSel s i w) := by
  delta State.putSel
  repeat' first
    | with_reducible assumption
    | (refine Sub.bit hm ?_; exact rfl)
    | (refine Sub.trans (Sub.of ?_) hm; exact rfl)
    | with_reducible refine Keeps.ite ?_ ?_
    | (refine (?_ : (_ : Bool) = true); exact rfl)
    | with_reducible refine onSlv_keeps ?_ ?_ _
    | with_reducible refine Keeps.idState ?_
    | with_reducible refine foldl_keeps ?_ _ (fun s a hs => ?_)
    | (extract_lets +onlyGivenNames x; refine Keeps.cut (x := x) (m := tm) (s0 := z) ?_ ?_; unfold x; clear x; rotate_left; intro hx; clear_value x; rotate_right)
    | (extract_lets +onlyGivenNames x; clear_value x)
    | split

def writeSnapAddr_touch : Nat := 0x8000000000000000000000000000000000000000000000000000000000000000000
theorem writeSnapAddr_keeps {tm : Nat} {z s : State} (hm : Sub writeSnapAddr_touch tm) (hs : Keeps tm z s) (w : Nat) :
    Keeps tm z (State.writeSnapAddr s w) := by
  delta State.writeSnapAddr
  repeat' first
    | with_reducible assumption
    | (refine Sub.bit hm ?_; exact rfl)
    | (refine Sub.trans (Sub.of ?_) hm; exact rfl)
    | with_reducible refine Keeps.ite ?_ ?_
    | (refine (?_ : (_ : Bool) = true); exact rfl)
    | with_reducible refine putSel_keeps ?_ ?_ _ _
    | with_reducible refine Keeps.idState ?_
    | with_reducible refine foldl_keeps ?_ _ (fun s a hs => ?_)
    | (extract_lets +onlyGivenNames x; refine Keeps.cut (x := x) (m := tm) (s0 := z) ?_ ?_; unfold x; clear x; rotate_left; intro hx; clear_value x; rotate_right)
    | (extract_lets +onlyGivenNames x; clear_value x)
    | split

def writeClkStat_touch : Nat := 0x4
theorem writeClkStat_keeps {tm : Nat} {z s : State} (hm : Sub writeClkStat_touch tm) (hs : Keeps tm z s) (w : Nat) :
    Keeps tm z (State.writeClkStat s w) := by
  delta State.writeClkStat
  repeat' first
    | with_reducible assumption
    | (refine Sub.bit hm ?_; exact rfl)
    | (refine Sub.trans (Sub.of ?_) hm; exact rfl)
    | with_reducible refine Keeps.ite ?_ ?_
    | (refine (?_ : (_ : Bool) = true); exact rfl)
    | with_reducible refine w1cBut_keeps ?_ ?_ _ _ _
    | with_reducible refine Keeps.idState ?_
    | with_reducible refine foldl_keeps ?_ _ (fun s a hs => ?_)
    | (extract_lets +onlyGivenNames x; refine Keeps.cut (x := x) (m := tm) (s0 := z) ?_ ?_; unfold x; clear x; rotate_left; intro hx; clear_value x; rotate_right)
    | (extract_lets +onlyGivenNames x; clear_value x)
    | split

def writeHstCtl_touch : Nat := 0x100000000000000000000000000000000000000000
theorem writeHstCtl_keeps {tm : Nat} {z s : State} (hm : Sub writeHstCtl_touch tm) (hs : Keeps tm z s) (w : Nat) :
    Keeps tm z (State.writeHstCtl s w) := by
  delta State.writeHstCtl
  repeat' first
    | with_reducible assumption
    | (refine Sub.bit hm ?_; exact rfl)
    | (refine Sub.trans (Sub.of ?_) hm; exact rfl)
    | with_reducible refine Keeps.ite ?_ ?_
    | (refine (?_ : (_ : Bool) = true); exact rfl)
    | with_reducible refine wr_keeps ?_ ?_ ?_ _ _
    | with_reducible refine plainWrite_keeps ?_ ?_ _ _ _ ?_
    | with_reducible refine Keeps.idState ?_
    | with_reducible refine foldl_keeps ?_ _ (fun s a hs => ?_)
    | (extract_lets +onlyGivenNames x; refine Keeps.cut (x := x) (m := tm) (s0 := z) ?_ ?_; unfold x; clear x; rotate_left; intro hx; clear_value x; rotate_right)
    | (extract_lets +onlyGivenNames x; clear_value x)
    | split

def writeReg_touch : Nat := 0x1edff97c00000000000000308ca000704240060364c314000298ee18a11b72d4a20c0c86
theorem writeReg_keeps {tm : Nat} {z s : State} (hm : Sub writeReg_touch tm) (hs : Keeps tm z s) (r : Sys2Proof.Machine.Reg) (i : Nat) (w : Nat) (hr : tm.testBit r.ctorIdx = true) :
    Keeps tm z (State.writeReg s r i w) := by
  delta State.writeReg
  repeat' first
    | with_reducible assumption
    | (refine Sub.bit hm ?_; exact rfl)
    | (refine Sub.trans (Sub.of ?_) hm; exact rfl)
    | with_reducible refine Keeps.ite ?_ ?_
    | (refine (?_ : (_ : Bool) = true); exact rfl)
    | with_reducible refine writePwrCtl_keeps ?_ ?_ _
    | with_reducible refine writeRoute_keeps ?_ ?_ _ _
    | with_reducible refine writeUnit_keeps ?_ ?_ _ _ _ ?_
    | with_reducible refine writeTmrCtl_keeps ?_ ?_ _
    | with_reducible refine writeRef_keeps ?_ ?_ _
    | with_reducible refine writeTrdCfg_keeps ?_ ?_ _
    | with_reducible refine writeBusCoefData_keeps ?_ ?_ _
    | with_reducible refine writeNvmCtl_keeps ?_ ?_ _
    | with_reducible refine writeSmbM_keeps ?_ ?_ _
    | with_reducible refine writeThermReg_keeps ?_ ?_ _ _
    | with_reducible refine writeTmrCfg_keeps ?_ ?_ _ _
    | with_reducible refine writeTio_keeps ?_ ?_ _
    | with_reducible refine writeSlvCtl_keeps ?_ ?_ _
    | with_reducible refine writeClkCfg_keeps ?_ ?_ _
    | with_reducible refine writeGlbTrip_keeps ?_ ?_ _
    | with_reducible refine writeTmrCnt_keeps ?_ ?_ _ _
    | with_reducible refine writeTmrCcfg_keeps ?_ ?_ _ _
    | with_reducible refine writeSnapAddr_keeps ?_ ?_ _
    | with_reducible refine writeRtrCtl_keeps ?_ ?_ _
    | with_reducible refine writePer_keeps ?_ ?_ _
    | with_reducible refine writeClkStat_keeps ?_ ?_ _
    | with_reducible refine writeTmrCv_keeps ?_ ?_ _ _
    | with_reducible refine writeBusCoefSel_keeps ?_ ?_ _
    | with_reducible refine writeTripCfg_keeps ?_ ?_ _
    | with_reducible refine writePoll_keeps ?_ ?_ _ _
    | with_reducible refine writeHstCtl_keeps ?_ ?_ _
    | with_reducible refine writeReedCfg_keeps ?_ ?_ _
    | with_reducible refine writeTsel_keeps ?_ ?_ _
    | with_reducible refine Keeps.idState ?_
    | (simp only [Field.up]; refine Sub.bit hm ?_; exact rfl)
    | (dsimp only; refine Sub.bit hm ?_; exact rfl)
    | with_reducible refine foldl_keeps ?_ _ (fun s a hs => ?_)
    | (extract_lets +onlyGivenNames x; refine Keeps.cut (x := x) (m := tm) (s0 := z) ?_ ?_; unfold x; clear x; rotate_left; intro hx; clear_value x; rotate_right)
    | (extract_lets +onlyGivenNames x; clear_value x)
    | split

def onMsix_touch : Nat := 0x1000000000000000000000000000000000000000000000000000000000000000000
theorem onMsix_keeps {tm : Nat} {z s : State} (hm : Sub onMsix_touch tm) (hs : Keeps tm z s) (t : Nat) (k : Nat) (f : Sys2Proof.Machine.MsixEntry → Sys2Proof.Machine.MsixEntry) :
    Keeps tm z (State.onMsix s t k f) := by
  delta State.onMsix
  repeat' first
    | with_reducible assumption
    | (refine Sub.bit hm ?_; exact rfl)
    | (refine Sub.trans (Sub.of ?_) hm; exact rfl)
    | with_reducible refine Keeps.ite ?_ ?_
    | (refine (?_ : (_ : Bool) = true); exact rfl)
    | with_reducible refine onTenant_keeps ?_ ?_ _ _
    | with_reducible refine Keeps.idState ?_
    | with_reducible refine foldl_keeps ?_ _ (fun s a hs => ?_)
    | (extract_lets +onlyGivenNames x; refine Keeps.cut (x := x) (m := tm) (s0 := z) ?_ ?_; unfold x; clear x; rotate_left; intro hx; clear_value x; rotate_right)
    | (extract_lets +onlyGivenNames x; clear_value x)
    | split

def readLow_touch : Nat := 0x1040000000000000000000000600000000000000000000000000000000000000000
theorem readLow_keeps {tm : Nat} {z s : State} (hm : Sub readLow_touch tm) (hs : Keeps tm z s) (t : Nat) (k : Nat) (v : Nat) :
    Keeps tm z (State.readLow s t k v) := by
  delta State.readLow
  repeat' first
    | with_reducible assumption
    | (refine Sub.bit hm ?_; exact rfl)
    | (refine Sub.trans (Sub.of ?_) hm; exact rfl)
    | with_reducible refine Keeps.ite ?_ ?_
    | (refine (?_ : (_ : Bool) = true); exact rfl)
    | with_reducible refine onTenant_keeps ?_ ?_ _ _
    | with_reducible refine emit_keeps ?_ ?_ _
    | with_reducible refine Keeps.idState ?_
    | with_reducible refine foldl_keeps ?_ _ (fun s a hs => ?_)
    | (extract_lets +onlyGivenNames x; refine Keeps.cut (x := x) (m := tm) (s0 := z) ?_ ?_; unfold x; clear x; rotate_left; intro hx; clear_value x; rotate_right)
    | (extract_lets +onlyGivenNames x; clear_value x)
    | split

def writeAddr_touch : Nat := 0x1edff97c00000000003fffffffffffffffffffffffffffffffffffffffffffffffffffff
theorem writeAddr_keeps {tm : Nat} {z s : State} (hm : Sub writeAddr_touch tm) (hs : Keeps tm z s) (a : Nat) (w : Nat) :
    Keeps tm z (State.writeAddr s a w) := by
  delta State.writeAddr
  repeat' first
    | with_reducible assumption
    | (refine Sub.bit hm ?_; exact rfl)
    | (refine Sub.trans (Sub.of ?_) hm; exact rfl)
    | with_reducible refine Keeps.ite ?_ ?_
    | (refine (?_ : (_ : Bool) = true); exact rfl)
    | with_reducible refine writeReg_keeps ?_ ?_ _ _ _ ?_
    | exact touch_reg (Sub.trans (Sub.of rfl) hm) _
    | with_reducible refine Keeps.idState ?_
    | (simp only [Field.up]; refine Sub.bit hm ?_; exact rfl)
    | (dsimp only; refine Sub.bit hm ?_; exact rfl)
    | with_reducible refine foldl_keeps ?_ _ (fun s a hs => ?_)
    | (extract_lets +onlyGivenNames x; refine Keeps.cut (x := x) (m := tm) (s0 := z) ?_ ?_; unfold x; clear x; rotate_left; intro hx; clear_value x; rotate_right)
    | (extract_lets +onlyGivenNames x; clear_value x)
    | split

def writeMsix_touch : Nat := 0x1040000000000000000000000600000000000000000000000000000000000000000
theorem writeMsix_keeps {tm : Nat} {z s : State} (hm : Sub writeMsix_touch tm) (hs : Keeps tm z s) (t : Nat) (k : Nat) (j : Nat) (w : Nat) :
    Keeps tm z (State.writeMsix s t k j w) := by
  delta State.writeMsix
  repeat' first
    | with_reducible assumption
    | (refine Sub.bit hm ?_; exact rfl)
    | (refine Sub.trans (Sub.of ?_) hm; exact rfl)
    | with_reducible refine Keeps.ite ?_ ?_
    | (refine (?_ : (_ : Bool) = true); exact rfl)
    | with_reducible refine onTenant_keeps ?_ ?_ _ _
    | with_reducible refine onMsix_keeps ?_ ?_ _ _ _
    | with_reducible refine emit_keeps ?_ ?_ _
    | with_reducible refine Keeps.idState ?_
    | with_reducible refine foldl_keeps ?_ _ (fun s a hs => ?_)
    | (extract_lets +onlyGivenNames x; refine Keeps.cut (x := x) (m := tm) (s0 := z) ?_ ?_; unfold x; clear x; rotate_left; intro hx; clear_value x; rotate_right)
    | (extract_lets +onlyGivenNames x; clear_value x)
    | split

def writeOwn_touch : Nat := 0x904000000000000000004b240600000000000010000000000000000000000000000
theorem writeOwn_keeps {tm : Nat} {z s : State} (hm : Sub writeOwn_touch tm) (hs : Keeps tm z s) (r : Sys2Proof.Machine.Reg) (t : Nat) (w : Nat) (hr : tm.testBit r.ctorIdx = true) :
    Keeps tm z (State.writeOwn s r t w) := by
  delta State.writeOwn
  repeat' first
    | with_reducible assumption
    | (refine Sub.bit hm ?_; exact rfl)
    | (refine Sub.trans (Sub.of ?_) hm; exact rfl)
    | with_reducible refine Keeps.ite ?_ ?_
    | (refine (?_ : (_ : Bool) = true); exact rfl)
    | with_reducible refine writeSqTail_keeps ?_ ?_ _ _
    | with_reducible refine writeSqCfg_keeps ?_ ?_ _ _
    | with_reducible refine plainWrite_keeps ?_ ?_ _ _ _ ?_
    | with_reducible refine writeCqCfg_keeps ?_ ?_ _ _
    | with_reducible refine writeCqHead_keeps ?_ ?_ _ _
    | with_reducible refine Keeps.idState ?_
    | (simp only [Field.up]; refine Sub.bit hm ?_; exact rfl)
    | (dsimp only; refine Sub.bit hm ?_; exact rfl)
    | with_reducible refine foldl_keeps ?_ _ (fun s a hs => ?_)
    | (extract_lets +onlyGivenNames x; refine Keeps.cut (x := x) (m := tm) (s0 := z) ?_ ?_; unfold x; clear x; rotate_left; intro hx; clear_value x; rotate_right)
    | (extract_lets +onlyGivenNames x; clear_value x)
    | split

def writeWindow_touch : Nat := 0x90400000000003fffffffffffffffffffffffffffffffffffffffffffffffffffff
theorem writeWindow_keeps {tm : Nat} {z s : State} (hm : Sub writeWindow_touch tm) (hs : Keeps tm z s) (t : Nat) (o : Nat) (w : Nat) :
    Keeps tm z (State.writeWindow s t o w) := by
  delta State.writeWindow
  repeat' first
    | with_reducible assumption
    | (refine Sub.bit hm ?_; exact rfl)
    | (refine Sub.trans (Sub.of ?_) hm; exact rfl)
    | with_reducible refine Keeps.ite ?_ ?_
    | (refine (?_ : (_ : Bool) = true); exact rfl)
    | with_reducible refine writeMsix_keeps ?_ ?_ _ _ _ _
    | with_reducible refine writeOwn_keeps ?_ ?_ _ _ _ ?_
    | exact touch_reg (Sub.trans (Sub.of rfl) hm) _
    | with_reducible refine Keeps.idState ?_
    | (simp only [Field.up]; refine Sub.bit hm ?_; exact rfl)
    | (dsimp only; refine Sub.bit hm ?_; exact rfl)
    | with_reducible refine foldl_keeps ?_ _ (fun s a hs => ?_)
    | (extract_lets +onlyGivenNames x; refine Keeps.cut (x := x) (m := tm) (s0 := z) ?_ ?_; unfold x; clear x; rotate_left; intro hx; clear_value x; rotate_right)
    | (extract_lets +onlyGivenNames x; clear_value x)
    | split

def writeDw_touch : Nat := 0x1edff97c00000000003fffffffffffffffffffffffffffffffffffffffffffffffffffff
theorem writeDw_keeps {tm : Nat} {z s : State} (hm : Sub writeDw_touch tm) (hs : Keeps tm z s) (t : Nat) (o : Nat) (w : Nat) :
    Keeps tm z (State.writeDw s t o w) := by
  delta State.writeDw
  repeat' first
    | with_reducible assumption
    | (refine Sub.bit hm ?_; exact rfl)
    | (refine Sub.trans (Sub.of ?_) hm; exact rfl)
    | with_reducible refine Keeps.ite ?_ ?_
    | (refine (?_ : (_ : Bool) = true); exact rfl)
    | with_reducible refine writeAddr_keeps ?_ ?_ _ _
    | with_reducible refine writeWindow_keeps ?_ ?_ _ _ _
    | with_reducible refine deny_keeps ?_ ?_ _ _
    | with_reducible refine Keeps.idState ?_
    | with_reducible refine foldl_keeps ?_ _ (fun s a hs => ?_)
    | (extract_lets +onlyGivenNames x; refine Keeps.cut (x := x) (m := tm) (s0 := z) ?_ ?_; unfold x; clear x; rotate_left; intro hx; clear_value x; rotate_right)
    | (extract_lets +onlyGivenNames x; clear_value x)
    | split

def writeDws_touch : Nat := 0x1edff97c00000000003fffffffffffffffffffffffffffffffffffffffffffffffffffff
theorem writeDws_keeps {tm : Nat} {z s : State} (hm : Sub writeDws_touch tm) (hs : Keeps tm z s) (t o : Nat) (ds : List WriteDw) :
    Keeps tm z (State.writeDws s t o ds) := by
  induction ds generalizing s o with
  | nil => exact hs
  | cons d ds ih =>
    refine ih ?_ _
    split
    · exact writeDw_keeps (Sub.trans (Sub.of rfl) hm) hs _ _ _
    · exact hs

def execCkptNow_touch : Nat := 0x1904000000000000000004a000600000000000011400028000000000000000000000
theorem execCkptNow_keeps {tm : Nat} {z s : State} (hm : Sub execCkptNow_touch tm) (hs : Keeps tm z s) (w : Sys2Proof.BusWrite) :
    KeepsO tm z (execCkptNow w s) := by
  delta execCkptNow
  repeat' first
    | with_reducible refine KeepsO.next ?_
    | with_reducible refine KeepsO.ite ?_ ?_
    | with_reducible assumption
    | (refine Sub.bit hm ?_; exact rfl)
    | (refine Sub.trans (Sub.of ?_) hm; exact rfl)
    | with_reducible refine Keeps.ite ?_ ?_
    | (refine (?_ : (_ : Bool) = true); exact rfl)
    | with_reducible refine writeNvmCtl_keeps ?_ ?_ _
    | with_reducible refine gate_keeps ?_ ?_ _ _ (fun s a0 hs => ?_)
    | with_reducible refine Keeps.idState ?_
    | with_reducible refine foldl_keeps ?_ _ (fun s a hs => ?_)
    | (extract_lets +onlyGivenNames x; refine Keeps.cut (x := x) (m := tm) (s0 := z) ?_ ?_; unfold x; clear x; rotate_left; intro hx; clear_value x; rotate_right)
    | (extract_lets +onlyGivenNames x; clear_value x)
    | split

def execDorm_touch : Nat := 0x8081974000000000000002004a000604000000000430000028000000000000000000000
theorem execDorm_keeps {tm : Nat} {z s : State} (hm : Sub execDorm_touch tm) (hs : Keeps tm z s) (w : Sys2Proof.BusWrite) :
    KeepsO tm z (execDorm w s) := by
  delta execDorm
  repeat' first
    | with_reducible refine KeepsO.next ?_
    | with_reducible refine KeepsO.ite ?_ ?_
    | with_reducible assumption
    | (refine Sub.bit hm ?_; exact rfl)
    | (refine Sub.trans (Sub.of ?_) hm; exact rfl)
    | with_reducible refine Keeps.ite ?_ ?_
    | (refine (?_ : (_ : Bool) = true); exact rfl)
    | with_reducible refine writePwrCtl_keeps ?_ ?_ _
    | with_reducible refine gate_keeps ?_ ?_ _ _ (fun s a0 hs => ?_)
    | with_reducible refine Keeps.idState ?_
    | with_reducible refine foldl_keeps ?_ _ (fun s a hs => ?_)
    | (extract_lets +onlyGivenNames x; refine Keeps.cut (x := x) (m := tm) (s0 := z) ?_ ?_; unfold x; clear x; rotate_left; intro hx; clear_value x; rotate_right)
    | (extract_lets +onlyGivenNames x; clear_value x)
    | split

def execFlushNow_touch : Nat := 0x1904000000000000000004a000600000000000410000000000000000000000000000
theorem execFlushNow_keeps {tm : Nat} {z s : State} (hm : Sub execFlushNow_touch tm) (hs : Keeps tm z s) (w : Sys2Proof.BusWrite) :
    KeepsO tm z (execFlushNow w s) := by
  delta execFlushNow
  repeat' first
    | with_reducible refine KeepsO.next ?_
    | with_reducible refine KeepsO.ite ?_ ?_
    | with_reducible assumption
    | (refine Sub.bit hm ?_; exact rfl)
    | (refine Sub.trans (Sub.of ?_) hm; exact rfl)
    | with_reducible refine Keeps.ite ?_ ?_
    | (refine (?_ : (_ : Bool) = true); exact rfl)
    | with_reducible refine writeSlvCtl_keeps ?_ ?_ _
    | with_reducible refine gate_keeps ?_ ?_ _ _ (fun s a0 hs => ?_)
    | with_reducible refine Keeps.idState ?_
    | with_reducible refine foldl_keeps ?_ _ (fun s a hs => ?_)
    | (extract_lets +onlyGivenNames x; refine Keeps.cut (x := x) (m := tm) (s0 := z) ?_ ?_; unfold x; clear x; rotate_left; intro hx; clear_value x; rotate_right)
    | (extract_lets +onlyGivenNames x; clear_value x)
    | split

def execGlbOptimeLo_touch : Nat := 0x1040000000000000000000000600000000000000000000000000000000000000000
theorem execGlbOptimeLo_keeps {tm : Nat} {z s : State} (hm : Sub execGlbOptimeLo_touch tm) (hs : Keeps tm z s) (t : Sys2Proof.HostT) :
    KeepsO tm z (execGlbOptimeLo t s) := by
  delta execGlbOptimeLo
  repeat' first
    | with_reducible refine KeepsO.next ?_
    | with_reducible refine KeepsO.ite ?_ ?_
    | with_reducible assumption
    | (refine Sub.bit hm ?_; exact rfl)
    | (refine Sub.trans (Sub.of ?_) hm; exact rfl)
    | with_reducible refine Keeps.ite ?_ ?_
    | (refine (?_ : (_ : Bool) = true); exact rfl)
    | with_reducible refine readLow_keeps ?_ ?_ _ _ _
    | with_reducible refine begin_keeps ?_ ?_
    | with_reducible refine Keeps.idState ?_
    | with_reducible refine foldl_keeps ?_ _ (fun s a hs => ?_)
    | (extract_lets +onlyGivenNames x; refine Keeps.cut (x := x) (m := tm) (s0 := z) ?_ ?_; unfold x; clear x; rotate_left; intro hx; clear_value x; rotate_right)
    | (extract_lets +onlyGivenNames x; clear_value x)
    | split

def execNvmCntClr_touch : Nat := 0x1904000000000000000004a000600000000000011400028000000000000000000000
theorem execNvmCntClr_keeps {tm : Nat} {z s : State} (hm : Sub execNvmCntClr_touch tm) (hs : Keeps tm z s) (w : Sys2Proof.BusWrite) :
    KeepsO tm z (execNvmCntClr w s) := by
  delta execNvmCntClr
  repeat' first
    | with_reducible refine KeepsO.next ?_
    | with_reducible refine KeepsO.ite ?_ ?_
    | with_reducible assumption
    | (refine Sub.bit hm ?_; exact rfl)
    | (refine Sub.trans (Sub.of ?_) hm; exact rfl)
    | with_reducible refine Keeps.ite ?_ ?_
    | (refine (?_ : (_ : Bool) = true); exact rfl)
    | with_reducible refine writeNvmCtl_keeps ?_ ?_ _
    | with_reducible refine gate_keeps ?_ ?_ _ _ (fun s a0 hs => ?_)
    | with_reducible refine Keeps.idState ?_
    | with_reducible refine foldl_keeps ?_ _ (fun s a hs => ?_)
    | (extract_lets +onlyGivenNames x; refine Keeps.cut (x := x) (m := tm) (s0 := z) ?_ ?_; unfold x; clear x; rotate_left; intro hx; clear_value x; rotate_right)
    | (extract_lets +onlyGivenNames x; clear_value x)
    | split

def execNvmTaltLo_touch : Nat := 0x1040000000000000000000000600000000000000000000000000000000000000000
theorem execNvmTaltLo_keeps {tm : Nat} {z s : State} (hm : Sub execNvmTaltLo_touch tm) (hs : Keeps tm z s) (t : Sys2Proof.HostT) :
    KeepsO tm z (execNvmTaltLo t s) := by
  delta execNvmTaltLo
  repeat' first
    | with_reducible refine KeepsO.next ?_
    | with_reducible refine KeepsO.ite ?_ ?_
    | with_reducible assumption
    | (refine Sub.bit hm ?_; exact rfl)
    | (refine Sub.trans (Sub.of ?_) hm; exact rfl)
    | with_reducible refine Keeps.ite ?_ ?_
    | (refine (?_ : (_ : Bool) = true); exact rfl)
    | with_reducible refine readLow_keeps ?_ ?_ _ _ _
    | with_reducible refine begin_keeps ?_ ?_
    | with_reducible refine Keeps.idState ?_
    | with_reducible refine foldl_keeps ?_ _ (fun s a hs => ?_)
    | (extract_lets +onlyGivenNames x; refine Keeps.cut (x := x) (m := tm) (s0 := z) ?_ ?_; unfold x; clear x; rotate_left; intro hx; clear_value x; rotate_right)
    | (extract_lets +onlyGivenNames x; clear_value x)
    | split

def execNvmTstoLo_touch : Nat := 0x1040000000000000000000000600000000000000000000000000000000000000000
theorem execNvmTstoLo_keeps {tm : Nat} {z s : State} (hm : Sub execNvmTstoLo_touch tm) (hs : Keeps tm z s) (t : Sys2Proof.HostT) :
    KeepsO tm z (execNvmTstoLo t s) := by
  delta execNvmTstoLo
  repeat' first
    | with_reducible refine KeepsO.next ?_
    | with_reducible refine KeepsO.ite ?_ ?_
    | with_reducible assumption
    | (refine Sub.bit hm ?_; exact rfl)
    | (refine Sub.trans (Sub.of ?_) hm; exact rfl)
    | with_reducible refine Keeps.ite ?_ ?_
    | (refine (?_ : (_ : Bool) = true); exact rfl)
    | with_reducible refine readLow_keeps ?_ ?_ _ _ _
    | with_reducible refine begin_keeps ?_ ?_
    | with_reducible refine Keeps.idState ?_
    | with_reducible refine foldl_keeps ?_ _ (fun s a hs => ?_)
    | (extract_lets +onlyGivenNames x; refine Keeps.cut (x := x) (m := tm) (s0 := z) ?_ ?_; unfold x; clear x; rotate_left; intro hx; clear_value x; rotate_right)
    | (extract_lets +onlyGivenNames x; clear_value x)
    | split

def execNvmTvalLo_touch : Nat := 0x1040000000000000000000000600000000000000000000000000000000000000000
theorem execNvmTvalLo_keeps {tm : Nat} {z s : State} (hm : Sub execNvmTvalLo_touch tm) (hs : Keeps tm z s) (t : Sys2Proof.HostT) :
    KeepsO tm z (execNvmTvalLo t s) := by
  delta execNvmTvalLo
  repeat' first
    | with_reducible refine KeepsO.next ?_
    | with_reducible refine KeepsO.ite ?_ ?_
    | with_reducible assumption
    | (refine Sub.bit hm ?_; exact rfl)
    | (refine Sub.trans (Sub.of ?_) hm; exact rfl)
    | with_reducible refine Keeps.ite ?_ ?_
    | (refine (?_ : (_ : Bool) = true); exact rfl)
    | with_reducible refine readLow_keeps ?_ ?_ _ _ _
    | with_reducible refine begin_keeps ?_ ?_
    | with_reducible refine Keeps.idState ?_
    | with_reducible refine foldl_keeps ?_ _ (fun s a hs => ?_)
    | (extract_lets +onlyGivenNames x; refine Keeps.cut (x := x) (m := tm) (s0 := z) ?_ ?_; unfold x; clear x; rotate_left; intro hx; clear_value x; rotate_right)
    | (extract_lets +onlyGivenNames x; clear_value x)
    | split

def execRegisterWrite_touch : Nat := 0x1edff97c00000000003fffffffffffffffffffffffffffffffffffffffffffffffffffff
theorem execRegisterWrite_keeps {tm : Nat} {z s : State} (hm : Sub execRegisterWrite_touch tm) (hs : Keeps tm z s) (t : Sys2Proof.HostT) (offset : BitVec 32) (bytes : Nat) (dws : List Sys2Proof.WriteDw) :
    KeepsO tm z (execRegisterWrite t offset bytes dws s) := by
  delta execRegisterWrite
  repeat' first
    | with_reducible refine KeepsO.next ?_
    | with_reducible refine KeepsO.ite ?_ ?_
    | with_reducible assumption
    | (refine Sub.bit hm ?_; exact rfl)
    | (refine Sub.trans (Sub.of ?_) hm; exact rfl)
    | with_reducible refine Keeps.ite ?_ ?_
    | (refine (?_ : (_ : Bool) = true); exact rfl)
    | with_reducible refine put_keeps ?_ ?_ ?_ _ _
    | with_reducible refine toL0_keeps ?_ ?_ _
    | with_reducible refine settle_keeps ?_ ?_
    | with_reducible refine writeDws_keeps ?_ ?_ _ _ _
    | with_reducible refine violation_keeps ?_ ?_ _ _
    | with_reducible refine begin_keeps ?_ ?_
    | with_reducible refine Keeps.idState ?_
    | with_reducible refine foldl_keeps ?_ _ (fun s a hs => ?_)
    | (extract_lets +onlyGivenNames x; refine Keeps.cut (x := x) (m := tm) (s0 := z) ?_ ?_; unfold x; clear x; rotate_left; intro hx; clear_value x; rotate_right)
    | (extract_lets +onlyGivenNames x; clear_value x)
    | split

def execSlvCntClr_touch : Nat := 0x1904000000000000000004a000600000000000410000000000000000000000000000
theorem execSlvCntClr_keeps {tm : Nat} {z s : State} (hm : Sub execSlvCntClr_touch tm) (hs : Keeps tm z s) (w : Sys2Proof.BusWrite) :
    KeepsO tm z (execSlvCntClr w s) := by
  delta execSlvCntClr
  repeat' first
    | with_reducible refine KeepsO.next ?_
    | with_reducible refine KeepsO.ite ?_ ?_
    | with_reducible assumption
    | (refine Sub.bit hm ?_; exact rfl)
    | (refine Sub.trans (Sub.of ?_) hm; exact rfl)
    | with_reducible refine Keeps.ite ?_ ?_
    | (refine (?_ : (_ : Bool) = true); exact rfl)
    | with_reducible refine writeSlvCtl_keeps ?_ ?_ _
    | with_reducible refine gate_keeps ?_ ?_ _ _ (fun s a0 hs => ?_)
    | with_reducible refine Keeps.idState ?_
    | with_reducible refine foldl_keeps ?_ _ (fun s a hs => ?_)
    | (extract_lets +onlyGivenNames x; refine Keeps.cut (x := x) (m := tm) (s0 := z) ?_ ?_; unfold x; clear x; rotate_left; intro hx; clear_value x; rotate_right)
    | (extract_lets +onlyGivenNames x; clear_value x)
    | split

def execSlvSnapAddr_touch : Nat := 0x904000000000000000004a000600000000000010000000000000000000000000000
theorem execSlvSnapAddr_keeps {tm : Nat} {z s : State} (hm : Sub execSlvSnapAddr_touch tm) (hs : Keeps tm z s) (w : Sys2Proof.BusWrite) :
    KeepsO tm z (execSlvSnapAddr w s) := by
  delta execSlvSnapAddr
  repeat' first
    | with_reducible refine KeepsO.next ?_
    | with_reducible refine KeepsO.ite ?_ ?_
    | with_reducible assumption
    | (refine Sub.bit hm ?_; exact rfl)
    | (refine Sub.trans (Sub.of ?_) hm; exact rfl)
    | with_reducible refine Keeps.ite ?_ ?_
    | (refine (?_ : (_ : Bool) = true); exact rfl)
    | with_reducible refine gate_keeps ?_ ?_ _ _ (fun s a0 hs => ?_)
    | with_reducible refine writeSnapAddr_keeps ?_ ?_ _
    | with_reducible refine Keeps.idState ?_
    | with_reducible refine foldl_keeps ?_ _ (fun s a hs => ?_)
    | (extract_lets +onlyGivenNames x; refine Keeps.cut (x := x) (m := tm) (s0 := z) ?_ ?_; unfold x; clear x; rotate_left; intro hx; clear_value x; rotate_right)
    | (extract_lets +onlyGivenNames x; clear_value x)
    | split

end Sys2Proof.Machine
end

