-- ==== Sys2Proof/Laws/KeepsStartup.lean ====
section
/-!
SUPPORT. Sys2Proof/Laws/KeepsStartup.lean: what each function of Machine/Startup.lean may change: its touch set, and one lemma per function.
-/
namespace Sys2Proof.Machine

open Sys2Proof

def defaultRoles_touch : Nat := 0x20000000000000000000000000000000000000000000000
theorem defaultRoles_keeps {tm : Nat} {z s : State} (hm : Sub defaultRoles_touch tm) (hs : Keeps tm z s)  :
    Keeps tm z (State.defaultRoles s) := by
  delta State.defaultRoles
  repeat' first
    | with_reducible assumption
    | (refine Sub.bit hm ?_; exact rfl)
    | (refine Sub.trans (Sub.of ?_) hm; exact rfl)
    | with_reducible refine Keeps.ite ?_ ?_
    | (refine (?_ : (_ : Bool) = true); exact rfl)
    | with_reducible refine showStandby_keeps ?_ ?_
    | with_reducible refine setRole_keeps ?_ ?_ _ _
    | with_reducible refine Keeps.idState ?_
    | with_reducible refine foldl_keeps ?_ _ (fun s a hs => ?_)
    | (extract_lets +onlyGivenNames x; refine Keeps.cut (x := x) (m := tm) (s0 := z) ?_ ?_; unfold x; clear x; rotate_left; intro hx; clear_value x; rotate_right)
    | (extract_lets +onlyGivenNames x; clear_value x)
    | split

def keepFields_touch : Nat := 0x3fffffffffffffffffffffffffffffffffffffffffffffffffffff
theorem keepFields_keeps {tm : Nat} {z s : State} (hm : Sub keepFields_touch tm) (hs : Keeps tm z s) (old : State)
    (fs : List (Field × Nat)) (hf : fs.all (fun f => fieldOk f.1) = true) : Keeps tm z (State.keepFields s old fs) := by
  refine foldl_mem_keeps hs fs (fun s f hf' hs => forEach_keeps hs _ (fun s i hs => ?_))
  exact wr_keeps (touch_reg (Sub.trans (Sub.of rfl) hm) _) (List.all_eq_true.mp hf f hf') hs _ _

def resetBase_touch : Nat := 0x3fffffff00000000003fffffffffffffffffffffffffffffffffffffffffffffffffffff
theorem resetBase_keeps {tm : Nat} {z s : State} (hm : Sub resetBase_touch tm) (hs : Keeps tm z s) (cause : Nat) :
    Keeps tm z (State.resetBase s cause) := by
  refine ⟨hs.queue, fun r i _ h => false_of_touch (touch_reg (Sub.trans (Sub.of rfl) hm) r) h, fun p h => ?_,
    fun _ => ⟨rfl, fun r i _ => wordOk_reset r⟩⟩
  have : tm.testBit (Part.bit p) = true := hm.bit (by cases p <;> rfl)
  exact false_of_touch this h

def deviceReset_touch : Nat := 0x3fffffff00000000003fffffffffffffffffffffffffffffffffffffffffffffffffffff
theorem deviceReset_keeps {tm : Nat} {z s : State} (hm : Sub deviceReset_touch tm) (hs : Keeps tm z s) (cause : Nat) :
    Keeps tm z (State.deviceReset s cause) := by
  delta State.deviceReset
  repeat' first
    | with_reducible assumption
    | (refine Sub.bit hm ?_; exact rfl)
    | (refine Sub.trans (Sub.of ?_) hm; exact rfl)
    | with_reducible refine Keeps.ite ?_ ?_
    | (refine (?_ : (_ : Bool) = true); exact rfl)
    | with_reducible refine wr_keeps ?_ ?_ ?_ _ _
    | with_reducible refine setReg_keeps ?_ ?_ ?_ _ _
    | with_reducible refine crashFlash_keeps ?_ ?_
    | with_reducible refine keepFields_keeps ?_ ?_ _ _ ?_
    | with_reducible refine applyFnEn_keeps ?_ ?_ _
    | with_reducible refine resetBase_keeps ?_ ?_ _
    | (unfold softFields; split <;> rfl)
    | with_reducible refine Keeps.idState ?_
    | with_reducible refine foldl_keeps ?_ _ (fun s a hs => ?_)
    | (extract_lets +onlyGivenNames x; refine Keeps.cut (x := x) (m := tm) (s0 := z) ?_ ?_; unfold x; clear x; rotate_left; intro hx; clear_value x; rotate_right)
    | (extract_lets +onlyGivenNames x; clear_value x)
    | split

def driveWake_touch : Nat := 0x2040000000000000000000000600000000000000000000000000000000000000000
theorem driveWake_keeps {tm : Nat} {z s : State} (hm : Sub driveWake_touch tm) (hs : Keeps tm z s) (x : Nat) (m : Nat) :
    Keeps tm z (State.driveWake s x m) := by
  delta State.driveWake
  repeat' first
    | with_reducible assumption
    | (refine Sub.bit hm ?_; exact rfl)
    | (refine Sub.trans (Sub.of ?_) hm; exact rfl)
    | with_reducible refine Keeps.ite ?_ ?_
    | (refine (?_ : (_ : Bool) = true); exact rfl)
    | with_reducible refine onPort_keeps ?_ ?_ _ _
    | with_reducible refine emit_keeps ?_ ?_ _
    | with_reducible refine Keeps.idState ?_
    | with_reducible refine foldl_keeps ?_ _ (fun s a hs => ?_)
    | (extract_lets +onlyGivenNames x; refine Keeps.cut (x := x) (m := tm) (s0 := z) ?_ ?_; unfold x; clear x; rotate_left; intro hx; clear_value x; rotate_right)
    | (extract_lets +onlyGivenNames x; clear_value x)
    | split

def onPower_touch : Nat := 0x800000000000000000000000000000000000000000000000000000000000000000000
theorem onPower_keeps {tm : Nat} {z s : State} (hm : Sub onPower_touch tm) (hs : Keeps tm z s) (f : Sys2Proof.Machine.Power → Sys2Proof.Machine.Power) :
    Keeps tm z (State.onPower s f) := by
  delta State.onPower
  repeat' first
    | with_reducible assumption
    | (refine Sub.bit hm ?_; exact rfl)
    | (refine Sub.trans (Sub.of ?_) hm; exact rfl)
    | with_reducible refine Keeps.ite ?_ ?_
    | (refine (?_ : (_ : Bool) = true); exact rfl)
    | with_reducible refine Keeps.idState ?_
    | with_reducible refine foldl_keeps ?_ _ (fun s a hs => ?_)
    | (extract_lets +onlyGivenNames x; refine Keeps.cut (x := x) (m := tm) (s0 := z) ?_ ?_; unfold x; clear x; rotate_left; intro hx; clear_value x; rotate_right)
    | (extract_lets +onlyGivenNames x; clear_value x)
    | split
    | with_reducible refine upd_power_keeps ?_ ?_ _

def endWaits_touch : Nat := 0x8000d7c000000000000000004a000600000000000010000000000000000000000000000
theorem endWaits_keeps {tm : Nat} {z s : State} (hm : Sub endWaits_touch tm) (hs : Keeps tm z s)  :
    Keeps tm z (State.endWaits s) := by
  delta State.endWaits
  repeat' first
    | with_reducible assumption
    | (refine Sub.bit hm ?_; exact rfl)
    | (refine Sub.trans (Sub.of ?_) hm; exact rfl)
    | with_reducible refine Keeps.ite ?_ ?_
    | (refine (?_ : (_ : Bool) = true); exact rfl)
    | with_reducible refine onSec_keeps ?_ ?_ _
    | with_reducible refine complete_keeps ?_ ?_ _ _ _
    | with_reducible refine finish_keeps ?_ ?_ _ _ _
    | with_reducible refine Keeps.idState ?_
    | with_reducible refine foldl_keeps ?_ _ (fun s a hs => ?_)
    | (extract_lets +onlyGivenNames x; refine Keeps.cut (x := x) (m := tm) (s0 := z) ?_ ?_; unfold x; clear x; rotate_left; intro hx; clear_value x; rotate_right)
    | (extract_lets +onlyGivenNames x; clear_value x)
    | split
    | with_reducible refine upd_portM_keeps ?_ ?_ _

def ignoreEntry_touch : Nat := 0x200000000000000000000000000
theorem ignoreEntry_keeps {tm : Nat} {z s : State} (hm : Sub ignoreEntry_touch tm) (hs : Keeps tm z s)  :
    Keeps tm z (State.ignoreEntry s) := by
  delta State.ignoreEntry
  repeat' first
    | with_reducible assumption
    | (refine Sub.bit hm ?_; exact rfl)
    | (refine Sub.trans (Sub.of ?_) hm; exact rfl)
    | with_reducible refine Keeps.ite ?_ ?_
    | (refine (?_ : (_ : Bool) = true); exact rfl)
    | with_reducible refine bump_keeps ?_ ?_ ?_ _ _
    | with_reducible refine Keeps.idState ?_
    | with_reducible refine foldl_keeps ?_ _ (fun s a hs => ?_)
    | (extract_lets +onlyGivenNames x; refine Keeps.cut (x := x) (m := tm) (s0 := z) ?_ ?_; unfold x; clear x; rotate_left; intro hx; clear_value x; rotate_right)
    | (extract_lets +onlyGivenNames x; clear_value x)
    | split

def loadCoef_touch : Nat := 0x240000000000000000000000000000000000000000000000000000000000000000000
theorem loadCoef_keeps {tm : Nat} {z s : State} (hm : Sub loadCoef_touch tm) (hs : Keeps tm z s) (r : Sys2Proof.Machine.Reg) (i : Nat) (hr : tm.testBit r.ctorIdx = true) :
    Keeps tm z (State.loadCoef s r i) := by
  delta State.loadCoef
  repeat' first
    | with_reducible assumption
    | (refine Sub.bit hm ?_; exact rfl)
    | (refine Sub.trans (Sub.of ?_) hm; exact rfl)
    | with_reducible refine Keeps.ite ?_ ?_
    | (refine (?_ : (_ : Bool) = true); exact rfl)
    | with_reducible refine onLane_keeps ?_ ?_ _ _
    | with_reducible refine onSeg_keeps ?_ ?_ _ _
    | with_reducible refine Keeps.idState ?_
    | with_reducible refine foldl_keeps ?_ _ (fun s a hs => ?_)
    | (extract_lets +onlyGivenNames x; refine Keeps.cut (x := x) (m := tm) (s0 := z) ?_ ?_; unfold x; clear x; rotate_left; intro hx; clear_value x; rotate_right)
    | (extract_lets +onlyGivenNames x; clear_value x)
    | split

def unsealed_touch : Nat := 0x10000000000000000000000000000000000000000000000
theorem unsealed_keeps {tm : Nat} {z s : State} (hm : Sub unsealed_touch tm) (hs : Keeps tm z s) (f : Sys2Proof.Machine.State → Sys2Proof.Machine.State) (hf : ∀ s, Keeps tm z s → Keeps tm z (f s)) :
    Keeps tm z (State.unsealed s f) := by
  delta State.unsealed
  repeat' first
    | with_reducible assumption
    | (refine Sub.bit hm ?_; exact rfl)
    | (refine Sub.trans (Sub.of ?_) hm; exact rfl)
    | with_reducible refine Keeps.ite ?_ ?_
    | (refine (?_ : (_ : Bool) = true); exact rfl)
    | with_reducible refine hf _ ?_
    | with_reducible refine put_keeps ?_ ?_ ?_ _ _
    | with_reducible refine Keeps.idState ?_
    | with_reducible refine foldl_keeps ?_ _ (fun s a hs => ?_)
    | (extract_lets +onlyGivenNames x; refine Keeps.cut (x := x) (m := tm) (s0 := z) ?_ ?_; unfold x; clear x; rotate_left; intro hx; clear_value x; rotate_right)
    | (extract_lets +onlyGivenNames x; clear_value x)
    | split

def loadEntry_touch : Nat := 0x1edff97c00000000003fffffffffffffffffffffffffffffffffffffffffffffffffffff
theorem loadEntry_keeps {tm : Nat} {z s : State} (hm : Sub loadEntry_touch tm) (hs : Keeps tm z s) (e : Nat × Sys2Proof.Word) :
    Keeps tm z (State.loadEntry s e) := by
  delta State.loadEntry
  repeat' first
    | with_reducible assumption
    | (refine Sub.bit hm ?_; exact rfl)
    | (refine Sub.trans (Sub.of ?_) hm; exact rfl)
    | with_reducible refine Keeps.ite ?_ ?_
    | (refine (?_ : (_ : Bool) = true); exact rfl)
    | with_reducible refine loadCoef_keeps ?_ ?_ _ _ ?_
    | with_reducible refine ignoreEntry_keeps ?_ ?_
    | with_reducible refine writeReg_keeps ?_ ?_ _ _ _ ?_
    | with_reducible refine unsealed_keeps ?_ ?_ _ (fun s hs => ?_)
    | with_reducible refine writePoll_keeps ?_ ?_ _ _
    | with_reducible refine putSel_keeps ?_ ?_ _ _
    | exact touch_reg (Sub.trans (Sub.of rfl) hm) _
    | with_reducible refine Keeps.idState ?_
    | (simp only [Field.up]; refine Sub.bit hm ?_; exact rfl)
    | (dsimp only; refine Sub.bit hm ?_; exact rfl)
    | with_reducible refine foldl_keeps ?_ _ (fun s a hs => ?_)
    | (extract_lets +onlyGivenNames x; refine Keeps.cut (x := x) (m := tm) (s0 := z) ?_ ?_; unfold x; clear x; rotate_left; intro hx; clear_value x; rotate_right)
    | (extract_lets +onlyGivenNames x; clear_value x)
    | split

def loadHeddle_touch : Nat := 0x4e000000000000000000000000000000000000000000000180000a300000002002780
theorem loadHeddle_keeps {tm : Nat} {z s : State} (hm : Sub loadHeddle_touch tm) (hs : Keeps tm z s) (b : Nat) :
    Keeps tm z (State.loadHeddle s b) := by
  delta State.loadHeddle
  repeat' first
    | with_reducible assumption
    | (refine Sub.bit hm ?_; exact rfl)
    | (refine Sub.trans (Sub.of ?_) hm; exact rfl)
    | with_reducible refine Keeps.ite ?_ ?_
    | (refine (?_ : (_ : Bool) = true); exact rfl)
    | with_reducible refine applyCommit_keeps ?_ ?_ _ _
    | with_reducible refine Keeps.idState ?_
    | with_reducible refine foldl_keeps ?_ _ (fun s a hs => ?_)
    | (extract_lets +onlyGivenNames x; refine Keeps.cut (x := x) (m := tm) (s0 := z) ?_ ?_; unfold x; clear x; rotate_left; intro hx; clear_value x; rotate_right)
    | (extract_lets +onlyGivenNames x; clear_value x)
    | split

def powerDown_touch : Nat := 0x1c8ba000000000000100000000000000000000000010000000840000004000000000004
theorem powerDown_keeps {tm : Nat} {z s : State} (hm : Sub powerDown_touch tm) (hs : Keeps tm z s)  :
    Keeps tm z (State.powerDown s) := by
  delta State.powerDown
  repeat' first
    | with_reducible assumption
    | (refine Sub.bit hm ?_; exact rfl)
    | (refine Sub.trans (Sub.of ?_) hm; exact rfl)
    | with_reducible refine Keeps.ite ?_ ?_
    | (refine (?_ : (_ : Bool) = true); exact rfl)
    | with_reducible refine put_keeps ?_ ?_ ?_ _ _
    | with_reducible refine forEach_keeps ?_ _ (fun s a hs => ?_)
    | with_reducible refine onPort_keeps ?_ ?_ _ _
    | with_reducible refine cutPhase_keeps ?_ ?_ _
    | with_reducible refine refFalls_keeps ?_ ?_ _
    | with_reducible refine onPower_keeps ?_ ?_ _
    | with_reducible refine onNvm_keeps ?_ ?_ _
    | with_reducible refine Keeps.idState ?_
    | with_reducible refine foldl_keeps ?_ _ (fun s a hs => ?_)
    | (extract_lets +onlyGivenNames x; refine Keeps.cut (x := x) (m := tm) (s0 := z) ?_ ?_; unfold x; clear x; rotate_left; intro hx; clear_value x; rotate_right)
    | (extract_lets +onlyGivenNames x; clear_value x)
    | split
    | with_reducible refine upd_refRun_keeps ?_ ?_ _
    | with_reducible refine upd_refOut_keeps ?_ ?_ _
    | with_reducible refine upd_refOn_keeps ?_ ?_ _
    | with_reducible refine upd_refRun_refOut_refOn_keeps ?_ ?_ ?_ ?_ _ _ _ 

def softStops_touch : Nat := 0x1005e97c000000000000000004a00060000006000001000000082008a000004080000400
theorem softStops_keeps {tm : Nat} {z s : State} (hm : Sub softStops_touch tm) (hs : Keeps tm z s) (l : Nat) :
    Keeps tm z (State.softStops s l) := by
  delta State.softStops
  repeat' first
    | with_reducible assumption
    | (refine Sub.bit hm ?_; exact rfl)
    | (refine Sub.trans (Sub.of ?_) hm; exact rfl)
    | with_reducible refine Keeps.ite ?_ ?_
    | (refine (?_ : (_ : Bool) = true); exact rfl)
    | with_reducible refine parkLane_keeps ?_ ?_ _ _
    | with_reducible refine Keeps.idState ?_
    | with_reducible refine foldl_keeps ?_ _ (fun s a hs => ?_)
    | (extract_lets +onlyGivenNames x; refine Keeps.cut (x := x) (m := tm) (s0 := z) ?_ ?_; unfold x; clear x; rotate_left; intro hx; clear_value x; rotate_right)
    | (extract_lets +onlyGivenNames x; clear_value x)
    | split

def startPorts_touch : Nat := 0x2000000000000000000000000000000000000000000000000000000000000000000
theorem startPorts_keeps {tm : Nat} {z s : State} (hm : Sub startPorts_touch tm) (hs : Keeps tm z s)  :
    Keeps tm z (State.startPorts s) := by
  delta State.startPorts
  repeat' first
    | with_reducible assumption
    | (refine Sub.bit hm ?_; exact rfl)
    | (refine Sub.trans (Sub.of ?_) hm; exact rfl)
    | with_reducible refine Keeps.ite ?_ ?_
    | (refine (?_ : (_ : Bool) = true); exact rfl)
    | with_reducible refine train_keeps ?_ ?_ _
    | with_reducible refine onPort_keeps ?_ ?_ _ _
    | with_reducible refine Keeps.idState ?_
    | with_reducible refine foldl_keeps ?_ _ (fun s a hs => ?_)
    | (extract_lets +onlyGivenNames x; refine Keeps.cut (x := x) (m := tm) (s0 := z) ?_ ?_; unfold x; clear x; rotate_left; intro hx; clear_value x; rotate_right)
    | (extract_lets +onlyGivenNames x; clear_value x)
    | split

def takeWake_touch : Nat := 0x812040000000000000000000000601000000000000000000000000000000000000000
theorem takeWake_keeps {tm : Nat} {z s : State} (hm : Sub takeWake_touch tm) (hs : Keeps tm z s) (m : Nat) (ticks : Nat) :
    Keeps tm z (State.takeWake s m ticks) := by
  delta State.takeWake
  repeat' first
    | with_reducible assumption
    | (refine Sub.bit hm ?_; exact rfl)
    | (refine Sub.trans (Sub.of ?_) hm; exact rfl)
    | with_reducible refine Keeps.ite ?_ ?_
    | (refine (?_ : (_ : Bool) = true); exact rfl)
    | with_reducible refine wr_keeps ?_ ?_ ?_ _ _
    | with_reducible refine onPower_keeps ?_ ?_ _
    | with_reducible refine driveWake_keeps ?_ ?_ _ _
    | with_reducible refine onNvm_keeps ?_ ?_ _
    | with_reducible refine Keeps.idState ?_
    | with_reducible refine foldl_keeps ?_ _ (fun s a hs => ?_)
    | (extract_lets +onlyGivenNames x; refine Keeps.cut (x := x) (m := tm) (s0 := z) ?_ ?_; unfold x; clear x; rotate_left; intro hx; clear_value x; rotate_right)
    | (extract_lets +onlyGivenNames x; clear_value x)
    | split

def wakeLock_touch : Nat := 0x6080905000000000000000000000060403c000000010000000000000000000000000000
theorem wakeLock_keeps {tm : Nat} {z s : State} (hm : Sub wakeLock_touch tm) (hs : Keeps tm z s)  :
    Keeps tm z (State.wakeLock s) := by
  delta State.wakeLock
  repeat' first
    | with_reducible assumption
    | (refine Sub.bit hm ?_; exact rfl)
    | (refine Sub.trans (Sub.of ?_) hm; exact rfl)
    | with_reducible refine Keeps.ite ?_ ?_
    | (refine (?_ : (_ : Bool) = true); exact rfl)
    | with_reducible refine wr_keeps ?_ ?_ ?_ _ _
    | with_reducible refine put_keeps ?_ ?_ ?_ _ _
    | with_reducible refine forEach_keeps ?_ _ (fun s a hs => ?_)
    | with_reducible refine onSlv_keeps ?_ ?_ _
    | with_reducible refine record_keeps ?_ ?_ _ _ _ _
    | with_reducible refine onPower_keeps ?_ ?_ _
    | with_reducible refine makeup_keeps ?_ ?_ _
    | with_reducible refine kickFetch_keeps ?_ ?_ _
    | with_reducible refine Keeps.idState ?_
    | with_reducible refine foldl_keeps ?_ _ (fun s a hs => ?_)
    | (extract_lets +onlyGivenNames x; refine Keeps.cut (x := x) (m := tm) (s0 := z) ?_ ?_; unfold x; clear x; rotate_left; intro hx; clear_value x; rotate_right)
    | (extract_lets +onlyGivenNames x; clear_value x)
    | split

def execBayAnalogueEnable_touch : Nat := 0x800040000000000100000000000000000000000000000000000000000000000000000
theorem execBayAnalogueEnable_keeps {tm : Nat} {z s : State} (hm : Sub execBayAnalogueEnable_touch tm) (hs : Keeps tm z s) (b : Sys2Proof.Bay) :
    KeepsO tm z (execBayAnalogueEnable b s) := by
  delta execBayAnalogueEnable
  repeat' first
    | with_reducible refine KeepsO.next ?_
    | with_reducible refine KeepsO.ite ?_ ?_
    | with_reducible assumption
    | (refine Sub.bit hm ?_; exact rfl)
    | (refine Sub.trans (Sub.of ?_) hm; exact rfl)
    | with_reducible refine Keeps.ite ?_ ?_
    | (refine (?_ : (_ : Bool) = true); exact rfl)
    | with_reducible refine put_keeps ?_ ?_ ?_ _ _
    | with_reducible refine onPower_keeps ?_ ?_ _
    | with_reducible refine begin_keeps ?_ ?_
    | with_reducible refine Keeps.idState ?_
    | with_reducible refine foldl_keeps ?_ _ (fun s a hs => ?_)
    | (extract_lets +onlyGivenNames x; refine Keeps.cut (x := x) (m := tm) (s0 := z) ?_ ?_; unfold x; clear x; rotate_left; intro hx; clear_value x; rotate_right)
    | (extract_lets +onlyGivenNames x; clear_value x)
    | split

def execChargePumpReady_touch : Nat := 0x101ffb7c000000000000000084a00060000006032043000002882008a00a105080000400
theorem execChargePumpReady_keeps {tm : Nat} {z s : State} (hm : Sub execChargePumpReady_touch tm) (hs : Keeps tm z s)  :
    KeepsO tm z (execChargePumpReady s) := by
  delta execChargePumpReady
  repeat' first
    | with_reducible refine KeepsO.next ?_
    | with_reducible refine KeepsO.ite ?_ ?_
    | with_reducible assumption
    | (refine Sub.bit hm ?_; exact rfl)
    | (refine Sub.trans (Sub.of ?_) hm; exact rfl)
    | with_reducible refine Keeps.ite ?_ ?_
    | (refine (?_ : (_ : Bool) = true); exact rfl)
    | with_reducible refine startPorts_keeps ?_ ?_
    | with_reducible refine kickAll_keeps ?_ ?_
    | with_reducible refine settle_keeps ?_ ?_
    | with_reducible refine onPower_keeps ?_ ?_ _
    | with_reducible refine writeInc_keeps ?_ ?_ _ _ _
    | with_reducible refine onNvm_keeps ?_ ?_ _
    | with_reducible refine begin_keeps ?_ ?_
    | with_reducible refine Keeps.idState ?_
    | with_reducible refine foldl_keeps ?_ _ (fun s a hs => ?_)
    | (extract_lets +onlyGivenNames x; refine Keeps.cut (x := x) (m := tm) (s0 := z) ?_ ?_; unfold x; clear x; rotate_left; intro hx; clear_value x; rotate_right)
    | (extract_lets +onlyGivenNames x; clear_value x)
    | split

def execDeviceSoftReset_touch : Nat := 0x101ff9fc000000000000000084a00060000006032043000002882008a00a105080000400
theorem execDeviceSoftReset_keeps {tm : Nat} {z s : State} (hm : Sub execDeviceSoftReset_touch tm) (hs : Keeps tm z s) (h : Sys2Proof.CmdHdr) (key : Sys2Proof.Word) :
    KeepsO tm z (execDeviceSoftReset h key s) := by
  delta execDeviceSoftReset
  repeat' first
    | with_reducible refine KeepsO.next ?_
    | with_reducible refine KeepsO.ite ?_ ?_
    | with_reducible assumption
    | (refine Sub.bit hm ?_; exact rfl)
    | (refine Sub.trans (Sub.of ?_) hm; exact rfl)
    | with_reducible refine Keeps.ite ?_ ?_
    | (refine (?_ : (_ : Bool) = true); exact rfl)
    | with_reducible refine forEach_keeps ?_ _ (fun s a hs => ?_)
    | with_reducible refine enterStage_keeps ?_ ?_ _
    | with_reducible refine softStops_keeps ?_ ?_ _
    | with_reducible refine complete_keeps ?_ ?_ _ _ _
    | with_reducible refine settle_keeps ?_ ?_
    | with_reducible refine dispatch_keeps ?_ ?_ _ _ _ (fun s a0 hs => ?_)
    | with_reducible refine Keeps.idState ?_
    | with_reducible refine foldl_keeps ?_ _ (fun s a hs => ?_)
    | (extract_lets +onlyGivenNames x; refine Keeps.cut (x := x) (m := tm) (s0 := z) ?_ ?_; unfold x; clear x; rotate_left; intro hx; clear_value x; rotate_right)
    | (extract_lets +onlyGivenNames x; clear_value x)
    | split

def execDormantEntered_touch : Nat := 0x11dffb7c000000000010000084a00060100006032043000002886008a00e105080000404
theorem execDormantEntered_keeps {tm : Nat} {z s : State} (hm : Sub execDormantEntered_touch tm) (hs : Keeps tm z s)  :
    KeepsO tm z (execDormantEntered s) := by
  delta execDormantEntered
  repeat' first
    | with_reducible refine KeepsO.next ?_
    | with_reducible refine KeepsO.ite ?_ ?_
    | with_reducible assumption
    | (refine Sub.bit hm ?_; exact rfl)
    | (refine Sub.trans (Sub.of ?_) hm; exact rfl)
    | with_reducible refine Keeps.ite ?_ ?_
    | (refine (?_ : (_ : Bool) = true); exact rfl)
    | with_reducible refine powerDown_keeps ?_ ?_
    | with_reducible refine settle_keeps ?_ ?_
    | with_reducible refine begin_keeps ?_ ?_
    | with_reducible refine takeWake_keeps ?_ ?_ _ _
    | with_reducible refine Keeps.idState ?_
    | with_reducible refine foldl_keeps ?_ _ (fun s a hs => ?_)
    | (extract_lets +onlyGivenNames x; refine Keeps.cut (x := x) (m := tm) (s0 := z) ?_ ?_; unfold x; clear x; rotate_left; intro hx; clear_value x; rotate_right)
    | (extract_lets +onlyGivenNames x; clear_value x)
    | split

def execParamLoaded_touch : Nat := 0x1edff97c00000000003fffffffffffffffffffffffffffffffffffffffffffffffffffff
theorem execParamLoaded_keeps {tm : Nat} {z s : State} (hm : Sub execParamLoaded_touch tm) (hs : Keeps tm z s)  :
    KeepsO tm z (execParamLoaded s) := by
  delta execParamLoaded
  repeat' first
    | with_reducible refine KeepsO.next ?_
    | with_reducible refine KeepsO.ite ?_ ?_
    | with_reducible assumption
    | (refine Sub.bit hm ?_; exact rfl)
    | (refine Sub.trans (Sub.of ?_) hm; exact rfl)
    | with_reducible refine Keeps.ite ?_ ?_
    | (refine (?_ : (_ : Bool) = true); exact rfl)
    | with_reducible refine put_keeps ?_ ?_ ?_ _ _
    | with_reducible refine forEach_keeps ?_ _ (fun s a hs => ?_)
    | with_reducible refine pinTrips_keeps ?_ ?_
    | with_reducible refine loadHeddle_keeps ?_ ?_ _
    | with_reducible refine settle_keeps ?_ ?_
    | with_reducible refine record_keeps ?_ ?_ _ _ _ _
    | with_reducible refine loadEntry_keeps ?_ ?_ _
    | with_reducible refine onNvm_keeps ?_ ?_ _
    | with_reducible refine begin_keeps ?_ ?_
    | with_reducible refine showBanks_keeps ?_ ?_
    | with_reducible refine Keeps.idState ?_
    | with_reducible refine foldl_keeps ?_ _ (fun s a hs => ?_)
    | (extract_lets +onlyGivenNames x; refine Keeps.cut (x := x) (m := tm) (s0 := z) ?_ ?_; unfold x; clear x; rotate_left; intro hx; clear_value x; rotate_right)
    | (extract_lets +onlyGivenNames x; clear_value x)
    | split

def execPllLock_touch : Nat := 0x17dff97d000000000010000084a00060403c06032043000002882008a00a105080000404
theorem execPllLock_keeps {tm : Nat} {z s : State} (hm : Sub execPllLock_touch tm) (hs : Keeps tm z s)  :
    KeepsO tm z (execPllLock s) := by
  delta execPllLock
  repeat' first
    | with_reducible refine KeepsO.next ?_
    | with_reducible refine KeepsO.ite ?_ ?_
    | with_reducible assumption
    | (refine Sub.bit hm ?_; exact rfl)
    | (refine Sub.trans (Sub.of ?_) hm; exact rfl)
    | with_reducible refine Keeps.ite ?_ ?_
    | (refine (?_ : (_ : Bool) = true); exact rfl)
    | with_reducible refine put_keeps ?_ ?_ ?_ _ _
    | with_reducible refine pinTrips_keeps ?_ ?_
    | with_reducible refine settle_keeps ?_ ?_
    | with_reducible refine onPower_keeps ?_ ?_ _
    | with_reducible refine begin_keeps ?_ ?_
    | with_reducible refine wakeLock_keeps ?_ ?_
    | with_reducible refine Keeps.idState ?_
    | with_reducible refine foldl_keeps ?_ _ (fun s a hs => ?_)
    | (extract_lets +onlyGivenNames x; refine Keeps.cut (x := x) (m := tm) (s0 := z) ?_ ?_; unfold x; clear x; rotate_left; intro hx; clear_value x; rotate_right)
    | (extract_lets +onlyGivenNames x; clear_value x)
    | split
    | with_reducible refine upd_refRun_keeps ?_ ?_ _
    | with_reducible refine upd_refOut_keeps ?_ ?_ _
    | with_reducible refine upd_refOn_keeps ?_ ?_ _
    | with_reducible refine upd_refRun_refOut_refOn_keeps ?_ ?_ ?_ ?_ _ _ _ 

def execPllRetry_touch : Nat := 0x808040000000000000000000000001000000000010000000000000000000000000000
theorem execPllRetry_keeps {tm : Nat} {z s : State} (hm : Sub execPllRetry_touch tm) (hs : Keeps tm z s)  :
    KeepsO tm z (execPllRetry s) := by
  delta execPllRetry
  repeat' first
    | with_reducible refine KeepsO.next ?_
    | with_reducible refine KeepsO.ite ?_ ?_
    | with_reducible assumption
    | (refine Sub.bit hm ?_; exact rfl)
    | (refine Sub.trans (Sub.of ?_) hm; exact rfl)
    | with_reducible refine Keeps.ite ?_ ?_
    | (refine (?_ : (_ : Bool) = true); exact rfl)
    | with_reducible refine wr_keeps ?_ ?_ ?_ _ _
    | with_reducible refine record_keeps ?_ ?_ _ _ _ _
    | with_reducible refine onPower_keeps ?_ ?_ _
    | with_reducible refine begin_keeps ?_ ?_
    | with_reducible refine Keeps.idState ?_
    | with_reducible refine foldl_keeps ?_ _ (fun s a hs => ?_)
    | (extract_lets +onlyGivenNames x; refine Keeps.cut (x := x) (m := tm) (s0 := z) ?_ ?_; unfold x; clear x; rotate_left; intro hx; clear_value x; rotate_right)
    | (extract_lets +onlyGivenNames x; clear_value x)
    | split

def execPowerOnReset_touch : Nat := 0x3fffffff00000000003fffffffffffffffffffffffffffffffffffffffffffffffffffff
theorem execPowerOnReset_keeps {tm : Nat} {z s : State} (hm : Sub execPowerOnReset_touch tm) (hs : Keeps tm z s)  :
    KeepsO tm z (execPowerOnReset s) := by
  delta execPowerOnReset
  repeat' first
    | with_reducible refine KeepsO.next ?_
    | with_reducible refine KeepsO.ite ?_ ?_
    | with_reducible assumption
    | (refine Sub.bit hm ?_; exact rfl)
    | (refine Sub.trans (Sub.of ?_) hm; exact rfl)
    | with_reducible refine Keeps.ite ?_ ?_
    | (refine (?_ : (_ : Bool) = true); exact rfl)
    | with_reducible refine deviceReset_keeps ?_ ?_ _
    | with_reducible refine begin_keeps ?_ ?_
    | with_reducible refine Keeps.idState ?_
    | with_reducible refine foldl_keeps ?_ _ (fun s a hs => ?_)
    | (extract_lets +onlyGivenNames x; refine Keeps.cut (x := x) (m := tm) (s0 := z) ?_ ?_; unfold x; clear x; rotate_left; intro hx; clear_value x; rotate_right)
    | (extract_lets +onlyGivenNames x; clear_value x)
    | split

def execRecoveryDone_touch : Nat := 0x1017fd7c000000000000000087a000600000060320431c000f982008a00a105080000400
theorem execRecoveryDone_keeps {tm : Nat} {z s : State} (hm : Sub execRecoveryDone_touch tm) (hs : Keeps tm z s) (ecc : List (Nat × Bool)) :
    KeepsO tm z (execRecoveryDone ecc s) := by
  delta execRecoveryDone
  repeat' first
    | with_reducible refine KeepsO.next ?_
    | with_reducible refine KeepsO.ite ?_ ?_
    | with_reducible assumption
    | (refine Sub.bit hm ?_; exact rfl)
    | (refine Sub.trans (Sub.of ?_) hm; exact rfl)
    | with_reducible refine Keeps.ite ?_ ?_
    | (refine (?_ : (_ : Bool) = true); exact rfl)
    | with_reducible refine put_keeps ?_ ?_ ?_ _ _
    | with_reducible refine defaultRoles_keeps ?_ ?_
    | with_reducible refine kickAll_keeps ?_ ?_
    | with_reducible refine settle_keeps ?_ ?_
    | with_reducible refine record_keeps ?_ ?_ _ _ _ _
    | with_reducible refine tallyRecover_keeps ?_ ?_ _ _
    | with_reducible refine slvRecover_keeps ?_ ?_
    | with_reducible refine begin_keeps ?_ ?_
    | with_reducible refine startAll_keeps ?_ ?_
    | with_reducible refine presence_keeps ?_ ?_
    | with_reducible refine Keeps.idState ?_
    | with_reducible refine foldl_keeps ?_ _ (fun s a hs => ?_)
    | (extract_lets +onlyGivenNames x; refine Keeps.cut (x := x) (m := tm) (s0 := z) ?_ ?_; unfold x; clear x; rotate_left; intro hx; clear_value x; rotate_right)
    | (extract_lets +onlyGivenNames x; clear_value x)
    | split

def execResetN_touch : Nat := 0x3fffffff00000000003fffffffffffffffffffffffffffffffffffffffffffffffffffff
theorem execResetN_keeps {tm : Nat} {z s : State} (hm : Sub execResetN_touch tm) (hs : Keeps tm z s) (widthNs : Nat) :
    KeepsO tm z (execResetN widthNs s) := by
  delta execResetN
  repeat' first
    | with_reducible refine KeepsO.next ?_
    | with_reducible refine KeepsO.ite ?_ ?_
    | with_reducible assumption
    | (refine Sub.bit hm ?_; exact rfl)
    | (refine Sub.trans (Sub.of ?_) hm; exact rfl)
    | with_reducible refine Keeps.ite ?_ ?_
    | (refine (?_ : (_ : Bool) = true); exact rfl)
    | with_reducible refine draw_keeps ?_ ?_
    | with_reducible refine deviceReset_keeps ?_ ?_ _
    | with_reducible refine begin_keeps ?_ ?_
    | with_reducible refine Keeps.idState ?_
    | with_reducible refine foldl_keeps ?_ _ (fun s a hs => ?_)
    | (extract_lets +onlyGivenNames x; refine Keeps.cut (x := x) (m := tm) (s0 := z) ?_ ?_; unfold x; clear x; rotate_left; intro hx; clear_value x; rotate_right)
    | (extract_lets +onlyGivenNames x; clear_value x)
    | split
    | dsimp only

def execSoftResetCycle_touch : Nat := 0x3fffffff00000000003fffffffffffffffffffffffffffffffffffffffffffffffffffff
theorem execSoftResetCycle_keeps {tm : Nat} {z s : State} (hm : Sub execSoftResetCycle_touch tm) (hs : Keeps tm z s)  :
    KeepsO tm z (execSoftResetCycle s) := by
  delta execSoftResetCycle
  repeat' first
    | with_reducible refine KeepsO.next ?_
    | with_reducible refine KeepsO.ite ?_ ?_
    | with_reducible assumption
    | (refine Sub.bit hm ?_; exact rfl)
    | (refine Sub.trans (Sub.of ?_) hm; exact rfl)
    | with_reducible refine Keeps.ite ?_ ?_
    | (refine (?_ : (_ : Bool) = true); exact rfl)
    | with_reducible refine pinTrips_keeps ?_ ?_
    | with_reducible refine settle_keeps ?_ ?_
    | with_reducible refine deviceReset_keeps ?_ ?_ _
    | with_reducible refine begin_keeps ?_ ?_
    | with_reducible refine endWaits_keeps ?_ ?_
    | with_reducible refine Keeps.idState ?_
    | with_reducible refine foldl_keeps ?_ _ (fun s a hs => ?_)
    | (extract_lets +onlyGivenNames x; refine Keeps.cut (x := x) (m := tm) (s0 := z) ?_ ?_; unfold x; clear x; rotate_left; intro hx; clear_value x; rotate_right)
    | (extract_lets +onlyGivenNames x; clear_value x)
    | split

def execStartupComplete_touch : Nat := 0x808040000000000000000000000001000000000010000000000000000000000000000
theorem execStartupComplete_keeps {tm : Nat} {z s : State} (hm : Sub execStartupComplete_touch tm) (hs : Keeps tm z s)  :
    KeepsO tm z (execStartupComplete s) := by
  delta execStartupComplete
  repeat' first
    | with_reducible refine KeepsO.next ?_
    | with_reducible refine KeepsO.ite ?_ ?_
    | with_reducible assumption
    | (refine Sub.bit hm ?_; exact rfl)
    | (refine Sub.trans (Sub.of ?_) hm; exact rfl)
    | with_reducible refine Keeps.ite ?_ ?_
    | (refine (?_ : (_ : Bool) = true); exact rfl)
    | with_reducible refine put_keeps ?_ ?_ ?_ _ _
    | with_reducible refine record_keeps ?_ ?_ _ _ _ _
    | with_reducible refine onPower_keeps ?_ ?_ _
    | with_reducible refine begin_keeps ?_ ?_
    | with_reducible refine Keeps.idState ?_
    | with_reducible refine foldl_keeps ?_ _ (fun s a hs => ?_)
    | (extract_lets +onlyGivenNames x; refine Keeps.cut (x := x) (m := tm) (s0 := z) ?_ ?_; unfold x; clear x; rotate_left; intro hx; clear_value x; rotate_right)
    | (extract_lets +onlyGivenNames x; clear_value x)
    | split

def execWake_touch : Nat := 0x812040000000000000000000000601000000000000000000000000000000000000000
theorem execWake_keeps {tm : Nat} {z s : State} (hm : Sub execWake_touch tm) (hs : Keeps tm z s) (sources : BitVec 4) (ticks : BitVec 48) :
    KeepsO tm z (execWake sources ticks s) := by
  delta execWake
  repeat' first
    | with_reducible refine KeepsO.next ?_
    | with_reducible refine KeepsO.ite ?_ ?_
    | with_reducible assumption
    | (refine Sub.bit hm ?_; exact rfl)
    | (refine Sub.trans (Sub.of ?_) hm; exact rfl)
    | with_reducible refine Keeps.ite ?_ ?_
    | (refine (?_ : (_ : Bool) = true); exact rfl)
    | with_reducible refine onPower_keeps ?_ ?_ _
    | with_reducible refine begin_keeps ?_ ?_
    | with_reducible refine takeWake_keeps ?_ ?_ _ _
    | with_reducible refine Keeps.idState ?_
    | with_reducible refine foldl_keeps ?_ _ (fun s a hs => ?_)
    | (extract_lets +onlyGivenNames x; refine Keeps.cut (x := x) (m := tm) (s0 := z) ?_ ?_; unfold x; clear x; rotate_left; intro hx; clear_value x; rotate_right)
    | (extract_lets +onlyGivenNames x; clear_value x)
    | split

def execXinReady_touch : Nat := 0x800040000000000000000000000000000000000000000000000000000000000000000
theorem execXinReady_keeps {tm : Nat} {z s : State} (hm : Sub execXinReady_touch tm) (hs : Keeps tm z s)  :
    KeepsO tm z (execXinReady s) := by
  delta execXinReady
  repeat' first
    | with_reducible refine KeepsO.next ?_
    | with_reducible refine KeepsO.ite ?_ ?_
    | with_reducible assumption
    | (refine Sub.bit hm ?_; exact rfl)
    | (refine Sub.trans (Sub.of ?_) hm; exact rfl)
    | with_reducible refine Keeps.ite ?_ ?_
    | (refine (?_ : (_ : Bool) = true); exact rfl)
    | with_reducible refine onPower_keeps ?_ ?_ _
    | with_reducible refine begin_keeps ?_ ?_
    | with_reducible refine Keeps.idState ?_
    | with_reducible refine foldl_keeps ?_ _ (fun s a hs => ?_)
    | (extract_lets +onlyGivenNames x; refine Keeps.cut (x := x) (m := tm) (s0 := z) ?_ ?_; unfold x; clear x; rotate_left; intro hx; clear_value x; rotate_right)
    | (extract_lets +onlyGivenNames x; clear_value x)
    | split

end Sys2Proof.Machine
end

