-- ==== Sys2Proof/Laws/KeepsPortS.lean ====
section
/-!
SUPPORT. Sys2Proof/Laws/KeepsPortS.lean: what each function of Machine/PortS.lean may change: its touch set, and one lemma per function.
-/
namespace Sys2Proof.Machine

open Sys2Proof

def clearBits_touch : Nat := 0x40000000000000000000000000000000000000000000000000000000000000000000
theorem clearBits_keeps {tm : Nat} {z s : State} (hm : Sub clearBits_touch tm) (hs : Keeps tm z s) (l : Nat) :
    Keeps tm z (State.clearBits s l) := by
  delta State.clearBits
  repeat' first
    | with_reducible assumption
    | (refine Sub.bit hm ?_; exact rfl)
    | (refine Sub.trans (Sub.of ?_) hm; exact rfl)
    | with_reducible refine Keeps.ite ?_ ?_
    | (refine (?_ : (_ : Bool) = true); exact rfl)
    | with_reducible refine onLane_keeps ?_ ?_ _ _
    | with_reducible refine Keeps.idState ?_
    | with_reducible refine foldl_keeps ?_ _ (fun s a hs => ?_)
    | (extract_lets +onlyGivenNames x; refine Keeps.cut (x := x) (m := tm) (s0 := z) ?_ ?_; unfold x; clear x; rotate_left; intro hx; clear_value x; rotate_right)
    | (extract_lets +onlyGivenNames x; clear_value x)
    | split

def psFault_touch : Nat := 0x48040000000000000003800000600000000000010000000000000000000000000000
theorem psFault_keeps {tm : Nat} {z s : State} (hm : Sub psFault_touch tm) (hs : Keeps tm z s) (kind : Nat) :
    Keeps tm z (State.psFault s kind) := by
  delta State.psFault
  repeat' first
    | with_reducible assumption
    | (refine Sub.bit hm ?_; exact rfl)
    | (refine Sub.trans (Sub.of ?_) hm; exact rfl)
    | with_reducible refine Keeps.ite ?_ ?_
    | (refine (?_ : (_ : Bool) = true); exact rfl)
    | with_reducible refine put_keeps ?_ ?_ ?_ _ _
    | with_reducible refine bump_keeps ?_ ?_ ?_ _ _
    | with_reducible refine forEach_keeps ?_ _ (fun s a hs => ?_)
    | with_reducible refine psLatch_keeps ?_ ?_ _ _
    | with_reducible refine record_keeps ?_ ?_ _ _ _ _
    | with_reducible refine emit_keeps ?_ ?_ _
    | with_reducible refine Keeps.idState ?_
    | with_reducible refine foldl_keeps ?_ _ (fun s a hs => ?_)
    | (extract_lets +onlyGivenNames x; refine Keeps.cut (x := x) (m := tm) (s0 := z) ?_ ?_; unfold x; clear x; rotate_left; intro hx; clear_value x; rotate_right)
    | (extract_lets +onlyGivenNames x; clear_value x)
    | split

def psTx_touch : Nat := 0x800040000000000000002800000000000000000000000000000000000000000000000
theorem psTx_keeps {tm : Nat} {z s : State} (hm : Sub psTx_touch tm) (hs : Keeps tm z s) (code : Nat) (f : Sys2Proof.Machine.State → Sys2Proof.Machine.State) (hf : ∀ s, Keeps tm z s → Keeps tm z (f s)) :
    Keeps tm z (State.psTx s code f) := by
  delta State.psTx
  repeat' first
    | with_reducible assumption
    | (refine Sub.bit hm ?_; exact rfl)
    | (refine Sub.trans (Sub.of ?_) hm; exact rfl)
    | with_reducible refine Keeps.ite ?_ ?_
    | (refine (?_ : (_ : Bool) = true); exact rfl)
    | with_reducible refine hf _ ?_
    | with_reducible refine wr_keeps ?_ ?_ ?_ _ _
    | with_reducible refine bump_keeps ?_ ?_ ?_ _ _
    | with_reducible refine begin_keeps ?_ ?_
    | with_reducible refine Keeps.idState ?_
    | with_reducible refine foldl_keeps ?_ _ (fun s a hs => ?_)
    | (extract_lets +onlyGivenNames x; refine Keeps.cut (x := x) (m := tm) (s0 := z) ?_ ?_; unfold x; clear x; rotate_left; intro hx; clear_value x; rotate_right)
    | (extract_lets +onlyGivenNames x; clear_value x)
    | split
    | with_reducible refine upd_power_keeps ?_ ?_ _

def psSend_touch : Nat := 0x40000000000000000000000600000000000000000000000000000000000000000
theorem psSend_keeps {tm : Nat} {z s : State} (hm : Sub psSend_touch tm) (hs : Keeps tm z s) (code : Nat) (pec : Bool) (d : List Sys2Proof.Byte) :
    Keeps tm z (State.psSend s code pec d) := by
  delta State.psSend
  repeat' first
    | with_reducible assumption
    | (refine Sub.bit hm ?_; exact rfl)
    | (refine Sub.trans (Sub.of ?_) hm; exact rfl)
    | with_reducible refine Keeps.ite ?_ ?_
    | (refine (?_ : (_ : Bool) = true); exact rfl)
    | with_reducible refine emit_keeps ?_ ?_ _
    | with_reducible refine Keeps.idState ?_
    | with_reducible refine foldl_keeps ?_ _ (fun s a hs => ?_)
    | (extract_lets +onlyGivenNames x; refine Keeps.cut (x := x) (m := tm) (s0 := z) ?_ ?_; unfold x; clear x; rotate_left; intro hx; clear_value x; rotate_right)
    | (extract_lets +onlyGivenNames x; clear_value x)
    | split

def psPaged_touch : Nat := 0x848040000000000000003800000600000000000010000000000000000000000000000
theorem psPaged_keeps {tm : Nat} {z s : State} (hm : Sub psPaged_touch tm) (hs : Keeps tm z s) (code : Nat) (pec : Bool) (n : Nat) (d : Sys2Proof.Machine.State → Nat → Nat) :
    Keeps tm z (State.psPaged s code pec n d) := by
  delta State.psPaged
  repeat' first
    | with_reducible assumption
    | (refine Sub.bit hm ?_; exact rfl)
    | (refine Sub.trans (Sub.of ?_) hm; exact rfl)
    | with_reducible refine Keeps.ite ?_ ?_
    | (refine (?_ : (_ : Bool) = true); exact rfl)
    | with_reducible refine psTx_keeps ?_ ?_ _ _ (fun s hs => ?_)
    | with_reducible refine psSend_keeps ?_ ?_ _ _ _
    | with_reducible refine psFault_keeps ?_ ?_ _
    | with_reducible refine Keeps.idState ?_
    | with_reducible refine foldl_keeps ?_ _ (fun s a hs => ?_)
    | (extract_lets +onlyGivenNames x; refine Keeps.cut (x := x) (m := tm) (s0 := z) ?_ ?_; unfold x; clear x; rotate_left; intro hx; clear_value x; rotate_right)
    | (extract_lets +onlyGivenNames x; clear_value x)
    | split

def psPec_touch : Nat := 0x48040000000000000003800000600000000000010000000000000000000000000000
theorem psPec_keeps {tm : Nat} {z s : State} (hm : Sub psPec_touch tm) (hs : Keeps tm z s) (p : Sys2Proof.PecByte) (f : Sys2Proof.Machine.State → Sys2Proof.Machine.State) (hf : ∀ s, Keeps tm z s → Keeps tm z (f s)) :
    Keeps tm z (State.psPec s p f) := by
  delta State.psPec
  repeat' first
    | with_reducible assumption
    | (refine Sub.bit hm ?_; exact rfl)
    | (refine Sub.trans (Sub.of ?_) hm; exact rfl)
    | with_reducible refine Keeps.ite ?_ ?_
    | (refine (?_ : (_ : Bool) = true); exact rfl)
    | with_reducible refine hf _ ?_
    | with_reducible refine psFault_keeps ?_ ?_ _
    | with_reducible refine Keeps.idState ?_
    | with_reducible refine foldl_keeps ?_ _ (fun s a hs => ?_)
    | (extract_lets +onlyGivenNames x; refine Keeps.cut (x := x) (m := tm) (s0 := z) ?_ ?_; unfold x; clear x; rotate_left; intro hx; clear_value x; rotate_right)
    | (extract_lets +onlyGivenNames x; clear_value x)
    | split

def psRead_touch : Nat := 0x800040000000000000002800000600000000000000000000000000000000000000000
theorem psRead_keeps {tm : Nat} {z s : State} (hm : Sub psRead_touch tm) (hs : Keeps tm z s) (code : Nat) (pec : Bool) (d : Sys2Proof.Machine.State → List Sys2Proof.Byte) :
    Keeps tm z (State.psRead s code pec d) := by
  delta State.psRead
  repeat' first
    | with_reducible assumption
    | (refine Sub.bit hm ?_; exact rfl)
    | (refine Sub.trans (Sub.of ?_) hm; exact rfl)
    | with_reducible refine Keeps.ite ?_ ?_
    | (refine (?_ : (_ : Bool) = true); exact rfl)
    | with_reducible refine psTx_keeps ?_ ?_ _ _ (fun s hs => ?_)
    | with_reducible refine psSend_keeps ?_ ?_ _ _ _
    | with_reducible refine Keeps.idState ?_
    | with_reducible refine foldl_keeps ?_ _ (fun s a hs => ?_)
    | (extract_lets +onlyGivenNames x; refine Keeps.cut (x := x) (m := tm) (s0 := z) ?_ ?_; unfold x; clear x; rotate_left; intro hx; clear_value x; rotate_right)
    | (extract_lets +onlyGivenNames x; clear_value x)
    | split

def psStatus_touch : Nat := 0x800040000000000000002800000600000000000000000000000000000000000000000
theorem psStatus_keeps {tm : Nat} {z s : State} (hm : Sub psStatus_touch tm) (hs : Keeps tm z s) (code : Nat) (pec : Bool) (n : Nat) (d : Sys2Proof.Machine.State → Nat → Nat) :
    Keeps tm z (State.psStatus s code pec n d) := by
  delta State.psStatus
  repeat' first
    | with_reducible assumption
    | (refine Sub.bit hm ?_; exact rfl)
    | (refine Sub.trans (Sub.of ?_) hm; exact rfl)
    | with_reducible refine Keeps.ite ?_ ?_
    | (refine (?_ : (_ : Bool) = true); exact rfl)
    | with_reducible refine psRead_keeps ?_ ?_ _ _ _
    | with_reducible refine Keeps.idState ?_
    | with_reducible refine foldl_keeps ?_ _ (fun s a hs => ?_)
    | (extract_lets +onlyGivenNames x; refine Keeps.cut (x := x) (m := tm) (s0 := z) ?_ ?_; unfold x; clear x; rotate_left; intro hx; clear_value x; rotate_right)
    | (extract_lets +onlyGivenNames x; clear_value x)
    | split

def psWrite_touch : Nat := 0x101ff97c000000000000000384a00060000006032043000002882008a00a105080000400
theorem psWrite_keeps {tm : Nat} {z s : State} (hm : Sub psWrite_touch tm) (hs : Keeps tm z s) (code : Nat) (busy : Bool) (p : Sys2Proof.PecByte) (f : Sys2Proof.Machine.State → Sys2Proof.Machine.State) (hf : ∀ s, Keeps tm z s → Keeps tm z (f s)) :
    Keeps tm z (State.psWrite s code busy p f) := by
  delta State.psWrite
  repeat' first
    | with_reducible assumption
    | (refine Sub.bit hm ?_; exact rfl)
    | (refine Sub.trans (Sub.of ?_) hm; exact rfl)
    | with_reducible refine Keeps.ite ?_ ?_
    | (refine (?_ : (_ : Bool) = true); exact rfl)
    | with_reducible refine hf _ ?_
    | with_reducible refine psTx_keeps ?_ ?_ _ _ (fun s hs => ?_)
    | with_reducible refine psPec_keeps ?_ ?_ _ _ (fun s hs => ?_)
    | with_reducible refine settle_keeps ?_ ?_
    | with_reducible refine psFault_keeps ?_ ?_ _
    | with_reducible refine begin_keeps ?_ ?_
    | with_reducible refine emit_keeps ?_ ?_ _
    | with_reducible refine Keeps.idState ?_
    | with_reducible refine foldl_keeps ?_ _ (fun s a hs => ?_)
    | (extract_lets +onlyGivenNames x; refine Keeps.cut (x := x) (m := tm) (s0 := z) ?_ ?_; unfold x; clear x; rotate_left; intro hx; clear_value x; rotate_right)
    | (extract_lets +onlyGivenNames x; clear_value x)
    | split

def setHold_touch : Nat := 0x1000497c000000000000000004a000600000000000010000000000088000000000000000
theorem setHold_keeps {tm : Nat} {z s : State} (hm : Sub setHold_touch tm) (hs : Keeps tm z s) (l : Nat) :
    Keeps tm z (State.setHold s l) := by
  delta State.setHold
  repeat' first
    | with_reducible assumption
    | (refine Sub.bit hm ?_; exact rfl)
    | (refine Sub.trans (Sub.of ?_) hm; exact rfl)
    | with_reducible refine Keeps.ite ?_ ?_
    | (refine (?_ : (_ : Bool) = true); exact rfl)
    | with_reducible refine put_keeps ?_ ?_ ?_ _ _
    | with_reducible refine finish_keeps ?_ ?_ _ _ _
    | with_reducible refine noStart_keeps ?_ ?_ _
    | with_reducible refine onLane_keeps ?_ ?_ _ _
    | with_reducible refine Keeps.idState ?_
    | with_reducible refine foldl_keeps ?_ _ (fun s a hs => ?_)
    | (extract_lets +onlyGivenNames x; refine Keeps.cut (x := x) (m := tm) (s0 := z) ?_ ?_; unfold x; clear x; rotate_left; intro hx; clear_value x; rotate_right)
    | (extract_lets +onlyGivenNames x; clear_value x)
    | split

def supBegin_touch : Nat := 0xf00000000000000000000000000000000000000000000000000000000000000000
theorem supBegin_keeps {tm : Nat} {z s : State} (hm : Sub supBegin_touch tm) (hs : Keeps tm z s) (n : Nat) :
    Keeps tm z (State.supBegin s n) := by
  delta State.supBegin
  repeat' first
    | with_reducible assumption
    | (refine Sub.bit hm ?_; exact rfl)
    | (refine Sub.trans (Sub.of ?_) hm; exact rfl)
    | with_reducible refine Keeps.ite ?_ ?_
    | (refine (?_ : (_ : Bool) = true); exact rfl)
    | with_reducible refine Keeps.idState ?_
    | with_reducible refine foldl_keeps ?_ _ (fun s a hs => ?_)
    | (extract_lets +onlyGivenNames x; refine Keeps.cut (x := x) (m := tm) (s0 := z) ?_ ?_; unfold x; clear x; rotate_left; intro hx; clear_value x; rotate_right)
    | (extract_lets +onlyGivenNames x; clear_value x)
    | split
    | with_reducible refine upd_supOut_keeps ?_ ?_ _
    | with_reducible refine upd_supRes_keeps ?_ ?_ _
    | with_reducible refine upd_supBad_keeps ?_ ?_ _
    | with_reducible refine upd_served_keeps ?_ ?_ _
    | with_reducible refine upd_supOut_supRes_supBad_served_keeps ?_ ?_ ?_ ?_ ?_ _ _ _ _ 

def execAlertResponse_touch : Nat := 0x40000000000000000800000600000000000000000000000000000000000000000
theorem execAlertResponse_keeps {tm : Nat} {z s : State} (hm : Sub execAlertResponse_touch tm) (hs : Keeps tm z s) (lost : Bool) :
    KeepsO tm z (execAlertResponse lost s) := by
  delta execAlertResponse
  repeat' first
    | with_reducible refine KeepsO.next ?_
    | with_reducible refine KeepsO.ite ?_ ?_
    | with_reducible assumption
    | (refine Sub.bit hm ?_; exact rfl)
    | (refine Sub.trans (Sub.of ?_) hm; exact rfl)
    | with_reducible refine Keeps.ite ?_ ?_
    | (refine (?_ : (_ : Bool) = true); exact rfl)
    | with_reducible refine put_keeps ?_ ?_ ?_ _ _
    | with_reducible refine begin_keeps ?_ ?_
    | with_reducible refine emit_keeps ?_ ?_ _
    | with_reducible refine Keeps.idState ?_
    | with_reducible refine foldl_keeps ?_ _ (fun s a hs => ?_)
    | (extract_lets +onlyGivenNames x; refine Keeps.cut (x := x) (m := tm) (s0 := z) ?_ ?_; unfold x; clear x; rotate_left; intro hx; clear_value x; rotate_right)
    | (extract_lets +onlyGivenNames x; clear_value x)
    | split

def execCapability_touch : Nat := 0x800040000000000000002800000600000000000000000000000000000000000000000
theorem execCapability_keeps {tm : Nat} {z s : State} (hm : Sub execCapability_touch tm) (hs : Keeps tm z s) (pec : Bool) :
    KeepsO tm z (execCapability pec s) := by
  delta execCapability
  repeat' first
    | with_reducible refine KeepsO.next ?_
    | with_reducible refine KeepsO.ite ?_ ?_
    | with_reducible assumption
    | (refine Sub.bit hm ?_; exact rfl)
    | (refine Sub.trans (Sub.of ?_) hm; exact rfl)
    | with_reducible refine Keeps.ite ?_ ?_
    | (refine (?_ : (_ : Bool) = true); exact rfl)
    | with_reducible refine psRead_keeps ?_ ?_ _ _ _
    | with_reducible refine Keeps.idState ?_
    | with_reducible refine foldl_keeps ?_ _ (fun s a hs => ?_)
    | (extract_lets +onlyGivenNames x; refine Keeps.cut (x := x) (m := tm) (s0 := z) ?_ ?_; unfold x; clear x; rotate_left; intro hx; clear_value x; rotate_right)
    | (extract_lets +onlyGivenNames x; clear_value x)
    | split

def execClearFaults_touch : Nat := 0x101ff9fc000000000000000384a00060000006032043000002882008a00a105080000400
theorem execClearFaults_keeps {tm : Nat} {z s : State} (hm : Sub execClearFaults_touch tm) (hs : Keeps tm z s) (pec : Sys2Proof.PecByte) :
    KeepsO tm z (execClearFaults pec s) := by
  delta execClearFaults
  repeat' first
    | with_reducible refine KeepsO.next ?_
    | with_reducible refine KeepsO.ite ?_ ?_
    | with_reducible assumption
    | (refine Sub.bit hm ?_; exact rfl)
    | (refine Sub.trans (Sub.of ?_) hm; exact rfl)
    | with_reducible refine Keeps.ite ?_ ?_
    | (refine (?_ : (_ : Bool) = true); exact rfl)
    | with_reducible refine forEach_keeps ?_ _ (fun s a hs => ?_)
    | with_reducible refine psWrite_keeps ?_ ?_ _ _ _ _ (fun s hs => ?_)
    | with_reducible refine clearTripCmd_keeps ?_ ?_ _ _
    | with_reducible refine supBegin_keeps ?_ ?_ _
    | with_reducible refine clearBits_keeps ?_ ?_ _
    | with_reducible refine Keeps.idState ?_
    | with_reducible refine foldl_keeps ?_ _ (fun s a hs => ?_)
    | (extract_lets +onlyGivenNames x; refine Keeps.cut (x := x) (m := tm) (s0 := z) ?_ ?_; unfold x; clear x; rotate_left; intro hx; clear_value x; rotate_right)
    | (extract_lets +onlyGivenNames x; clear_value x)
    | split

def execMfrLaneState_touch : Nat := 0x848040000000000000003800000600000000000010000000000000000000000000000
theorem execMfrLaneState_keeps {tm : Nat} {z s : State} (hm : Sub execMfrLaneState_touch tm) (hs : Keeps tm z s) (pec : Bool) :
    KeepsO tm z (execMfrLaneState pec s) := by
  delta execMfrLaneState
  repeat' first
    | with_reducible refine KeepsO.next ?_
    | with_reducible refine KeepsO.ite ?_ ?_
    | with_reducible assumption
    | (refine Sub.bit hm ?_; exact rfl)
    | (refine Sub.trans (Sub.of ?_) hm; exact rfl)
    | with_reducible refine Keeps.ite ?_ ?_
    | (refine (?_ : (_ : Bool) = true); exact rfl)
    | with_reducible refine psPaged_keeps ?_ ?_ _ _ _ _
    | with_reducible refine Keeps.idState ?_
    | with_reducible refine foldl_keeps ?_ _ (fun s a hs => ?_)
    | (extract_lets +onlyGivenNames x; refine Keeps.cut (x := x) (m := tm) (s0 := z) ?_ ?_; unfold x; clear x; rotate_left; intro hx; clear_value x; rotate_right)
    | (extract_lets +onlyGivenNames x; clear_value x)
    | split

def execMfrSafeAll_touch : Nat := 0x101ff9fc000000000000000384a00060000006032043000002882008a00a105080000400
theorem execMfrSafeAll_keeps {tm : Nat} {z s : State} (hm : Sub execMfrSafeAll_touch tm) (hs : Keeps tm z s) (pec : Sys2Proof.PecByte) :
    KeepsO tm z (execMfrSafeAll pec s) := by
  delta execMfrSafeAll
  repeat' first
    | with_reducible refine KeepsO.next ?_
    | with_reducible refine KeepsO.ite ?_ ?_
    | with_reducible assumption
    | (refine Sub.bit hm ?_; exact rfl)
    | (refine Sub.trans (Sub.of ?_) hm; exact rfl)
    | with_reducible refine Keeps.ite ?_ ?_
    | (refine (?_ : (_ : Bool) = true); exact rfl)
    | with_reducible refine put_keeps ?_ ?_ ?_ _ _
    | with_reducible refine forEach_keeps ?_ _ (fun s a hs => ?_)
    | with_reducible refine psWrite_keeps ?_ ?_ _ _ _ _ (fun s hs => ?_)
    | with_reducible refine supBegin_keeps ?_ ?_ _
    | with_reducible refine record_keeps ?_ ?_ _ _ _ _
    | with_reducible refine queue_keeps ?_ ?_ _ _
    | with_reducible refine hold_keeps ?_ ?_ _ _
    | with_reducible refine setHold_keeps ?_ ?_ _
    | with_reducible refine Keeps.idState ?_
    | with_reducible refine foldl_keeps ?_ _ (fun s a hs => ?_)
    | (extract_lets +onlyGivenNames x; refine Keeps.cut (x := x) (m := tm) (s0 := z) ?_ ?_; unfold x; clear x; rotate_left; intro hx; clear_value x; rotate_right)
    | (extract_lets +onlyGivenNames x; clear_value x)
    | split

def execMfrSupResult_touch : Nat := 0x800040000000000000002800000600000000000000000000000000000000000000000
theorem execMfrSupResult_keeps {tm : Nat} {z s : State} (hm : Sub execMfrSupResult_touch tm) (hs : Keeps tm z s) (pec : Bool) :
    KeepsO tm z (execMfrSupResult pec s) := by
  delta execMfrSupResult
  repeat' first
    | with_reducible refine KeepsO.next ?_
    | with_reducible refine KeepsO.ite ?_ ?_
    | with_reducible assumption
    | (refine Sub.bit hm ?_; exact rfl)
    | (refine Sub.trans (Sub.of ?_) hm; exact rfl)
    | with_reducible refine Keeps.ite ?_ ?_
    | (refine (?_ : (_ : Bool) = true); exact rfl)
    | with_reducible refine psRead_keeps ?_ ?_ _ _ _
    | with_reducible refine Keeps.idState ?_
    | with_reducible refine foldl_keeps ?_ _ (fun s a hs => ?_)
    | (extract_lets +onlyGivenNames x; refine Keeps.cut (x := x) (m := tm) (s0 := z) ?_ ?_; unfold x; clear x; rotate_left; intro hx; clear_value x; rotate_right)
    | (extract_lets +onlyGivenNames x; clear_value x)
    | split

def execOperationOff_touch : Nat := 0x101ff9fc000000000000000384a00060000006032043000002882008a00a105080000400
theorem execOperationOff_keeps {tm : Nat} {z s : State} (hm : Sub execOperationOff_touch tm) (hs : Keeps tm z s) (pec : Sys2Proof.PecByte) :
    KeepsO tm z (execOperationOff pec s) := by
  delta execOperationOff
  repeat' first
    | with_reducible refine KeepsO.next ?_
    | with_reducible refine KeepsO.ite ?_ ?_
    | with_reducible assumption
    | (refine Sub.bit hm ?_; exact rfl)
    | (refine Sub.trans (Sub.of ?_) hm; exact rfl)
    | with_reducible refine Keeps.ite ?_ ?_
    | (refine (?_ : (_ : Bool) = true); exact rfl)
    | with_reducible refine forEach_keeps ?_ _ (fun s a hs => ?_)
    | with_reducible refine psWrite_keeps ?_ ?_ _ _ _ _ (fun s hs => ?_)
    | with_reducible refine supBegin_keeps ?_ ?_ _
    | with_reducible refine parkCmd_keeps ?_ ?_ _ _
    | with_reducible refine setHold_keeps ?_ ?_ _
    | with_reducible refine Keeps.idState ?_
    | with_reducible refine foldl_keeps ?_ _ (fun s a hs => ?_)
    | (extract_lets +onlyGivenNames x; refine Keeps.cut (x := x) (m := tm) (s0 := z) ?_ ?_; unfold x; clear x; rotate_left; intro hx; clear_value x; rotate_right)
    | (extract_lets +onlyGivenNames x; clear_value x)
    | split

def execOperationOn_touch : Nat := 0x101ff9fc000000000000000384a00060000006032043000002882008a00a105080000400
theorem execOperationOn_keeps {tm : Nat} {z s : State} (hm : Sub execOperationOn_touch tm) (hs : Keeps tm z s) (pec : Sys2Proof.PecByte) :
    KeepsO tm z (execOperationOn pec s) := by
  delta execOperationOn
  repeat' first
    | with_reducible refine KeepsO.next ?_
    | with_reducible refine KeepsO.ite ?_ ?_
    | with_reducible assumption
    | (refine Sub.bit hm ?_; exact rfl)
    | (refine Sub.trans (Sub.of ?_) hm; exact rfl)
    | with_reducible refine Keeps.ite ?_ ?_
    | (refine (?_ : (_ : Bool) = true); exact rfl)
    | with_reducible refine put_keeps ?_ ?_ ?_ _ _
    | with_reducible refine forEach_keeps ?_ _ (fun s a hs => ?_)
    | with_reducible refine psWrite_keeps ?_ ?_ _ _ _ _ (fun s hs => ?_)
    | with_reducible refine supBegin_keeps ?_ ?_ _
    | with_reducible refine record_keeps ?_ ?_ _ _ _ _
    | with_reducible refine Keeps.idState ?_
    | with_reducible refine foldl_keeps ?_ _ (fun s a hs => ?_)
    | (extract_lets +onlyGivenNames x; refine Keeps.cut (x := x) (m := tm) (s0 := z) ?_ ?_; unfold x; clear x; rotate_left; intro hx; clear_value x; rotate_right)
    | (extract_lets +onlyGivenNames x; clear_value x)
    | split

def execOperationRead_touch : Nat := 0x848040000000000000003800000600000000000010000000000000000000000000000
theorem execOperationRead_keeps {tm : Nat} {z s : State} (hm : Sub execOperationRead_touch tm) (hs : Keeps tm z s) (pec : Bool) :
    KeepsO tm z (execOperationRead pec s) := by
  delta execOperationRead
  repeat' first
    | with_reducible refine KeepsO.next ?_
    | with_reducible refine KeepsO.ite ?_ ?_
    | with_reducible assumption
    | (refine Sub.bit hm ?_; exact rfl)
    | (refine Sub.trans (Sub.of ?_) hm; exact rfl)
    | with_reducible refine Keeps.ite ?_ ?_
    | (refine (?_ : (_ : Bool) = true); exact rfl)
    | with_reducible refine psPaged_keeps ?_ ?_ _ _ _ _
    | with_reducible refine Keeps.idState ?_
    | with_reducible refine foldl_keeps ?_ _ (fun s a hs => ?_)
    | (extract_lets +onlyGivenNames x; refine Keeps.cut (x := x) (m := tm) (s0 := z) ?_ ?_; unfold x; clear x; rotate_left; intro hx; clear_value x; rotate_right)
    | (extract_lets +onlyGivenNames x; clear_value x)
    | split

def execPage_touch : Nat := 0x848040000000000000003800000600000000000010000000000000000000000000000
theorem execPage_keeps {tm : Nat} {z s : State} (hm : Sub execPage_touch tm) (hs : Keeps tm z s) (write : Option (Sys2Proof.Byte × Sys2Proof.PecByte)) (pec : Bool) :
    KeepsO tm z (execPage write pec s) := by
  delta execPage
  repeat' first
    | with_reducible refine KeepsO.next ?_
    | with_reducible refine KeepsO.ite ?_ ?_
    | with_reducible assumption
    | (refine Sub.bit hm ?_; exact rfl)
    | (refine Sub.trans (Sub.of ?_) hm; exact rfl)
    | with_reducible refine Keeps.ite ?_ ?_
    | (refine (?_ : (_ : Bool) = true); exact rfl)
    | with_reducible refine wr_keeps ?_ ?_ ?_ _ _
    | with_reducible refine psTx_keeps ?_ ?_ _ _ (fun s hs => ?_)
    | with_reducible refine psRead_keeps ?_ ?_ _ _ _
    | with_reducible refine psPec_keeps ?_ ?_ _ _ (fun s hs => ?_)
    | with_reducible refine psFault_keeps ?_ ?_ _
    | with_reducible refine emit_keeps ?_ ?_ _
    | with_reducible refine Keeps.idState ?_
    | with_reducible refine foldl_keeps ?_ _ (fun s a hs => ?_)
    | (extract_lets +onlyGivenNames x; refine Keeps.cut (x := x) (m := tm) (s0 := z) ?_ ?_; unfold x; clear x; rotate_left; intro hx; clear_value x; rotate_right)
    | (extract_lets +onlyGivenNames x; clear_value x)
    | split

def execPmbusRevision_touch : Nat := 0x800040000000000000002800000600000000000000000000000000000000000000000
theorem execPmbusRevision_keeps {tm : Nat} {z s : State} (hm : Sub execPmbusRevision_touch tm) (hs : Keeps tm z s) (pec : Bool) :
    KeepsO tm z (execPmbusRevision pec s) := by
  delta execPmbusRevision
  repeat' first
    | with_reducible refine KeepsO.next ?_
    | with_reducible refine KeepsO.ite ?_ ?_
    | with_reducible assumption
    | (refine Sub.bit hm ?_; exact rfl)
    | (refine Sub.trans (Sub.of ?_) hm; exact rfl)
    | with_reducible refine Keeps.ite ?_ ?_
    | (refine (?_ : (_ : Bool) = true); exact rfl)
    | with_reducible refine psRead_keeps ?_ ?_ _ _ _
    | with_reducible refine Keeps.idState ?_
    | with_reducible refine foldl_keeps ?_ _ (fun s a hs => ?_)
    | (extract_lets +onlyGivenNames x; refine Keeps.cut (x := x) (m := tm) (s0 := z) ?_ ?_; unfold x; clear x; rotate_left; intro hx; clear_value x; rotate_right)
    | (extract_lets +onlyGivenNames x; clear_value x)
    | split

def execPsAddress_touch : Nat := 0x8040000000000000000800000000000000000010000000000000000000000000000
theorem execPsAddress_keeps {tm : Nat} {z s : State} (hm : Sub execPsAddress_touch tm) (hs : Keeps tm z s) (codes : Vector (BitVec 12) 8) :
    KeepsO tm z (execPsAddress codes s) := by
  delta execPsAddress
  repeat' first
    | with_reducible refine KeepsO.next ?_
    | with_reducible refine KeepsO.ite ?_ ?_
    | with_reducible assumption
    | (refine Sub.bit hm ?_; exact rfl)
    | (refine Sub.trans (Sub.of ?_) hm; exact rfl)
    | with_reducible refine Keeps.ite ?_ ?_
    | (refine (?_ : (_ : Bool) = true); exact rfl)
    | with_reducible refine wr_keeps ?_ ?_ ?_ _ _
    | with_reducible refine put_keeps ?_ ?_ ?_ _ _
    | with_reducible refine record_keeps ?_ ?_ _ _ _ _
    | with_reducible refine begin_keeps ?_ ?_
    | with_reducible refine Keeps.idState ?_
    | with_reducible refine foldl_keeps ?_ _ (fun s a hs => ?_)
    | (extract_lets +onlyGivenNames x; refine Keeps.cut (x := x) (m := tm) (s0 := z) ?_ ?_; unfold x; clear x; rotate_left; intro hx; clear_value x; rotate_right)
    | (extract_lets +onlyGivenNames x; clear_value x)
    | split

def execPsCommFault_touch : Nat := 0x848040000000000000003800000600000000000010000000000000000000000000000
theorem execPsCommFault_keeps {tm : Nat} {z s : State} (hm : Sub execPsCommFault_touch tm) (hs : Keeps tm z s) (kind : Fin 8) (code : Sys2Proof.Byte) :
    KeepsO tm z (execPsCommFault kind code s) := by
  delta execPsCommFault
  repeat' first
    | with_reducible refine KeepsO.next ?_
    | with_reducible refine KeepsO.ite ?_ ?_
    | with_reducible assumption
    | (refine Sub.bit hm ?_; exact rfl)
    | (refine Sub.trans (Sub.of ?_) hm; exact rfl)
    | with_reducible refine Keeps.ite ?_ ?_
    | (refine (?_ : (_ : Bool) = true); exact rfl)
    | with_reducible refine wr_keeps ?_ ?_ ?_ _ _
    | with_reducible refine bump_keeps ?_ ?_ ?_ _ _
    | with_reducible refine psSend_keeps ?_ ?_ _ _ _
    | with_reducible refine psFault_keeps ?_ ?_ _
    | with_reducible refine begin_keeps ?_ ?_
    | with_reducible refine Keeps.idState ?_
    | with_reducible refine foldl_keeps ?_ _ (fun s a hs => ?_)
    | (extract_lets +onlyGivenNames x; refine Keeps.cut (x := x) (m := tm) (s0 := z) ?_ ?_; unfold x; clear x; rotate_left; intro hx; clear_value x; rotate_right)
    | (extract_lets +onlyGivenNames x; clear_value x)
    | split
    | with_reducible refine upd_power_keeps ?_ ?_ _

def execPsTimeout_touch : Nat := 0x8040000000000000001000000000000000000010000000000000000000000000000
theorem execPsTimeout_keeps {tm : Nat} {z s : State} (hm : Sub execPsTimeout_touch tm) (hs : Keeps tm z s)  :
    KeepsO tm z (execPsTimeout s) := by
  delta execPsTimeout
  repeat' first
    | with_reducible refine KeepsO.next ?_
    | with_reducible refine KeepsO.ite ?_ ?_
    | with_reducible assumption
    | (refine Sub.bit hm ?_; exact rfl)
    | (refine Sub.trans (Sub.of ?_) hm; exact rfl)
    | with_reducible refine Keeps.ite ?_ ?_
    | (refine (?_ : (_ : Bool) = true); exact rfl)
    | with_reducible refine put_keeps ?_ ?_ ?_ _ _
    | with_reducible refine record_keeps ?_ ?_ _ _ _ _
    | with_reducible refine begin_keeps ?_ ?_
    | with_reducible refine Keeps.idState ?_
    | with_reducible refine foldl_keeps ?_ _ (fun s a hs => ?_)
    | (extract_lets +onlyGivenNames x; refine Keeps.cut (x := x) (m := tm) (s0 := z) ?_ ?_; unfold x; clear x; rotate_left; intro hx; clear_value x; rotate_right)
    | (extract_lets +onlyGivenNames x; clear_value x)
    | split

def execReadIout_touch : Nat := 0x848040000000000000003800000600000000000010000000000000000000000000000
theorem execReadIout_keeps {tm : Nat} {z s : State} (hm : Sub execReadIout_touch tm) (hs : Keeps tm z s) (pec : Bool) :
    KeepsO tm z (execReadIout pec s) := by
  delta execReadIout
  repeat' first
    | with_reducible refine KeepsO.next ?_
    | with_reducible refine KeepsO.ite ?_ ?_
    | with_reducible assumption
    | (refine Sub.bit hm ?_; exact rfl)
    | (refine Sub.trans (Sub.of ?_) hm; exact rfl)
    | with_reducible refine Keeps.ite ?_ ?_
    | (refine (?_ : (_ : Bool) = true); exact rfl)
    | with_reducible refine psPaged_keeps ?_ ?_ _ _ _ _
    | with_reducible refine Keeps.idState ?_
    | with_reducible refine foldl_keeps ?_ _ (fun s a hs => ?_)
    | (extract_lets +onlyGivenNames x; refine Keeps.cut (x := x) (m := tm) (s0 := z) ?_ ?_; unfold x; clear x; rotate_left; intro hx; clear_value x; rotate_right)
    | (extract_lets +onlyGivenNames x; clear_value x)
    | split

def execReadPout_touch : Nat := 0x848040000000000000003800000600000000000010000000000000000000000000000
theorem execReadPout_keeps {tm : Nat} {z s : State} (hm : Sub execReadPout_touch tm) (hs : Keeps tm z s) (pec : Bool) :
    KeepsO tm z (execReadPout pec s) := by
  delta execReadPout
  repeat' first
    | with_reducible refine KeepsO.next ?_
    | with_reducible refine KeepsO.ite ?_ ?_
    | with_reducible assumption
    | (refine Sub.bit hm ?_; exact rfl)
    | (refine Sub.trans (Sub.of ?_) hm; exact rfl)
    | with_reducible refine Keeps.ite ?_ ?_
    | (refine (?_ : (_ : Bool) = true); exact rfl)
    | with_reducible refine psPaged_keeps ?_ ?_ _ _ _ _
    | with_reducible refine Keeps.idState ?_
    | with_reducible refine foldl_keeps ?_ _ (fun s a hs => ?_)
    | (extract_lets +onlyGivenNames x; refine Keeps.cut (x := x) (m := tm) (s0 := z) ?_ ?_; unfold x; clear x; rotate_left; intro hx; clear_value x; rotate_right)
    | (extract_lets +onlyGivenNames x; clear_value x)
    | split

def execReadTemperature1_touch : Nat := 0x848040000000000000003800000600000000000010000000000000000000000000000
theorem execReadTemperature1_keeps {tm : Nat} {z s : State} (hm : Sub execReadTemperature1_touch tm) (hs : Keeps tm z s) (pec : Bool) :
    KeepsO tm z (execReadTemperature1 pec s) := by
  delta execReadTemperature1
  repeat' first
    | with_reducible refine KeepsO.next ?_
    | with_reducible refine KeepsO.ite ?_ ?_
    | with_reducible assumption
    | (refine Sub.bit hm ?_; exact rfl)
    | (refine Sub.trans (Sub.of ?_) hm; exact rfl)
    | with_reducible refine Keeps.ite ?_ ?_
    | (refine (?_ : (_ : Bool) = true); exact rfl)
    | with_reducible refine psPaged_keeps ?_ ?_ _ _ _ _
    | with_reducible refine Keeps.idState ?_
    | with_reducible refine foldl_keeps ?_ _ (fun s a hs => ?_)
    | (extract_lets +onlyGivenNames x; refine Keeps.cut (x := x) (m := tm) (s0 := z) ?_ ?_; unfold x; clear x; rotate_left; intro hx; clear_value x; rotate_right)
    | (extract_lets +onlyGivenNames x; clear_value x)
    | split

def execReadVin_touch : Nat := 0x848040000000000000003800000600000000000010000000000000000000000000000
theorem execReadVin_keeps {tm : Nat} {z s : State} (hm : Sub execReadVin_touch tm) (hs : Keeps tm z s) (pec : Bool) :
    KeepsO tm z (execReadVin pec s) := by
  delta execReadVin
  repeat' first
    | with_reducible refine KeepsO.next ?_
    | with_reducible refine KeepsO.ite ?_ ?_
    | with_reducible assumption
    | (refine Sub.bit hm ?_; exact rfl)
    | (refine Sub.trans (Sub.of ?_) hm; exact rfl)
    | with_reducible refine Keeps.ite ?_ ?_
    | (refine (?_ : (_ : Bool) = true); exact rfl)
    | with_reducible refine psPaged_keeps ?_ ?_ _ _ _ _
    | with_reducible refine Keeps.idState ?_
    | with_reducible refine foldl_keeps ?_ _ (fun s a hs => ?_)
    | (extract_lets +onlyGivenNames x; refine Keeps.cut (x := x) (m := tm) (s0 := z) ?_ ?_; unfold x; clear x; rotate_left; intro hx; clear_value x; rotate_right)
    | (extract_lets +onlyGivenNames x; clear_value x)
    | split

def execReadVout_touch : Nat := 0x848040000000000000003800000600000000000010000000000000000000000000000
theorem execReadVout_keeps {tm : Nat} {z s : State} (hm : Sub execReadVout_touch tm) (hs : Keeps tm z s) (pec : Bool) :
    KeepsO tm z (execReadVout pec s) := by
  delta execReadVout
  repeat' first
    | with_reducible refine KeepsO.next ?_
    | with_reducible refine KeepsO.ite ?_ ?_
    | with_reducible assumption
    | (refine Sub.bit hm ?_; exact rfl)
    | (refine Sub.trans (Sub.of ?_) hm; exact rfl)
    | with_reducible refine Keeps.ite ?_ ?_
    | (refine (?_ : (_ : Bool) = true); exact rfl)
    | with_reducible refine psPaged_keeps ?_ ?_ _ _ _ _
    | with_reducible refine Keeps.idState ?_
    | with_reducible refine foldl_keeps ?_ _ (fun s a hs => ?_)
    | (extract_lets +onlyGivenNames x; refine Keeps.cut (x := x) (m := tm) (s0 := z) ?_ ?_; unfold x; clear x; rotate_left; intro hx; clear_value x; rotate_right)
    | (extract_lets +onlyGivenNames x; clear_value x)
    | split

def execStatusByte_touch : Nat := 0x800040000000000000002800000600000000000000000000000000000000000000000
theorem execStatusByte_keeps {tm : Nat} {z s : State} (hm : Sub execStatusByte_touch tm) (hs : Keeps tm z s) (pec : Bool) :
    KeepsO tm z (execStatusByte pec s) := by
  delta execStatusByte
  repeat' first
    | with_reducible refine KeepsO.next ?_
    | with_reducible refine KeepsO.ite ?_ ?_
    | with_reducible assumption
    | (refine Sub.bit hm ?_; exact rfl)
    | (refine Sub.trans (Sub.of ?_) hm; exact rfl)
    | with_reducible refine Keeps.ite ?_ ?_
    | (refine (?_ : (_ : Bool) = true); exact rfl)
    | with_reducible refine psStatus_keeps ?_ ?_ _ _ _ _
    | with_reducible refine Keeps.idState ?_
    | with_reducible refine foldl_keeps ?_ _ (fun s a hs => ?_)
    | (extract_lets +onlyGivenNames x; refine Keeps.cut (x := x) (m := tm) (s0 := z) ?_ ?_; unfold x; clear x; rotate_left; intro hx; clear_value x; rotate_right)
    | (extract_lets +onlyGivenNames x; clear_value x)
    | split

def execStatusIout_touch : Nat := 0x800040000000000000002800000600000000000000000000000000000000000000000
theorem execStatusIout_keeps {tm : Nat} {z s : State} (hm : Sub execStatusIout_touch tm) (hs : Keeps tm z s) (pec : Bool) :
    KeepsO tm z (execStatusIout pec s) := by
  delta execStatusIout
  repeat' first
    | with_reducible refine KeepsO.next ?_
    | with_reducible refine KeepsO.ite ?_ ?_
    | with_reducible assumption
    | (refine Sub.bit hm ?_; exact rfl)
    | (refine Sub.trans (Sub.of ?_) hm; exact rfl)
    | with_reducible refine Keeps.ite ?_ ?_
    | (refine (?_ : (_ : Bool) = true); exact rfl)
    | with_reducible refine psStatus_keeps ?_ ?_ _ _ _ _
    | with_reducible refine Keeps.idState ?_
    | with_reducible refine foldl_keeps ?_ _ (fun s a hs => ?_)
    | (extract_lets +onlyGivenNames x; refine Keeps.cut (x := x) (m := tm) (s0 := z) ?_ ?_; unfold x; clear x; rotate_left; intro hx; clear_value x; rotate_right)
    | (extract_lets +onlyGivenNames x; clear_value x)
    | split

def execStatusTemperature_touch : Nat := 0x800040000000000000002800000600000000000000000000000000000000000000000
theorem execStatusTemperature_keeps {tm : Nat} {z s : State} (hm : Sub execStatusTemperature_touch tm) (hs : Keeps tm z s) (pec : Bool) :
    KeepsO tm z (execStatusTemperature pec s) := by
  delta execStatusTemperature
  repeat' first
    | with_reducible refine KeepsO.next ?_
    | with_reducible refine KeepsO.ite ?_ ?_
    | with_reducible assumption
    | (refine Sub.bit hm ?_; exact rfl)
    | (refine Sub.trans (Sub.of ?_) hm; exact rfl)
    | with_reducible refine Keeps.ite ?_ ?_
    | (refine (?_ : (_ : Bool) = true); exact rfl)
    | with_reducible refine psStatus_keeps ?_ ?_ _ _ _ _
    | with_reducible refine Keeps.idState ?_
    | with_reducible refine foldl_keeps ?_ _ (fun s a hs => ?_)
    | (extract_lets +onlyGivenNames x; refine Keeps.cut (x := x) (m := tm) (s0 := z) ?_ ?_; unfold x; clear x; rotate_left; intro hx; clear_value x; rotate_right)
    | (extract_lets +onlyGivenNames x; clear_value x)
    | split

def execStatusVout_touch : Nat := 0x800040000000000000002800000600000000000000000000000000000000000000000
theorem execStatusVout_keeps {tm : Nat} {z s : State} (hm : Sub execStatusVout_touch tm) (hs : Keeps tm z s) (pec : Bool) :
    KeepsO tm z (execStatusVout pec s) := by
  delta execStatusVout
  repeat' first
    | with_reducible refine KeepsO.next ?_
    | with_reducible refine KeepsO.ite ?_ ?_
    | with_reducible assumption
    | (refine Sub.bit hm ?_; exact rfl)
    | (refine Sub.trans (Sub.of ?_) hm; exact rfl)
    | with_reducible refine Keeps.ite ?_ ?_
    | (refine (?_ : (_ : Bool) = true); exact rfl)
    | with_reducible refine psStatus_keeps ?_ ?_ _ _ _ _
    | with_reducible refine Keeps.idState ?_
    | with_reducible refine foldl_keeps ?_ _ (fun s a hs => ?_)
    | (extract_lets +onlyGivenNames x; refine Keeps.cut (x := x) (m := tm) (s0 := z) ?_ ?_; unfold x; clear x; rotate_left; intro hx; clear_value x; rotate_right)
    | (extract_lets +onlyGivenNames x; clear_value x)
    | split

def execStatusWord_touch : Nat := 0x800040000000000000002800000600000000000000000000000000000000000000000
theorem execStatusWord_keeps {tm : Nat} {z s : State} (hm : Sub execStatusWord_touch tm) (hs : Keeps tm z s) (pec : Bool) :
    KeepsO tm z (execStatusWord pec s) := by
  delta execStatusWord
  repeat' first
    | with_reducible refine KeepsO.next ?_
    | with_reducible refine KeepsO.ite ?_ ?_
    | with_reducible assumption
    | (refine Sub.bit hm ?_; exact rfl)
    | (refine Sub.trans (Sub.of ?_) hm; exact rfl)
    | with_reducible refine Keeps.ite ?_ ?_
    | (refine (?_ : (_ : Bool) = true); exact rfl)
    | with_reducible refine psStatus_keeps ?_ ?_ _ _ _ _
    | with_reducible refine Keeps.idState ?_
    | with_reducible refine foldl_keeps ?_ _ (fun s a hs => ?_)
    | (extract_lets +onlyGivenNames x; refine Keeps.cut (x := x) (m := tm) (s0 := z) ?_ ?_; unfold x; clear x; rotate_left; intro hx; clear_value x; rotate_right)
    | (extract_lets +onlyGivenNames x; clear_value x)
    | split

def execVoutMode_touch : Nat := 0x800040000000000000002800000600000000000000000000000000000000000000000
theorem execVoutMode_keeps {tm : Nat} {z s : State} (hm : Sub execVoutMode_touch tm) (hs : Keeps tm z s) (pec : Bool) :
    KeepsO tm z (execVoutMode pec s) := by
  delta execVoutMode
  repeat' first
    | with_reducible refine KeepsO.next ?_
    | with_reducible refine KeepsO.ite ?_ ?_
    | with_reducible assumption
    | (refine Sub.bit hm ?_; exact rfl)
    | (refine Sub.trans (Sub.of ?_) hm; exact rfl)
    | with_reducible refine Keeps.ite ?_ ?_
    | (refine (?_ : (_ : Bool) = true); exact rfl)
    | with_reducible refine psRead_keeps ?_ ?_ _ _ _
    | with_reducible refine Keeps.idState ?_
    | with_reducible refine foldl_keeps ?_ _ (fun s a hs => ?_)
    | (extract_lets +onlyGivenNames x; refine Keeps.cut (x := x) (m := tm) (s0 := z) ?_ ?_; unfold x; clear x; rotate_left; intro hx; clear_value x; rotate_right)
    | (extract_lets +onlyGivenNames x; clear_value x)
    | split

end Sys2Proof.Machine
end

