-- ==== Sys2Proof/Laws/KeepsExec.lean ====
section
/-!
SUPPORT. Sys2Proof/Laws/KeepsExec.lean: what each command, and a step, may change.
-/
namespace Sys2Proof.Machine

open Sys2Proof

/-- The touch set of a command: every register and part its meaning can change. -/
def touch : Instr → Nat
  | .nop _ => execNop_touch
  | .identify _ => execIdentify_touch
  | .invalidOpcode _ _ => execInvalidOpcode_touch
  | .laneClaim _ => execLaneClaim_touch
  | .laneRelease _ => execLaneRelease_touch
  | .laneSetTarget _ _ _ => execLaneSetTarget_touch
  | .laneSetLimits _ _ => execLaneSetLimits_touch
  | .laneSetLatency _ _ => execLaneSetLatency_touch
  | .laneArm _ => execLaneArm_touch
  | .lanePark _ => execLanePark_touch
  | .laneClearTrip _ => execLaneClearTrip_touch
  | .laneWarp _ => execLaneWarp_touch
  | .laneGetState _ => execLaneGetState_touch
  | .laneSetPolicy _ _ _ _ => execLaneSetPolicy_touch
  | .phaseReadmit _ => execPhaseReadmit_touch
  | .phaseGetHealth _ => execPhaseGetHealth_touch
  | .segmentSetMode _ _ => execSegmentSetMode_touch
  | .segmentSetTarget _ _ _ _ _ _ => execSegmentSetTarget_touch
  | .segmentSetSharing _ _ _ => execSegmentSetSharing_touch
  | .telemetryStreamOpen _ _ => execTelemetryStreamOpen_touch
  | .telemetryStreamClose _ _ => execTelemetryStreamClose_touch
  | .meterRead _ _ => execMeterRead_touch
  | .meterStatement _ _ => execMeterStatement_touch
  | .meterResolveDispute _ _ => execMeterResolveDispute_touch
  | .meterCalibrate _ _ _ _ _ _ => execMeterCalibrate_touch
  | .calibrated _ => execCalibrated_touch
  | .logRead _ _ => execLogRead_touch
  | .logConfig _ _ _ => execLogConfig_touch
  | .logMark _ _ _ => execLogMark_touch
  | .paramWrite _ _ _ => execParamWrite_touch
  | .paramRead _ _ _ => execParamRead_touch
  | .paramCommit _ => execParamCommit_touch
  | .linkSend _ _ _ _ => execLinkSend_touch
  | .linkRenegotiate _ => execLinkRenegotiate_touch
  | .linkRoleSwap _ _ => execLinkRoleSwap_touch
  | .portmTransfer _ _ _ _ _ _ _ => execPortmTransfer_touch
  | .tenantHeartbeat _ _ => execTenantHeartbeat_touch
  | .tenantSetRole _ _ => execTenantSetRole_touch
  | .tenantReleaseQuarantine _ => execTenantReleaseQuarantine_touch
  | .sealDevice _ => execSeal_touch
  | .unsealChallenge _ => execUnsealChallenge_touch
  | .unsealResponse _ _ => execUnsealResponse_touch
  | .deviceSoftReset _ _ => execDeviceSoftReset_touch
  | .softResetCycle => execSoftResetCycle_touch
  | .page _ _ => execPage_touch
  | .operationRead _ => execOperationRead_touch
  | .operationOff _ => execOperationOff_touch
  | .operationOn _ => execOperationOn_touch
  | .clearFaults _ => execClearFaults_touch
  | .capability _ => execCapability_touch
  | .voutMode _ => execVoutMode_touch
  | .statusByte _ => execStatusByte_touch
  | .statusWord _ => execStatusWord_touch
  | .statusVout _ => execStatusVout_touch
  | .statusIout _ => execStatusIout_touch
  | .statusTemperature _ => execStatusTemperature_touch
  | .readVin _ => execReadVin_touch
  | .readVout _ => execReadVout_touch
  | .readIout _ => execReadIout_touch
  | .readTemperature1 _ => execReadTemperature1_touch
  | .readPout _ => execReadPout_touch
  | .pmbusRevision _ => execPmbusRevision_touch
  | .mfrSafeAll _ => execMfrSafeAll_touch
  | .mfrLaneState _ => execMfrLaneState_touch
  | .mfrSupResult _ => execMfrSupResult_touch
  | .alertResponse _ => execAlertResponse_touch
  | .psCommFault _ _ => execPsCommFault_touch
  | .psTimeout => execPsTimeout_touch
  | .psAddress _ => execPsAddress_touch
  | .setVbus _ _ _ => execSetVbus_touch
  | .setSlew _ _ _ => execSetSlew_touch
  | .setDroop _ _ _ => execSetDroop_touch
  | .setPlimit _ _ _ => execSetPlimit_touch
  | .getStatus _ _ _ => execGetStatus_touch
  | .getIbus _ _ _ => execGetIbus_touch
  | .trdUnknown _ _ _ _ => execTrdUnknown_touch
  | .trdAbort _ => execTrdAbort_touch
  | .caps _ _ => execCaps_touch
  | .contractAck _ _ => execContractAck_touch
  | .kaMod _ _ => execKaMod_touch
  | .attnInfo _ _ => execAttnInfo_touch
  | .swapAck _ _ => execSwapAck_touch
  | .swapReq _ _ => execSwapReq_touch
  | .ack _ _ => execAck_touch
  | .nak _ _ => execNak_touch
  | .linkData _ _ => execLinkData_touch
  | .badFrame _ _ => execBadFrame_touch
  | .unknownType _ _ _ => execUnknownType_touch
  | .attentionPulse _ _ => execAttentionPulse_touch
  | .attnCollision _ => execAttnCollision_touch
  | .pilotTrunc _ => execPilotTrunc_touch
  | .pilotNoise _ => execPilotNoise_touch
  | .frameReleased _ => execFrameReleased_touch
  | .kaDev _ => execKaDev_touch
  | .responseTimeout _ => execResponseTimeout_touch
  | .graceExpiry _ => execGraceExpiry_touch
  | .hardResetDrive _ => execHardResetDrive_touch
  | .hardResetRelease _ => execHardResetRelease_touch
  | .presenceTimeout _ => execPresenceTimeout_touch
  | .contactorTimeout _ => execContactorTimeout_touch
  | .swapTimeout _ => execSwapTimeout_touch
  | .contractBreach _ => execContractBreach_touch
  | .idAverage _ _ => execIdAverage_touch
  | .idRestart _ => execIdRestart_touch
  | .laneUpdate _ => execLaneUpdate_touch
  | .phaseUpdate _ _ => execPhaseUpdate_touch
  | .dutySaturated _ => execDutySaturated_touch
  | .headroomLost _ => execHeadroomLost_touch
  | .segmentUpdate _ => execSegmentUpdate_touch
  | .segCapacity _ => execSegCapacity_touch
  | .sharingCompute _ => execSharingCompute_touch
  | .shuttleSequenceStart _ => execShuttleSequenceStart_touch
  | .shuttleHandback _ => execShuttleHandback_touch
  | .shuttleAbort _ => execShuttleAbort_touch
  | .refBoundary => execRefBoundary_touch
  | .glideStep _ => execGlideStep_touch
  | .pulsePeriod _ => execPulsePeriod_touch
  | .watchSample _ _ => execWatchSample_touch
  | .controlTapSample _ _ _ => execControlTapSample_touch
  | .segmentSarConversion _ _ => execSegmentSarConversion_touch
  | .meterSample _ _ _ _ _ _ _ => execMeterSample_touch
  | .xchkWindow _ => execXchkWindow_touch
  | .policyMove _ => execPolicyMove_touch
  | .prestartEnd _ => execPrestartEnd_touch
  | .startTokenGrant => execStartTokenGrant_touch
  | .parkRampEnd _ => execParkRampEnd_touch
  | .heartbeatLapsed _ => execHeartbeatLapsed_touch
  | .surveyStart _ => execSurveyStart_touch
  | .surveyStep _ _ => execSurveyStep_touch
  | .surveyDone _ => execSurveyDone_touch
  | .readmitPassed _ => execReadmitPassed_touch
  | .adaptEstimate _ _ _ _ => execAdaptEstimate_touch
  | .reedReplan => execReedReplan_touch
  | .reedPlanStart => execReedPlanStart_touch
  | .planAdopted => execPlanAdopted_touch
  | .heddleCommit _ _ => execHeddleCommit_touch
  | .heddleCommitDone _ => execHeddleCommitDone_touch
  | .lnCoefCommit _ _ => execLnCoefCommit_touch
  | .busCoefCommit _ => execBusCoefCommit_touch
  | .phaseTrip _ _ => execPhaseTrip_touch
  | .laneTrip _ _ => execLaneTrip_touch
  | .lfltAttributed _ => execLfltAttributed_touch
  | .faultInEdge _ _ => execFaultInEdge_touch
  | .safeNEdge _ => execSafeNEdge_touch
  | .powerFail => execPowerFail_touch
  | .pfRestart => execPfRestart_touch
  | .xinLost => execXinLost_touch
  | .pllUnlocked => execPllUnlocked_touch
  | .pllRelock => execPllRelock_touch
  | .xtalFail => execXtalFail_touch
  | .contextEcc _ => execContextEcc_touch
  | .comparator _ _ _ => execComparator_touch
  | .isrefWindow _ _ => execIsrefWindow_touch
  | .supplyWindow _ _ _ => execSupplyWindow_touch
  | .dieTempWarn _ _ => execDieTempWarn_touch
  | .dieTempTrip _ _ => execDieTempTrip_touch
  | .auxTempAverage _ _ => execAuxTempAverage_touch
  | .interlockOpen _ _ => execInterlockOpen_touch
  | .refCheck _ => execRefCheck_touch
  | .dlLock _ => execDlLock_touch
  | .dlCompare _ _ => execDlCompare_touch
  | .autoReadback _ => execAutoReadback_touch
  | .readbackDone _ _ _ => execReadbackDone_touch
  | .go _ _ => execGo_touch
  | .pwmEn _ _ => execPwmEn_touch
  | .unlock _ _ => execUnlock_touch
  | .baySafe _ _ => execBaySafe_touch
  | .bayPhTrip _ _ => execBayPhTrip_touch
  | .lnTrip _ _ => execLnTrip_touch
  | .glbTrip _ => execGlbTrip_touch
  | .glbPwmPer _ => execGlbPwmPer_touch
  | .glbPwmSs _ => execGlbPwmSs_touch
  | .glbRef _ => execGlbRef_touch
  | .mtrCfg _ _ => execMtrCfg_touch
  | .lnReed _ _ => execLnReed_touch
  | .plan _ => execPlan_touch
  | .planEn _ => execPlanEn_touch
  | .tmrCfg _ _ => execTmrCfg_touch
  | .pop _ _ => execPop_touch
  | .tmrCnt _ _ => execTmrCnt_touch
  | .tmrCv _ _ => execTmrCv_touch
  | .tmrCcfg _ _ => execTmrCcfg_touch
  | .arm _ => execArm_touch
  | .dropClr _ => execDropClr_touch
  | .timerMatch _ _ => execTimerMatch_touch
  | .timerOverflow _ => execTimerOverflow_touch
  | .timerCapture _ _ _ => execTimerCapture_touch
  | .rtrRoute _ _ => execRtrRoute_touch
  | .rtrTio _ => execRtrTio_touch
  | .hitClr _ => execHitClr_touch
  | .glbThmEn _ _ => execGlbThmEn_touch
  | .ckptNow _ => execCkptNow_touch
  | .nvmCntClr _ => execNvmCntClr_touch
  | .flushNow _ => execFlushNow_touch
  | .slvCntClr _ => execSlvCntClr_touch
  | .slvSnapAddr _ => execSlvSnapAddr_touch
  | .shtlCntClr _ _ => execShtlCntClr_touch
  | .trdCfg _ => execTrdCfg_touch
  | .trdCntClr _ => execTrdCntClr_touch
  | .dorm _ => execDorm_touch
  | .qrel _ => execQrel_touch
  | .nvmTvalLo _ => execNvmTvalLo_touch
  | .nvmTstoLo _ => execNvmTstoLo_touch
  | .nvmTaltLo _ => execNvmTaltLo_touch
  | .glbOptimeLo _ => execGlbOptimeLo_touch
  | .sqTailDb _ => execSqTailDb_touch
  | .cqHeadDb _ => execCqHeadDb_touch
  | .hstSqCfg _ => execHstSqCfg_touch
  | .hstCqCfg _ => execHstCqCfg_touch
  | .registerWrite _ _ _ _ => execRegisterWrite_touch
  | .sqFetchDone _ _ _ => execSqFetchDone_touch
  | .msixCoalTimeout _ => execMsixCoalTimeout_touch
  | .telemetrySample _ _ _ => execTelemetrySample_touch
  | .portReset _ _ => execPortReset_touch
  | .linkTraining _ => execLinkTraining_touch
  | .functionLevelReset _ => execFunctionLevelReset_touch
  | .busMasterDisable _ _ => execBusMasterDisable_touch
  | .aspmL1Entry _ _ => execAspmL1Entry_touch
  | .ltrIdle _ => execLtrIdle_touch
  | .managerPromoted => execManagerPromoted_touch
  | .violationWindowEnd _ => execViolationWindowEnd_touch
  | .challengeExpiry => execChallengeExpiry_touch
  | .selvedgeReport => execSelvedgeReport_touch
  | .recordClose _ => execRecordClose_touch
  | .checkpoint => execCheckpoint_touch
  | .flashProgramDone _ _ => execFlashProgramDone_touch
  | .flashEraseDone _ _ => execFlashEraseDone_touch
  | .powerOnReset => execPowerOnReset_touch
  | .resetN _ => execResetN_touch
  | .xinReady => execXinReady_touch
  | .pllLock => execPllLock_touch
  | .pllRetry => execPllRetry_touch
  | .bayAnalogueEnable _ => execBayAnalogueEnable_touch
  | .recoveryDone _ => execRecoveryDone_touch
  | .paramLoaded => execParamLoaded_touch
  | .startupComplete => execStartupComplete_touch
  | .dormantEntered => execDormantEntered_touch
  | .wake _ _ => execWake_touch
  | .poll _ => execPoll_touch
  | .pmTransactionDone _ _ => execPmTransactionDone_touch
  | .pmArbLoss => execPmArbLoss_touch
  | .pmBackoffEnd => execPmBackoffEnd_touch
  | .pmClockTimeout => execPmClockTimeout_touch
  | .pmBusStuck _ _ => execPmBusStuck_touch
  | .pmRecoveryRetry _ => execPmRecoveryRetry_touch
  | .pmAlert => execPmAlert_touch
  | .extest => execExtest_touch
  | .samplePreload => execSamplePreload_touch
  | .idcode => execIdcode_touch
  | .bypass => execBypass_touch
  | .dbg _ => execDbg_touch
  | .carrierStart _ => execCarrierStart_touch
  | .idleGuard _ => execIdleGuard_touch
  | .preambleStart _ => execPreambleStart_touch
  | .slowOnXtal => execSlowOnXtal_touch
  | .unlockExpiry _ => execUnlockExpiry_touch
  | .chargePumpReady => execChargePumpReady_touch
  | .eraseSuspendDone _ => execEraseSuspendDone_touch
  | .linkUp _ _ _ _ _ _ => execLinkUp_touch
  | .pciPmD3hot _ _ => execPciPmD3hot_touch
  | .pmBusFree => execPmBusFree_touch
  | .statementSigned => execStatementSigned_touch

/-- Every command answers a next state that differs from the state it starts in only inside its touch set. -/
theorem exec_keeps (c : Instr) (s : State) : KeepsO (touch c) s (exec c s) := by
  cases c with
  | nop _ => exact execNop_keeps (fun _ h => h) (.refl _ s) _
  | identify _ => exact execIdentify_keeps (fun _ h => h) (.refl _ s) _
  | invalidOpcode _ _ => exact execInvalidOpcode_keeps (fun _ h => h) (.refl _ s) _ _
  | laneClaim _ => exact execLaneClaim_keeps (fun _ h => h) (.refl _ s) _
  | laneRelease _ => exact execLaneRelease_keeps (fun _ h => h) (.refl _ s) _
  | laneSetTarget _ _ _ => exact execLaneSetTarget_keeps (fun _ h => h) (.refl _ s) _ _ _
  | laneSetLimits _ _ => exact execLaneSetLimits_keeps (fun _ h => h) (.refl _ s) _ _
  | laneSetLatency _ _ => exact execLaneSetLatency_keeps (fun _ h => h) (.refl _ s) _ _
  | laneArm _ => exact execLaneArm_keeps (fun _ h => h) (.refl _ s) _
  | lanePark _ => exact execLanePark_keeps (fun _ h => h) (.refl _ s) _
  | laneClearTrip _ => exact execLaneClearTrip_keeps (fun _ h => h) (.refl _ s) _
  | laneWarp _ => exact execLaneWarp_keeps (fun _ h => h) (.refl _ s) _
  | laneGetState _ => exact execLaneGetState_keeps (fun _ h => h) (.refl _ s) _
  | laneSetPolicy _ _ _ _ => exact execLaneSetPolicy_keeps (fun _ h => h) (.refl _ s) _ _ _ _
  | phaseReadmit _ => exact execPhaseReadmit_keeps (fun _ h => h) (.refl _ s) _
  | phaseGetHealth _ => exact execPhaseGetHealth_keeps (fun _ h => h) (.refl _ s) _
  | segmentSetMode _ _ => exact execSegmentSetMode_keeps (fun _ h => h) (.refl _ s) _ _
  | segmentSetTarget _ _ _ _ _ _ => exact execSegmentSetTarget_keeps (fun _ h => h) (.refl _ s) _ _ _ _ _ _
  | segmentSetSharing _ _ _ => exact execSegmentSetSharing_keeps (fun _ h => h) (.refl _ s) _ _ _
  | telemetryStreamOpen _ _ => exact execTelemetryStreamOpen_keeps (fun _ h => h) (.refl _ s) _ _
  | telemetryStreamClose _ _ => exact execTelemetryStreamClose_keeps (fun _ h => h) (.refl _ s) _ _
  | meterRead _ _ => exact execMeterRead_keeps (fun _ h => h) (.refl _ s) _ _
  | meterStatement _ _ => exact execMeterStatement_keeps (fun _ h => h) (.refl _ s) _ _
  | meterResolveDispute _ _ => exact execMeterResolveDispute_keeps (fun _ h => h) (.refl _ s) _ _
  | meterCalibrate _ _ _ _ _ _ => exact execMeterCalibrate_keeps (fun _ h => h) (.refl _ s) _ _ _ _ _ _
  | calibrated _ => exact execCalibrated_keeps (fun _ h => h) (.refl _ s) _
  | logRead _ _ => exact execLogRead_keeps (fun _ h => h) (.refl _ s) _ _
  | logConfig _ _ _ => exact execLogConfig_keeps (fun _ h => h) (.refl _ s) _ _ _
  | logMark _ _ _ => exact execLogMark_keeps (fun _ h => h) (.refl _ s) _ _ _
  | paramWrite _ _ _ => exact execParamWrite_keeps (fun _ h => h) (.refl _ s) _ _ _
  | paramRead _ _ _ => exact execParamRead_keeps (fun _ h => h) (.refl _ s) _ _ _
  | paramCommit _ => exact execParamCommit_keeps (fun _ h => h) (.refl _ s) _
  | linkSend _ _ _ _ => exact execLinkSend_keeps (fun _ h => h) (.refl _ s) _ _ _ _
  | linkRenegotiate _ => exact execLinkRenegotiate_keeps (fun _ h => h) (.refl _ s) _
  | linkRoleSwap _ _ => exact execLinkRoleSwap_keeps (fun _ h => h) (.refl _ s) _ _
  | portmTransfer _ _ _ _ _ _ _ => exact execPortmTransfer_keeps (fun _ h => h) (.refl _ s) _ _ _ _ _ _ _
  | tenantHeartbeat _ _ => exact execTenantHeartbeat_keeps (fun _ h => h) (.refl _ s) _ _
  | tenantSetRole _ _ => exact execTenantSetRole_keeps (fun _ h => h) (.refl _ s) _ _
  | tenantReleaseQuarantine _ => exact execTenantReleaseQuarantine_keeps (fun _ h => h) (.refl _ s) _
  | sealDevice _ => exact execSeal_keeps (fun _ h => h) (.refl _ s) _
  | unsealChallenge _ => exact execUnsealChallenge_keeps (fun _ h => h) (.refl _ s) _
  | unsealResponse _ _ => exact execUnsealResponse_keeps (fun _ h => h) (.refl _ s) _ _
  | deviceSoftReset _ _ => exact execDeviceSoftReset_keeps (fun _ h => h) (.refl _ s) _ _
  | softResetCycle => exact execSoftResetCycle_keeps (fun _ h => h) (.refl _ s)
  | page _ _ => exact execPage_keeps (fun _ h => h) (.refl _ s) _ _
  | operationRead _ => exact execOperationRead_keeps (fun _ h => h) (.refl _ s) _
  | operationOff _ => exact execOperationOff_keeps (fun _ h => h) (.refl _ s) _
  | operationOn _ => exact execOperationOn_keeps (fun _ h => h) (.refl _ s) _
  | clearFaults _ => exact execClearFaults_keeps (fun _ h => h) (.refl _ s) _
  | capability _ => exact execCapability_keeps (fun _ h => h) (.refl _ s) _
  | voutMode _ => exact execVoutMode_keeps (fun _ h => h) (.refl _ s) _
  | statusByte _ => exact execStatusByte_keeps (fun _ h => h) (.refl _ s) _
  | statusWord _ => exact execStatusWord_keeps (fun _ h => h) (.refl _ s) _
  | statusVout _ => exact execStatusVout_keeps (fun _ h => h) (.refl _ s) _
  | statusIout _ => exact execStatusIout_keeps (fun _ h => h) (.refl _ s) _
  | statusTemperature _ => exact execStatusTemperature_keeps (fun _ h => h) (.refl _ s) _
  | readVin _ => exact execReadVin_keeps (fun _ h => h) (.refl _ s) _
  | readVout _ => exact execReadVout_keeps (fun _ h => h) (.refl _ s) _
  | readIout _ => exact execReadIout_keeps (fun _ h => h) (.refl _ s) _
  | readTemperature1 _ => exact execReadTemperature1_keeps (fun _ h => h) (.refl _ s) _
  | readPout _ => exact execReadPout_keeps (fun _ h => h) (.refl _ s) _
  | pmbusRevision _ => exact execPmbusRevision_keeps (fun _ h => h) (.refl _ s) _
  | mfrSafeAll _ => exact execMfrSafeAll_keeps (fun _ h => h) (.refl _ s) _
  | mfrLaneState _ => exact execMfrLaneState_keeps (fun _ h => h) (.refl _ s) _
  | mfrSupResult _ => exact execMfrSupResult_keeps (fun _ h => h) (.refl _ s) _
  | alertResponse _ => exact execAlertResponse_keeps (fun _ h => h) (.refl _ s) _
  | psCommFault _ _ => exact execPsCommFault_keeps (fun _ h => h) (.refl _ s) _ _
  | psTimeout => exact execPsTimeout_keeps (fun _ h => h) (.refl _ s)
  | psAddress _ => exact execPsAddress_keeps (fun _ h => h) (.refl _ s) _
  | setVbus _ _ _ => exact execSetVbus_keeps (fun _ h => h) (.refl _ s) _ _ _
  | setSlew _ _ _ => exact execSetSlew_keeps (fun _ h => h) (.refl _ s) _ _ _
  | setDroop _ _ _ => exact execSetDroop_keeps (fun _ h => h) (.refl _ s) _ _ _
  | setPlimit _ _ _ => exact execSetPlimit_keeps (fun _ h => h) (.refl _ s) _ _ _
  | getStatus _ _ _ => exact execGetStatus_keeps (fun _ h => h) (.refl _ s) _ _ _
  | getIbus _ _ _ => exact execGetIbus_keeps (fun _ h => h) (.refl _ s) _ _ _
  | trdUnknown _ _ _ _ => exact execTrdUnknown_keeps (fun _ h => h) (.refl _ s) _ _ _ _
  | trdAbort _ => exact execTrdAbort_keeps (fun _ h => h) (.refl _ s) _
  | caps _ _ => exact execCaps_keeps (fun _ h => h) (.refl _ s) _ _
  | contractAck _ _ => exact execContractAck_keeps (fun _ h => h) (.refl _ s) _ _
  | kaMod _ _ => exact execKaMod_keeps (fun _ h => h) (.refl _ s) _ _
  | attnInfo _ _ => exact execAttnInfo_keeps (fun _ h => h) (.refl _ s) _ _
  | swapAck _ _ => exact execSwapAck_keeps (fun _ h => h) (.refl _ s) _ _
  | swapReq _ _ => exact execSwapReq_keeps (fun _ h => h) (.refl _ s) _ _
  | ack _ _ => exact execAck_keeps (fun _ h => h) (.refl _ s) _ _
  | nak _ _ => exact execNak_keeps (fun _ h => h) (.refl _ s) _ _
  | linkData _ _ => exact execLinkData_keeps (fun _ h => h) (.refl _ s) _ _
  | badFrame _ _ => exact execBadFrame_keeps (fun _ h => h) (.refl _ s) _ _
  | unknownType _ _ _ => exact execUnknownType_keeps (fun _ h => h) (.refl _ s) _ _ _
  | attentionPulse _ _ => exact execAttentionPulse_keeps (fun _ h => h) (.refl _ s) _ _
  | attnCollision _ => exact execAttnCollision_keeps (fun _ h => h) (.refl _ s) _
  | pilotTrunc _ => exact execPilotTrunc_keeps (fun _ h => h) (.refl _ s) _
  | pilotNoise _ => exact execPilotNoise_keeps (fun _ h => h) (.refl _ s) _
  | frameReleased _ => exact execFrameReleased_keeps (fun _ h => h) (.refl _ s) _
  | kaDev _ => exact execKaDev_keeps (fun _ h => h) (.refl _ s) _
  | responseTimeout _ => exact execResponseTimeout_keeps (fun _ h => h) (.refl _ s) _
  | graceExpiry _ => exact execGraceExpiry_keeps (fun _ h => h) (.refl _ s) _
  | hardResetDrive _ => exact execHardResetDrive_keeps (fun _ h => h) (.refl _ s) _
  | hardResetRelease _ => exact execHardResetRelease_keeps (fun _ h => h) (.refl _ s) _
  | presenceTimeout _ => exact execPresenceTimeout_keeps (fun _ h => h) (.refl _ s) _
  | contactorTimeout _ => exact execContactorTimeout_keeps (fun _ h => h) (.refl _ s) _
  | swapTimeout _ => exact execSwapTimeout_keeps (fun _ h => h) (.refl _ s) _
  | contractBreach _ => exact execContractBreach_keeps (fun _ h => h) (.refl _ s) _
  | idAverage _ _ => exact execIdAverage_keeps (fun _ h => h) (.refl _ s) _ _
  | idRestart _ => exact execIdRestart_keeps (fun _ h => h) (.refl _ s) _
  | laneUpdate _ => exact execLaneUpdate_keeps (fun _ h => h) (.refl _ s) _
  | phaseUpdate _ _ => exact execPhaseUpdate_keeps (fun _ h => h) (.refl _ s) _ _
  | dutySaturated _ => exact execDutySaturated_keeps (fun _ h => h) (.refl _ s) _
  | headroomLost _ => exact execHeadroomLost_keeps (fun _ h => h) (.refl _ s) _
  | segmentUpdate _ => exact execSegmentUpdate_keeps (fun _ h => h) (.refl _ s) _
  | segCapacity _ => exact execSegCapacity_keeps (fun _ h => h) (.refl _ s) _
  | sharingCompute _ => exact execSharingCompute_keeps (fun _ h => h) (.refl _ s) _
  | shuttleSequenceStart _ => exact execShuttleSequenceStart_keeps (fun _ h => h) (.refl _ s) _
  | shuttleHandback _ => exact execShuttleHandback_keeps (fun _ h => h) (.refl _ s) _
  | shuttleAbort _ => exact execShuttleAbort_keeps (fun _ h => h) (.refl _ s) _
  | refBoundary => exact execRefBoundary_keeps (fun _ h => h) (.refl _ s)
  | glideStep _ => exact execGlideStep_keeps (fun _ h => h) (.refl _ s) _
  | pulsePeriod _ => exact execPulsePeriod_keeps (fun _ h => h) (.refl _ s) _
  | watchSample _ _ => exact execWatchSample_keeps (fun _ h => h) (.refl _ s) _ _
  | controlTapSample _ _ _ => exact execControlTapSample_keeps (fun _ h => h) (.refl _ s) _ _ _
  | segmentSarConversion _ _ => exact execSegmentSarConversion_keeps (fun _ h => h) (.refl _ s) _ _
  | meterSample _ _ _ _ _ _ _ => exact execMeterSample_keeps (fun _ h => h) (.refl _ s) _ _ _ _ _ _ _
  | xchkWindow _ => exact execXchkWindow_keeps (fun _ h => h) (.refl _ s) _
  | policyMove _ => exact execPolicyMove_keeps (fun _ h => h) (.refl _ s) _
  | prestartEnd _ => exact execPrestartEnd_keeps (fun _ h => h) (.refl _ s) _
  | startTokenGrant => exact execStartTokenGrant_keeps (fun _ h => h) (.refl _ s)
  | parkRampEnd _ => exact execParkRampEnd_keeps (fun _ h => h) (.refl _ s) _
  | heartbeatLapsed _ => exact execHeartbeatLapsed_keeps (fun _ h => h) (.refl _ s) _
  | surveyStart _ => exact execSurveyStart_keeps (fun _ h => h) (.refl _ s) _
  | surveyStep _ _ => exact execSurveyStep_keeps (fun _ h => h) (.refl _ s) _ _
  | surveyDone _ => exact execSurveyDone_keeps (fun _ h => h) (.refl _ s) _
  | readmitPassed _ => exact execReadmitPassed_keeps (fun _ h => h) (.refl _ s) _
  | adaptEstimate _ _ _ _ => exact execAdaptEstimate_keeps (fun _ h => h) (.refl _ s) _ _ _ _
  | reedReplan => exact execReedReplan_keeps (fun _ h => h) (.refl _ s)
  | reedPlanStart => exact execReedPlanStart_keeps (fun _ h => h) (.refl _ s)
  | planAdopted => exact execPlanAdopted_keeps (fun _ h => h) (.refl _ s)
  | heddleCommit _ _ => exact execHeddleCommit_keeps (fun _ h => h) (.refl _ s) _ _
  | heddleCommitDone _ => exact execHeddleCommitDone_keeps (fun _ h => h) (.refl _ s) _
  | lnCoefCommit _ _ => exact execLnCoefCommit_keeps (fun _ h => h) (.refl _ s) _ _
  | busCoefCommit _ => exact execBusCoefCommit_keeps (fun _ h => h) (.refl _ s) _
  | phaseTrip _ _ => exact execPhaseTrip_keeps (fun _ h => h) (.refl _ s) _ _
  | laneTrip _ _ => exact execLaneTrip_keeps (fun _ h => h) (.refl _ s) _ _
  | lfltAttributed _ => exact execLfltAttributed_keeps (fun _ h => h) (.refl _ s) _
  | faultInEdge _ _ => exact execFaultInEdge_keeps (fun _ h => h) (.refl _ s) _ _
  | safeNEdge _ => exact execSafeNEdge_keeps (fun _ h => h) (.refl _ s) _
  | powerFail => exact execPowerFail_keeps (fun _ h => h) (.refl _ s)
  | pfRestart => exact execPfRestart_keeps (fun _ h => h) (.refl _ s)
  | xinLost => exact execXinLost_keeps (fun _ h => h) (.refl _ s)
  | pllUnlocked => exact execPllUnlocked_keeps (fun _ h => h) (.refl _ s)
  | pllRelock => exact execPllRelock_keeps (fun _ h => h) (.refl _ s)
  | xtalFail => exact execXtalFail_keeps (fun _ h => h) (.refl _ s)
  | contextEcc _ => exact execContextEcc_keeps (fun _ h => h) (.refl _ s) _
  | comparator _ _ _ => exact execComparator_keeps (fun _ h => h) (.refl _ s) _ _ _
  | isrefWindow _ _ => exact execIsrefWindow_keeps (fun _ h => h) (.refl _ s) _ _
  | supplyWindow _ _ _ => exact execSupplyWindow_keeps (fun _ h => h) (.refl _ s) _ _ _
  | dieTempWarn _ _ => exact execDieTempWarn_keeps (fun _ h => h) (.refl _ s) _ _
  | dieTempTrip _ _ => exact execDieTempTrip_keeps (fun _ h => h) (.refl _ s) _ _
  | auxTempAverage _ _ => exact execAuxTempAverage_keeps (fun _ h => h) (.refl _ s) _ _
  | interlockOpen _ _ => exact execInterlockOpen_keeps (fun _ h => h) (.refl _ s) _ _
  | refCheck _ => exact execRefCheck_keeps (fun _ h => h) (.refl _ s) _
  | dlLock _ => exact execDlLock_keeps (fun _ h => h) (.refl _ s) _
  | dlCompare _ _ => exact execDlCompare_keeps (fun _ h => h) (.refl _ s) _ _
  | autoReadback _ => exact execAutoReadback_keeps (fun _ h => h) (.refl _ s) _
  | readbackDone _ _ _ => exact execReadbackDone_keeps (fun _ h => h) (.refl _ s) _ _ _
  | go _ _ => exact execGo_keeps (fun _ h => h) (.refl _ s) _ _
  | pwmEn _ _ => exact execPwmEn_keeps (fun _ h => h) (.refl _ s) _ _
  | unlock _ _ => exact execUnlock_keeps (fun _ h => h) (.refl _ s) _ _
  | baySafe _ _ => exact execBaySafe_keeps (fun _ h => h) (.refl _ s) _ _
  | bayPhTrip _ _ => exact execBayPhTrip_keeps (fun _ h => h) (.refl _ s) _ _
  | lnTrip _ _ => exact execLnTrip_keeps (fun _ h => h) (.refl _ s) _ _
  | glbTrip _ => exact execGlbTrip_keeps (fun _ h => h) (.refl _ s) _
  | glbPwmPer _ => exact execGlbPwmPer_keeps (fun _ h => h) (.refl _ s) _
  | glbPwmSs _ => exact execGlbPwmSs_keeps (fun _ h => h) (.refl _ s) _
  | glbRef _ => exact execGlbRef_keeps (fun _ h => h) (.refl _ s) _
  | mtrCfg _ _ => exact execMtrCfg_keeps (fun _ h => h) (.refl _ s) _ _
  | lnReed _ _ => exact execLnReed_keeps (fun _ h => h) (.refl _ s) _ _
  | plan _ => exact execPlan_keeps (fun _ h => h) (.refl _ s) _
  | planEn _ => exact execPlanEn_keeps (fun _ h => h) (.refl _ s) _
  | tmrCfg _ _ => exact execTmrCfg_keeps (fun _ h => h) (.refl _ s) _ _
  | pop _ _ => exact execPop_keeps (fun _ h => h) (.refl _ s) _ _
  | tmrCnt _ _ => exact execTmrCnt_keeps (fun _ h => h) (.refl _ s) _ _
  | tmrCv _ _ => exact execTmrCv_keeps (fun _ h => h) (.refl _ s) _ _
  | tmrCcfg _ _ => exact execTmrCcfg_keeps (fun _ h => h) (.refl _ s) _ _
  | arm _ => exact execArm_keeps (fun _ h => h) (.refl _ s) _
  | dropClr _ => exact execDropClr_keeps (fun _ h => h) (.refl _ s) _
  | timerMatch _ _ => exact execTimerMatch_keeps (fun _ h => h) (.refl _ s) _ _
  | timerOverflow _ => exact execTimerOverflow_keeps (fun _ h => h) (.refl _ s) _
  | timerCapture _ _ _ => exact execTimerCapture_keeps (fun _ h => h) (.refl _ s) _ _ _
  | rtrRoute _ _ => exact execRtrRoute_keeps (fun _ h => h) (.refl _ s) _ _
  | rtrTio _ => exact execRtrTio_keeps (fun _ h => h) (.refl _ s) _
  | hitClr _ => exact execHitClr_keeps (fun _ h => h) (.refl _ s) _
  | glbThmEn _ _ => exact execGlbThmEn_keeps (fun _ h => h) (.refl _ s) _ _
  | ckptNow _ => exact execCkptNow_keeps (fun _ h => h) (.refl _ s) _
  | nvmCntClr _ => exact execNvmCntClr_keeps (fun _ h => h) (.refl _ s) _
  | flushNow _ => exact execFlushNow_keeps (fun _ h => h) (.refl _ s) _
  | slvCntClr _ => exact execSlvCntClr_keeps (fun _ h => h) (.refl _ s) _
  | slvSnapAddr _ => exact execSlvSnapAddr_keeps (fun _ h => h) (.refl _ s) _
  | shtlCntClr _ _ => exact execShtlCntClr_keeps (fun _ h => h) (.refl _ s) _ _
  | trdCfg _ => exact execTrdCfg_keeps (fun _ h => h) (.refl _ s) _
  | trdCntClr _ => exact execTrdCntClr_keeps (fun _ h => h) (.refl _ s) _
  | dorm _ => exact execDorm_keeps (fun _ h => h) (.refl _ s) _
  | qrel _ => exact execQrel_keeps (fun _ h => h) (.refl _ s) _
  | nvmTvalLo _ => exact execNvmTvalLo_keeps (fun _ h => h) (.refl _ s) _
  | nvmTstoLo _ => exact execNvmTstoLo_keeps (fun _ h => h) (.refl _ s) _
  | nvmTaltLo _ => exact execNvmTaltLo_keeps (fun _ h => h) (.refl _ s) _
  | glbOptimeLo _ => exact execGlbOptimeLo_keeps (fun _ h => h) (.refl _ s) _
  | sqTailDb _ => exact execSqTailDb_keeps (fun _ h => h) (.refl _ s) _
  | cqHeadDb _ => exact execCqHeadDb_keeps (fun _ h => h) (.refl _ s) _
  | hstSqCfg _ => exact execHstSqCfg_keeps (fun _ h => h) (.refl _ s) _
  | hstCqCfg _ => exact execHstCqCfg_keeps (fun _ h => h) (.refl _ s) _
  | registerWrite _ _ _ _ => exact execRegisterWrite_keeps (fun _ h => h) (.refl _ s) _ _ _ _
  | sqFetchDone _ _ _ => exact execSqFetchDone_keeps (fun _ h => h) (.refl _ s) _ _ _
  | msixCoalTimeout _ => exact execMsixCoalTimeout_keeps (fun _ h => h) (.refl _ s) _
  | telemetrySample _ _ _ => exact execTelemetrySample_keeps (fun _ h => h) (.refl _ s) _ _ _
  | portReset _ _ => exact execPortReset_keeps (fun _ h => h) (.refl _ s) _ _
  | linkTraining _ => exact execLinkTraining_keeps (fun _ h => h) (.refl _ s) _
  | functionLevelReset _ => exact execFunctionLevelReset_keeps (fun _ h => h) (.refl _ s) _
  | busMasterDisable _ _ => exact execBusMasterDisable_keeps (fun _ h => h) (.refl _ s) _ _
  | aspmL1Entry _ _ => exact execAspmL1Entry_keeps (fun _ h => h) (.refl _ s) _ _
  | ltrIdle _ => exact execLtrIdle_keeps (fun _ h => h) (.refl _ s) _
  | managerPromoted => exact execManagerPromoted_keeps (fun _ h => h) (.refl _ s)
  | violationWindowEnd _ => exact execViolationWindowEnd_keeps (fun _ h => h) (.refl _ s) _
  | challengeExpiry => exact execChallengeExpiry_keeps (fun _ h => h) (.refl _ s)
  | selvedgeReport => exact execSelvedgeReport_keeps (fun _ h => h) (.refl _ s)
  | recordClose _ => exact execRecordClose_keeps (fun _ h => h) (.refl _ s) _
  | checkpoint => exact execCheckpoint_keeps (fun _ h => h) (.refl _ s)
  | flashProgramDone _ _ => exact execFlashProgramDone_keeps (fun _ h => h) (.refl _ s) _ _
  | flashEraseDone _ _ => exact execFlashEraseDone_keeps (fun _ h => h) (.refl _ s) _ _
  | powerOnReset => exact execPowerOnReset_keeps (fun _ h => h) (.refl _ s)
  | resetN _ => exact execResetN_keeps (fun _ h => h) (.refl _ s) _
  | xinReady => exact execXinReady_keeps (fun _ h => h) (.refl _ s)
  | pllLock => exact execPllLock_keeps (fun _ h => h) (.refl _ s)
  | pllRetry => exact execPllRetry_keeps (fun _ h => h) (.refl _ s)
  | bayAnalogueEnable _ => exact execBayAnalogueEnable_keeps (fun _ h => h) (.refl _ s) _
  | recoveryDone _ => exact execRecoveryDone_keeps (fun _ h => h) (.refl _ s) _
  | paramLoaded => exact execParamLoaded_keeps (fun _ h => h) (.refl _ s)
  | startupComplete => exact execStartupComplete_keeps (fun _ h => h) (.refl _ s)
  | dormantEntered => exact execDormantEntered_keeps (fun _ h => h) (.refl _ s)
  | wake _ _ => exact execWake_keeps (fun _ h => h) (.refl _ s) _ _
  | poll _ => exact execPoll_keeps (fun _ h => h) (.refl _ s) _
  | pmTransactionDone _ _ => exact execPmTransactionDone_keeps (fun _ h => h) (.refl _ s) _ _
  | pmArbLoss => exact execPmArbLoss_keeps (fun _ h => h) (.refl _ s)
  | pmBackoffEnd => exact execPmBackoffEnd_keeps (fun _ h => h) (.refl _ s)
  | pmClockTimeout => exact execPmClockTimeout_keeps (fun _ h => h) (.refl _ s)
  | pmBusStuck _ _ => exact execPmBusStuck_keeps (fun _ h => h) (.refl _ s) _ _
  | pmRecoveryRetry _ => exact execPmRecoveryRetry_keeps (fun _ h => h) (.refl _ s) _
  | pmAlert => exact execPmAlert_keeps (fun _ h => h) (.refl _ s)
  | extest => exact execExtest_keeps (fun _ h => h) (.refl _ s)
  | samplePreload => exact execSamplePreload_keeps (fun _ h => h) (.refl _ s)
  | idcode => exact execIdcode_keeps (fun _ h => h) (.refl _ s)
  | bypass => exact execBypass_keeps (fun _ h => h) (.refl _ s)
  | dbg _ => exact execDbg_keeps (fun _ h => h) (.refl _ s) _
  | carrierStart _ => exact execCarrierStart_keeps (fun _ h => h) (.refl _ s) _
  | idleGuard _ => exact execIdleGuard_keeps (fun _ h => h) (.refl _ s) _
  | preambleStart _ => exact execPreambleStart_keeps (fun _ h => h) (.refl _ s) _
  | slowOnXtal => exact execSlowOnXtal_keeps (fun _ h => h) (.refl _ s)
  | unlockExpiry _ => exact execUnlockExpiry_keeps (fun _ h => h) (.refl _ s) _
  | chargePumpReady => exact execChargePumpReady_keeps (fun _ h => h) (.refl _ s)
  | eraseSuspendDone _ => exact execEraseSuspendDone_keeps (fun _ h => h) (.refl _ s) _
  | linkUp _ _ _ _ _ _ => exact execLinkUp_keeps (fun _ h => h) (.refl _ s) _ _ _ _ _ _
  | pciPmD3hot _ _ => exact execPciPmD3hot_keeps (fun _ h => h) (.refl _ s) _ _
  | pmBusFree => exact execPmBusFree_keeps (fun _ h => h) (.refl _ s)
  | statementSigned => exact execStatementSigned_keeps (fun _ h => h) (.refl _ s)

/-- A step on a non-empty queue keeps what its command keeps, over the queue's rest. -/
theorem step_keeps {s : State} {c : Instr} {rest : List Instr} (h : s.pending = c :: rest) :
    ∃ t, step s = .next t ∧ Keeps (touch c) { s with pending := rest } t := by
  obtain ⟨t, ht, hk⟩ := exec_keeps c { s with pending := rest }
  exact ⟨t, by simp [step, h, ht], hk⟩

end Sys2Proof.Machine
end

