-- ==== Sys2Proof/Laws/State.lean ====
section
/-!
SUPPORT. Sys2Proof/Laws/State.lean: one lemma per field of State per update, so that no proof unfolds a record update; the instance an
update names and the instances it leaves.
-/
namespace Sys2Proof.Machine

/-! ### Instance tables -/

theorem vget_vupd_same {α : Type} {n : Nat} (v : Vector α n) (i : Nat) (f : α → α) (d : α) (h : i < n) :
    vget (vupd v i f) i d = f (vget v i d) := by
  simp [vget, vupd, h, List.getD]

theorem vget_vupd_ne {α : Type} {n : Nat} (v : Vector α n) (i j : Nat) (f : α → α) (d : α) (h : i ≠ j) :
    vget (vupd v i f) j d = vget v j d := by
  unfold vupd
  split
  · simp only [vget, List.getD, Vector.toList_set]
    rw [List.getElem?_set_ne h]
  · rfl

/-! ### Updates of hidden state -/

@[simp] theorem onNvm_nvm (s : State) (f : Nvm → Nvm) : (s.onNvm f).nvm = f s.nvm := rfl
@[simp] theorem onNvm_pending (s : State) (f : Nvm → Nvm) : (s.onNvm f).pending = s.pending := rfl
@[simp] theorem onNvm_regs (s : State) (f : Nvm → Nvm) : (s.onNvm f).regs = s.regs := rfl
@[simp] theorem onNvm_tb (s : State) (f : Nvm → Nvm) : (s.onNvm f).tb = s.tb := rfl
@[simp] theorem onNvm_free (s : State) (f : Nvm → Nvm) : (s.onNvm f).free = s.free := rfl
@[simp] theorem onNvm_outs (s : State) (f : Nvm → Nvm) : (s.onNvm f).outs = s.outs := rfl
@[simp] theorem onNvm_waits (s : State) (f : Nvm → Nvm) : (s.onNvm f).waits = s.waits := rfl
@[simp] theorem onNvm_supOut (s : State) (f : Nvm → Nvm) : (s.onNvm f).supOut = s.supOut := rfl
@[simp] theorem onNvm_supRes (s : State) (f : Nvm → Nvm) : (s.onNvm f).supRes = s.supRes := rfl
@[simp] theorem onNvm_supBad (s : State) (f : Nvm → Nvm) : (s.onNvm f).supBad = s.supBad := rfl
@[simp] theorem onNvm_served (s : State) (f : Nvm → Nvm) : (s.onNvm f).served = s.served := rfl
@[simp] theorem onNvm_tenants (s : State) (f : Nvm → Nvm) : (s.onNvm f).tenants = s.tenants := rfl
@[simp] theorem onNvm_ports (s : State) (f : Nvm → Nvm) : (s.onNvm f).ports = s.ports := rfl
@[simp] theorem onNvm_sec (s : State) (f : Nvm → Nvm) : (s.onNvm f).sec = s.sec := rfl
@[simp] theorem onNvm_slv (s : State) (f : Nvm → Nvm) : (s.onNvm f).slv = s.slv := rfl
@[simp] theorem onNvm_meters (s : State) (f : Nvm → Nvm) : (s.onNvm f).meters = s.meters := rfl
@[simp] theorem onNvm_lanes (s : State) (f : Nvm → Nvm) : (s.onNvm f).lanes = s.lanes := rfl
@[simp] theorem onNvm_phases (s : State) (f : Nvm → Nvm) : (s.onNvm f).phases = s.phases := rfl
@[simp] theorem onNvm_bays (s : State) (f : Nvm → Nvm) : (s.onNvm f).bays = s.bays := rfl
@[simp] theorem onNvm_segs (s : State) (f : Nvm → Nvm) : (s.onNvm f).segs = s.segs := rfl
@[simp] theorem onNvm_pwm (s : State) (f : Nvm → Nvm) : (s.onNvm f).pwm = s.pwm := rfl
@[simp] theorem onNvm_power (s : State) (f : Nvm → Nvm) : (s.onNvm f).power = s.power := rfl
@[simp] theorem onNvm_rtrLive (s : State) (f : Nvm → Nvm) : (s.onNvm f).rtrLive = s.rtrLive := rfl
@[simp] theorem onNvm_refSeen (s : State) (f : Nvm → Nvm) : (s.onNvm f).refSeen = s.refSeen := rfl
@[simp] theorem onNvm_refRun (s : State) (f : Nvm → Nvm) : (s.onNvm f).refRun = s.refRun := rfl
@[simp] theorem onNvm_refOut (s : State) (f : Nvm → Nvm) : (s.onNvm f).refOut = s.refOut := rfl
@[simp] theorem onNvm_refOn (s : State) (f : Nvm → Nvm) : (s.onNvm f).refOn = s.refOn := rfl
@[simp] theorem onNvm_timers (s : State) (f : Nvm → Nvm) : (s.onNvm f).timers = s.timers := rfl
@[simp] theorem onNvm_tioDrv (s : State) (f : Nvm → Nvm) : (s.onNvm f).tioDrv = s.tioDrv := rfl
@[simp] theorem onNvm_portM (s : State) (f : Nvm → Nvm) : (s.onNvm f).portM = s.portM := rfl
@[simp] theorem onNvm_tokenQ (s : State) (f : Nvm → Nvm) : (s.onNvm f).tokenQ = s.tokenQ := rfl
@[simp] theorem onNvm_lastGrant (s : State) (f : Nvm → Nvm) : (s.onNvm f).lastGrant = s.lastGrant := rfl
@[simp] theorem onNvm_reg (s : State) (f : Nvm → Nvm) (r : Reg) (i : Nat) : (s.onNvm f).reg r i = s.reg r i := rfl
@[simp] theorem onNvm_rd (s : State) (f : Nvm → Nvm) (g : Field) (i : Nat) : (s.onNvm f).rd g i = s.rd g i := rfl
@[simp] theorem onNvm_rdS (s : State) (f : Nvm → Nvm) (g : Field) (i : Nat) : (s.onNvm f).rdS g i = s.rdS g i := rfl
@[simp] theorem onNvm_flag (s : State) (f : Nvm → Nvm) (g : Field) (i : Nat) : (s.onNvm f).flag g i = s.flag g i := rfl
@[simp] theorem onNvm_rdBit (s : State) (f : Nvm → Nvm) (g : Field) (k i : Nat) : (s.onNvm f).rdBit g k i = s.rdBit g k i := rfl

@[simp] theorem onPwm_pwm (s : State) (f : Pwm → Pwm) : (s.onPwm f).pwm = f s.pwm := rfl
@[simp] theorem onPwm_pending (s : State) (f : Pwm → Pwm) : (s.onPwm f).pending = s.pending := rfl
@[simp] theorem onPwm_regs (s : State) (f : Pwm → Pwm) : (s.onPwm f).regs = s.regs := rfl
@[simp] theorem onPwm_tb (s : State) (f : Pwm → Pwm) : (s.onPwm f).tb = s.tb := rfl
@[simp] theorem onPwm_free (s : State) (f : Pwm → Pwm) : (s.onPwm f).free = s.free := rfl
@[simp] theorem onPwm_outs (s : State) (f : Pwm → Pwm) : (s.onPwm f).outs = s.outs := rfl
@[simp] theorem onPwm_waits (s : State) (f : Pwm → Pwm) : (s.onPwm f).waits = s.waits := rfl
@[simp] theorem onPwm_supOut (s : State) (f : Pwm → Pwm) : (s.onPwm f).supOut = s.supOut := rfl
@[simp] theorem onPwm_supRes (s : State) (f : Pwm → Pwm) : (s.onPwm f).supRes = s.supRes := rfl
@[simp] theorem onPwm_supBad (s : State) (f : Pwm → Pwm) : (s.onPwm f).supBad = s.supBad := rfl
@[simp] theorem onPwm_served (s : State) (f : Pwm → Pwm) : (s.onPwm f).served = s.served := rfl
@[simp] theorem onPwm_tenants (s : State) (f : Pwm → Pwm) : (s.onPwm f).tenants = s.tenants := rfl
@[simp] theorem onPwm_ports (s : State) (f : Pwm → Pwm) : (s.onPwm f).ports = s.ports := rfl
@[simp] theorem onPwm_sec (s : State) (f : Pwm → Pwm) : (s.onPwm f).sec = s.sec := rfl
@[simp] theorem onPwm_slv (s : State) (f : Pwm → Pwm) : (s.onPwm f).slv = s.slv := rfl
@[simp] theorem onPwm_nvm (s : State) (f : Pwm → Pwm) : (s.onPwm f).nvm = s.nvm := rfl
@[simp] theorem onPwm_meters (s : State) (f : Pwm → Pwm) : (s.onPwm f).meters = s.meters := rfl
@[simp] theorem onPwm_lanes (s : State) (f : Pwm → Pwm) : (s.onPwm f).lanes = s.lanes := rfl
@[simp] theorem onPwm_phases (s : State) (f : Pwm → Pwm) : (s.onPwm f).phases = s.phases := rfl
@[simp] theorem onPwm_bays (s : State) (f : Pwm → Pwm) : (s.onPwm f).bays = s.bays := rfl
@[simp] theorem onPwm_segs (s : State) (f : Pwm → Pwm) : (s.onPwm f).segs = s.segs := rfl
@[simp] theorem onPwm_power (s : State) (f : Pwm → Pwm) : (s.onPwm f).power = s.power := rfl
@[simp] theorem onPwm_rtrLive (s : State) (f : Pwm → Pwm) : (s.onPwm f).rtrLive = s.rtrLive := rfl
@[simp] theorem onPwm_refSeen (s : State) (f : Pwm → Pwm) : (s.onPwm f).refSeen = s.refSeen := rfl
@[simp] theorem onPwm_refRun (s : State) (f : Pwm → Pwm) : (s.onPwm f).refRun = s.refRun := rfl
@[simp] theorem onPwm_refOut (s : State) (f : Pwm → Pwm) : (s.onPwm f).refOut = s.refOut := rfl
@[simp] theorem onPwm_refOn (s : State) (f : Pwm → Pwm) : (s.onPwm f).refOn = s.refOn := rfl
@[simp] theorem onPwm_timers (s : State) (f : Pwm → Pwm) : (s.onPwm f).timers = s.timers := rfl
@[simp] theorem onPwm_tioDrv (s : State) (f : Pwm → Pwm) : (s.onPwm f).tioDrv = s.tioDrv := rfl
@[simp] theorem onPwm_portM (s : State) (f : Pwm → Pwm) : (s.onPwm f).portM = s.portM := rfl
@[simp] theorem onPwm_tokenQ (s : State) (f : Pwm → Pwm) : (s.onPwm f).tokenQ = s.tokenQ := rfl
@[simp] theorem onPwm_lastGrant (s : State) (f : Pwm → Pwm) : (s.onPwm f).lastGrant = s.lastGrant := rfl
@[simp] theorem onPwm_reg (s : State) (f : Pwm → Pwm) (r : Reg) (i : Nat) : (s.onPwm f).reg r i = s.reg r i := rfl
@[simp] theorem onPwm_rd (s : State) (f : Pwm → Pwm) (g : Field) (i : Nat) : (s.onPwm f).rd g i = s.rd g i := rfl
@[simp] theorem onPwm_rdS (s : State) (f : Pwm → Pwm) (g : Field) (i : Nat) : (s.onPwm f).rdS g i = s.rdS g i := rfl
@[simp] theorem onPwm_flag (s : State) (f : Pwm → Pwm) (g : Field) (i : Nat) : (s.onPwm f).flag g i = s.flag g i := rfl
@[simp] theorem onPwm_rdBit (s : State) (f : Pwm → Pwm) (g : Field) (k i : Nat) : (s.onPwm f).rdBit g k i = s.rdBit g k i := rfl

@[simp] theorem onPm_portM (s : State) (f : PortM → PortM) : (s.onPm f).portM = f s.portM := rfl
@[simp] theorem onPm_pending (s : State) (f : PortM → PortM) : (s.onPm f).pending = s.pending := rfl
@[simp] theorem onPm_regs (s : State) (f : PortM → PortM) : (s.onPm f).regs = s.regs := rfl
@[simp] theorem onPm_tb (s : State) (f : PortM → PortM) : (s.onPm f).tb = s.tb := rfl
@[simp] theorem onPm_free (s : State) (f : PortM → PortM) : (s.onPm f).free = s.free := rfl
@[simp] theorem onPm_outs (s : State) (f : PortM → PortM) : (s.onPm f).outs = s.outs := rfl
@[simp] theorem onPm_waits (s : State) (f : PortM → PortM) : (s.onPm f).waits = s.waits := rfl
@[simp] theorem onPm_supOut (s : State) (f : PortM → PortM) : (s.onPm f).supOut = s.supOut := rfl
@[simp] theorem onPm_supRes (s : State) (f : PortM → PortM) : (s.onPm f).supRes = s.supRes := rfl
@[simp] theorem onPm_supBad (s : State) (f : PortM → PortM) : (s.onPm f).supBad = s.supBad := rfl
@[simp] theorem onPm_served (s : State) (f : PortM → PortM) : (s.onPm f).served = s.served := rfl
@[simp] theorem onPm_tenants (s : State) (f : PortM → PortM) : (s.onPm f).tenants = s.tenants := rfl
@[simp] theorem onPm_ports (s : State) (f : PortM → PortM) : (s.onPm f).ports = s.ports := rfl
@[simp] theorem onPm_sec (s : State) (f : PortM → PortM) : (s.onPm f).sec = s.sec := rfl
@[simp] theorem onPm_slv (s : State) (f : PortM → PortM) : (s.onPm f).slv = s.slv := rfl
@[simp] theorem onPm_nvm (s : State) (f : PortM → PortM) : (s.onPm f).nvm = s.nvm := rfl
@[simp] theorem onPm_meters (s : State) (f : PortM → PortM) : (s.onPm f).meters = s.meters := rfl
@[simp] theorem onPm_lanes (s : State) (f : PortM → PortM) : (s.onPm f).lanes = s.lanes := rfl
@[simp] theorem onPm_phases (s : State) (f : PortM → PortM) : (s.onPm f).phases = s.phases := rfl
@[simp] theorem onPm_bays (s : State) (f : PortM → PortM) : (s.onPm f).bays = s.bays := rfl
@[simp] theorem onPm_segs (s : State) (f : PortM → PortM) : (s.onPm f).segs = s.segs := rfl
@[simp] theorem onPm_pwm (s : State) (f : PortM → PortM) : (s.onPm f).pwm = s.pwm := rfl
@[simp] theorem onPm_power (s : State) (f : PortM → PortM) : (s.onPm f).power = s.power := rfl
@[simp] theorem onPm_rtrLive (s : State) (f : PortM → PortM) : (s.onPm f).rtrLive = s.rtrLive := rfl
@[simp] theorem onPm_refSeen (s : State) (f : PortM → PortM) : (s.onPm f).refSeen = s.refSeen := rfl
@[simp] theorem onPm_refRun (s : State) (f : PortM → PortM) : (s.onPm f).refRun = s.refRun := rfl
@[simp] theorem onPm_refOut (s : State) (f : PortM → PortM) : (s.onPm f).refOut = s.refOut := rfl
@[simp] theorem onPm_refOn (s : State) (f : PortM → PortM) : (s.onPm f).refOn = s.refOn := rfl
@[simp] theorem onPm_timers (s : State) (f : PortM → PortM) : (s.onPm f).timers = s.timers := rfl
@[simp] theorem onPm_tioDrv (s : State) (f : PortM → PortM) : (s.onPm f).tioDrv = s.tioDrv := rfl
@[simp] theorem onPm_tokenQ (s : State) (f : PortM → PortM) : (s.onPm f).tokenQ = s.tokenQ := rfl
@[simp] theorem onPm_lastGrant (s : State) (f : PortM → PortM) : (s.onPm f).lastGrant = s.lastGrant := rfl
@[simp] theorem onPm_reg (s : State) (f : PortM → PortM) (r : Reg) (i : Nat) : (s.onPm f).reg r i = s.reg r i := rfl
@[simp] theorem onPm_rd (s : State) (f : PortM → PortM) (g : Field) (i : Nat) : (s.onPm f).rd g i = s.rd g i := rfl
@[simp] theorem onPm_rdS (s : State) (f : PortM → PortM) (g : Field) (i : Nat) : (s.onPm f).rdS g i = s.rdS g i := rfl
@[simp] theorem onPm_flag (s : State) (f : PortM → PortM) (g : Field) (i : Nat) : (s.onPm f).flag g i = s.flag g i := rfl
@[simp] theorem onPm_rdBit (s : State) (f : PortM → PortM) (g : Field) (k i : Nat) : (s.onPm f).rdBit g k i = s.rdBit g k i := rfl

@[simp] theorem onSlv_slv (s : State) (f : Selvedge → Selvedge) : (s.onSlv f).slv = f s.slv := rfl
@[simp] theorem onSlv_pending (s : State) (f : Selvedge → Selvedge) : (s.onSlv f).pending = s.pending := rfl
@[simp] theorem onSlv_regs (s : State) (f : Selvedge → Selvedge) : (s.onSlv f).regs = s.regs := rfl
@[simp] theorem onSlv_tb (s : State) (f : Selvedge → Selvedge) : (s.onSlv f).tb = s.tb := rfl
@[simp] theorem onSlv_free (s : State) (f : Selvedge → Selvedge) : (s.onSlv f).free = s.free := rfl
@[simp] theorem onSlv_outs (s : State) (f : Selvedge → Selvedge) : (s.onSlv f).outs = s.outs := rfl
@[simp] theorem onSlv_waits (s : State) (f : Selvedge → Selvedge) : (s.onSlv f).waits = s.waits := rfl
@[simp] theorem onSlv_supOut (s : State) (f : Selvedge → Selvedge) : (s.onSlv f).supOut = s.supOut := rfl
@[simp] theorem onSlv_supRes (s : State) (f : Selvedge → Selvedge) : (s.onSlv f).supRes = s.supRes := rfl
@[simp] theorem onSlv_supBad (s : State) (f : Selvedge → Selvedge) : (s.onSlv f).supBad = s.supBad := rfl
@[simp] theorem onSlv_served (s : State) (f : Selvedge → Selvedge) : (s.onSlv f).served = s.served := rfl
@[simp] theorem onSlv_tenants (s : State) (f : Selvedge → Selvedge) : (s.onSlv f).tenants = s.tenants := rfl
@[simp] theorem onSlv_ports (s : State) (f : Selvedge → Selvedge) : (s.onSlv f).ports = s.ports := rfl
@[simp] theorem onSlv_sec (s : State) (f : Selvedge → Selvedge) : (s.onSlv f).sec = s.sec := rfl
@[simp] theorem onSlv_nvm (s : State) (f : Selvedge → Selvedge) : (s.onSlv f).nvm = s.nvm := rfl
@[simp] theorem onSlv_meters (s : State) (f : Selvedge → Selvedge) : (s.onSlv f).meters = s.meters := rfl
@[simp] theorem onSlv_lanes (s : State) (f : Selvedge → Selvedge) : (s.onSlv f).lanes = s.lanes := rfl
@[simp] theorem onSlv_phases (s : State) (f : Selvedge → Selvedge) : (s.onSlv f).phases = s.phases := rfl
@[simp] theorem onSlv_bays (s : State) (f : Selvedge → Selvedge) : (s.onSlv f).bays = s.bays := rfl
@[simp] theorem onSlv_segs (s : State) (f : Selvedge → Selvedge) : (s.onSlv f).segs = s.segs := rfl
@[simp] theorem onSlv_pwm (s : State) (f : Selvedge → Selvedge) : (s.onSlv f).pwm = s.pwm := rfl
@[simp] theorem onSlv_power (s : State) (f : Selvedge → Selvedge) : (s.onSlv f).power = s.power := rfl
@[simp] theorem onSlv_rtrLive (s : State) (f : Selvedge → Selvedge) : (s.onSlv f).rtrLive = s.rtrLive := rfl
@[simp] theorem onSlv_refSeen (s : State) (f : Selvedge → Selvedge) : (s.onSlv f).refSeen = s.refSeen := rfl
@[simp] theorem onSlv_refRun (s : State) (f : Selvedge → Selvedge) : (s.onSlv f).refRun = s.refRun := rfl
@[simp] theorem onSlv_refOut (s : State) (f : Selvedge → Selvedge) : (s.onSlv f).refOut = s.refOut := rfl
@[simp] theorem onSlv_refOn (s : State) (f : Selvedge → Selvedge) : (s.onSlv f).refOn = s.refOn := rfl
@[simp] theorem onSlv_timers (s : State) (f : Selvedge → Selvedge) : (s.onSlv f).timers = s.timers := rfl
@[simp] theorem onSlv_tioDrv (s : State) (f : Selvedge → Selvedge) : (s.onSlv f).tioDrv = s.tioDrv := rfl
@[simp] theorem onSlv_portM (s : State) (f : Selvedge → Selvedge) : (s.onSlv f).portM = s.portM := rfl
@[simp] theorem onSlv_tokenQ (s : State) (f : Selvedge → Selvedge) : (s.onSlv f).tokenQ = s.tokenQ := rfl
@[simp] theorem onSlv_lastGrant (s : State) (f : Selvedge → Selvedge) : (s.onSlv f).lastGrant = s.lastGrant := rfl
@[simp] theorem onSlv_reg (s : State) (f : Selvedge → Selvedge) (r : Reg) (i : Nat) : (s.onSlv f).reg r i = s.reg r i := rfl
@[simp] theorem onSlv_rd (s : State) (f : Selvedge → Selvedge) (g : Field) (i : Nat) : (s.onSlv f).rd g i = s.rd g i := rfl
@[simp] theorem onSlv_rdS (s : State) (f : Selvedge → Selvedge) (g : Field) (i : Nat) : (s.onSlv f).rdS g i = s.rdS g i := rfl
@[simp] theorem onSlv_flag (s : State) (f : Selvedge → Selvedge) (g : Field) (i : Nat) : (s.onSlv f).flag g i = s.flag g i := rfl
@[simp] theorem onSlv_rdBit (s : State) (f : Selvedge → Selvedge) (g : Field) (k i : Nat) : (s.onSlv f).rdBit g k i = s.rdBit g k i := rfl

@[simp] theorem onPower_power (s : State) (f : Power → Power) : (s.onPower f).power = f s.power := rfl
@[simp] theorem onPower_pending (s : State) (f : Power → Power) : (s.onPower f).pending = s.pending := rfl
@[simp] theorem onPower_regs (s : State) (f : Power → Power) : (s.onPower f).regs = s.regs := rfl
@[simp] theorem onPower_tb (s : State) (f : Power → Power) : (s.onPower f).tb = s.tb := rfl
@[simp] theorem onPower_free (s : State) (f : Power → Power) : (s.onPower f).free = s.free := rfl
@[simp] theorem onPower_outs (s : State) (f : Power → Power) : (s.onPower f).outs = s.outs := rfl
@[simp] theorem onPower_waits (s : State) (f : Power → Power) : (s.onPower f).waits = s.waits := rfl
@[simp] theorem onPower_supOut (s : State) (f : Power → Power) : (s.onPower f).supOut = s.supOut := rfl
@[simp] theorem onPower_supRes (s : State) (f : Power → Power) : (s.onPower f).supRes = s.supRes := rfl
@[simp] theorem onPower_supBad (s : State) (f : Power → Power) : (s.onPower f).supBad = s.supBad := rfl
@[simp] theorem onPower_served (s : State) (f : Power → Power) : (s.onPower f).served = s.served := rfl
@[simp] theorem onPower_tenants (s : State) (f : Power → Power) : (s.onPower f).tenants = s.tenants := rfl
@[simp] theorem onPower_ports (s : State) (f : Power → Power) : (s.onPower f).ports = s.ports := rfl
@[simp] theorem onPower_sec (s : State) (f : Power → Power) : (s.onPower f).sec = s.sec := rfl
@[simp] theorem onPower_slv (s : State) (f : Power → Power) : (s.onPower f).slv = s.slv := rfl
@[simp] theorem onPower_nvm (s : State) (f : Power → Power) : (s.onPower f).nvm = s.nvm := rfl
@[simp] theorem onPower_meters (s : State) (f : Power → Power) : (s.onPower f).meters = s.meters := rfl
@[simp] theorem onPower_lanes (s : State) (f : Power → Power) : (s.onPower f).lanes = s.lanes := rfl
@[simp] theorem onPower_phases (s : State) (f : Power → Power) : (s.onPower f).phases = s.phases := rfl
@[simp] theorem onPower_bays (s : State) (f : Power → Power) : (s.onPower f).bays = s.bays := rfl
@[simp] theorem onPower_segs (s : State) (f : Power → Power) : (s.onPower f).segs = s.segs := rfl
@[simp] theorem onPower_pwm (s : State) (f : Power → Power) : (s.onPower f).pwm = s.pwm := rfl
@[simp] theorem onPower_rtrLive (s : State) (f : Power → Power) : (s.onPower f).rtrLive = s.rtrLive := rfl
@[simp] theorem onPower_refSeen (s : State) (f : Power → Power) : (s.onPower f).refSeen = s.refSeen := rfl
@[simp] theorem onPower_refRun (s : State) (f : Power → Power) : (s.onPower f).refRun = s.refRun := rfl
@[simp] theorem onPower_refOut (s : State) (f : Power → Power) : (s.onPower f).refOut = s.refOut := rfl
@[simp] theorem onPower_refOn (s : State) (f : Power → Power) : (s.onPower f).refOn = s.refOn := rfl
@[simp] theorem onPower_timers (s : State) (f : Power → Power) : (s.onPower f).timers = s.timers := rfl
@[simp] theorem onPower_tioDrv (s : State) (f : Power → Power) : (s.onPower f).tioDrv = s.tioDrv := rfl
@[simp] theorem onPower_portM (s : State) (f : Power → Power) : (s.onPower f).portM = s.portM := rfl
@[simp] theorem onPower_tokenQ (s : State) (f : Power → Power) : (s.onPower f).tokenQ = s.tokenQ := rfl
@[simp] theorem onPower_lastGrant (s : State) (f : Power → Power) : (s.onPower f).lastGrant = s.lastGrant := rfl
@[simp] theorem onPower_reg (s : State) (f : Power → Power) (r : Reg) (i : Nat) : (s.onPower f).reg r i = s.reg r i := rfl
@[simp] theorem onPower_rd (s : State) (f : Power → Power) (g : Field) (i : Nat) : (s.onPower f).rd g i = s.rd g i := rfl
@[simp] theorem onPower_rdS (s : State) (f : Power → Power) (g : Field) (i : Nat) : (s.onPower f).rdS g i = s.rdS g i := rfl
@[simp] theorem onPower_flag (s : State) (f : Power → Power) (g : Field) (i : Nat) : (s.onPower f).flag g i = s.flag g i := rfl
@[simp] theorem onPower_rdBit (s : State) (f : Power → Power) (g : Field) (k i : Nat) : (s.onPower f).rdBit g k i = s.rdBit g k i := rfl

@[simp] theorem onSec_sec (s : State) (f : Sec → Sec) : (s.onSec f).sec = f s.sec := rfl
@[simp] theorem onSec_pending (s : State) (f : Sec → Sec) : (s.onSec f).pending = s.pending := rfl
@[simp] theorem onSec_regs (s : State) (f : Sec → Sec) : (s.onSec f).regs = s.regs := rfl
@[simp] theorem onSec_tb (s : State) (f : Sec → Sec) : (s.onSec f).tb = s.tb := rfl
@[simp] theorem onSec_free (s : State) (f : Sec → Sec) : (s.onSec f).free = s.free := rfl
@[simp] theorem onSec_outs (s : State) (f : Sec → Sec) : (s.onSec f).outs = s.outs := rfl
@[simp] theorem onSec_waits (s : State) (f : Sec → Sec) : (s.onSec f).waits = s.waits := rfl
@[simp] theorem onSec_supOut (s : State) (f : Sec → Sec) : (s.onSec f).supOut = s.supOut := rfl
@[simp] theorem onSec_supRes (s : State) (f : Sec → Sec) : (s.onSec f).supRes = s.supRes := rfl
@[simp] theorem onSec_supBad (s : State) (f : Sec → Sec) : (s.onSec f).supBad = s.supBad := rfl
@[simp] theorem onSec_served (s : State) (f : Sec → Sec) : (s.onSec f).served = s.served := rfl
@[simp] theorem onSec_tenants (s : State) (f : Sec → Sec) : (s.onSec f).tenants = s.tenants := rfl
@[simp] theorem onSec_ports (s : State) (f : Sec → Sec) : (s.onSec f).ports = s.ports := rfl
@[simp] theorem onSec_slv (s : State) (f : Sec → Sec) : (s.onSec f).slv = s.slv := rfl
@[simp] theorem onSec_nvm (s : State) (f : Sec → Sec) : (s.onSec f).nvm = s.nvm := rfl
@[simp] theorem onSec_meters (s : State) (f : Sec → Sec) : (s.onSec f).meters = s.meters := rfl
@[simp] theorem onSec_lanes (s : State) (f : Sec → Sec) : (s.onSec f).lanes = s.lanes := rfl
@[simp] theorem onSec_phases (s : State) (f : Sec → Sec) : (s.onSec f).phases = s.phases := rfl
@[simp] theorem onSec_bays (s : State) (f : Sec → Sec) : (s.onSec f).bays = s.bays := rfl
@[simp] theorem onSec_segs (s : State) (f : Sec → Sec) : (s.onSec f).segs = s.segs := rfl
@[simp] theorem onSec_pwm (s : State) (f : Sec → Sec) : (s.onSec f).pwm = s.pwm := rfl
@[simp] theorem onSec_power (s : State) (f : Sec → Sec) : (s.onSec f).power = s.power := rfl
@[simp] theorem onSec_rtrLive (s : State) (f : Sec → Sec) : (s.onSec f).rtrLive = s.rtrLive := rfl
@[simp] theorem onSec_refSeen (s : State) (f : Sec → Sec) : (s.onSec f).refSeen = s.refSeen := rfl
@[simp] theorem onSec_refRun (s : State) (f : Sec → Sec) : (s.onSec f).refRun = s.refRun := rfl
@[simp] theorem onSec_refOut (s : State) (f : Sec → Sec) : (s.onSec f).refOut = s.refOut := rfl
@[simp] theorem onSec_refOn (s : State) (f : Sec → Sec) : (s.onSec f).refOn = s.refOn := rfl
@[simp] theorem onSec_timers (s : State) (f : Sec → Sec) : (s.onSec f).timers = s.timers := rfl
@[simp] theorem onSec_tioDrv (s : State) (f : Sec → Sec) : (s.onSec f).tioDrv = s.tioDrv := rfl
@[simp] theorem onSec_portM (s : State) (f : Sec → Sec) : (s.onSec f).portM = s.portM := rfl
@[simp] theorem onSec_tokenQ (s : State) (f : Sec → Sec) : (s.onSec f).tokenQ = s.tokenQ := rfl
@[simp] theorem onSec_lastGrant (s : State) (f : Sec → Sec) : (s.onSec f).lastGrant = s.lastGrant := rfl
@[simp] theorem onSec_reg (s : State) (f : Sec → Sec) (r : Reg) (i : Nat) : (s.onSec f).reg r i = s.reg r i := rfl
@[simp] theorem onSec_rd (s : State) (f : Sec → Sec) (g : Field) (i : Nat) : (s.onSec f).rd g i = s.rd g i := rfl
@[simp] theorem onSec_rdS (s : State) (f : Sec → Sec) (g : Field) (i : Nat) : (s.onSec f).rdS g i = s.rdS g i := rfl
@[simp] theorem onSec_flag (s : State) (f : Sec → Sec) (g : Field) (i : Nat) : (s.onSec f).flag g i = s.flag g i := rfl
@[simp] theorem onSec_rdBit (s : State) (f : Sec → Sec) (g : Field) (k i : Nat) : (s.onSec f).rdBit g k i = s.rdBit g k i := rfl

@[simp] theorem onPort_pending (s : State) (n : Nat) (f : Port → Port) : (s.onPort n f).pending = s.pending := rfl
@[simp] theorem onPort_regs (s : State) (n : Nat) (f : Port → Port) : (s.onPort n f).regs = s.regs := rfl
@[simp] theorem onPort_tb (s : State) (n : Nat) (f : Port → Port) : (s.onPort n f).tb = s.tb := rfl
@[simp] theorem onPort_free (s : State) (n : Nat) (f : Port → Port) : (s.onPort n f).free = s.free := rfl
@[simp] theorem onPort_outs (s : State) (n : Nat) (f : Port → Port) : (s.onPort n f).outs = s.outs := rfl
@[simp] theorem onPort_waits (s : State) (n : Nat) (f : Port → Port) : (s.onPort n f).waits = s.waits := rfl
@[simp] theorem onPort_supOut (s : State) (n : Nat) (f : Port → Port) : (s.onPort n f).supOut = s.supOut := rfl
@[simp] theorem onPort_supRes (s : State) (n : Nat) (f : Port → Port) : (s.onPort n f).supRes = s.supRes := rfl
@[simp] theorem onPort_supBad (s : State) (n : Nat) (f : Port → Port) : (s.onPort n f).supBad = s.supBad := rfl
@[simp] theorem onPort_served (s : State) (n : Nat) (f : Port → Port) : (s.onPort n f).served = s.served := rfl
@[simp] theorem onPort_tenants (s : State) (n : Nat) (f : Port → Port) : (s.onPort n f).tenants = s.tenants := rfl
@[simp] theorem onPort_sec (s : State) (n : Nat) (f : Port → Port) : (s.onPort n f).sec = s.sec := rfl
@[simp] theorem onPort_slv (s : State) (n : Nat) (f : Port → Port) : (s.onPort n f).slv = s.slv := rfl
@[simp] theorem onPort_nvm (s : State) (n : Nat) (f : Port → Port) : (s.onPort n f).nvm = s.nvm := rfl
@[simp] theorem onPort_meters (s : State) (n : Nat) (f : Port → Port) : (s.onPort n f).meters = s.meters := rfl
@[simp] theorem onPort_lanes (s : State) (n : Nat) (f : Port → Port) : (s.onPort n f).lanes = s.lanes := rfl
@[simp] theorem onPort_phases (s : State) (n : Nat) (f : Port → Port) : (s.onPort n f).phases = s.phases := rfl
@[simp] theorem onPort_bays (s : State) (n : Nat) (f : Port → Port) : (s.onPort n f).bays = s.bays := rfl
@[simp] theorem onPort_segs (s : State) (n : Nat) (f : Port → Port) : (s.onPort n f).segs = s.segs := rfl
@[simp] theorem onPort_pwm (s : State) (n : Nat) (f : Port → Port) : (s.onPort n f).pwm = s.pwm := rfl
@[simp] theorem onPort_power (s : State) (n : Nat) (f : Port → Port) : (s.onPort n f).power = s.power := rfl
@[simp] theorem onPort_rtrLive (s : State) (n : Nat) (f : Port → Port) : (s.onPort n f).rtrLive = s.rtrLive := rfl
@[simp] theorem onPort_refSeen (s : State) (n : Nat) (f : Port → Port) : (s.onPort n f).refSeen = s.refSeen := rfl
@[simp] theorem onPort_refRun (s : State) (n : Nat) (f : Port → Port) : (s.onPort n f).refRun = s.refRun := rfl
@[simp] theorem onPort_refOut (s : State) (n : Nat) (f : Port → Port) : (s.onPort n f).refOut = s.refOut := rfl
@[simp] theorem onPort_refOn (s : State) (n : Nat) (f : Port → Port) : (s.onPort n f).refOn = s.refOn := rfl
@[simp] theorem onPort_timers (s : State) (n : Nat) (f : Port → Port) : (s.onPort n f).timers = s.timers := rfl
@[simp] theorem onPort_tioDrv (s : State) (n : Nat) (f : Port → Port) : (s.onPort n f).tioDrv = s.tioDrv := rfl
@[simp] theorem onPort_portM (s : State) (n : Nat) (f : Port → Port) : (s.onPort n f).portM = s.portM := rfl
@[simp] theorem onPort_tokenQ (s : State) (n : Nat) (f : Port → Port) : (s.onPort n f).tokenQ = s.tokenQ := rfl
@[simp] theorem onPort_lastGrant (s : State) (n : Nat) (f : Port → Port) : (s.onPort n f).lastGrant = s.lastGrant := rfl
@[simp] theorem onPort_reg (s : State) (n : Nat) (f : Port → Port) (r : Reg) (i : Nat) : (s.onPort n f).reg r i = s.reg r i := rfl
@[simp] theorem onPort_rd (s : State) (n : Nat) (f : Port → Port) (g : Field) (i : Nat) : (s.onPort n f).rd g i = s.rd g i := rfl
@[simp] theorem onPort_rdS (s : State) (n : Nat) (f : Port → Port) (g : Field) (i : Nat) : (s.onPort n f).rdS g i = s.rdS g i := rfl
@[simp] theorem onPort_flag (s : State) (n : Nat) (f : Port → Port) (g : Field) (i : Nat) : (s.onPort n f).flag g i = s.flag g i := rfl
@[simp] theorem onPort_rdBit (s : State) (n : Nat) (f : Port → Port) (g : Field) (k i : Nat) : (s.onPort n f).rdBit g k i = s.rdBit g k i := rfl

theorem onPort_port (s : State) (n : Nat) (f : Port → Port) (h : n < 2) : (s.onPort n f).port n = f (s.port n) :=
  vget_vupd_same _ _ _ _ h
theorem onPort_port_ne (s : State) (n k : Nat) (f : Port → Port) (h : n ≠ k) : (s.onPort n f).port k = s.port k :=
  vget_vupd_ne _ _ _ _ _ h
@[simp] theorem onPh_pending (s : State) (n : Nat) (f : PhaseSt → PhaseSt) : (s.onPh n f).pending = s.pending := rfl
@[simp] theorem onPh_regs (s : State) (n : Nat) (f : PhaseSt → PhaseSt) : (s.onPh n f).regs = s.regs := rfl
@[simp] theorem onPh_tb (s : State) (n : Nat) (f : PhaseSt → PhaseSt) : (s.onPh n f).tb = s.tb := rfl
@[simp] theorem onPh_free (s : State) (n : Nat) (f : PhaseSt → PhaseSt) : (s.onPh n f).free = s.free := rfl
@[simp] theorem onPh_outs (s : State) (n : Nat) (f : PhaseSt → PhaseSt) : (s.onPh n f).outs = s.outs := rfl
@[simp] theorem onPh_waits (s : State) (n : Nat) (f : PhaseSt → PhaseSt) : (s.onPh n f).waits = s.waits := rfl
@[simp] theorem onPh_supOut (s : State) (n : Nat) (f : PhaseSt → PhaseSt) : (s.onPh n f).supOut = s.supOut := rfl
@[simp] theorem onPh_supRes (s : State) (n : Nat) (f : PhaseSt → PhaseSt) : (s.onPh n f).supRes = s.supRes := rfl
@[simp] theorem onPh_supBad (s : State) (n : Nat) (f : PhaseSt → PhaseSt) : (s.onPh n f).supBad = s.supBad := rfl
@[simp] theorem onPh_served (s : State) (n : Nat) (f : PhaseSt → PhaseSt) : (s.onPh n f).served = s.served := rfl
@[simp] theorem onPh_tenants (s : State) (n : Nat) (f : PhaseSt → PhaseSt) : (s.onPh n f).tenants = s.tenants := rfl
@[simp] theorem onPh_ports (s : State) (n : Nat) (f : PhaseSt → PhaseSt) : (s.onPh n f).ports = s.ports := rfl
@[simp] theorem onPh_sec (s : State) (n : Nat) (f : PhaseSt → PhaseSt) : (s.onPh n f).sec = s.sec := rfl
@[simp] theorem onPh_slv (s : State) (n : Nat) (f : PhaseSt → PhaseSt) : (s.onPh n f).slv = s.slv := rfl
@[simp] theorem onPh_nvm (s : State) (n : Nat) (f : PhaseSt → PhaseSt) : (s.onPh n f).nvm = s.nvm := rfl
@[simp] theorem onPh_meters (s : State) (n : Nat) (f : PhaseSt → PhaseSt) : (s.onPh n f).meters = s.meters := rfl
@[simp] theorem onPh_lanes (s : State) (n : Nat) (f : PhaseSt → PhaseSt) : (s.onPh n f).lanes = s.lanes := rfl
@[simp] theorem onPh_bays (s : State) (n : Nat) (f : PhaseSt → PhaseSt) : (s.onPh n f).bays = s.bays := rfl
@[simp] theorem onPh_segs (s : State) (n : Nat) (f : PhaseSt → PhaseSt) : (s.onPh n f).segs = s.segs := rfl
@[simp] theorem onPh_pwm (s : State) (n : Nat) (f : PhaseSt → PhaseSt) : (s.onPh n f).pwm = s.pwm := rfl
@[simp] theorem onPh_power (s : State) (n : Nat) (f : PhaseSt → PhaseSt) : (s.onPh n f).power = s.power := rfl
@[simp] theorem onPh_rtrLive (s : State) (n : Nat) (f : PhaseSt → PhaseSt) : (s.onPh n f).rtrLive = s.rtrLive := rfl
@[simp] theorem onPh_refSeen (s : State) (n : Nat) (f : PhaseSt → PhaseSt) : (s.onPh n f).refSeen = s.refSeen := rfl
@[simp] theorem onPh_refRun (s : State) (n : Nat) (f : PhaseSt → PhaseSt) : (s.onPh n f).refRun = s.refRun := rfl
@[simp] theorem onPh_refOut (s : State) (n : Nat) (f : PhaseSt → PhaseSt) : (s.onPh n f).refOut = s.refOut := rfl
@[simp] theorem onPh_refOn (s : State) (n : Nat) (f : PhaseSt → PhaseSt) : (s.onPh n f).refOn = s.refOn := rfl
@[simp] theorem onPh_timers (s : State) (n : Nat) (f : PhaseSt → PhaseSt) : (s.onPh n f).timers = s.timers := rfl
@[simp] theorem onPh_tioDrv (s : State) (n : Nat) (f : PhaseSt → PhaseSt) : (s.onPh n f).tioDrv = s.tioDrv := rfl
@[simp] theorem onPh_portM (s : State) (n : Nat) (f : PhaseSt → PhaseSt) : (s.onPh n f).portM = s.portM := rfl
@[simp] theorem onPh_tokenQ (s : State) (n : Nat) (f : PhaseSt → PhaseSt) : (s.onPh n f).tokenQ = s.tokenQ := rfl
@[simp] theorem onPh_lastGrant (s : State) (n : Nat) (f : PhaseSt → PhaseSt) : (s.onPh n f).lastGrant = s.lastGrant := rfl
@[simp] theorem onPh_reg (s : State) (n : Nat) (f : PhaseSt → PhaseSt) (r : Reg) (i : Nat) : (s.onPh n f).reg r i = s.reg r i := rfl
@[simp] theorem onPh_rd (s : State) (n : Nat) (f : PhaseSt → PhaseSt) (g : Field) (i : Nat) : (s.onPh n f).rd g i = s.rd g i := rfl
@[simp] theorem onPh_rdS (s : State) (n : Nat) (f : PhaseSt → PhaseSt) (g : Field) (i : Nat) : (s.onPh n f).rdS g i = s.rdS g i := rfl
@[simp] theorem onPh_flag (s : State) (n : Nat) (f : PhaseSt → PhaseSt) (g : Field) (i : Nat) : (s.onPh n f).flag g i = s.flag g i := rfl
@[simp] theorem onPh_rdBit (s : State) (n : Nat) (f : PhaseSt → PhaseSt) (g : Field) (k i : Nat) : (s.onPh n f).rdBit g k i = s.rdBit g k i := rfl

theorem onPh_ph (s : State) (n : Nat) (f : PhaseSt → PhaseSt) (h : n < 192) : (s.onPh n f).ph n = f (s.ph n) :=
  vget_vupd_same _ _ _ _ h
theorem onPh_ph_ne (s : State) (n k : Nat) (f : PhaseSt → PhaseSt) (h : n ≠ k) : (s.onPh n f).ph k = s.ph k :=
  vget_vupd_ne _ _ _ _ _ h
@[simp] theorem onSeg_pending (s : State) (n : Nat) (f : SegSt → SegSt) : (s.onSeg n f).pending = s.pending := rfl
@[simp] theorem onSeg_regs (s : State) (n : Nat) (f : SegSt → SegSt) : (s.onSeg n f).regs = s.regs := rfl
@[simp] theorem onSeg_tb (s : State) (n : Nat) (f : SegSt → SegSt) : (s.onSeg n f).tb = s.tb := rfl
@[simp] theorem onSeg_free (s : State) (n : Nat) (f : SegSt → SegSt) : (s.onSeg n f).free = s.free := rfl
@[simp] theorem onSeg_outs (s : State) (n : Nat) (f : SegSt → SegSt) : (s.onSeg n f).outs = s.outs := rfl
@[simp] theorem onSeg_waits (s : State) (n : Nat) (f : SegSt → SegSt) : (s.onSeg n f).waits = s.waits := rfl
@[simp] theorem onSeg_supOut (s : State) (n : Nat) (f : SegSt → SegSt) : (s.onSeg n f).supOut = s.supOut := rfl
@[simp] theorem onSeg_supRes (s : State) (n : Nat) (f : SegSt → SegSt) : (s.onSeg n f).supRes = s.supRes := rfl
@[simp] theorem onSeg_supBad (s : State) (n : Nat) (f : SegSt → SegSt) : (s.onSeg n f).supBad = s.supBad := rfl
@[simp] theorem onSeg_served (s : State) (n : Nat) (f : SegSt → SegSt) : (s.onSeg n f).served = s.served := rfl
@[simp] theorem onSeg_tenants (s : State) (n : Nat) (f : SegSt → SegSt) : (s.onSeg n f).tenants = s.tenants := rfl
@[simp] theorem onSeg_ports (s : State) (n : Nat) (f : SegSt → SegSt) : (s.onSeg n f).ports = s.ports := rfl
@[simp] theorem onSeg_sec (s : State) (n : Nat) (f : SegSt → SegSt) : (s.onSeg n f).sec = s.sec := rfl
@[simp] theorem onSeg_slv (s : State) (n : Nat) (f : SegSt → SegSt) : (s.onSeg n f).slv = s.slv := rfl
@[simp] theorem onSeg_nvm (s : State) (n : Nat) (f : SegSt → SegSt) : (s.onSeg n f).nvm = s.nvm := rfl
@[simp] theorem onSeg_meters (s : State) (n : Nat) (f : SegSt → SegSt) : (s.onSeg n f).meters = s.meters := rfl
@[simp] theorem onSeg_lanes (s : State) (n : Nat) (f : SegSt → SegSt) : (s.onSeg n f).lanes = s.lanes := rfl
@[simp] theorem onSeg_phases (s : State) (n : Nat) (f : SegSt → SegSt) : (s.onSeg n f).phases = s.phases := rfl
@[simp] theorem onSeg_bays (s : State) (n : Nat) (f : SegSt → SegSt) : (s.onSeg n f).bays = s.bays := rfl
@[simp] theorem onSeg_pwm (s : State) (n : Nat) (f : SegSt → SegSt) : (s.onSeg n f).pwm = s.pwm := rfl
@[simp] theorem onSeg_power (s : State) (n : Nat) (f : SegSt → SegSt) : (s.onSeg n f).power = s.power := rfl
@[simp] theorem onSeg_rtrLive (s : State) (n : Nat) (f : SegSt → SegSt) : (s.onSeg n f).rtrLive = s.rtrLive := rfl
@[simp] theorem onSeg_refSeen (s : State) (n : Nat) (f : SegSt → SegSt) : (s.onSeg n f).refSeen = s.refSeen := rfl
@[simp] theorem onSeg_refRun (s : State) (n : Nat) (f : SegSt → SegSt) : (s.onSeg n f).refRun = s.refRun := rfl
@[simp] theorem onSeg_refOut (s : State) (n : Nat) (f : SegSt → SegSt) : (s.onSeg n f).refOut = s.refOut := rfl
@[simp] theorem onSeg_refOn (s : State) (n : Nat) (f : SegSt → SegSt) : (s.onSeg n f).refOn = s.refOn := rfl
@[simp] theorem onSeg_timers (s : State) (n : Nat) (f : SegSt → SegSt) : (s.onSeg n f).timers = s.timers := rfl
@[simp] theorem onSeg_tioDrv (s : State) (n : Nat) (f : SegSt → SegSt) : (s.onSeg n f).tioDrv = s.tioDrv := rfl
@[simp] theorem onSeg_portM (s : State) (n : Nat) (f : SegSt → SegSt) : (s.onSeg n f).portM = s.portM := rfl
@[simp] theorem onSeg_tokenQ (s : State) (n : Nat) (f : SegSt → SegSt) : (s.onSeg n f).tokenQ = s.tokenQ := rfl
@[simp] theorem onSeg_lastGrant (s : State) (n : Nat) (f : SegSt → SegSt) : (s.onSeg n f).lastGrant = s.lastGrant := rfl
@[simp] theorem onSeg_reg (s : State) (n : Nat) (f : SegSt → SegSt) (r : Reg) (i : Nat) : (s.onSeg n f).reg r i = s.reg r i := rfl
@[simp] theorem onSeg_rd (s : State) (n : Nat) (f : SegSt → SegSt) (g : Field) (i : Nat) : (s.onSeg n f).rd g i = s.rd g i := rfl
@[simp] theorem onSeg_rdS (s : State) (n : Nat) (f : SegSt → SegSt) (g : Field) (i : Nat) : (s.onSeg n f).rdS g i = s.rdS g i := rfl
@[simp] theorem onSeg_flag (s : State) (n : Nat) (f : SegSt → SegSt) (g : Field) (i : Nat) : (s.onSeg n f).flag g i = s.flag g i := rfl
@[simp] theorem onSeg_rdBit (s : State) (n : Nat) (f : SegSt → SegSt) (g : Field) (k i : Nat) : (s.onSeg n f).rdBit g k i = s.rdBit g k i := rfl

theorem onSeg_seg (s : State) (n : Nat) (f : SegSt → SegSt) (h : n < 4) : (s.onSeg n f).seg n = f (s.seg n) :=
  vget_vupd_same _ _ _ _ h
theorem onSeg_seg_ne (s : State) (n k : Nat) (f : SegSt → SegSt) (h : n ≠ k) : (s.onSeg n f).seg k = s.seg k :=
  vget_vupd_ne _ _ _ _ _ h
@[simp] theorem onLane_pending (s : State) (n : Nat) (f : LaneSt → LaneSt) : (s.onLane n f).pending = s.pending := rfl
@[simp] theorem onLane_regs (s : State) (n : Nat) (f : LaneSt → LaneSt) : (s.onLane n f).regs = s.regs := rfl
@[simp] theorem onLane_tb (s : State) (n : Nat) (f : LaneSt → LaneSt) : (s.onLane n f).tb = s.tb := rfl
@[simp] theorem onLane_free (s : State) (n : Nat) (f : LaneSt → LaneSt) : (s.onLane n f).free = s.free := rfl
@[simp] theorem onLane_outs (s : State) (n : Nat) (f : LaneSt → LaneSt) : (s.onLane n f).outs = s.outs := rfl
@[simp] theorem onLane_waits (s : State) (n : Nat) (f : LaneSt → LaneSt) : (s.onLane n f).waits = s.waits := rfl
@[simp] theorem onLane_supOut (s : State) (n : Nat) (f : LaneSt → LaneSt) : (s.onLane n f).supOut = s.supOut := rfl
@[simp] theorem onLane_supRes (s : State) (n : Nat) (f : LaneSt → LaneSt) : (s.onLane n f).supRes = s.supRes := rfl
@[simp] theorem onLane_supBad (s : State) (n : Nat) (f : LaneSt → LaneSt) : (s.onLane n f).supBad = s.supBad := rfl
@[simp] theorem onLane_served (s : State) (n : Nat) (f : LaneSt → LaneSt) : (s.onLane n f).served = s.served := rfl
@[simp] theorem onLane_tenants (s : State) (n : Nat) (f : LaneSt → LaneSt) : (s.onLane n f).tenants = s.tenants := rfl
@[simp] theorem onLane_ports (s : State) (n : Nat) (f : LaneSt → LaneSt) : (s.onLane n f).ports = s.ports := rfl
@[simp] theorem onLane_sec (s : State) (n : Nat) (f : LaneSt → LaneSt) : (s.onLane n f).sec = s.sec := rfl
@[simp] theorem onLane_slv (s : State) (n : Nat) (f : LaneSt → LaneSt) : (s.onLane n f).slv = s.slv := rfl
@[simp] theorem onLane_nvm (s : State) (n : Nat) (f : LaneSt → LaneSt) : (s.onLane n f).nvm = s.nvm := rfl
@[simp] theorem onLane_meters (s : State) (n : Nat) (f : LaneSt → LaneSt) : (s.onLane n f).meters = s.meters := rfl
@[simp] theorem onLane_phases (s : State) (n : Nat) (f : LaneSt → LaneSt) : (s.onLane n f).phases = s.phases := rfl
@[simp] theorem onLane_bays (s : State) (n : Nat) (f : LaneSt → LaneSt) : (s.onLane n f).bays = s.bays := rfl
@[simp] theorem onLane_segs (s : State) (n : Nat) (f : LaneSt → LaneSt) : (s.onLane n f).segs = s.segs := rfl
@[simp] theorem onLane_pwm (s : State) (n : Nat) (f : LaneSt → LaneSt) : (s.onLane n f).pwm = s.pwm := rfl
@[simp] theorem onLane_power (s : State) (n : Nat) (f : LaneSt → LaneSt) : (s.onLane n f).power = s.power := rfl
@[simp] theorem onLane_rtrLive (s : State) (n : Nat) (f : LaneSt → LaneSt) : (s.onLane n f).rtrLive = s.rtrLive := rfl
@[simp] theorem onLane_refSeen (s : State) (n : Nat) (f : LaneSt → LaneSt) : (s.onLane n f).refSeen = s.refSeen := rfl
@[simp] theorem onLane_refRun (s : State) (n : Nat) (f : LaneSt → LaneSt) : (s.onLane n f).refRun = s.refRun := rfl
@[simp] theorem onLane_refOut (s : State) (n : Nat) (f : LaneSt → LaneSt) : (s.onLane n f).refOut = s.refOut := rfl
@[simp] theorem onLane_refOn (s : State) (n : Nat) (f : LaneSt → LaneSt) : (s.onLane n f).refOn = s.refOn := rfl
@[simp] theorem onLane_timers (s : State) (n : Nat) (f : LaneSt → LaneSt) : (s.onLane n f).timers = s.timers := rfl
@[simp] theorem onLane_tioDrv (s : State) (n : Nat) (f : LaneSt → LaneSt) : (s.onLane n f).tioDrv = s.tioDrv := rfl
@[simp] theorem onLane_portM (s : State) (n : Nat) (f : LaneSt → LaneSt) : (s.onLane n f).portM = s.portM := rfl
@[simp] theorem onLane_tokenQ (s : State) (n : Nat) (f : LaneSt → LaneSt) : (s.onLane n f).tokenQ = s.tokenQ := rfl
@[simp] theorem onLane_lastGrant (s : State) (n : Nat) (f : LaneSt → LaneSt) : (s.onLane n f).lastGrant = s.lastGrant := rfl
@[simp] theorem onLane_reg (s : State) (n : Nat) (f : LaneSt → LaneSt) (r : Reg) (i : Nat) : (s.onLane n f).reg r i = s.reg r i := rfl
@[simp] theorem onLane_rd (s : State) (n : Nat) (f : LaneSt → LaneSt) (g : Field) (i : Nat) : (s.onLane n f).rd g i = s.rd g i := rfl
@[simp] theorem onLane_rdS (s : State) (n : Nat) (f : LaneSt → LaneSt) (g : Field) (i : Nat) : (s.onLane n f).rdS g i = s.rdS g i := rfl
@[simp] theorem onLane_flag (s : State) (n : Nat) (f : LaneSt → LaneSt) (g : Field) (i : Nat) : (s.onLane n f).flag g i = s.flag g i := rfl
@[simp] theorem onLane_rdBit (s : State) (n : Nat) (f : LaneSt → LaneSt) (g : Field) (k i : Nat) : (s.onLane n f).rdBit g k i = s.rdBit g k i := rfl

theorem onLane_lane (s : State) (n : Nat) (f : LaneSt → LaneSt) (h : n < 48) : (s.onLane n f).lane n = f (s.lane n) :=
  vget_vupd_same _ _ _ _ h
theorem onLane_lane_ne (s : State) (n k : Nat) (f : LaneSt → LaneSt) (h : n ≠ k) : (s.onLane n f).lane k = s.lane k :=
  vget_vupd_ne _ _ _ _ _ h
@[simp] theorem onTenant_pending (s : State) (n : Nat) (f : TenantSt → TenantSt) : (s.onTenant n f).pending = s.pending := rfl
@[simp] theorem onTenant_regs (s : State) (n : Nat) (f : TenantSt → TenantSt) : (s.onTenant n f).regs = s.regs := rfl
@[simp] theorem onTenant_tb (s : State) (n : Nat) (f : TenantSt → TenantSt) : (s.onTenant n f).tb = s.tb := rfl
@[simp] theorem onTenant_free (s : State) (n : Nat) (f : TenantSt → TenantSt) : (s.onTenant n f).free = s.free := rfl
@[simp] theorem onTenant_outs (s : State) (n : Nat) (f : TenantSt → TenantSt) : (s.onTenant n f).outs = s.outs := rfl
@[simp] theorem onTenant_waits (s : State) (n : Nat) (f : TenantSt → TenantSt) : (s.onTenant n f).waits = s.waits := rfl
@[simp] theorem onTenant_supOut (s : State) (n : Nat) (f : TenantSt → TenantSt) : (s.onTenant n f).supOut = s.supOut := rfl
@[simp] theorem onTenant_supRes (s : State) (n : Nat) (f : TenantSt → TenantSt) : (s.onTenant n f).supRes = s.supRes := rfl
@[simp] theorem onTenant_supBad (s : State) (n : Nat) (f : TenantSt → TenantSt) : (s.onTenant n f).supBad = s.supBad := rfl
@[simp] theorem onTenant_served (s : State) (n : Nat) (f : TenantSt → TenantSt) : (s.onTenant n f).served = s.served := rfl
@[simp] theorem onTenant_ports (s : State) (n : Nat) (f : TenantSt → TenantSt) : (s.onTenant n f).ports = s.ports := rfl
@[simp] theorem onTenant_sec (s : State) (n : Nat) (f : TenantSt → TenantSt) : (s.onTenant n f).sec = s.sec := rfl
@[simp] theorem onTenant_slv (s : State) (n : Nat) (f : TenantSt → TenantSt) : (s.onTenant n f).slv = s.slv := rfl
@[simp] theorem onTenant_nvm (s : State) (n : Nat) (f : TenantSt → TenantSt) : (s.onTenant n f).nvm = s.nvm := rfl
@[simp] theorem onTenant_meters (s : State) (n : Nat) (f : TenantSt → TenantSt) : (s.onTenant n f).meters = s.meters := rfl
@[simp] theorem onTenant_lanes (s : State) (n : Nat) (f : TenantSt → TenantSt) : (s.onTenant n f).lanes = s.lanes := rfl
@[simp] theorem onTenant_phases (s : State) (n : Nat) (f : TenantSt → TenantSt) : (s.onTenant n f).phases = s.phases := rfl
@[simp] theorem onTenant_bays (s : State) (n : Nat) (f : TenantSt → TenantSt) : (s.onTenant n f).bays = s.bays := rfl
@[simp] theorem onTenant_segs (s : State) (n : Nat) (f : TenantSt → TenantSt) : (s.onTenant n f).segs = s.segs := rfl
@[simp] theorem onTenant_pwm (s : State) (n : Nat) (f : TenantSt → TenantSt) : (s.onTenant n f).pwm = s.pwm := rfl
@[simp] theorem onTenant_power (s : State) (n : Nat) (f : TenantSt → TenantSt) : (s.onTenant n f).power = s.power := rfl
@[simp] theorem onTenant_rtrLive (s : State) (n : Nat) (f : TenantSt → TenantSt) : (s.onTenant n f).rtrLive = s.rtrLive := rfl
@[simp] theorem onTenant_refSeen (s : State) (n : Nat) (f : TenantSt → TenantSt) : (s.onTenant n f).refSeen = s.refSeen := rfl
@[simp] theorem onTenant_refRun (s : State) (n : Nat) (f : TenantSt → TenantSt) : (s.onTenant n f).refRun = s.refRun := rfl
@[simp] theorem onTenant_refOut (s : State) (n : Nat) (f : TenantSt → TenantSt) : (s.onTenant n f).refOut = s.refOut := rfl
@[simp] theorem onTenant_refOn (s : State) (n : Nat) (f : TenantSt → TenantSt) : (s.onTenant n f).refOn = s.refOn := rfl
@[simp] theorem onTenant_timers (s : State) (n : Nat) (f : TenantSt → TenantSt) : (s.onTenant n f).timers = s.timers := rfl
@[simp] theorem onTenant_tioDrv (s : State) (n : Nat) (f : TenantSt → TenantSt) : (s.onTenant n f).tioDrv = s.tioDrv := rfl
@[simp] theorem onTenant_portM (s : State) (n : Nat) (f : TenantSt → TenantSt) : (s.onTenant n f).portM = s.portM := rfl
@[simp] theorem onTenant_tokenQ (s : State) (n : Nat) (f : TenantSt → TenantSt) : (s.onTenant n f).tokenQ = s.tokenQ := rfl
@[simp] theorem onTenant_lastGrant (s : State) (n : Nat) (f : TenantSt → TenantSt) : (s.onTenant n f).lastGrant = s.lastGrant := rfl
@[simp] theorem onTenant_reg (s : State) (n : Nat) (f : TenantSt → TenantSt) (r : Reg) (i : Nat) : (s.onTenant n f).reg r i = s.reg r i := rfl
@[simp] theorem onTenant_rd (s : State) (n : Nat) (f : TenantSt → TenantSt) (g : Field) (i : Nat) : (s.onTenant n f).rd g i = s.rd g i := rfl
@[simp] theorem onTenant_rdS (s : State) (n : Nat) (f : TenantSt → TenantSt) (g : Field) (i : Nat) : (s.onTenant n f).rdS g i = s.rdS g i := rfl
@[simp] theorem onTenant_flag (s : State) (n : Nat) (f : TenantSt → TenantSt) (g : Field) (i : Nat) : (s.onTenant n f).flag g i = s.flag g i := rfl
@[simp] theorem onTenant_rdBit (s : State) (n : Nat) (f : TenantSt → TenantSt) (g : Field) (k i : Nat) : (s.onTenant n f).rdBit g k i = s.rdBit g k i := rfl

theorem onTenant_tenant (s : State) (n : Nat) (f : TenantSt → TenantSt) (h : n < 8) : (s.onTenant n f).tenant n = f (s.tenant n) :=
  vget_vupd_same _ _ _ _ h
theorem onTenant_tenant_ne (s : State) (n k : Nat) (f : TenantSt → TenantSt) (h : n ≠ k) : (s.onTenant n f).tenant k = s.tenant k :=
  vget_vupd_ne _ _ _ _ _ h
@[simp] theorem onMeter_pending (s : State) (n : Nat) (f : Meter → Meter) : (s.onMeter n f).pending = s.pending := rfl
@[simp] theorem onMeter_regs (s : State) (n : Nat) (f : Meter → Meter) : (s.onMeter n f).regs = s.regs := rfl
@[simp] theorem onMeter_tb (s : State) (n : Nat) (f : Meter → Meter) : (s.onMeter n f).tb = s.tb := rfl
@[simp] theorem onMeter_free (s : State) (n : Nat) (f : Meter → Meter) : (s.onMeter n f).free = s.free := rfl
@[simp] theorem onMeter_outs (s : State) (n : Nat) (f : Meter → Meter) : (s.onMeter n f).outs = s.outs := rfl
@[simp] theorem onMeter_waits (s : State) (n : Nat) (f : Meter → Meter) : (s.onMeter n f).waits = s.waits := rfl
@[simp] theorem onMeter_supOut (s : State) (n : Nat) (f : Meter → Meter) : (s.onMeter n f).supOut = s.supOut := rfl
@[simp] theorem onMeter_supRes (s : State) (n : Nat) (f : Meter → Meter) : (s.onMeter n f).supRes = s.supRes := rfl
@[simp] theorem onMeter_supBad (s : State) (n : Nat) (f : Meter → Meter) : (s.onMeter n f).supBad = s.supBad := rfl
@[simp] theorem onMeter_served (s : State) (n : Nat) (f : Meter → Meter) : (s.onMeter n f).served = s.served := rfl
@[simp] theorem onMeter_tenants (s : State) (n : Nat) (f : Meter → Meter) : (s.onMeter n f).tenants = s.tenants := rfl
@[simp] theorem onMeter_ports (s : State) (n : Nat) (f : Meter → Meter) : (s.onMeter n f).ports = s.ports := rfl
@[simp] theorem onMeter_sec (s : State) (n : Nat) (f : Meter → Meter) : (s.onMeter n f).sec = s.sec := rfl
@[simp] theorem onMeter_slv (s : State) (n : Nat) (f : Meter → Meter) : (s.onMeter n f).slv = s.slv := rfl
@[simp] theorem onMeter_nvm (s : State) (n : Nat) (f : Meter → Meter) : (s.onMeter n f).nvm = s.nvm := rfl
@[simp] theorem onMeter_lanes (s : State) (n : Nat) (f : Meter → Meter) : (s.onMeter n f).lanes = s.lanes := rfl
@[simp] theorem onMeter_phases (s : State) (n : Nat) (f : Meter → Meter) : (s.onMeter n f).phases = s.phases := rfl
@[simp] theorem onMeter_bays (s : State) (n : Nat) (f : Meter → Meter) : (s.onMeter n f).bays = s.bays := rfl
@[simp] theorem onMeter_segs (s : State) (n : Nat) (f : Meter → Meter) : (s.onMeter n f).segs = s.segs := rfl
@[simp] theorem onMeter_pwm (s : State) (n : Nat) (f : Meter → Meter) : (s.onMeter n f).pwm = s.pwm := rfl
@[simp] theorem onMeter_power (s : State) (n : Nat) (f : Meter → Meter) : (s.onMeter n f).power = s.power := rfl
@[simp] theorem onMeter_rtrLive (s : State) (n : Nat) (f : Meter → Meter) : (s.onMeter n f).rtrLive = s.rtrLive := rfl
@[simp] theorem onMeter_refSeen (s : State) (n : Nat) (f : Meter → Meter) : (s.onMeter n f).refSeen = s.refSeen := rfl
@[simp] theorem onMeter_refRun (s : State) (n : Nat) (f : Meter → Meter) : (s.onMeter n f).refRun = s.refRun := rfl
@[simp] theorem onMeter_refOut (s : State) (n : Nat) (f : Meter → Meter) : (s.onMeter n f).refOut = s.refOut := rfl
@[simp] theorem onMeter_refOn (s : State) (n : Nat) (f : Meter → Meter) : (s.onMeter n f).refOn = s.refOn := rfl
@[simp] theorem onMeter_timers (s : State) (n : Nat) (f : Meter → Meter) : (s.onMeter n f).timers = s.timers := rfl
@[simp] theorem onMeter_tioDrv (s : State) (n : Nat) (f : Meter → Meter) : (s.onMeter n f).tioDrv = s.tioDrv := rfl
@[simp] theorem onMeter_portM (s : State) (n : Nat) (f : Meter → Meter) : (s.onMeter n f).portM = s.portM := rfl
@[simp] theorem onMeter_tokenQ (s : State) (n : Nat) (f : Meter → Meter) : (s.onMeter n f).tokenQ = s.tokenQ := rfl
@[simp] theorem onMeter_lastGrant (s : State) (n : Nat) (f : Meter → Meter) : (s.onMeter n f).lastGrant = s.lastGrant := rfl
@[simp] theorem onMeter_reg (s : State) (n : Nat) (f : Meter → Meter) (r : Reg) (i : Nat) : (s.onMeter n f).reg r i = s.reg r i := rfl
@[simp] theorem onMeter_rd (s : State) (n : Nat) (f : Meter → Meter) (g : Field) (i : Nat) : (s.onMeter n f).rd g i = s.rd g i := rfl
@[simp] theorem onMeter_rdS (s : State) (n : Nat) (f : Meter → Meter) (g : Field) (i : Nat) : (s.onMeter n f).rdS g i = s.rdS g i := rfl
@[simp] theorem onMeter_flag (s : State) (n : Nat) (f : Meter → Meter) (g : Field) (i : Nat) : (s.onMeter n f).flag g i = s.flag g i := rfl
@[simp] theorem onMeter_rdBit (s : State) (n : Nat) (f : Meter → Meter) (g : Field) (k i : Nat) : (s.onMeter n f).rdBit g k i = s.rdBit g k i := rfl

theorem onMeter_meter (s : State) (n : Nat) (f : Meter → Meter) (h : n < 48) : (s.onMeter n f).meter n = f (s.meter n) :=
  vget_vupd_same _ _ _ _ h
theorem onMeter_meter_ne (s : State) (n k : Nat) (f : Meter → Meter) (h : n ≠ k) : (s.onMeter n f).meter k = s.meter k :=
  vget_vupd_ne _ _ _ _ _ h
@[simp] theorem onBay_pending (s : State) (n : Nat) (f : BaySt → BaySt) : (s.onBay n f).pending = s.pending := rfl
@[simp] theorem onBay_regs (s : State) (n : Nat) (f : BaySt → BaySt) : (s.onBay n f).regs = s.regs := rfl
@[simp] theorem onBay_tb (s : State) (n : Nat) (f : BaySt → BaySt) : (s.onBay n f).tb = s.tb := rfl
@[simp] theorem onBay_free (s : State) (n : Nat) (f : BaySt → BaySt) : (s.onBay n f).free = s.free := rfl
@[simp] theorem onBay_outs (s : State) (n : Nat) (f : BaySt → BaySt) : (s.onBay n f).outs = s.outs := rfl
@[simp] theorem onBay_waits (s : State) (n : Nat) (f : BaySt → BaySt) : (s.onBay n f).waits = s.waits := rfl
@[simp] theorem onBay_supOut (s : State) (n : Nat) (f : BaySt → BaySt) : (s.onBay n f).supOut = s.supOut := rfl
@[simp] theorem onBay_supRes (s : State) (n : Nat) (f : BaySt → BaySt) : (s.onBay n f).supRes = s.supRes := rfl
@[simp] theorem onBay_supBad (s : State) (n : Nat) (f : BaySt → BaySt) : (s.onBay n f).supBad = s.supBad := rfl
@[simp] theorem onBay_served (s : State) (n : Nat) (f : BaySt → BaySt) : (s.onBay n f).served = s.served := rfl
@[simp] theorem onBay_tenants (s : State) (n : Nat) (f : BaySt → BaySt) : (s.onBay n f).tenants = s.tenants := rfl
@[simp] theorem onBay_ports (s : State) (n : Nat) (f : BaySt → BaySt) : (s.onBay n f).ports = s.ports := rfl
@[simp] theorem onBay_sec (s : State) (n : Nat) (f : BaySt → BaySt) : (s.onBay n f).sec = s.sec := rfl
@[simp] theorem onBay_slv (s : State) (n : Nat) (f : BaySt → BaySt) : (s.onBay n f).slv = s.slv := rfl
@[simp] theorem onBay_nvm (s : State) (n : Nat) (f : BaySt → BaySt) : (s.onBay n f).nvm = s.nvm := rfl
@[simp] theorem onBay_meters (s : State) (n : Nat) (f : BaySt → BaySt) : (s.onBay n f).meters = s.meters := rfl
@[simp] theorem onBay_lanes (s : State) (n : Nat) (f : BaySt → BaySt) : (s.onBay n f).lanes = s.lanes := rfl
@[simp] theorem onBay_phases (s : State) (n : Nat) (f : BaySt → BaySt) : (s.onBay n f).phases = s.phases := rfl
@[simp] theorem onBay_segs (s : State) (n : Nat) (f : BaySt → BaySt) : (s.onBay n f).segs = s.segs := rfl
@[simp] theorem onBay_pwm (s : State) (n : Nat) (f : BaySt → BaySt) : (s.onBay n f).pwm = s.pwm := rfl
@[simp] theorem onBay_power (s : State) (n : Nat) (f : BaySt → BaySt) : (s.onBay n f).power = s.power := rfl
@[simp] theorem onBay_rtrLive (s : State) (n : Nat) (f : BaySt → BaySt) : (s.onBay n f).rtrLive = s.rtrLive := rfl
@[simp] theorem onBay_refSeen (s : State) (n : Nat) (f : BaySt → BaySt) : (s.onBay n f).refSeen = s.refSeen := rfl
@[simp] theorem onBay_refRun (s : State) (n : Nat) (f : BaySt → BaySt) : (s.onBay n f).refRun = s.refRun := rfl
@[simp] theorem onBay_refOut (s : State) (n : Nat) (f : BaySt → BaySt) : (s.onBay n f).refOut = s.refOut := rfl
@[simp] theorem onBay_refOn (s : State) (n : Nat) (f : BaySt → BaySt) : (s.onBay n f).refOn = s.refOn := rfl
@[simp] theorem onBay_timers (s : State) (n : Nat) (f : BaySt → BaySt) : (s.onBay n f).timers = s.timers := rfl
@[simp] theorem onBay_tioDrv (s : State) (n : Nat) (f : BaySt → BaySt) : (s.onBay n f).tioDrv = s.tioDrv := rfl
@[simp] theorem onBay_portM (s : State) (n : Nat) (f : BaySt → BaySt) : (s.onBay n f).portM = s.portM := rfl
@[simp] theorem onBay_tokenQ (s : State) (n : Nat) (f : BaySt → BaySt) : (s.onBay n f).tokenQ = s.tokenQ := rfl
@[simp] theorem onBay_lastGrant (s : State) (n : Nat) (f : BaySt → BaySt) : (s.onBay n f).lastGrant = s.lastGrant := rfl
@[simp] theorem onBay_reg (s : State) (n : Nat) (f : BaySt → BaySt) (r : Reg) (i : Nat) : (s.onBay n f).reg r i = s.reg r i := rfl
@[simp] theorem onBay_rd (s : State) (n : Nat) (f : BaySt → BaySt) (g : Field) (i : Nat) : (s.onBay n f).rd g i = s.rd g i := rfl
@[simp] theorem onBay_rdS (s : State) (n : Nat) (f : BaySt → BaySt) (g : Field) (i : Nat) : (s.onBay n f).rdS g i = s.rdS g i := rfl
@[simp] theorem onBay_flag (s : State) (n : Nat) (f : BaySt → BaySt) (g : Field) (i : Nat) : (s.onBay n f).flag g i = s.flag g i := rfl
@[simp] theorem onBay_rdBit (s : State) (n : Nat) (f : BaySt → BaySt) (g : Field) (k i : Nat) : (s.onBay n f).rdBit g k i = s.rdBit g k i := rfl

theorem onBay_bay (s : State) (n : Nat) (f : BaySt → BaySt) (h : n < 12) : (s.onBay n f).bay n = f (s.bay n) :=
  vget_vupd_same _ _ _ _ h
theorem onBay_bay_ne (s : State) (n k : Nat) (f : BaySt → BaySt) (h : n ≠ k) : (s.onBay n f).bay k = s.bay k :=
  vget_vupd_ne _ _ _ _ _ h
@[simp] theorem onTimer_pending (s : State) (n : Nat) (f : TimerSt → TimerSt) : (s.onTimer n f).pending = s.pending := rfl
@[simp] theorem onTimer_regs (s : State) (n : Nat) (f : TimerSt → TimerSt) : (s.onTimer n f).regs = s.regs := rfl
@[simp] theorem onTimer_tb (s : State) (n : Nat) (f : TimerSt → TimerSt) : (s.onTimer n f).tb = s.tb := rfl
@[simp] theorem onTimer_free (s : State) (n : Nat) (f : TimerSt → TimerSt) : (s.onTimer n f).free = s.free := rfl
@[simp] theorem onTimer_outs (s : State) (n : Nat) (f : TimerSt → TimerSt) : (s.onTimer n f).outs = s.outs := rfl
@[simp] theorem onTimer_waits (s : State) (n : Nat) (f : TimerSt → TimerSt) : (s.onTimer n f).waits = s.waits := rfl
@[simp] theorem onTimer_supOut (s : State) (n : Nat) (f : TimerSt → TimerSt) : (s.onTimer n f).supOut = s.supOut := rfl
@[simp] theorem onTimer_supRes (s : State) (n : Nat) (f : TimerSt → TimerSt) : (s.onTimer n f).supRes = s.supRes := rfl
@[simp] theorem onTimer_supBad (s : State) (n : Nat) (f : TimerSt → TimerSt) : (s.onTimer n f).supBad = s.supBad := rfl
@[simp] theorem onTimer_served (s : State) (n : Nat) (f : TimerSt → TimerSt) : (s.onTimer n f).served = s.served := rfl
@[simp] theorem onTimer_tenants (s : State) (n : Nat) (f : TimerSt → TimerSt) : (s.onTimer n f).tenants = s.tenants := rfl
@[simp] theorem onTimer_ports (s : State) (n : Nat) (f : TimerSt → TimerSt) : (s.onTimer n f).ports = s.ports := rfl
@[simp] theorem onTimer_sec (s : State) (n : Nat) (f : TimerSt → TimerSt) : (s.onTimer n f).sec = s.sec := rfl
@[simp] theorem onTimer_slv (s : State) (n : Nat) (f : TimerSt → TimerSt) : (s.onTimer n f).slv = s.slv := rfl
@[simp] theorem onTimer_nvm (s : State) (n : Nat) (f : TimerSt → TimerSt) : (s.onTimer n f).nvm = s.nvm := rfl
@[simp] theorem onTimer_meters (s : State) (n : Nat) (f : TimerSt → TimerSt) : (s.onTimer n f).meters = s.meters := rfl
@[simp] theorem onTimer_lanes (s : State) (n : Nat) (f : TimerSt → TimerSt) : (s.onTimer n f).lanes = s.lanes := rfl
@[simp] theorem onTimer_phases (s : State) (n : Nat) (f : TimerSt → TimerSt) : (s.onTimer n f).phases = s.phases := rfl
@[simp] theorem onTimer_bays (s : State) (n : Nat) (f : TimerSt → TimerSt) : (s.onTimer n f).bays = s.bays := rfl
@[simp] theorem onTimer_segs (s : State) (n : Nat) (f : TimerSt → TimerSt) : (s.onTimer n f).segs = s.segs := rfl
@[simp] theorem onTimer_pwm (s : State) (n : Nat) (f : TimerSt → TimerSt) : (s.onTimer n f).pwm = s.pwm := rfl
@[simp] theorem onTimer_power (s : State) (n : Nat) (f : TimerSt → TimerSt) : (s.onTimer n f).power = s.power := rfl
@[simp] theorem onTimer_rtrLive (s : State) (n : Nat) (f : TimerSt → TimerSt) : (s.onTimer n f).rtrLive = s.rtrLive := rfl
@[simp] theorem onTimer_refSeen (s : State) (n : Nat) (f : TimerSt → TimerSt) : (s.onTimer n f).refSeen = s.refSeen := rfl
@[simp] theorem onTimer_refRun (s : State) (n : Nat) (f : TimerSt → TimerSt) : (s.onTimer n f).refRun = s.refRun := rfl
@[simp] theorem onTimer_refOut (s : State) (n : Nat) (f : TimerSt → TimerSt) : (s.onTimer n f).refOut = s.refOut := rfl
@[simp] theorem onTimer_refOn (s : State) (n : Nat) (f : TimerSt → TimerSt) : (s.onTimer n f).refOn = s.refOn := rfl
@[simp] theorem onTimer_tioDrv (s : State) (n : Nat) (f : TimerSt → TimerSt) : (s.onTimer n f).tioDrv = s.tioDrv := rfl
@[simp] theorem onTimer_portM (s : State) (n : Nat) (f : TimerSt → TimerSt) : (s.onTimer n f).portM = s.portM := rfl
@[simp] theorem onTimer_tokenQ (s : State) (n : Nat) (f : TimerSt → TimerSt) : (s.onTimer n f).tokenQ = s.tokenQ := rfl
@[simp] theorem onTimer_lastGrant (s : State) (n : Nat) (f : TimerSt → TimerSt) : (s.onTimer n f).lastGrant = s.lastGrant := rfl
@[simp] theorem onTimer_reg (s : State) (n : Nat) (f : TimerSt → TimerSt) (r : Reg) (i : Nat) : (s.onTimer n f).reg r i = s.reg r i := rfl
@[simp] theorem onTimer_rd (s : State) (n : Nat) (f : TimerSt → TimerSt) (g : Field) (i : Nat) : (s.onTimer n f).rd g i = s.rd g i := rfl
@[simp] theorem onTimer_rdS (s : State) (n : Nat) (f : TimerSt → TimerSt) (g : Field) (i : Nat) : (s.onTimer n f).rdS g i = s.rdS g i := rfl
@[simp] theorem onTimer_flag (s : State) (n : Nat) (f : TimerSt → TimerSt) (g : Field) (i : Nat) : (s.onTimer n f).flag g i = s.flag g i := rfl
@[simp] theorem onTimer_rdBit (s : State) (n : Nat) (f : TimerSt → TimerSt) (g : Field) (k i : Nat) : (s.onTimer n f).rdBit g k i = s.rdBit g k i := rfl

theorem onTimer_timer (s : State) (n : Nat) (f : TimerSt → TimerSt) (h : n < 8) : (s.onTimer n f).timer n = f (s.timer n) :=
  vget_vupd_same _ _ _ _ h
theorem onTimer_timer_ne (s : State) (n k : Nat) (f : TimerSt → TimerSt) (h : n ≠ k) : (s.onTimer n f).timer k = s.timer k :=
  vget_vupd_ne _ _ _ _ _ h
@[simp] theorem begin_pending (s : State)  : (s.begin).pending = s.pending := rfl
@[simp] theorem begin_regs (s : State)  : (s.begin).regs = s.regs := rfl
@[simp] theorem begin_tb (s : State)  : (s.begin).tb = s.tb := rfl
@[simp] theorem begin_free (s : State)  : (s.begin).free = s.free := rfl
@[simp] theorem begin_waits (s : State)  : (s.begin).waits = s.waits := rfl
@[simp] theorem begin_supOut (s : State)  : (s.begin).supOut = s.supOut := rfl
@[simp] theorem begin_supRes (s : State)  : (s.begin).supRes = s.supRes := rfl
@[simp] theorem begin_supBad (s : State)  : (s.begin).supBad = s.supBad := rfl
@[simp] theorem begin_served (s : State)  : (s.begin).served = s.served := rfl
@[simp] theorem begin_tenants (s : State)  : (s.begin).tenants = s.tenants := rfl
@[simp] theorem begin_ports (s : State)  : (s.begin).ports = s.ports := rfl
@[simp] theorem begin_sec (s : State)  : (s.begin).sec = s.sec := rfl
@[simp] theorem begin_slv (s : State)  : (s.begin).slv = s.slv := rfl
@[simp] theorem begin_nvm (s : State)  : (s.begin).nvm = s.nvm := rfl
@[simp] theorem begin_meters (s : State)  : (s.begin).meters = s.meters := rfl
@[simp] theorem begin_lanes (s : State)  : (s.begin).lanes = s.lanes := rfl
@[simp] theorem begin_phases (s : State)  : (s.begin).phases = s.phases := rfl
@[simp] theorem begin_bays (s : State)  : (s.begin).bays = s.bays := rfl
@[simp] theorem begin_segs (s : State)  : (s.begin).segs = s.segs := rfl
@[simp] theorem begin_pwm (s : State)  : (s.begin).pwm = s.pwm := rfl
@[simp] theorem begin_power (s : State)  : (s.begin).power = s.power := rfl
@[simp] theorem begin_rtrLive (s : State)  : (s.begin).rtrLive = s.rtrLive := rfl
@[simp] theorem begin_refSeen (s : State)  : (s.begin).refSeen = s.refSeen := rfl
@[simp] theorem begin_refRun (s : State)  : (s.begin).refRun = s.refRun := rfl
@[simp] theorem begin_refOut (s : State)  : (s.begin).refOut = s.refOut := rfl
@[simp] theorem begin_refOn (s : State)  : (s.begin).refOn = s.refOn := rfl
@[simp] theorem begin_timers (s : State)  : (s.begin).timers = s.timers := rfl
@[simp] theorem begin_tioDrv (s : State)  : (s.begin).tioDrv = s.tioDrv := rfl
@[simp] theorem begin_portM (s : State)  : (s.begin).portM = s.portM := rfl
@[simp] theorem begin_tokenQ (s : State)  : (s.begin).tokenQ = s.tokenQ := rfl
@[simp] theorem begin_lastGrant (s : State)  : (s.begin).lastGrant = s.lastGrant := rfl
@[simp] theorem begin_reg (s : State)  (r : Reg) (i : Nat) : (s.begin).reg r i = s.reg r i := rfl
@[simp] theorem begin_rd (s : State)  (g : Field) (i : Nat) : (s.begin).rd g i = s.rd g i := rfl
@[simp] theorem begin_rdS (s : State)  (g : Field) (i : Nat) : (s.begin).rdS g i = s.rdS g i := rfl
@[simp] theorem begin_flag (s : State)  (g : Field) (i : Nat) : (s.begin).flag g i = s.flag g i := rfl
@[simp] theorem begin_rdBit (s : State)  (g : Field) (k i : Nat) : (s.begin).rdBit g k i = s.rdBit g k i := rfl

@[simp] theorem begin_outs (s : State) : s.begin.outs = [] := rfl

/-! ### Register writes leave hidden state -/

@[simp] theorem setReg_pending (s : State) (r : Reg) (i : Nat) (w : Word) : (s.setReg r i w).pending = s.pending := by
  simp only [State.setReg]; split
  · rfl
  · split <;> rfl
@[simp] theorem setReg_tb (s : State) (r : Reg) (i : Nat) (w : Word) : (s.setReg r i w).tb = s.tb := by
  simp only [State.setReg]; split
  · rfl
  · split <;> rfl
@[simp] theorem setReg_free (s : State) (r : Reg) (i : Nat) (w : Word) : (s.setReg r i w).free = s.free := by
  simp only [State.setReg]; split
  · rfl
  · split <;> rfl
@[simp] theorem setReg_outs (s : State) (r : Reg) (i : Nat) (w : Word) : (s.setReg r i w).outs = s.outs := by
  simp only [State.setReg]; split
  · rfl
  · split <;> rfl
@[simp] theorem setReg_waits (s : State) (r : Reg) (i : Nat) (w : Word) : (s.setReg r i w).waits = s.waits := by
  simp only [State.setReg]; split
  · rfl
  · split <;> rfl
@[simp] theorem setReg_supOut (s : State) (r : Reg) (i : Nat) (w : Word) : (s.setReg r i w).supOut = s.supOut := by
  simp only [State.setReg]; split
  · rfl
  · split <;> rfl
@[simp] theorem setReg_supRes (s : State) (r : Reg) (i : Nat) (w : Word) : (s.setReg r i w).supRes = s.supRes := by
  simp only [State.setReg]; split
  · rfl
  · split <;> rfl
@[simp] theorem setReg_supBad (s : State) (r : Reg) (i : Nat) (w : Word) : (s.setReg r i w).supBad = s.supBad := by
  simp only [State.setReg]; split
  · rfl
  · split <;> rfl
@[simp] theorem setReg_served (s : State) (r : Reg) (i : Nat) (w : Word) : (s.setReg r i w).served = s.served := by
  simp only [State.setReg]; split
  · rfl
  · split <;> rfl
@[simp] theorem setReg_tenants (s : State) (r : Reg) (i : Nat) (w : Word) : (s.setReg r i w).tenants = s.tenants := by
  simp only [State.setReg]; split
  · rfl
  · split <;> rfl
@[simp] theorem setReg_ports (s : State) (r : Reg) (i : Nat) (w : Word) : (s.setReg r i w).ports = s.ports := by
  simp only [State.setReg]; split
  · rfl
  · split <;> rfl
@[simp] theorem setReg_sec (s : State) (r : Reg) (i : Nat) (w : Word) : (s.setReg r i w).sec = s.sec := by
  simp only [State.setReg]; split
  · rfl
  · split <;> rfl
@[simp] theorem setReg_slv (s : State) (r : Reg) (i : Nat) (w : Word) : (s.setReg r i w).slv = s.slv := by
  simp only [State.setReg]; split
  · rfl
  · split <;> rfl
@[simp] theorem setReg_nvm (s : State) (r : Reg) (i : Nat) (w : Word) : (s.setReg r i w).nvm = s.nvm := by
  simp only [State.setReg]; split
  · rfl
  · split <;> rfl
@[simp] theorem setReg_meters (s : State) (r : Reg) (i : Nat) (w : Word) : (s.setReg r i w).meters = s.meters := by
  simp only [State.setReg]; split
  · rfl
  · split <;> rfl
@[simp] theorem setReg_lanes (s : State) (r : Reg) (i : Nat) (w : Word) : (s.setReg r i w).lanes = s.lanes := by
  simp only [State.setReg]; split
  · rfl
  · split <;> rfl
@[simp] theorem setReg_phases (s : State) (r : Reg) (i : Nat) (w : Word) : (s.setReg r i w).phases = s.phases := by
  simp only [State.setReg]; split
  · rfl
  · split <;> rfl
@[simp] theorem setReg_bays (s : State) (r : Reg) (i : Nat) (w : Word) : (s.setReg r i w).bays = s.bays := by
  simp only [State.setReg]; split
  · rfl
  · split <;> rfl
@[simp] theorem setReg_segs (s : State) (r : Reg) (i : Nat) (w : Word) : (s.setReg r i w).segs = s.segs := by
  simp only [State.setReg]; split
  · rfl
  · split <;> rfl
@[simp] theorem setReg_pwm (s : State) (r : Reg) (i : Nat) (w : Word) : (s.setReg r i w).pwm = s.pwm := by
  simp only [State.setReg]; split
  · rfl
  · split <;> rfl
@[simp] theorem setReg_power (s : State) (r : Reg) (i : Nat) (w : Word) : (s.setReg r i w).power = s.power := by
  simp only [State.setReg]; split
  · rfl
  · split <;> rfl
@[simp] theorem setReg_rtrLive (s : State) (r : Reg) (i : Nat) (w : Word) : (s.setReg r i w).rtrLive = s.rtrLive := by
  simp only [State.setReg]; split
  · rfl
  · split <;> rfl
@[simp] theorem setReg_refSeen (s : State) (r : Reg) (i : Nat) (w : Word) : (s.setReg r i w).refSeen = s.refSeen := by
  simp only [State.setReg]; split
  · rfl
  · split <;> rfl
@[simp] theorem setReg_refRun (s : State) (r : Reg) (i : Nat) (w : Word) : (s.setReg r i w).refRun = s.refRun := by
  simp only [State.setReg]; split
  · rfl
  · split <;> rfl
@[simp] theorem setReg_refOut (s : State) (r : Reg) (i : Nat) (w : Word) : (s.setReg r i w).refOut = s.refOut := by
  simp only [State.setReg]; split
  · rfl
  · split <;> rfl
@[simp] theorem setReg_refOn (s : State) (r : Reg) (i : Nat) (w : Word) : (s.setReg r i w).refOn = s.refOn := by
  simp only [State.setReg]; split
  · rfl
  · split <;> rfl
@[simp] theorem setReg_timers (s : State) (r : Reg) (i : Nat) (w : Word) : (s.setReg r i w).timers = s.timers := by
  simp only [State.setReg]; split
  · rfl
  · split <;> rfl
@[simp] theorem setReg_tioDrv (s : State) (r : Reg) (i : Nat) (w : Word) : (s.setReg r i w).tioDrv = s.tioDrv := by
  simp only [State.setReg]; split
  · rfl
  · split <;> rfl
@[simp] theorem setReg_portM (s : State) (r : Reg) (i : Nat) (w : Word) : (s.setReg r i w).portM = s.portM := by
  simp only [State.setReg]; split
  · rfl
  · split <;> rfl
@[simp] theorem setReg_tokenQ (s : State) (r : Reg) (i : Nat) (w : Word) : (s.setReg r i w).tokenQ = s.tokenQ := by
  simp only [State.setReg]; split
  · rfl
  · split <;> rfl
@[simp] theorem setReg_lastGrant (s : State) (r : Reg) (i : Nat) (w : Word) : (s.setReg r i w).lastGrant = s.lastGrant := by
  simp only [State.setReg]; split
  · rfl
  · split <;> rfl
@[simp] theorem wr_pending (s : State) (f : Field) (v i : Nat) : (s.wr f v i).pending = s.pending := setReg_pending ..
@[simp] theorem wr_tb (s : State) (f : Field) (v i : Nat) : (s.wr f v i).tb = s.tb := setReg_tb ..
@[simp] theorem wr_free (s : State) (f : Field) (v i : Nat) : (s.wr f v i).free = s.free := setReg_free ..
@[simp] theorem wr_outs (s : State) (f : Field) (v i : Nat) : (s.wr f v i).outs = s.outs := setReg_outs ..
@[simp] theorem wr_waits (s : State) (f : Field) (v i : Nat) : (s.wr f v i).waits = s.waits := setReg_waits ..
@[simp] theorem wr_supOut (s : State) (f : Field) (v i : Nat) : (s.wr f v i).supOut = s.supOut := setReg_supOut ..
@[simp] theorem wr_supRes (s : State) (f : Field) (v i : Nat) : (s.wr f v i).supRes = s.supRes := setReg_supRes ..
@[simp] theorem wr_supBad (s : State) (f : Field) (v i : Nat) : (s.wr f v i).supBad = s.supBad := setReg_supBad ..
@[simp] theorem wr_served (s : State) (f : Field) (v i : Nat) : (s.wr f v i).served = s.served := setReg_served ..
@[simp] theorem wr_tenants (s : State) (f : Field) (v i : Nat) : (s.wr f v i).tenants = s.tenants := setReg_tenants ..
@[simp] theorem wr_ports (s : State) (f : Field) (v i : Nat) : (s.wr f v i).ports = s.ports := setReg_ports ..
@[simp] theorem wr_sec (s : State) (f : Field) (v i : Nat) : (s.wr f v i).sec = s.sec := setReg_sec ..
@[simp] theorem wr_slv (s : State) (f : Field) (v i : Nat) : (s.wr f v i).slv = s.slv := setReg_slv ..
@[simp] theorem wr_nvm (s : State) (f : Field) (v i : Nat) : (s.wr f v i).nvm = s.nvm := setReg_nvm ..
@[simp] theorem wr_meters (s : State) (f : Field) (v i : Nat) : (s.wr f v i).meters = s.meters := setReg_meters ..
@[simp] theorem wr_lanes (s : State) (f : Field) (v i : Nat) : (s.wr f v i).lanes = s.lanes := setReg_lanes ..
@[simp] theorem wr_phases (s : State) (f : Field) (v i : Nat) : (s.wr f v i).phases = s.phases := setReg_phases ..
@[simp] theorem wr_bays (s : State) (f : Field) (v i : Nat) : (s.wr f v i).bays = s.bays := setReg_bays ..
@[simp] theorem wr_segs (s : State) (f : Field) (v i : Nat) : (s.wr f v i).segs = s.segs := setReg_segs ..
@[simp] theorem wr_pwm (s : State) (f : Field) (v i : Nat) : (s.wr f v i).pwm = s.pwm := setReg_pwm ..
@[simp] theorem wr_power (s : State) (f : Field) (v i : Nat) : (s.wr f v i).power = s.power := setReg_power ..
@[simp] theorem wr_rtrLive (s : State) (f : Field) (v i : Nat) : (s.wr f v i).rtrLive = s.rtrLive := setReg_rtrLive ..
@[simp] theorem wr_refSeen (s : State) (f : Field) (v i : Nat) : (s.wr f v i).refSeen = s.refSeen := setReg_refSeen ..
@[simp] theorem wr_refRun (s : State) (f : Field) (v i : Nat) : (s.wr f v i).refRun = s.refRun := setReg_refRun ..
@[simp] theorem wr_refOut (s : State) (f : Field) (v i : Nat) : (s.wr f v i).refOut = s.refOut := setReg_refOut ..
@[simp] theorem wr_refOn (s : State) (f : Field) (v i : Nat) : (s.wr f v i).refOn = s.refOn := setReg_refOn ..
@[simp] theorem wr_timers (s : State) (f : Field) (v i : Nat) : (s.wr f v i).timers = s.timers := setReg_timers ..
@[simp] theorem wr_tioDrv (s : State) (f : Field) (v i : Nat) : (s.wr f v i).tioDrv = s.tioDrv := setReg_tioDrv ..
@[simp] theorem wr_portM (s : State) (f : Field) (v i : Nat) : (s.wr f v i).portM = s.portM := setReg_portM ..
@[simp] theorem wr_tokenQ (s : State) (f : Field) (v i : Nat) : (s.wr f v i).tokenQ = s.tokenQ := setReg_tokenQ ..
@[simp] theorem wr_lastGrant (s : State) (f : Field) (v i : Nat) : (s.wr f v i).lastGrant = s.lastGrant := setReg_lastGrant ..

@[simp] theorem wrS_pending (s : State) (f : Field) (v : Int) (i : Nat) : (s.wrS f v i).pending = s.pending := setReg_pending ..
@[simp] theorem wrS_tb (s : State) (f : Field) (v : Int) (i : Nat) : (s.wrS f v i).tb = s.tb := setReg_tb ..
@[simp] theorem wrS_free (s : State) (f : Field) (v : Int) (i : Nat) : (s.wrS f v i).free = s.free := setReg_free ..
@[simp] theorem wrS_outs (s : State) (f : Field) (v : Int) (i : Nat) : (s.wrS f v i).outs = s.outs := setReg_outs ..
@[simp] theorem wrS_waits (s : State) (f : Field) (v : Int) (i : Nat) : (s.wrS f v i).waits = s.waits := setReg_waits ..
@[simp] theorem wrS_supOut (s : State) (f : Field) (v : Int) (i : Nat) : (s.wrS f v i).supOut = s.supOut := setReg_supOut ..
@[simp] theorem wrS_supRes (s : State) (f : Field) (v : Int) (i : Nat) : (s.wrS f v i).supRes = s.supRes := setReg_supRes ..
@[simp] theorem wrS_supBad (s : State) (f : Field) (v : Int) (i : Nat) : (s.wrS f v i).supBad = s.supBad := setReg_supBad ..
@[simp] theorem wrS_served (s : State) (f : Field) (v : Int) (i : Nat) : (s.wrS f v i).served = s.served := setReg_served ..
@[simp] theorem wrS_tenants (s : State) (f : Field) (v : Int) (i : Nat) : (s.wrS f v i).tenants = s.tenants := setReg_tenants ..
@[simp] theorem wrS_ports (s : State) (f : Field) (v : Int) (i : Nat) : (s.wrS f v i).ports = s.ports := setReg_ports ..
@[simp] theorem wrS_sec (s : State) (f : Field) (v : Int) (i : Nat) : (s.wrS f v i).sec = s.sec := setReg_sec ..
@[simp] theorem wrS_slv (s : State) (f : Field) (v : Int) (i : Nat) : (s.wrS f v i).slv = s.slv := setReg_slv ..
@[simp] theorem wrS_nvm (s : State) (f : Field) (v : Int) (i : Nat) : (s.wrS f v i).nvm = s.nvm := setReg_nvm ..
@[simp] theorem wrS_meters (s : State) (f : Field) (v : Int) (i : Nat) : (s.wrS f v i).meters = s.meters := setReg_meters ..
@[simp] theorem wrS_lanes (s : State) (f : Field) (v : Int) (i : Nat) : (s.wrS f v i).lanes = s.lanes := setReg_lanes ..
@[simp] theorem wrS_phases (s : State) (f : Field) (v : Int) (i : Nat) : (s.wrS f v i).phases = s.phases := setReg_phases ..
@[simp] theorem wrS_bays (s : State) (f : Field) (v : Int) (i : Nat) : (s.wrS f v i).bays = s.bays := setReg_bays ..
@[simp] theorem wrS_segs (s : State) (f : Field) (v : Int) (i : Nat) : (s.wrS f v i).segs = s.segs := setReg_segs ..
@[simp] theorem wrS_pwm (s : State) (f : Field) (v : Int) (i : Nat) : (s.wrS f v i).pwm = s.pwm := setReg_pwm ..
@[simp] theorem wrS_power (s : State) (f : Field) (v : Int) (i : Nat) : (s.wrS f v i).power = s.power := setReg_power ..
@[simp] theorem wrS_rtrLive (s : State) (f : Field) (v : Int) (i : Nat) : (s.wrS f v i).rtrLive = s.rtrLive := setReg_rtrLive ..
@[simp] theorem wrS_refSeen (s : State) (f : Field) (v : Int) (i : Nat) : (s.wrS f v i).refSeen = s.refSeen := setReg_refSeen ..
@[simp] theorem wrS_refRun (s : State) (f : Field) (v : Int) (i : Nat) : (s.wrS f v i).refRun = s.refRun := setReg_refRun ..
@[simp] theorem wrS_refOut (s : State) (f : Field) (v : Int) (i : Nat) : (s.wrS f v i).refOut = s.refOut := setReg_refOut ..
@[simp] theorem wrS_refOn (s : State) (f : Field) (v : Int) (i : Nat) : (s.wrS f v i).refOn = s.refOn := setReg_refOn ..
@[simp] theorem wrS_timers (s : State) (f : Field) (v : Int) (i : Nat) : (s.wrS f v i).timers = s.timers := setReg_timers ..
@[simp] theorem wrS_tioDrv (s : State) (f : Field) (v : Int) (i : Nat) : (s.wrS f v i).tioDrv = s.tioDrv := setReg_tioDrv ..
@[simp] theorem wrS_portM (s : State) (f : Field) (v : Int) (i : Nat) : (s.wrS f v i).portM = s.portM := setReg_portM ..
@[simp] theorem wrS_tokenQ (s : State) (f : Field) (v : Int) (i : Nat) : (s.wrS f v i).tokenQ = s.tokenQ := setReg_tokenQ ..
@[simp] theorem wrS_lastGrant (s : State) (f : Field) (v : Int) (i : Nat) : (s.wrS f v i).lastGrant = s.lastGrant := setReg_lastGrant ..

@[simp] theorem put_pending (s : State) (f : Field) (b : Bool) (i : Nat) : (s.put f b i).pending = s.pending := setReg_pending ..
@[simp] theorem put_tb (s : State) (f : Field) (b : Bool) (i : Nat) : (s.put f b i).tb = s.tb := setReg_tb ..
@[simp] theorem put_free (s : State) (f : Field) (b : Bool) (i : Nat) : (s.put f b i).free = s.free := setReg_free ..
@[simp] theorem put_outs (s : State) (f : Field) (b : Bool) (i : Nat) : (s.put f b i).outs = s.outs := setReg_outs ..
@[simp] theorem put_waits (s : State) (f : Field) (b : Bool) (i : Nat) : (s.put f b i).waits = s.waits := setReg_waits ..
@[simp] theorem put_supOut (s : State) (f : Field) (b : Bool) (i : Nat) : (s.put f b i).supOut = s.supOut := setReg_supOut ..
@[simp] theorem put_supRes (s : State) (f : Field) (b : Bool) (i : Nat) : (s.put f b i).supRes = s.supRes := setReg_supRes ..
@[simp] theorem put_supBad (s : State) (f : Field) (b : Bool) (i : Nat) : (s.put f b i).supBad = s.supBad := setReg_supBad ..
@[simp] theorem put_served (s : State) (f : Field) (b : Bool) (i : Nat) : (s.put f b i).served = s.served := setReg_served ..
@[simp] theorem put_tenants (s : State) (f : Field) (b : Bool) (i : Nat) : (s.put f b i).tenants = s.tenants := setReg_tenants ..
@[simp] theorem put_ports (s : State) (f : Field) (b : Bool) (i : Nat) : (s.put f b i).ports = s.ports := setReg_ports ..
@[simp] theorem put_sec (s : State) (f : Field) (b : Bool) (i : Nat) : (s.put f b i).sec = s.sec := setReg_sec ..
@[simp] theorem put_slv (s : State) (f : Field) (b : Bool) (i : Nat) : (s.put f b i).slv = s.slv := setReg_slv ..
@[simp] theorem put_nvm (s : State) (f : Field) (b : Bool) (i : Nat) : (s.put f b i).nvm = s.nvm := setReg_nvm ..
@[simp] theorem put_meters (s : State) (f : Field) (b : Bool) (i : Nat) : (s.put f b i).meters = s.meters := setReg_meters ..
@[simp] theorem put_lanes (s : State) (f : Field) (b : Bool) (i : Nat) : (s.put f b i).lanes = s.lanes := setReg_lanes ..
@[simp] theorem put_phases (s : State) (f : Field) (b : Bool) (i : Nat) : (s.put f b i).phases = s.phases := setReg_phases ..
@[simp] theorem put_bays (s : State) (f : Field) (b : Bool) (i : Nat) : (s.put f b i).bays = s.bays := setReg_bays ..
@[simp] theorem put_segs (s : State) (f : Field) (b : Bool) (i : Nat) : (s.put f b i).segs = s.segs := setReg_segs ..
@[simp] theorem put_pwm (s : State) (f : Field) (b : Bool) (i : Nat) : (s.put f b i).pwm = s.pwm := setReg_pwm ..
@[simp] theorem put_power (s : State) (f : Field) (b : Bool) (i : Nat) : (s.put f b i).power = s.power := setReg_power ..
@[simp] theorem put_rtrLive (s : State) (f : Field) (b : Bool) (i : Nat) : (s.put f b i).rtrLive = s.rtrLive := setReg_rtrLive ..
@[simp] theorem put_refSeen (s : State) (f : Field) (b : Bool) (i : Nat) : (s.put f b i).refSeen = s.refSeen := setReg_refSeen ..
@[simp] theorem put_refRun (s : State) (f : Field) (b : Bool) (i : Nat) : (s.put f b i).refRun = s.refRun := setReg_refRun ..
@[simp] theorem put_refOut (s : State) (f : Field) (b : Bool) (i : Nat) : (s.put f b i).refOut = s.refOut := setReg_refOut ..
@[simp] theorem put_refOn (s : State) (f : Field) (b : Bool) (i : Nat) : (s.put f b i).refOn = s.refOn := setReg_refOn ..
@[simp] theorem put_timers (s : State) (f : Field) (b : Bool) (i : Nat) : (s.put f b i).timers = s.timers := setReg_timers ..
@[simp] theorem put_tioDrv (s : State) (f : Field) (b : Bool) (i : Nat) : (s.put f b i).tioDrv = s.tioDrv := setReg_tioDrv ..
@[simp] theorem put_portM (s : State) (f : Field) (b : Bool) (i : Nat) : (s.put f b i).portM = s.portM := setReg_portM ..
@[simp] theorem put_tokenQ (s : State) (f : Field) (b : Bool) (i : Nat) : (s.put f b i).tokenQ = s.tokenQ := setReg_tokenQ ..
@[simp] theorem put_lastGrant (s : State) (f : Field) (b : Bool) (i : Nat) : (s.put f b i).lastGrant = s.lastGrant := setReg_lastGrant ..

@[simp] theorem putBit_pending (s : State) (f : Field) (k : Nat) (b : Bool) (i : Nat) : (s.putBit f k b i).pending = s.pending := setReg_pending ..
@[simp] theorem putBit_tb (s : State) (f : Field) (k : Nat) (b : Bool) (i : Nat) : (s.putBit f k b i).tb = s.tb := setReg_tb ..
@[simp] theorem putBit_free (s : State) (f : Field) (k : Nat) (b : Bool) (i : Nat) : (s.putBit f k b i).free = s.free := setReg_free ..
@[simp] theorem putBit_outs (s : State) (f : Field) (k : Nat) (b : Bool) (i : Nat) : (s.putBit f k b i).outs = s.outs := setReg_outs ..
@[simp] theorem putBit_waits (s : State) (f : Field) (k : Nat) (b : Bool) (i : Nat) : (s.putBit f k b i).waits = s.waits := setReg_waits ..
@[simp] theorem putBit_supOut (s : State) (f : Field) (k : Nat) (b : Bool) (i : Nat) : (s.putBit f k b i).supOut = s.supOut := setReg_supOut ..
@[simp] theorem putBit_supRes (s : State) (f : Field) (k : Nat) (b : Bool) (i : Nat) : (s.putBit f k b i).supRes = s.supRes := setReg_supRes ..
@[simp] theorem putBit_supBad (s : State) (f : Field) (k : Nat) (b : Bool) (i : Nat) : (s.putBit f k b i).supBad = s.supBad := setReg_supBad ..
@[simp] theorem putBit_served (s : State) (f : Field) (k : Nat) (b : Bool) (i : Nat) : (s.putBit f k b i).served = s.served := setReg_served ..
@[simp] theorem putBit_tenants (s : State) (f : Field) (k : Nat) (b : Bool) (i : Nat) : (s.putBit f k b i).tenants = s.tenants := setReg_tenants ..
@[simp] theorem putBit_ports (s : State) (f : Field) (k : Nat) (b : Bool) (i : Nat) : (s.putBit f k b i).ports = s.ports := setReg_ports ..
@[simp] theorem putBit_sec (s : State) (f : Field) (k : Nat) (b : Bool) (i : Nat) : (s.putBit f k b i).sec = s.sec := setReg_sec ..
@[simp] theorem putBit_slv (s : State) (f : Field) (k : Nat) (b : Bool) (i : Nat) : (s.putBit f k b i).slv = s.slv := setReg_slv ..
@[simp] theorem putBit_nvm (s : State) (f : Field) (k : Nat) (b : Bool) (i : Nat) : (s.putBit f k b i).nvm = s.nvm := setReg_nvm ..
@[simp] theorem putBit_meters (s : State) (f : Field) (k : Nat) (b : Bool) (i : Nat) : (s.putBit f k b i).meters = s.meters := setReg_meters ..
@[simp] theorem putBit_lanes (s : State) (f : Field) (k : Nat) (b : Bool) (i : Nat) : (s.putBit f k b i).lanes = s.lanes := setReg_lanes ..
@[simp] theorem putBit_phases (s : State) (f : Field) (k : Nat) (b : Bool) (i : Nat) : (s.putBit f k b i).phases = s.phases := setReg_phases ..
@[simp] theorem putBit_bays (s : State) (f : Field) (k : Nat) (b : Bool) (i : Nat) : (s.putBit f k b i).bays = s.bays := setReg_bays ..
@[simp] theorem putBit_segs (s : State) (f : Field) (k : Nat) (b : Bool) (i : Nat) : (s.putBit f k b i).segs = s.segs := setReg_segs ..
@[simp] theorem putBit_pwm (s : State) (f : Field) (k : Nat) (b : Bool) (i : Nat) : (s.putBit f k b i).pwm = s.pwm := setReg_pwm ..
@[simp] theorem putBit_power (s : State) (f : Field) (k : Nat) (b : Bool) (i : Nat) : (s.putBit f k b i).power = s.power := setReg_power ..
@[simp] theorem putBit_rtrLive (s : State) (f : Field) (k : Nat) (b : Bool) (i : Nat) : (s.putBit f k b i).rtrLive = s.rtrLive := setReg_rtrLive ..
@[simp] theorem putBit_refSeen (s : State) (f : Field) (k : Nat) (b : Bool) (i : Nat) : (s.putBit f k b i).refSeen = s.refSeen := setReg_refSeen ..
@[simp] theorem putBit_refRun (s : State) (f : Field) (k : Nat) (b : Bool) (i : Nat) : (s.putBit f k b i).refRun = s.refRun := setReg_refRun ..
@[simp] theorem putBit_refOut (s : State) (f : Field) (k : Nat) (b : Bool) (i : Nat) : (s.putBit f k b i).refOut = s.refOut := setReg_refOut ..
@[simp] theorem putBit_refOn (s : State) (f : Field) (k : Nat) (b : Bool) (i : Nat) : (s.putBit f k b i).refOn = s.refOn := setReg_refOn ..
@[simp] theorem putBit_timers (s : State) (f : Field) (k : Nat) (b : Bool) (i : Nat) : (s.putBit f k b i).timers = s.timers := setReg_timers ..
@[simp] theorem putBit_tioDrv (s : State) (f : Field) (k : Nat) (b : Bool) (i : Nat) : (s.putBit f k b i).tioDrv = s.tioDrv := setReg_tioDrv ..
@[simp] theorem putBit_portM (s : State) (f : Field) (k : Nat) (b : Bool) (i : Nat) : (s.putBit f k b i).portM = s.portM := setReg_portM ..
@[simp] theorem putBit_tokenQ (s : State) (f : Field) (k : Nat) (b : Bool) (i : Nat) : (s.putBit f k b i).tokenQ = s.tokenQ := setReg_tokenQ ..
@[simp] theorem putBit_lastGrant (s : State) (f : Field) (k : Nat) (b : Bool) (i : Nat) : (s.putBit f k b i).lastGrant = s.lastGrant := setReg_lastGrant ..

@[simp] theorem bump_pending (s : State) (f : Field) (n i : Nat) : (s.bump f n i).pending = s.pending := setReg_pending ..
@[simp] theorem bump_tb (s : State) (f : Field) (n i : Nat) : (s.bump f n i).tb = s.tb := setReg_tb ..
@[simp] theorem bump_free (s : State) (f : Field) (n i : Nat) : (s.bump f n i).free = s.free := setReg_free ..
@[simp] theorem bump_outs (s : State) (f : Field) (n i : Nat) : (s.bump f n i).outs = s.outs := setReg_outs ..
@[simp] theorem bump_waits (s : State) (f : Field) (n i : Nat) : (s.bump f n i).waits = s.waits := setReg_waits ..
@[simp] theorem bump_supOut (s : State) (f : Field) (n i : Nat) : (s.bump f n i).supOut = s.supOut := setReg_supOut ..
@[simp] theorem bump_supRes (s : State) (f : Field) (n i : Nat) : (s.bump f n i).supRes = s.supRes := setReg_supRes ..
@[simp] theorem bump_supBad (s : State) (f : Field) (n i : Nat) : (s.bump f n i).supBad = s.supBad := setReg_supBad ..
@[simp] theorem bump_served (s : State) (f : Field) (n i : Nat) : (s.bump f n i).served = s.served := setReg_served ..
@[simp] theorem bump_tenants (s : State) (f : Field) (n i : Nat) : (s.bump f n i).tenants = s.tenants := setReg_tenants ..
@[simp] theorem bump_ports (s : State) (f : Field) (n i : Nat) : (s.bump f n i).ports = s.ports := setReg_ports ..
@[simp] theorem bump_sec (s : State) (f : Field) (n i : Nat) : (s.bump f n i).sec = s.sec := setReg_sec ..
@[simp] theorem bump_slv (s : State) (f : Field) (n i : Nat) : (s.bump f n i).slv = s.slv := setReg_slv ..
@[simp] theorem bump_nvm (s : State) (f : Field) (n i : Nat) : (s.bump f n i).nvm = s.nvm := setReg_nvm ..
@[simp] theorem bump_meters (s : State) (f : Field) (n i : Nat) : (s.bump f n i).meters = s.meters := setReg_meters ..
@[simp] theorem bump_lanes (s : State) (f : Field) (n i : Nat) : (s.bump f n i).lanes = s.lanes := setReg_lanes ..
@[simp] theorem bump_phases (s : State) (f : Field) (n i : Nat) : (s.bump f n i).phases = s.phases := setReg_phases ..
@[simp] theorem bump_bays (s : State) (f : Field) (n i : Nat) : (s.bump f n i).bays = s.bays := setReg_bays ..
@[simp] theorem bump_segs (s : State) (f : Field) (n i : Nat) : (s.bump f n i).segs = s.segs := setReg_segs ..
@[simp] theorem bump_pwm (s : State) (f : Field) (n i : Nat) : (s.bump f n i).pwm = s.pwm := setReg_pwm ..
@[simp] theorem bump_power (s : State) (f : Field) (n i : Nat) : (s.bump f n i).power = s.power := setReg_power ..
@[simp] theorem bump_rtrLive (s : State) (f : Field) (n i : Nat) : (s.bump f n i).rtrLive = s.rtrLive := setReg_rtrLive ..
@[simp] theorem bump_refSeen (s : State) (f : Field) (n i : Nat) : (s.bump f n i).refSeen = s.refSeen := setReg_refSeen ..
@[simp] theorem bump_refRun (s : State) (f : Field) (n i : Nat) : (s.bump f n i).refRun = s.refRun := setReg_refRun ..
@[simp] theorem bump_refOut (s : State) (f : Field) (n i : Nat) : (s.bump f n i).refOut = s.refOut := setReg_refOut ..
@[simp] theorem bump_refOn (s : State) (f : Field) (n i : Nat) : (s.bump f n i).refOn = s.refOn := setReg_refOn ..
@[simp] theorem bump_timers (s : State) (f : Field) (n i : Nat) : (s.bump f n i).timers = s.timers := setReg_timers ..
@[simp] theorem bump_tioDrv (s : State) (f : Field) (n i : Nat) : (s.bump f n i).tioDrv = s.tioDrv := setReg_tioDrv ..
@[simp] theorem bump_portM (s : State) (f : Field) (n i : Nat) : (s.bump f n i).portM = s.portM := setReg_portM ..
@[simp] theorem bump_tokenQ (s : State) (f : Field) (n i : Nat) : (s.bump f n i).tokenQ = s.tokenQ := setReg_tokenQ ..
@[simp] theorem bump_lastGrant (s : State) (f : Field) (n i : Nat) : (s.bump f n i).lastGrant = s.lastGrant := setReg_lastGrant ..

end Sys2Proof.Machine
end

