-- ==== Sys2Proof/Laws/Commands.lean ====
section
/-!
SUPPORT. Sys2Proof/Laws/Commands.lean: the frames of commands at their shared entries: the dispatcher's checks (R442), the Manager's
register writes (R419), and the reporting of an event (R337).
-/
namespace Sys2Proof.Machine

open Sys2Proof

/-! ### Ring commands -/

theorem dispatch_run {s : State} {r : OpRow} {h : CmdHdr} (f : State → CmdRef → State) (hd : s.begin.dispatches h r.opcode = true)
    (hc : (s.taken h).check r h = none) : s.dispatch r h f = f (s.taken h) (cmdRef h r.opcode) := by
  simp only [State.taken] at hc
  simp [State.dispatch, hd, hc, State.taken]

theorem dispatch_refused {s : State} {r : OpRow} {h : CmdHdr} {st : Nat} {res : List Byte} (f : State → CmdRef → State)
    (hd : s.begin.dispatches h r.opcode = true) (hc : (s.taken h).check r h = some (st, res)) :
    s.dispatch r h f = (s.taken h).complete (cmdRef h r.opcode) st res := by
  simp only [State.taken] at hc
  simp [State.dispatch, hd, hc, State.taken]

theorem dispatch_waits {s : State} {r : OpRow} {h : CmdHdr} (f : State → CmdRef → State)
    (hd : s.begin.dispatches h r.opcode = false) : s.dispatch r h f = s.begin := by
  simp [State.dispatch, hd]

/-! ### Register writes -/

theorem gate_run {s : State} {w : BusWrite} (h : s.MayWrite w) (f : State → Nat → State) :
    s.gate w f = f (s.opened w.tenant.val) w.value.toNat := by
  have h1 := h.loaded; have h2 := h.manager
  simp only [State.opened] at h1 h2
  simp [State.gate, h1, h2, State.opened]

/-! ### Events -/

theorem record_reported (s : State) (code src flags : Nat) (own : Option (List Word)) :
    Reported s (s.record code src flags own) code src flags := by
  unfold Reported State.record
  split
  · simp [State.loseReport]
  · exact ⟨_, rfl, rfl, rfl, rfl, rfl⟩

/-! ### From a touch set to a frame -/

/-- A touch set whose registers and parts are listed gives the frame. -/
theorem Keeps.leaves {m : Nat} {s t : State} (h : Keeps m s t) {rs : List Reg} {ps : List Part}
    (hr : ∀ r, r ∉ rs → m.testBit r.ctorIdx = false) (hp : ∀ p, p ∉ ps → m.testBit (Part.bit p) = false) : Leaves rs ps s t :=
  ⟨h.queue, fun r i hi hn => h.regs r i hi (hr r hn), fun p hn => h.parts p (hp p hn)⟩

end Sys2Proof.Machine
end

