-- ==== Sys2Proof/Tests/Slice0.lean ====
section
/-!
SUPPORT. Sys2Proof/Tests/Slice0.lean: tests of the checks of WellFormed, and for every statement with hypotheses one witness per
clause: a concrete state and operands that meet the clause's hypotheses together. A witness is named test_ and the statement's part.
-/
open Sys2Proof Sys2Proof.Machine

namespace Sys2Proof.Tests

set_option Elab.async false

/-! ### Helpers -/

/-- `s.Admits c` as a Bool that computes. -/
def admits (s : State) (c : Instr) : Bool :=
  match c.header?, rowOf c with
  | some h, some r => s.begin.dispatches h r.opcode && ((s.taken h).check r h).isNone
  | _, _ => false

theorem admits_of {s : State} {c : Instr} (h : admits s c = true) : s.Admits c := by
  unfold admits at h
  split at h
  · rename_i hd r e1 e2
    simp only [Bool.and_eq_true, Option.isNone_iff_eq_none] at h
    exact ⟨hd, r, e1, e2, h.1, h.2⟩
  · cases h

/-- A dispatched ring command that meets `P`, from one computation. -/
theorem adm {s : State} {c : Instr} {P : Prop} [Decidable P] (h : (admits s c && decide P) = true) : s.Admits c ∧ P := by
  rw [Bool.and_eq_true, decide_eq_true_iff] at h
  exact ⟨admits_of h.1, h.2⟩

/-- A register write that is carried out and meets `P`. -/
theorem mayw {s : State} {w : BusWrite} {P : Prop} [Decidable P]
    (h : (decide ((s.opened w.tenant.val).flag F.NVM_STAT_PLOADED = true ∧ (s.opened w.tenant.val).roleOf w.tenant.val = 3) &&
      decide P) = true) : s.MayWrite w ∧ P := by
  rw [Bool.and_eq_true, decide_eq_true_iff, decide_eq_true_iff] at h
  exact ⟨⟨h.1.1, h.1.2⟩, h.2⟩

/-- `s` with register fields set: field, value, instance. -/
def up (s : State) (fs : List (Field × Nat × Nat)) : State := fs.foldl (fun s e => s.wr e.1 e.2.1 e.2.2) s

/-- A running device: started up, tenant 0 Manager with its rings enabled and its port up, bay 0 configured as lane 0 (two phases) and
lane 1 (three phases), lane 0 owned by tenant 0, every segment at 400 V. -/
def dev : State :=
  let s := up State.reset [(F.NVM_STAT_PLOADED, 1, 0), (F.NVM_STAT_RECOVERED, 1, 0), (F.GLB_BOOT_STARTED, 1, 0),
    (F.GLB_CLK_STAT_PLL_LOCK, 1, 0), (F.GLB_REF_REF_SETTLED, 1, 0), (F.GLB_REF_REF_IN_WIN, 1, 0), (F.GLB_BAY_STAT_AN_ON, 1, 0),
    (F.GLB_BAY_STAT_AN_ON, 1, 1), (F.BAY_DL_STAT_DL_LOCK, 1, 0), (F.BAY_DL_STAT_DL_LOCK, 1, 1), (F.BAY_PWM_CTL_PWM_EN, 1, 0),
    (F.BAY_HEDDLE_STAT_SLOT_CFG, 3, 0), (F.BAY_HEDDLE_ACT_LO_PH0_7, 0x55944, 0), (F.BAY_HEDDLE_LO_PH0_7, 0x55944, 0),
    (F.HST_CQ_CFG_EN, 1, 0), (F.HST_CQ_CFG_SIZE, 6, 0), (F.HST_SQ_CFG_EN, 1, 0), (F.HST_SQ_CFG_SIZE, 6, 0), (F.HST_CQ_STAT_PHASE, 1, 0),
    (F.HST_LINK_A_UP, 1, 0), (F.HST_LINK_A_GEN, 3, 0), (F.HST_LINK_A_WIDTH, 1, 0)]
  let s : State := { s with
    power := { s.power with boot := .done, pump := true }, refOn := true, refSeen := true, refRun := some 200, tb := 5000000
    ports := s.ports.map (fun p => { p with started := true, aspmEn := true })
    segs := s.segs.map (fun x => { x with vBus := 400000, cmdV := 400000, vTgt := 400000 }) }
  let s := s.onTenant 0 (fun x => { x with bme := true, msixEn := true })
  let s := s.onLane 0 (fun x => { x with owner := some 0, aux := .jml, vMod := 48000, order := [0, 1] })
  s.onLane 1 (fun x => { x with vMod := 40000, order := [2, 3, 4] })

/-- `s` with lane `l` in state `x`. -/
def st (s : State) (l : Nat) (x : LaneState) : State := s.wr F.LN_STATE_STATE x.code l

/-- `s` with a command of opcode `op`, CID 1, at the head of tenant `t`'s fetched list. -/
def cmd (s : State) (t op : Nat) : State := s.onTenant t fun x => { x with fetched := [⟨BitVec.ofNat 8 op, 1, false⟩] }

/-- A header: tenant 0 unless named, CID 1. -/
def h0 (tgt : Nat := 0) (t : Fin 9 := 0) (dptr : BitVec 64 := 0) (dlen : Word := 0) : CmdHdr :=
  ⟨t, 1, false, false, false, BitVec.ofNat 16 tgt, dptr, dlen⟩

/-- A frame with a payload. -/
def fr (payload : List Byte := []) : JmlRx := ⟨0, true, false, 1, payload⟩

/-! ### The checks of WellFormed refuse -/

theorem test_wf_refuses :
    (Instr.nop { h0 with cid := 0xFFFF }).wf = false ∧ (Instr.nop { h0 with dptr := 4 }).wf = false ∧
    (Instr.nop { h0 with rsvd := true }).wf = false ∧ (Instr.kaMod 0 (fr (List.replicate 35 0))).wf = false ∧
    (Instr.registerWrite 0 2 4 [⟨15, 0⟩]).wf = false ∧ (Instr.registerWrite 0 0 16 []).wf = false ∧
    (Instr.registerWrite 0 0 8 [⟨15, 0⟩]).wf = false ∧ (Instr.sqFetchDone 0 (List.replicate 9 ⟨1, 1, false⟩) none).wf = false ∧
    (Instr.sqFetchDone 0 [⟨1, 1, false⟩] (some 1)).wf = false ∧ (Instr.surveyStep 0 (List.replicate 257 0)).wf = false ∧
    (Instr.linkUp 0 0 1 false false (Vector.replicate 4 ⟨false, false, false⟩)).wf = false ∧
    (Instr.linkUp 0 1 3 false false (Vector.replicate 4 ⟨false, false, false⟩)).wf = false ∧
    (Instr.recoveryDone [(0x200000, true)]).wf = false ∧ (Instr.pmTransactionDone 0 (List.replicate 34 0)).wf = false ∧
    (Instr.telemetrySample 0 0 49).wf = false ∧ (Instr.psCommFault 0 0).wf = false := by decide +kernel

theorem test_wf_accepts :
    (Instr.nop (h0 3 0 8 1)).wf = true ∧ (Instr.kaMod 0 (fr (List.replicate 34 0))).wf = true ∧
    (Instr.registerWrite 0 8 8 [⟨15, 0⟩, ⟨15, 0⟩]).wf = true ∧ (Instr.sqFetchDone 0 (List.replicate 8 ⟨1, 1, false⟩) none).wf = true ∧
    (Instr.surveyStep 0 (List.replicate 256 0)).wf = true ∧
    (Instr.linkUp 1 1 2 false false (Vector.replicate 4 ⟨false, false, false⟩)).wf = true ∧
    (Instr.recoveryDone [(0x1FFFFF, true)]).wf = true ∧ (Instr.pmTransactionDone 0 (List.replicate 33 0)).wf = true ∧
    (Instr.telemetrySample 0 0 48).wf = true ∧ (Instr.psCommFault 1 0).wf = true ∧ Instr.bypass.wf = true := by decide +kernel

/-- The rows give no bits: no word spells a command. -/
theorem test_no_word_is_a_command : decodeTableWord 8 0 = none ∧ State.reset.withFetchWord 8 0 = State.reset := ⟨rfl, rfl⟩

/-! ### The machine as a whole -/

theorem test_emptyQueueTicks : (dev.pending = [] ∧ dev.coreRuns = true ∧ dev.flag F.NVM_STAT_RECOVERED = true) ∧
    ((dev.wr F.NVM_STAT_RECOVERED 0).coreRuns = true ∧ (dev.wr F.NVM_STAT_RECOVERED 0).flag F.NVM_STAT_RECOVERED = false) ∧
    State.reset.coreRuns = false := by decide +kernel

/-- A state that is not the reset state and meets the invariant: a loaded bank, and a command that waits. -/
def soundState : State := { State.reset.wr F.NVM_STAT_PLOADED 1 with pending := [.kaDev 0] }

theorem test_stepKeepsSound : soundState.Sound ∧ ∃ t, step soundState = .next t := by
  refine ⟨⟨by decide +kernel, fun r i h => ?_⟩, _, rfl⟩
  by_cases hr : r = .LN_STATE
  · subst hr
    have : ∀ j : Fin 48, wordOk .LN_STATE (soundState.reg .LN_STATE j.val) = true := by decide +kernel
    exact this ⟨i, h⟩
  by_cases h1 : r = .GLB_ID
  · subst h1
    have : ∀ j : Fin 1, wordOk .GLB_ID (soundState.reg .GLB_ID j.val) = true := by decide +kernel
    exact this ⟨i, h⟩
  by_cases h2 : r = .GLB_FEAT
  · subst h2
    have : ∀ j : Fin 1, wordOk .GLB_FEAT (soundState.reg .GLB_FEAT j.val) = true := by decide +kernel
    exact this ⟨i, h⟩
  · cases r <;> first | rfl | exact absurd rfl hr | exact absurd rfl h1 | exact absurd rfl h2

theorem test_configurationIsSoftwares : setsConfig (.kaDev 0) = false ∧ movesRoles (.kaDev 0) = false ∧ movesSeal (.kaDev 0) = false ∧
    ∃ t, exec (.kaDev 0) State.reset = .next t := ⟨rfl, rfl, rfl, _, rfl⟩

/-! ### Ring commands -/

/-- The OpRow of a ring command, and the hypotheses of one clause of R442's order. -/
def ringCase (c : Instr) (f : CmdHdr → OpRow → Bool) : Bool :=
  match c.header?, rowOf c with
  | some h, some r => f h r
  | _, _ => false

/-- Not its turn; a reserved bit; a Meter command of the Manager; a lane of another tenant; a command that passes every check. -/
theorem test_ringChecksInOrder :
    ringCase (.nop h0) (fun h r => !dev.begin.dispatches h r.opcode) = true ∧
    ringCase (.nop { h0 with rsvd := true }) (fun h r => (cmd dev 0 1).begin.dispatches h r.opcode && h.rsvd) = true ∧
    ringCase (.sealDevice h0) (fun h r => (cmd dev 0 0x68).begin.dispatches h r.opcode && !h.rsvd &&
      h.dptr.toNat % 8 == 0 && h.cid != 0xFFFF && r.tgt.inRange h.tgt.toNat && !r.needBuf &&
      !((cmd dev 0 0x68).taken h).permits r.issuers 0) = true ∧
    ringCase (.laneArm (h0 1)) (fun h r => (cmd dev 0 0x15).begin.dispatches h r.opcode && !h.rsvd &&
      h.dptr.toNat % 8 == 0 && h.cid != 0xFFFF && r.tgt.inRange h.tgt.toNat && !r.needBuf && r.tgt == .lane &&
      ((cmd dev 0 0x15).taken h).permits r.issuers 0 && !((cmd dev 0 0x15).taken h).ownsOk r.issuers 0 1) = true ∧
    admits (cmd dev 0 0x15) (.laneArm h0) = true := by decide +kernel

theorem test_completions :
    (statusViolation 0 = none ∧ dev.ringsDead = false ∧ (dev.tenant 0).bme = true ∧ dev.flag F.HST_CQ_CFG_EN 0 = true ∧
      dev.rd F.HST_CQ_CFG_SIZE 0 ≤ 14 ∧ dev.rd F.HST_CQ_STAT_TAIL 0 < 2 ^ dev.rd F.HST_CQ_CFG_SIZE 0) ∧
    (dev.wr F.HST_CQ_STAT_TAIL 63).rd F.HST_CQ_STAT_TAIL 0 + 1 = 2 ^ dev.rd F.HST_CQ_CFG_SIZE 0 ∧
    (dev.wr F.HST_CQ_CFG_EN 0).flag F.HST_CQ_CFG_EN 0 = false := by decide +kernel

theorem test_readsCompleteUnchanged :
    ((cmd dev 0 0x01).Admits (.nop h0) ∧ True) ∧
    ((0x05#8).toNat ∉ opcodes ∧ (cmd dev 0 5).begin.dispatches h0 (0x05#8).toNat = true) ∧
    ((cmd dev 0 0x02).Admits (.identify (h0 0 0 0x1000 256)) ∧ True) ∧
    ((cmd dev 0 0x19).Admits (.laneGetState (h0 47 0 0x1000 96)) ∧ True) ∧
    ((cmd dev 0 0x21).Admits (.phaseGetHealth (h0 191)) ∧ True) ∧
    ((cmd dev 0 0x49).Admits (.paramRead (h0 0 0 0x1000 8) 1 0) ∧ (8 % 8 = 0 ∧ dev.flag F.NVM_STAT_PLOADED = true)) ∧
    ((cmd dev 0 0x40).Admits (.logRead (h0 0 0 0x1000 64) 0) ∧ dev.flag F.NVM_STAT_RECOVERED = true) ∧
    ((cmd dev 0 0x38).Admits (.meterRead (h0 47 0 0x1000 64) 0) ∧ (cmd dev 0 0x38).flag F.NVM_STAT_RECOVERED = true) ∧
    ((cmd dev 0 0x38).Admits (.meterRead (h0 0x100 0 0x1000 192) 0) ∧ (0 : Byte).toNat = 0) := by
  refine ⟨adm ?_, ?_, adm ?_, adm ?_, adm ?_, adm ?_, adm ?_, adm ?_, adm ?_⟩ <;> decide +kernel

/-! ### Lane commands -/

/-- `dev` with lane 0 in a state, with a contract and valid Warping data. -/
def ln (x : LaneState) : State := up (st dev 0 x) [(F.LN_STATE_CONTRACT, 1, 0), (F.LN_WARP_STAT_VALID, 1, 0)]

/-- `dev` with lane 0 owned by `o`. -/
def owned (o : Option Nat) : State := dev.onLane 0 fun x => { x with owner := o }

theorem test_claimAndRelease :
    ((cmd (owned none) 0 0x10).Admits (.laneClaim h0) ∧ ((owned none).lane 0).owner = none ∧ (owned none).configured 0 = true ∧
      (owned none).ownsAny 0 = false ∧ (owned none).laneState 0 = .off) ∧
    ((cmd dev 0 0x10).Admits (.laneClaim (h0 1)) ∧ (dev.lane 1).owner = none ∧ dev.configured 1 = true ∧ dev.ownsAny 0 = true) ∧
    ((cmd (owned (some 7)) 0 0x10).Admits (.laneClaim h0) ∧ ((owned (some 7)).lane 0).owner = some 7) ∧
    ((cmd dev 0 0x11).Admits (.laneRelease h0) ∧ dev.laneState 0 = .off ∧ (dev.lane 0).owner = some 0) ∧
    ((cmd (ln .warping) 0 0x11).Admits (.laneRelease h0) ∧ (ln .warping).laneState 0 = .warping) ∧
    ((cmd (ln .hold) 0 0x11).Admits (.laneRelease h0) ∧ ((ln .hold).laneState 0).inService = true) ∧
    ((cmd (ln .park) 0 0x11).Admits (.laneRelease h0) ∧ (ln .park).laneState 0 = .park ∧ ((ln .park).jml 0).con = none ∧
      ((ln .park).lane 0).owner = some 0) := by
  refine ⟨adm ?_, adm ?_, adm ?_, adm ?_, adm ?_, adm ?_, adm ?_⟩ <;> decide +kernel

theorem test_managersRelease :
    let s := cmd (owned (some 7)) 0 0x11
    s.begin.dispatches h0 0x11 = true ∧ (h0).rsvd = false ∧ (h0).cid ≠ 0xFFFF#16 ∧ (h0).dptr.toNat % 8 = 0 ∧ s.roleOf 0 = 3 ∧
      (s.lane 0).owner = some 7 ∧ s.rdBit F.SEC_TFLAGS_LAPSED 7 = false ∧ (up s [(F.SEC_TFLAGS_LAPSED, 0x80, 0)]).rdBit F.SEC_TFLAGS_LAPSED 7 = true ∧
      (up s [(F.SEC_TFLAGS_LAPSED, 0x80, 0)]).begin.dispatches h0 0x11 = true := by decide +kernel

theorem test_laneSettings :
    ((cmd dev 0 0x12).Admits (.laneSetTarget h0 0 (BitVec.ofInt 32 (-8388607))) ∧ (-8388607 : Int).natAbs ≤ 8388607 ∧
      dev.busForm (dev.segOf 0) = false) ∧
    ((cmd dev 0 0x12).Admits (.laneSetTarget h0 1 1000000) ∧ (1000000#32).toInt.natAbs ≤ 1000000) ∧
    ((cmd dev 0 0x12).Admits (.laneSetTarget h0 2 1000) ∧ 1000 ≤ (1000#32).toInt) ∧
    ((cmd dev 0 0x12).Admits (.laneSetTarget h0 2 999) ∧ ¬ 1000 ≤ (999#32).toInt) ∧
    ((cmd dev 0 0x14).Admits (.laneSetLatency h0 0xFFFFFF) ∧ (0xFFFFFF#32).toNat < 2 ^ 24) ∧
    ((cmd dev 0 0x1A).Admits (.laneSetPolicy h0 3 2 1) ∧ 0 < (3#8).toNat ∧ (3#8).toNat ≤ 3 ∧ (2#8).toNat ≤ 2 ∧ (1#8).toNat ≤ 1) := by
  refine ⟨adm ?_, adm ?_, adm ?_, adm ?_, adm ?_, adm ?_⟩ <;> decide +kernel

/-- Limits with VLO and VHI, and a pair that is out of order. -/
theorem test_limits :
    ((cmd dev 0 0x13).Admits (.laneSetLimits h0 ⟨0x3F, 0, 8388607, 0, 1000000, 0, 1, 2⟩) ∧ True) ∧
    ((cmd dev 0 0x13).Admits (.laneSetLimits h0 ⟨0x30, 0, 0, 0, 0, 0, 2, 2⟩) ∧ ¬ (2#32).toNat < (2#32).toNat) := by
  refine ⟨adm ?_, adm ?_⟩ <;> decide +kernel

theorem test_laneMoves :
    ((cmd (ln .park) 0 0x15).Admits (.laneArm h0) ∧ (ln .park).laneState 0 = .park ∧ (ln .park).flag F.LN_STATE_CONTRACT 0 = true ∧
      (ln .park).flag F.LN_WARP_STAT_VALID 0 = true ∧ (ln .park).flag F.BAY_PWM_CTL_PWM_EN (bayOfLane 0) = true ∧
      (ln .park).flag F.GLB_REF_REF_SETTLED = true ∧ (ln .park).rd F.MTR_CFG_MODE 0 ≠ 2 ∧ (ln .park).calInternal 0 = false ∧
      (ln .park).flag F.LN_STATE_PRESTART 0 = false ∧ (ln .park).flag F.LN_STATE_SUP_HOLD 0 = false) ∧
    ((cmd (ln .runFull) 0 0x15).Admits (.laneArm h0) ∧ (ln .runFull).laneState 0 ≠ .ready ∧ (ln .runFull).laneState 0 ≠ .park) ∧
    ((cmd (ln .ready) 0 0x16).Admits (.lanePark h0) ∧ (ln .ready).laneState 0 = .ready) ∧
    ((cmd (ln .ready) 0 0x18).Admits (.laneWarp h0) ∧ (ln .ready).laneState 0 = .ready ∧ (ln .ready).flag F.LN_STATE_CONTRACT 0 = true ∧
      (ln .ready).flag F.LN_WARP_STAT_RUNNING 0 = false) ∧
    ((cmd (up (ln .ready) [(F.BAY_PHASE_SVC_QUAR, 2, 0)]) 0 0x20).Admits (.phaseReadmit (h0 1)) ∧
      (ln .ready).laneOf 1 = some 0 ∧ (up (ln .ready) [(F.BAY_PHASE_SVC_QUAR, 2, 0)]).quarPh 1 = true) := by
  refine ⟨adm ?_, adm ?_, adm ?_, adm ?_, adm ?_⟩ <;> decide +kernel

/-- Lane 0 FAULTED with its own latch set. -/
def tripped : State := up (ln .faulted) [(F.LN_TRIP_TRIP, 1, 0)]

theorem test_clearTrip :
    ((cmd (ln .park) 0 0x17).Admits (.laneClearTrip h0) ∧ (ln .park).lnLatch 0 = false ∧
      (∀ p ∈ (ln .park).phasesOf 0, (ln .park).phLatch p = false) ∧ (ln .park).laneState 0 ≠ .faulted) ∧
    ((cmd tripped 0 0x17).Admits (.laneClearTrip h0) ∧ tripped.lnLatch 0 = true ∧ tripped.laneRefusal 0 = none ∧
      (∀ p ∈ tripped.phasesOf 0, tripped.phLatch p = false) ∧ tripped.laneState 0 = .faulted ∧ tripped.glbLatch = false ∧
      tripped.safeLow = false ∧ tripped.formOrder 0 ≠ []) := by
  refine ⟨adm ?_, adm ?_⟩ <;> decide +kernel

/-! ### Segment, tenancy, seal and metering commands -/

/-- Segment 0 in bus-form with a holder, a voltage window and a coefficient that is not 0. -/
def sg (holder : Nat) : State :=
  let s := up dev [(F.BUS_STAT_MODE0, 1, 0), (F.BUS_STAT_HOLDER0, holder, 0), (F.BUS_WIN_LO_VMIN, 300000, 0), (F.BUS_WIN_HI_VMAX, 500000, 0)]
  { s with segs := s.segs.map fun x => { x with coefW := x.coefW.set! 0 5 } }

theorem test_segmentCommands :
    ((cmd (sg 0) 0 0x28).Admits (.segmentSetMode h0 0) ∧ (sg 0).busForm 0 ≠ ((0#8).toNat == 1)) ∧
    ((cmd (sg 0) 0 0x28).Admits (.segmentSetMode (h0 1) 1) ∧ vget ((sg 0).seg 1).coefW 0 0 ≠ 0 ∧ (sg 0).busForm 1 ≠ ((1#8).toNat == 1)) ∧
    ((cmd (sg 0) 0 0x29).Admits (.segmentSetTarget h0 15 300000 10000 65535 1000000) ∧
      (sg 0).rd F.BUS_WIN_LO_VMIN 0 ≤ 300000 ∧ 300000 ≤ (sg 0).rd F.BUS_WIN_HI_VMAX 0 ∧ (sg 0).busForm 0 = true ∧ (sg 0).holder 0 = 0) ∧
    ((cmd (sg 2) 0 0x29).Admits (.segmentSetTarget h0 1 500000 0 0 0) ∧ 500000 ≤ (sg 2).rd F.BUS_WIN_HI_VMAX 0 ∧ (sg 2).holder 0 = 2) ∧
    ((cmd (sg 1) 0 0x29).Admits (.segmentSetTarget h0 12 0 0 65535 1000000) ∧ (12#8).getLsbD 0 = false ∧ (12#8).getLsbD 1 = false ∧
      (sg 1).busForm 0 = true ∧ (sg 1).holder 0 = 1) ∧
    ((cmd dev 0 0x2A).Admits (.segmentSetSharing (h0 3) 1 (.ok [])) ∧ (1#8).toNat ≤ 1) ∧
    ((cmd dev 0 0x2A).Admits (.segmentSetSharing (h0 0 0 0x1000 48) 2 (.ok [1, 2])) ∧ 48 ≤ (48 : Word).toNat) := by
  refine ⟨adm ?_, adm ?_, adm ?_, adm ?_, adm ?_, adm ?_, adm ?_⟩ <;> decide +kernel

/-- Both ports up: tenants 0 and 4 present. -/
def both : State := up dev [(F.HST_LINK_B_UP, 1, 0), (F.HST_LINK_B_GEN, 3, 0)]

/-- Sealed, with tenant 1 in the Meter role. -/
def sealedDev : State := up both [(F.SEC_STAT_SEALED, 1, 0), (F.SEC_ROLE_ROLE1, 2, 0)]

theorem test_rolesAreGiven :
    ((cmd both 0 0x61).Admits (.tenantSetRole (h0 4) 2) ∧ both.sec.promoDue = false ∧ both.absent 4 = false ∧
      both.flag F.SEC_STAT_SEALED = false ∧ both.roleOf 4 ≠ 2) ∧
    ((cmd both 0 0x61).Admits (.tenantSetRole (h0 4) 0) ∧ both.roleOf 4 = 0) ∧
    ((cmd both 0 0x61).Admits (.tenantSetRole (h0 4) 3) ∧ both.absent 4 = false) ∧
    ((cmd sealedDev 0 0x61).Admits (.tenantSetRole (h0 4) 2) ∧ sealedDev.absent 4 = false ∧ sealedDev.flag F.SEC_STAT_SEALED = true ∧
      ((sealedDev.roleOf 4 = 2) ≠ ((2#8).toNat = 2))) ∧
    ((cmd both 0 0x61).Admits (.tenantSetRole (h0 4) 4) ∧ 3 < (4#8).toNat) ∧
    ((cmd dev 0 0x61).Admits (.tenantSetRole (h0 7) 1) ∧ dev.absent 7 = true) := by
  refine ⟨adm ?_, adm ?_, adm ?_, adm ?_, adm ?_, adm ?_⟩ <;> decide +kernel

/-- Tenant 1 quarantined. -/
def quarDev : State := (up dev [(F.SEC_TFLAGS_QUAR, 2, 0)]).onTenant 1 fun x => { x with quar := 1, viol := 65, window := some 5 }

theorem test_heartbeatAndRelease :
    ((cmd dev 0 0x60).Admits (.tenantHeartbeat h0 0) ∧ True) ∧
    ((cmd dev 0 0x60).Admits (.tenantHeartbeat h0 10000) ∧ 10 ≤ (10000#32).toNat ∧ (10000#32).toNat ≤ 10000) ∧
    ((cmd dev 0 0x62).Admits (.tenantReleaseQuarantine (h0 1)) ∧ dev.quarT 1 = false) ∧
    ((cmd quarDev 0 0x62).Admits (.tenantReleaseQuarantine (h0 1)) ∧ quarDev.quarT 1 = true) ∧
    (quarDev.MayWrite ⟨0, 0x101⟩ ∧ (0x101#32).getLsbD 8 = true ∧ quarDev.quarT (F.SEC_TSEL_TSEL.of (0x101#32).toNat) = true) := by
  refine ⟨adm ?_, adm ?_, adm ?_, adm ?_, mayw ?_⟩ <;> decide +kernel

/-- Manager 0 on a link that is down, tenant 4 as the standby on the other. -/
def absentDev : State := up both [(F.HST_LINK_A_UP, 0, 0)]

theorem test_standby : dev.absent dev.manager = false ∧
    (absentDev.absent absentDev.manager = true ∧ absentDev.standby = some 4 ∧ absentDev.absent 4 = false) ∧
    ((up dev [(F.HST_LINK_A_UP, 0, 0)]).absent 0 = true ∧ ∀ t, (up dev [(F.HST_LINK_A_UP, 0, 0)]).standby = some t →
      (up dev [(F.HST_LINK_A_UP, 0, 0)]).absent t = true) := by
  refine ⟨by decide +kernel, by decide +kernel, by decide +kernel, fun t h => ?_⟩
  have : (up dev [(F.HST_LINK_A_UP, 0, 0)]).standby = some 4 := by decide +kernel
  rw [this] at h
  cases h
  decide +kernel

/-- Tenant 7 with an open window and `n` violations. -/
def violated (n : Nat) : State := dev.onTenant 7 fun x => { x with viol := n, window := some 77 }

theorem test_violations : (dev.quarT 7 = false ∧ (dev.tenant 7).window = none) ∧
    ((violated 63).quarT 7 = false ∧ ((violated 63).tenant 7).window = some 77 ∧ ((violated 63).tenant 7).viol < 64) ∧
    ((violated 64).quarT 7 = false ∧ ((violated 64).tenant 7).window = some 77 ∧ ((violated 64).tenant 7).viol = 64 ∧
      (violated 64).slv.intake.length < 63) := by decide +kernel

/-- Tenant 1 present on port A's second function, in the Meter role. -/
def meterDev : State := (up dev [(F.SEC_ROLE_ROLE1, 2, 0)]).onTenant 1 fun x => { x with bme := true, exists' := true }

/-- Sealed by tenant 1, with a challenge held. -/
def sealed1 (b : Option (List Byte)) : State :=
  let s := up meterDev [(F.SEC_STAT_SEALED, 1, 0), (F.SEC_STAT_SEALER, 1, 0)]
  { s with sec := { s.sec with challenge := b } }

theorem test_seal :
    ((cmd (sealed1 none) 1 0x68).Admits (.sealDevice (h0 0 1)) ∧ (sealed1 none).flag F.SEC_STAT_SEALED = true) ∧
    ((cmd meterDev 1 0x68).Admits (.sealDevice (h0 0 1)) ∧ meterDev.flag F.SEC_STAT_SEALED = false ∧
      (∀ l < 48, meterDev.rd F.MTR_CFG_MODE l ≠ 2) ∧ meterDev.flag F.NVM_STAT_RECOVERED = true) ∧
    ((cmd (sealed1 none) 1 0x69).Admits (.unsealChallenge (h0 0 1)) ∧ (sealed1 none).flag F.SEC_STAT_SEALED = true) ∧
    ((cmd (sealed1 none) 1 0x6A).Admits (.unsealResponse (h0 0 1) (Vector.replicate 16 0)) ∧ (sealed1 none).sec.challenge = none) ∧
    ((cmd (sealed1 (some [1])) 1 0x6A).Admits (.unsealResponse (h0 0 1) (Vector.replicate 16 0)) ∧
      (sealed1 (some [1])).sec.challenge = some [1]) := by
  refine ⟨adm ?_, adm ?_, adm ?_, adm ?_, adm ?_⟩ <;> decide +kernel

theorem test_meterCommands :
    ((cmd (owned (some 1)) 0 0x39).Admits (.meterStatement (h0 1 0 0x1000 128) 7) ∧ dev.flag F.NVM_STAT_RECOVERED = true) ∧
    ({ dev with sec := { dev.sec with stmts := [⟨⟨0, 1, 0x39, false, 0x1000, 128⟩, []⟩] } } : State).sec.stmts ≠ [] ∧
    ((cmd (meterDev.onCtr 303 fun c => { c with st := .void }) 1 0x3A).Admits (.meterResolveDispute (h0 303 1) 1) ∧
      ((meterDev.onCtr 303 fun c => { c with st := .void }).ctr 303).st ≠ .normal ∧ meterDev.nvm.resolve = none ∧
      ((meterDev.onCtr 303 fun c => { c with st := .void }).ctr 303).held = false) ∧
    ((cmd meterDev 1 0x3B).Admits (.meterCalibrate (h0 47 1) 1 0 1 20 0) ∧ meterDev.flag F.SEC_STAT_SEALED = false ∧
      meterDev.laneState 47 ≠ .warping ∧ (meterDev.laneState 47).inService = false ∧ meterDev.rd F.MTR_STAT_MODE_NOW 47 = 0 ∧
      (meterDev.meter 47).calib = none) := by
  refine ⟨adm ?_, by decide +kernel, adm ?_, adm ?_⟩ <;> decide +kernel

/-- An offset calibration of lane 0 whose window of 1,024 samples is complete. -/
def cal (sum : Int) : Calib := ⟨0, 0, false, 1024, 0, sum, 1024, 0⟩

theorem test_offsetCalibration :
    ((dev.onMeter 0 fun m => { m with calib := some (cal (32767 * 1024)) }).meter 0).calib = some (cal (32767 * 1024)) ∧
    (rndDiv (cal (32767 * 1024)).sum 1024 - rndDiv (0 * 4194304) (dev.fullScale 0 0)).natAbs ≤ 32767 ∧
    32767 < (rndDiv (cal (32768 * 1024)).sum 1024 - rndDiv (0 * 4194304) (dev.fullScale 0 0)).natAbs := by decide +kernel

/-! ### Log, parameters, link commands, telemetry, soft reset -/

/-- The log buffer full: records 0 to 511 wait for the flash, and 511 is the next number. -/
def logFull : State := let s := up dev [(F.SLV_NEXT_NEXT, 511, 0)]; { s with slv := { s.slv with pend := [0] } }

theorem test_logCommands :
    ((cmd dev 0 0x41).Admits (.logConfig h0 15 (Vector.replicate 8 0)) ∧ (15#8).toNat ≤ 15 ∧ dev.slv.sel.length = 128) ∧
    ((cmd dev 0 0x42).Admits (.logMark h0 0 (Vector.replicate 8 1)) ∧ dev.slv.lost = 0 ∧ dev.canOpen = true) ∧
    ((cmd logFull 0 0x42).Admits (.logMark h0 0 (Vector.replicate 8 1)) ∧ logFull.slv.lost = 0 ∧
      logFull.flag F.NVM_STAT_RECOVERED = true ∧ logFull.canOpen = false) := by
  refine ⟨adm ?_, adm ?_, adm ?_⟩ <;> decide +kernel

theorem test_staging :
    ((cmd dev 0 0x48).Admits (.paramWrite (h0 0 0 0x1000 8) 0 (.ok (leBytes 4 0x104 ++ leBytes 4 9))) ∧
      leAt (fitBytes 8 (leBytes 4 0x104 ++ leBytes 4 9)) 0 4 % 4 = 0 ∧ dev.flag F.NVM_STAT_PLOADED = true ∧
      dev.flag F.NVM_STAT_COMMIT = false ∧ dev.nvm.staging.length < 12280) ∧
    ((cmd dev 0 0x48).Admits (.paramWrite (h0 0 0 0x1000 8) 2 (.ok [])) ∧ leAt (fitBytes 8 []) 0 4 % 4 = 0) ∧
    ((cmd dev 0 0x48).Admits (.paramWrite (h0 0 0 0 16) 3 (.ok [])) ∧ (16 : Word).toNat % 8 = 0) ∧
    ((cmd dev 0 0x48).Admits (.paramWrite (h0 0 0 0x1000 8) 2 (.err 4)) ∧ (2#8).toNat < 3) ∧
    ((cmd dev 0 0x4A).Admits (.paramCommit h0) ∧ dev.flag F.NVM_STAT_RECOVERED = true ∧ dev.flag F.SEC_STAT_SEALED = false ∧
      dev.nvm.activeBank = none) ∧
    ({ dev.nvm with bank0 := some ⟨7, 0, []⟩ } : Nvm).activeBank = some (0, ⟨7, 0, []⟩) := by
  refine ⟨adm ?_, adm ?_, adm ?_, adm ?_, adm ?_, ?_⟩ <;> decide +kernel

/-- A contract, and lane 0 in a state with a link. -/
def con : Contract := ⟨1, 4000, 6000, 5000, 5000, 0, 60⟩
def lk (s : State) (x : LaneState) (f : Jml → Jml) : State := (st s 0 x).onLane 0 fun l => { l with jml := f l.jml }
def held (j : Jml) : Jml := { j with con := some con, link := .held, caps := List.replicate 22 1 ++ [3, 0] }
def swappedDev : State := up dev [(F.LN_JML_ROLE, 1, 0)]

theorem test_linkCommands :
    ((cmd (lk dev .ready held) 0 0x50).Admits (.linkSend h0 1 32 (Vector.replicate 32 7)) ∧ (32#8).toNat ≤ 32 ∧
      ((lk dev .ready held).jml 0).con ≠ none ∧ (lk dev .ready held).swapped 0 = false ∧
      (∀ w ∈ (lk dev .ready held).waits, w.wait ≠ .linkData 0)) ∧
    ((cmd (lk dev .lost id) 0 0x51).Admits (.linkRenegotiate h0) ∧ (lk dev .lost id).laneState 0 = .lost) ∧
    ((cmd (lk dev .hold held) 0 0x51).Admits (.linkRenegotiate h0) ∧ ((lk dev .hold held).laneState 0).inService = true ∧
      ((lk dev .hold held).jml 0).con ≠ none ∧ ((lk dev .hold held).jml 0).reneg = false ∧ (lk dev .hold held).swapped 0 = false) ∧
    ((cmd (lk swappedDev .ready held) 0 0x52).Admits (.linkRoleSwap h0 1) ∧
      ((1#8).toNat == 1) = (lk swappedDev .ready held).swapped 0) ∧
    ((cmd (lk dev .ready held) 0 0x52).Admits (.linkRoleSwap h0 1) ∧ (lk dev .ready held).swapped 0 = false ∧
      bitN (leAt ((lk dev .ready held).jml 0).caps 22 1) 1 = true ∧ ((lk dev .ready held).jml 0).has 0x0A = false) := by
  refine ⟨adm ?_, adm ?_, adm ?_, adm ?_, adm ?_⟩ <;> decide +kernel

/-- Stream 3 of tenant 0 open on lanes 0 and 1. -/
def streaming : State := dev.onTenant 0 fun x => { x with
  streams := x.streams.set! 3 (some ⟨3, 10, 0x1000, 7, 0x2000, 2, 1, 5, 0, 3, Vector.replicate 48 ⟨0, 0, 0, 0, 0, false⟩⟩) }

theorem test_telemetry :
    ((cmd dev 0 0x30).Admits (.telemetryStreamOpen h0 ⟨3, 16, 7, 1, false, 10000, 1, 0x1000, 8⟩) ∧
      vget (dev.tenant 0).streams 3 none = none ∧ (dev.linkOf (portOf 0)).1 = true ∧
      dev.portRate (portOf 0) + streamRate 1 10000 ≤ linkBudget (dev.linkOf (portOf 0)).2.1 (dev.linkOf (portOf 0)).2.2) ∧
    ((cmd dev 0 0x31).Admits (.telemetryStreamClose h0 3) ∧ vget (dev.tenant 0).streams 3 none = none) ∧
    ((cmd streaming 0 0x31).Admits (.telemetryStreamClose h0 3) ∧ vget (streaming.tenant 0).streams 3 none ≠ none) ∧
    (streaming.ringsDead = false ∧ (streaming.tenant 0).bme = true ∧ (lanesOf 3).length ≤ 2) := by
  refine ⟨adm ?_, adm ?_, adm ?_, ?_⟩ <;> decide +kernel

def resetting : State := { dev with power := { dev.power with stage := .softReset } }

theorem test_softReset :
    ((cmd dev 0 0x70).Admits (.deviceSoftReset h0 0x52E6) ∧ (0x52E6 : Word) ≠ 0x52E5#32) ∧
    ((cmd resetting 0 0x70).Admits (.deviceSoftReset h0 0x52E5) ∧ resetting.power.stage ≠ .run) ∧
    ((cmd (ln .runFull) 0 0x70).Admits (.deviceSoftReset h0 0x52E5) ∧ (ln .runFull).power.stage = .run ∧
      ((ln .runFull).laneState 0).inService = true) := by
  refine ⟨adm ?_, adm ?_, adm ?_⟩ <;> decide +kernel

/-! ### Port M -/

def pm (f : PortM → PortM) : State := { up dev [(F.SMB_M_CFG_EN, 1, 0), (F.SMB_M_CFG_ARA_EN, 1, 0)] with portM := f dev.portM }
def rq : PmReq := ⟨⟨0, 9, 0x58, false, 0, 0⟩, 0x20, 0, 2, 0, false, [1, 2]⟩
def polls : Vector PollEnt 32 := Vector.replicate 32 ⟨0x80, 0, true, 0, some 5⟩

theorem test_portMQueues :
    ((cmd (pm fun p => { p with q := List.replicate 8 rq }) 0 0x58).Admits (.portmTransfer (h0 0 0 0x1000 32) 0x7F 2 32 32 1 (Vector.replicate 32 7)) ∧
      8 ≤ (pm fun p => { p with q := List.replicate 8 rq }).portM.q.length) ∧
    ((cmd (pm fun p => { p with free := false }) 0 0x58).Admits (.portmTransfer h0 0 0 1 0 0 (Vector.replicate 32 7)) ∧
      (pm fun p => { p with free := false }).pmReady = false) ∧
    ((cmd (pm fun p => { p with free := true }) 0 0x58).Admits (.portmTransfer h0 0 1 0 1 0 (Vector.replicate 32 7)) ∧
      (pm fun p => { p with free := true }).pmReady = true ∧ (pm id).portM.q = [] ∧ (pm id).portM.ara = false ∧ (pm id).portM.due = 0) ∧
    (((pm fun p => { p with polls := polls, free := false }).pollEnt 31).en = true ∧
      (pm fun p => { p with polls := polls, free := false }).pmReady = false ∧ (pm id).flag F.SMB_M_CFG_EN = true) ∧
    ((pm id).portM.act = none ∧ (pm id).flag F.SMB_M_STAT_STUCK = false) ∧
    ((pm id).flag F.SMB_M_CFG_ARA_EN = true ∧ (pm fun p => { p with araAt := some 3000000 }).tb = 5000000) := by
  refine ⟨adm ?_, adm ?_, adm ?_, ?_, ?_, ?_⟩ <;> decide +kernel

theorem test_portM :
    ((pm fun p => { p with act := some (.poll 31), polls := polls }).portM.wait = false ∧
      ((pm fun p => { p with polls := polls }).pollEnt 31).valid = true ∧ ((pm fun p => { p with polls := polls }).pollEnt 31).fails = 0) ∧
    ((pm fun p => { p with act := some (.pass rq false), losses := 6 }).portM.losses < 7 ∧ 7 ≤ (7 : Nat)) ∧
    ((pm fun p => { p with act := some .alert, wait := true, free := true }).portM.act ≠ none) ∧
    ((pm id).flag F.SMB_M_CFG_EN = true ∧ (pm id).portM.act = none ∧ (pm id).flag F.SMB_M_STAT_STUCK = false ∧
      (pm id).flag F.SMB_M_STAT_RECOVERING = false) ∧
    ((up (pm fun p => { p with tries := 3 }) [(F.SMB_M_STAT_RECOVERING, 1, 0)]).flag F.SMB_M_STAT_RECOVERING = true ∧
      (up (pm id) [(F.SMB_M_STAT_STUCK, 1, 0)]).flag F.SMB_M_STAT_STUCK = true ∧ (pm id).portM.q = [] ∧ (pm id).portM.ara = false ∧
      (pm id).portM.due = 0) := by decide +kernel

/-! ### Port S, the Treadle, JTAG -/

/-- Port S with its address and a page. -/
def ps (l : Nat) : State := up dev [(F.SMB_S_STAT_ADDR_VALID, 1, 0), (F.SMB_S_STAT_PAGE, l, 0), (F.SMB_S_STAT_ADDR, 0x4F, 0)]

theorem test_portS :
    ((ps 47).psAnswers = true ∧ (ps 47).power.psWake = false ∧ (ps 47).rd F.SMB_S_STAT_PAGE < 48 ∧ (ps 47).supOut = 0 ∧
      (ps 47).needsClear 47 = false) ∧
    ((ps 0xFF).psAnswers = true ∧ (ps 0xFF).rd F.SMB_S_STAT_PAGE = 0xFF) ∧
    ((ps 0).flag F.SMB_S_CFG_PEC_REQ = false ∧ ((st (ps 0) 0 .runFull).laneState 0).inService = true) ∧
    ((47#8).toNat < 48 ∧ (up (ps 0) [(F.LN_STATE_SUP_HOLD, 1, 0)]).flag F.LN_STATE_SUP_HOLD 0 = true) ∧
    ((ps 0).psFits 1 0x99 = true ∨ (ps 0).psFits 2 0x99 = true) ∧
    (dev.flag F.SMB_S_STAT_ADDR_VALID = false ∧ dev.flag F.GLB_BAY_STAT_AN_ON 0 = true) ∧
    ((up (ps 0) [(F.SMB_S_STAT_ALERT, 1, 0)]).psAnswers = true ∧ (up (ps 0) [(F.SMB_S_STAT_ALERT, 1, 0)]).flag F.SMB_S_STAT_ALERT = true) := by
  decide +kernel

/-- The Treadle port live, with segments enabled and a holder of segment 0. -/
def trd (en bf holder : Nat) : State := up dev [(F.TRD_CFG_PORT_EN, 1, 0), (F.TRD_CFG_SEG_EN, en, 0), (F.BUS_STAT_MODE0, bf, 0),
  (F.BUS_STAT_HOLDER0, holder, 0), (F.BUS_WIN_LO_VMIN, 300000, 0), (F.BUS_WIN_HI_VMAX, 500000, 0)]

theorem test_treadle :
    ((trd 1 1 0).trdLive = true ∧ (trd 1 1 0).rdBit F.TRD_CFG_SEG_EN 0 = true ∧ (trd 1 1 0).busForm 0 = true ∧ (trd 1 1 0).holder 0 = 0 ∧
      (trd 1 1 0).rd F.BUS_WIN_LO_VMIN 0 ≤ 5 * 60000 ∧ 5 * 100000 ≤ (trd 1 1 0).rd F.BUS_WIN_HI_VMAX 0) ∧
    ((trd 1 1 1).holder 0 = 1 ∧ 10000 < (10001#24).toNat ∧ (trd 1 1 2).holder 0 = 2) ∧
    ((trd 0 1 0).trdLive = true ∧ (trd 0 1 0).rdBit F.TRD_CFG_SEG_EN 0 = false ∧ (trd 0 1 0).rdBit F.TRD_CFG_SEG_EN 3 = false) ∧
    ((trd 1 0 0).rdBit F.TRD_CFG_SEG_EN 0 = true ∧ (trd 1 0 0).busForm 0 = false) ∧
    ((0#4).toNat ∉ [1, 2, 3, 4, 8, 9] ∧ (15#4).toNat ∉ [1, 2, 3, 4, 8, 9]) := by decide +kernel

theorem test_jtag :
    (dev.flag F.SEC_STAT_SEALED = false ∧ dev.flag F.GLB_PWM_STAT_FREEZE = false ∧ (0xD501#16).toNat / 256 = 0xD5 ∧
      (0xD501#16).getLsbD 0 = true) ∧
    (sealedDev.flag F.SEC_STAT_SEALED = true ∧ sealedDev.safeLow = false) ∧
    ((up dev [(F.GLB_PWM_STAT_FREEZE, 1, 0)]).flag F.GLB_PWM_STAT_FREEZE = true ∧ (0xD5FE#16).getLsbD 0 = false) ∧
    (0xD4FF#16).toNat / 256 ≠ 0xD5 := by decide +kernel

/-! ### The module link -/

def isHard : Link → Bool | .hard _ => true | _ => false

theorem notHard {k : Link} (h : isHard k = false) : ∀ n, k ≠ .hard n := fun n e => by rw [e] at h; cases h

theorem answering {s : State} {l : Nat} {f : JmlRx} {q : JFrame}
    (h : decide (s.laneState l ≠ .off ∧ s.laneState l ≠ .lost ∧ isHard (s.jml l).link = false ∧ (s.jml l).wire = none ∧
      (s.jml l).out = some q ∧ f.ver = 0 ∧ q.seq = some (f.seq.toNat % 16)) = true) : Answering s l f q := by
  obtain ⟨a, b, c, d, e, g, i⟩ := of_decide_eq_true h
  exact ⟨⟨a, b⟩, notHard c, d, e, g, i⟩

def capsP : List Byte := leBytes 1 1 ++ leBytes 1 14 ++ leBytes 2 4000 ++ leBytes 2 6000 ++ leBytes 2 5000 ++ leBytes 2 5000 ++
  leBytes 1 0 ++ leBytes 1 60 ++ leBytes 1 100 ++ leBytes 8 77 ++ leBytes 1 3 ++ leBytes 1 0 ++ leBytes 1 1
def kaP : List Byte := leBytes 2 1 ++ leBytes 2 5000 ++ leBytes 2 4999 ++ leBytes 2 4000 ++ leBytes 2 6000 ++ leBytes 2 0xFFFF ++
  leBytes 1 0x80 ++ leBytes 1 25 ++ leBytes 2 5000 ++ leBytes 1 1

/-- A request of a type the Kuvin has outstanding, and the frame that answers it. -/
def req (t : Nat) : JFrame := ⟨t, [], some 3, false, false⟩
def ans (p : List Byte) : JmlRx := ⟨3, false, false, 0, p⟩
def asking (x : LaneState) (t : Nat) (c : Option Contract) : State :=
  lk (up dev [(F.LN_JML_CLASS, 1, 0), (F.LN_IPH_IPH_MAX, 60000, 0), (F.LN_STATE_NFULL, 2, 0), (F.LN_JML_AUX_PREF, 0, 0),
    (F.BUS_WIN_LO_VMIN, 300000, 0)]) x
    fun j => { j with out := some (req t), con := c, ask := some con, link := if c.isSome then .held else .negot, tries := 1 }

theorem test_linkEntry :
    (Answering (asking .negotiate 0x01 none) 0 (ans capsP) (req 0x01) ∧
      capsOk ((asking .negotiate 0x01 none).rd F.LN_JML_CLASS 0) capsP = true ∧
      (asking .negotiate 0x01 none).rd F.LN_JML_AUX_PREF 0 = 0 ∧
      leAt capsP 2 2 < min (leAt capsP 4 2) (((asking .negotiate 0x01 none).clamps 0).2 *
        (asking .negotiate 0x01 none).rd F.BUS_WIN_LO_VMIN ((asking .negotiate 0x01 none).segOf 0) / 65536 / 10).toNat) ∧
    (Answering (asking .negotiate 0x03 none) 0 (ans [1, 0, 0]) (req 0x03) ∧ leAt [1, 0, 0] 0 2 = con.cnum) ∧
    (Answering (asking .negotiate 0x03 none) 0 (ans [1, 0, 5]) (req 0x03) ∧ leAt [1, 0, 5] 2 1 = 5) := by
  refine ⟨⟨answering ?_, ?_⟩, ⟨answering ?_, ?_⟩, ⟨answering ?_, ?_⟩⟩ <;> decide +kernel

theorem test_inRange : InRange con kaP ∧ InRange con ((1 :: kaP).drop 1) ∧ con.vlo < con.vhi := by
  refine ⟨⟨?_, ?_, ?_, ?_, ?_, ?_, ?_, ?_, ?_⟩, ⟨?_, ?_, ?_, ?_, ?_, ?_, ?_, ?_, ?_⟩, ?_⟩ <;> decide +kernel

theorem test_keepAlive :
    (Answering (asking .ready 0x06 (some con)) 0 (ans kaP) (req 0x06) ∧ kaP.length = 17 ∧
      ((asking .ready 0x06 (some con)).jml 0).con = some con ∧ (asking .ready 0x06 (some con)).swapped 0 = false) ∧
    (Answering (asking .ready 0x06 (some con)) 0 (ans []) (req 0x06) ∧ ((asking .ready 0x06 (some con)).jml 0).tries < 2) ∧
    (Answering (asking .runFull 0x08 (some con)) 0 (ans (1 :: kaP)) (req 0x08) ∧ (1 :: kaP).length = 18 ∧ leAt (1 :: kaP) 0 1 = 1) := by
  refine ⟨⟨answering ?_, ?_⟩, ⟨answering ?_, ?_⟩, ⟨answering ?_, ?_⟩⟩ <;> decide +kernel

theorem test_linkAnswers :
    Answering (asking .ready 0x05 (some con)) 0 (ans [5, 0]) (req 0x05) ∧ Answering (asking .ready 0x0A (some con)) 0 (ans [0, 0]) (req 0x0A) ∧
    Answering (asking .ready 0x0A (some con)) 0 (ans [1, 0]) (req 0x0A) ∧
    Answering (asking .ready 0x0E (some con)) 0 (ans (List.replicate 33 9)) (req 0x0E) := by
  refine ⟨answering ?_, answering ?_, answering ?_, answering ?_⟩ <;> decide +kernel

theorem test_linkViolations :
    ((lk dev .ready held).laneState 0 ≠ .off ∧ ((lk dev .ready held).jml 0).out = none ∧ (lk dev .ready held).laneState 0 ≠ .lost ∧
      (lk dev .ready held).swapped 0 = false ∧ knownType 0x7D = false) ∧ (∀ n, ((lk dev .ready held).jml 0).link ≠ .hard n) ∧
    ((lk swappedDev .ready fun j => { held j with seqIn := 3 }).swapped 0 = true ∧
      ((lk swappedDev .ready fun j => { held j with seqIn := 3 }).jml 0).wire = none ∧ (ans []).seq.toNat % 16 = 3) ∧
    (((lk dev .ready fun j => { j with out := some (req 6), timing := true, tries := 1 }).jml 0).timing = true) := by
  refine ⟨?_, notHard ?_, ?_, ?_⟩ <;> decide +kernel

/-- A line with two frames that wait. -/
def lined : State := lk dev .ready fun j =>
  { held j with seqOut := 15, due := [⟨0x0E, [1], none, false, false⟩, ⟨0x03, [1, 2], none, false, false⟩] }

theorem test_linkWire :
    (firstDue (lined.jml 0).due = some ⟨0x03, [1, 2], none, false, false⟩ ∧ (lined.jml 0).wire = none ∧ (lined.jml 0).out = none) ∧
    (∀ n, (lined.jml 0).link ≠ .hard n) ∧
    ((lk dev .ready fun j => { j with wire := some (req 1) }).jml 0).wire = some (req 1) ∧
    ((lined.jml 0).con ≠ none ∧ lined.swapped 0 = false ∧ (lined.jml 0).has 0x08 = false ∧ (lined.jml 0).link = .held) ∧
    ((lk swappedDev .ready held).swapped 0 = true ∧ ((lk swappedDev .ready held).jml 0).has 0x0C = false) := by
  refine ⟨?_, notHard ?_, ?_, ?_, ?_⟩ <;> decide +kernel

def hardAt (n : Nat) : State := lk dev .detect fun j => { j with link := .hard n }
def held2 (f : LaneSt → LaneSt) : State := (lk dev .ready held).onLane 0 f

theorem test_hardResets :
    (((lk dev .ready fun j => { held j with grace := true }).jml 0).grace = true ∧
      ((lk dev .ready fun j => { held j with grace := true }).jml 0).leaving = none ∧
      ((lk dev .runFull fun j => { held j with grace := true }).laneState 0).inService = true) ∧
    (((held2 fun l => { l with brV := true }).jml 0).con ≠ none ∧ ((held2 fun l => { l with brV := true }).lane 0).brV = true ∧
      ((held2 fun l => { l with brI := true }).lane 0).brI = true ∧ ((held2 id).jml 0).leaving = none) ∧
    (((hardAt 2).jml 0).link = .hard 2 ∧ (hardAt 2).rd F.LN_JML_HRST 0 < 3 ∧ ((hardAt 2).jml 0).leaving = none ∧
      ((hardAt 0).jml 0).link = .hard 0 ∧ ((hardAt 1).jml 0).link = .hard 1 ∧
      3 ≤ (up (hardAt 2) [(F.LN_JML_HRST, 3, 0)]).rd F.LN_JML_HRST 0) ∧
    (let s := lk dev .negotiate fun j => { j with link := .contactor, ask := some con }
     (s.jml 0).link = .contactor ∧ (s.jml 0).reneg = false ∧ (s.jml 0).afterHard = false ∧ s.laneState 0 = .negotiate) := by
  decide +kernel

def ident (c n : Nat) : State := lk dev .detect fun j => { j with link := .ident, idOff := false, idCls := c, idRun := n, idN := 7 }

theorem test_identification :
    (((ident 1 3).jml 0).link = .ident ∧ ((ident 1 3).jml 0).idOff = false ∧ idClass (1817#12).toNat = 1 ∧ ((ident 1 3).jml 0).idCls = 1 ∧
      3 ≤ ((ident 1 3).jml 0).idRun) ∧
    idClass (165 : Nat) = 7 ∧ idClass 199 = 7 ∧ idClass (2000#12).toNat = 0 ∧ idClass 1981 = 0 := by decide +kernel

/-! ### Segments, loops, the Shuttle, carriers, the Reed -/

def frozen : State := up dev [(F.GLB_PWM_STAT_FREEZE, 1, 0)]
def segf (bf : Nat) (f : SegSt → SegSt) : State :=
  let s := up (st dev 0 .runFull) [(F.BUS_STAT_MODE0, bf, 0), (F.LN_IPH_IPH_MAX, 60000, 0), (F.LN_STATE_N, 2, 0), (F.LN_STATE_NFULL, 2, 0)]
  { s with segs := s.segs.map f }

theorem test_segmentUpdates :
    frozen.flag F.GLB_PWM_STAT_FREEZE = true ∧
    ((segf 0 id).flag F.GLB_PWM_STAT_FREEZE = false ∧ ((segf 0 id).seg 0).pend = none ∧ (segf 0 id).busForm 0 = false) ∧
    ((segf 1 fun x => { x with plim := 100 }).busForm 0 = true ∧ (∀ l ∈ (segf 1 id).lanesOfSeg 0, 0 ≤ ((segf 1 id).lane l).vMod) ∧
      1000 ≤ ((segf 1 id).seg 0).vBus ∧ 0 < ((segf 1 fun x => { x with plim := 100 }).seg 0).plim) ∧
    ((segf 1 fun x => { x with vBus := 999 }).seg 0).vBus < 1000 ∧
    ((segf 0 fun x => { x with pend := some true }).seg 0).pend = some true ∧
    ((segf 1 fun x => { x with pend := some false }).seg 0).pend = some false ∧
    ((segf 1 fun x => { x with cap := 1000 }).seg 0).cap = 1000 ∧ ((segf 1 id).seg 0).cap ≠ 1000 ∧
    ((∀ l ∈ (segf 1 id).lanesOfSeg 0, 0 ≤ ((segf 1 id).lane l).vMod) ∧ (segf 1 id).inShare 1 = false ∧
      1 ∈ (segf 1 id).lanesOfSeg 0 ∧ 47 ∉ (segf 1 id).lanesOfSeg 0) := by decide +kernel

/-- Lane 0 in RUN-FULL with both phases driven, POLICY_EN and the Shuttle off. -/
def run (x : LaneState) (ph : PhaseSt → PhaseSt) : State :=
  let s := up (st dev 0 x) [(F.LN_IPH_IPH_MAX, 60000, 0), (F.LN_STATE_N, 2, 0), (F.LN_STATE_NFULL, 2, 0), (F.BAY_PHASE_SVC_DRIVEN, 3, 0),
    (F.LN_CTL_POLICY_EN, 0, 0), (F.BAY_SHTL_CFG_EN, 0, 0)]
  { s with phases := s.phases.map ph }

theorem test_laneUpdates :
    ((run .runFull id).flag F.GLB_PWM_STAT_FREEZE = false ∧ ((run .runFull id).lane 0).moves = [] ∧ ((run .runFull id).lane 0).lose = [] ∧
      ((run .runFull id).lane 0).reform = false ∧ ((run .runFull id).lane 0).coefPend = []) ∧
    ((run .ready id).laneState 0 = .ready ∧ (run .lost id).laneState 0 = .lost) ∧
    ((run .runFull id).laneState 0 = .runFull ∧ (run .runFull id).drivenOf 0 = ((run .runFull id).lane 0).order ∧
      ((run .runFull id).lane 0).order ≠ [] ∧ ((run .runFull id).lane 0).order.Nodup ∧ (∀ p ∈ ((run .runFull id).lane 0).order, p < 192) ∧
      (run .runFull id).flag F.LN_CTL_POLICY_EN 0 = false ∧ ((run .runFull id).bay (bayOfLane 0)).shuttle = none ∧
      (run .runFull id).flag F.BAY_SHTL_CFG_EN (bayOfLane 0) = false) ∧
    (((run .runFull id).pick 0 2 [] 0).win = 0) := by decide +kernel

/-- A Shuttle sequence of lane 0, and the same with an abort pending. -/
def shRun : ShRun := ⟨0, 1000, 50000, true, 1600, 100, 50, 200, 4000, 12, 70000, none, 4999000, true,
  [⟨0, 800, 800, 3, 50000, 32768000, 500⟩, ⟨1, 800, 800, 3, 50000, 32768000, 500⟩], none⟩
def shAbort : ShRun := { shRun with abort := some (100, 4) }
def shuttling (r : ShRun) : State :=
  let s := run .runFull id
  { s with bays := s.bays.set! 0 { s.bay 0 with shuttle := some r } }

theorem test_phaseUpdates :
    ((run .runFull id).laneOf 191 = none ∧ ((run .runFull id).ph 0).on = false) ∧
    ((run .runFull fun x => { x with on := true }).laneOf 0 = some 0 ∧ ((run .runFull fun x => { x with on := true }).ph 0).on = true ∧
      (run .runFull fun x => { x with on := true }).flag F.GLB_PWM_STAT_FREEZE = false ∧
      (run .runFull fun x => { x with on := true }).shuttled 0 = false) ∧
    ((shuttling shRun).shuttled 0 = true) ∧
    (((run .runFull fun x => { x with clamped := 256 }).ph 0).clamped = 256 ∧ ((run .runFull id).ph 0).clamped ≠ 256) ∧
    (let s := (run .runFull id).onLane 0 fun x => { x with head := 16 }
     16 ≤ (s.lane 0).head ∧ s.flag F.LN_LOOP_STAT_HEADROOM 0 = false ∧ (s.laneState 0).inService = true ∧ s.lnLatch 0 = false) ∧
    ((run .runFull id).lane 0).head < 16 := by decide +kernel

theorem test_shuttle :
    (((shuttling shRun).bay 0).shuttle = some shRun ∧ shRun.lane < 48 ∧ (shuttling shRun).drivenOf shRun.lane ≠ [] ∧
      ((shuttling shRun).drivenOf shRun.lane).Nodup ∧ (∀ p ∈ (shuttling shRun).drivenOf shRun.lane, p < 192) ∧
      ((shuttling shRun).drivenOf shRun.lane).length ≤ 16 ∧ shRun.started = true ∧ shRun.aborts = none) ∧
    (((shuttling shAbort).bay 0).shuttle = some shAbort ∧ shAbort.aborts = some (100, 4)) ∧ (dev.bay 0).shuttle = none := by
  decide +kernel

/-- Lane 0 in RUN-PULSE with one phase. -/
def pulsing (f : LaneSt → LaneSt) : State :=
  (up (st dev 0 .runPulse) [(F.LN_PULSE_BURST_ON, 4, 0), (F.LN_PULSE_PULSE_I, 20, 0)]).onLane 0 fun x => f { x with order := [0] }

theorem test_carriers :
    (dev.flag F.GLB_PWM_SS_EN = false ∧ dev.flag F.GLB_PWM_SS_ACTIVE = false ∧ dev.period ≤ 8000 ∧ dev.rd F.GLB_PWM_SS_DEPTH ≤ 8 ∧
      dev.pwm.perPend = none ∧ (up dev [(F.GLB_PWM_PER_PERIOD, 8000, 0)]).period ≤ 8000) ∧
    ((run .runFull fun x => { x with begins := true }).covered 0 = false ∧ ((run .runFull fun x => { x with begins := true }).ph 0).begins = true ∧
      (run .runFull id).flag F.BAY_PWM_CTL_PWM_EN 0 = true ∧ (run .runFull id).flag F.BAY_DL_STAT_DL_LOCK 0 = true) ∧
    ((run .runFull fun x => { x with stops := true }).ph 0).stops = true ∧
    (let s := run .runFull fun x => { x with on := true, ofs := 1599, ofsT := 0 }
     (s.ph 0).on = true ∧ (s.ph 0).ofs ≠ (s.ph 0).ofsT ∧ s.laneOf 0 = some 0 ∧ s.held 0 = false ∧ (s.ph 0).glide = 0) ∧
    ((pulsing id).laneState 0 = .runPulse ∧ ((pulsing id).lane 0).order = [0] ∧ (pulsing id).covered 0 = false ∧
      (pulsing id).flag F.BAY_PWM_CTL_PWM_EN (bayOfPhase 0) = true) ∧
    (((pulsing fun x => { x with q := -30000 }).lane 0).burst = 0 ∧ (4 : Int) * (20 * 250) ≤ (-30000 : Int).natAbs) ∧
    (((pulsing fun x => { x with burst := 1 }).lane 0).burst ≠ 0) := by decide +kernel

def reedRun : ReedRun := ⟨0, 5, 400000, [⟨0, 50000, 2, 48000⟩, ⟨1, -20000, 3, 40000⟩]⟩
def reed (r : Option ReedRun) (pend : Nat) : State :=
  let s := up (st (st dev 0 .runFull) 1 .runFull) [(F.LN_STATE_N, 2, 0), (F.LN_STATE_N, 3, 1), (F.REED_CFG_PLAN_EN, 1, 0),
    (F.LN_REED_PIN_EN, 1, 0), (F.LN_REED_PIN_BASE, 33, 0)]
  { s with pwm := { s.pwm with reed := r, reedPend := s.pwm.reedPend.set! 3 pend } }

theorem test_reed :
    (up dev [(F.REED_CFG_REPLAN, 0, 0)]).rd F.REED_CFG_REPLAN = 0 ∧ (up dev [(F.REED_CFG_REPLAN, 5, 0)]).rd F.REED_CFG_REPLAN ≠ 0 ∧
    ((reed none 7).pwm.reed = none ∧ vget (reed none 7).pwm.reedPend 3 0 ≠ 0 ∧ ∀ k < 3, vget (reed none 7).pwm.reedPend k 0 = 0) ∧
    ((reed (some reedRun) 0).pwm.reed = some reedRun ∧ reedRun.seg < 4 ∧ (∀ a ∈ reedRun.lanes, a.l < 48) ∧
      (reedRun.lanes.map (·.l)).Nodup ∧ reedRun.causes ≠ 8 ∧ (reed none 0).flag F.LN_REED_PIN_EN 0 = true ∧
      (reed none 0).flag F.LN_REED_PIN_EN 1 = false) ∧
    (let r : ReedRun := { reedRun with causes := 8, lanes := [] }
     (reed (some r) 0).reedPresent r * (1024 - (reed (some r) 0).rd F.REED_CFG_HYST) ≤ ((reed (some r) 0).reedPlan r).2 * 1024) := by
  decide +kernel

/-! ### Samples -/

def watched : State := up (st dev 0 .runFull) [(F.BAY_WATCH_WATCH_THR, 1000, 0)]

theorem test_converters :
    (32767 ≤ (0x8001#16).toInt.natAbs ∧ (dev.lane 0).vSat = false ∧ ¬ 32767 ≤ (0x7FFE#16).toInt.natAbs) ∧
    ((((up (st dev 0 .runFull) [(F.BAY_XCHK_EN, 1, 0)]).laneState 0).running = true) ∧ (dev.laneState 0).running = false) ∧
    ((4095#12).toNat = 4095 ∧ (dev.seg 3).sat = false) ∧
    (watched.watchedPh 0 = true ∧ watched.rd F.BAY_WATCH_WATCH_THR (bayOfPhase 0) < (watched.phaseCurrent (2047#12).toInt 0).natAbs ∧
      watched.laneOf 0 = some 0 ∧ watched.laneState 0 ≠ .faulted) := by decide +kernel

def metered (mode : Nat) (f : Meter → Meter) : State := (up (st dev 0 .runFull) [(F.MTR_STAT_MODE_NOW, mode, 0), (F.MTR_CFG_REC_EN, 1, 0)]).onMeter 0 f

theorem test_meterSamples :
    dev.configured 47 = false ∧
    ((metered 0 id).configured 0 = true ∧ (metered 0 id).acct 0 = true ∧ ((metered 0 id).meter 0).calib = none ∧
      (metered 0 id).rd F.MTR_STAT_MODE_NOW 0 = 0 ∧ clipped (8388606#24).toInt = false) ∧
    (clipped (0x800000#24).toInt = true ∧ ((metered 0 id).meter 0).isOver = false ∧ (metered 0 id).flag F.MTR_CFG_REC_EN 0 = true) ∧
    ((metered 1 id).rd F.MTR_STAT_MODE_NOW 0 = 1 ∧ (metered 3 id).rd F.MTR_STAT_MODE_NOW 0 = 3) := by decide +kernel

/-- A cross-check window of lane 0: `n` samples with sums `a` and `b`, COUNT 4. -/
def xc (n fails passes : Nat) (a b : Int) (xmis trip : Nat) : State :=
  (up (st dev 0 .runFull) [(F.BAY_XCHK_EN, 1, 0), (F.BAY_XCHK_COUNT, 4, 0), (F.BAY_XCHK_ABS, 500, 0), (F.LN_SNS_STAT_XMIS, xmis, 0),
    (F.BAY_XCHK_TRIP, trip, 0)]).onLane 0 fun x => { x with xN := n, xFail := fails, xPass := passes, xSum := a, xShunt := b }

theorem test_crossChecks :
    (xc 1023 0 0 0 0 0 0).flag F.BAY_XCHK_EN 0 = true ∧
    (((xc 1024 0 0 0 0 0 0).laneState 0).running = true ∧ 1024 ≤ ((xc 1024 0 0 0 0 0 0).lane 0).xN ∧
      ((xc 1024 0 0 0 0 0 0).lane 0).xBad = false ∧ (xc 1024 0 0 0 0 0 0).held 0 = false) ∧
    ((512000 / 1024 - 0 : Int).natAbs ≤ max ((xc 1024 0 3 512000 0 1 0).rd F.BAY_XCHK_ABS 0)
      ((xc 1024 0 3 512000 0 1 0).rd F.BAY_XCHK_REL 0 * 0 / 256) ∧ (xc 1024 0 3 512000 0 1 0).flag F.LN_SNS_STAT_XMIS 0 = true ∧
      (xc 1024 0 3 512000 0 1 0).rd F.BAY_XCHK_COUNT 0 ≤ 3 + 1) ∧
    (max ((xc 1024 3 0 513024 0 0 0).rd F.BAY_XCHK_ABS 0) ((xc 1024 3 0 513024 0 0 0).rd F.BAY_XCHK_REL 0 * 0 / 256)
      < (513024 / 1024 - 0 : Int).natAbs ∧ (xc 1024 3 0 513024 0 0 0).flag F.LN_SNS_STAT_XMIS 0 = false ∧
      (xc 1024 3 0 513024 0 0 0).flag F.BAY_XCHK_TRIP 0 = false ∧ (xc 1024 3 0 513024 0 0 1).flag F.BAY_XCHK_TRIP 0 = true) := by
  decide +kernel

/-! ### The lane machine -/

/-- Lane 0 READY or PARKed in the pre-start check, with a sum of `i` over `n` samples. -/
def starting (x : LaneState) (n : Nat) (i v : Int) : State :=
  (up (st dev 0 x) [(F.LN_STATE_PRESTART, 1, 0), (F.LN_STATE_CONTRACT, 1, 0), (F.LN_WARP_STAT_VALID, 1, 0), (F.LN_IPH_IPH_MAX, 60000, 0)]).onLane 0
    fun y => { y with ka := some ⟨5000, 5000, 4000, 6000, some 500, some 25, 25, 5000, 1⟩, vmQ := 48000, jml := held y.jml, prestart := some ⟨i, v, n, 0, 0⟩ }

theorem test_prestart :
    (dev.lane 0).prestart = none ∧
    (((starting .ready 10 5001 480000).lane 0).prestart = some ⟨5001, 480000, 10, 0, 0⟩ ∧ 500 * 10 < (5001 : Int).natAbs ∧
      (starting .ready 10 5001 480000).checkFails 0 ⟨5001, 480000, 10, 0, 0⟩ = some 1) ∧
    ((starting .ready 10 (-5000) 480000).checkFails 0 ⟨-5000, 480000, 10, 0, 0⟩ = none ∧ (starting .ready 10 (-5000) 480000).tokenQ.length < 48) := by
  decide +kernel

def token (q : List Nat) (last : Option Nat) : State :=
  { up (starting .ready 10 0 480000) [(F.LN_STATE_TOKEN_WAIT, 1, 0)] with tokenQ := q, lastGrant := last }

theorem test_startsAndParks :
    ((token [0] (some 4999999)).lastGrant = some 4999999 ∧
      (token [0] (some 4999999)).tb < 4999999 + 200 * (token [0] (some 4999999)).rd F.GLB_START_START_GAP) ∧
    (token [] none).tokenQ.find? (token [] none).mayGrant = none ∧
    ((token [0] none).tokenQ.find? (token [0] none).mayGrant = some 0 ∧ (token [0] none).lastGrant = none ∧
      (token [0] none).flag F.GLB_PWM_STAT_FREEZE = false) ∧
    (dev.flag F.LN_STATE_PARKING 0 = false) ∧
    ((up (run .park fun x => { x with on := true }) [(F.LN_STATE_PARKING, 1, 0)]).flag F.LN_STATE_PARKING 0 = true ∧
      (run .park fun x => { x with on := true }).laneState 0 = .park ∧ ((run .park fun x => { x with on := true }).ph 1).on = true ∧
      1 ∈ (run .park id).phasesOf 0) := by decide +kernel

def moving (x : LaneState) (c : Cand) : State :=
  (up (st dev 0 x) [(F.LN_STATE_CONTRACT, 1, 0), (F.LN_WARP_STAT_VALID, 1, 0), (F.LN_STATE_N, 2, 0), (F.LN_STATE_NFULL, 2, 0),
    (F.LN_STATE_PARK_SRC, (x == .park).toNat, 0)]).onLane 0 fun y =>
    { y with due := some c, dwell := 7, ka := some ⟨5000, 5000, 4000, 6000, some 500, some 25, 25, 5000, 1⟩ }

theorem test_policyMoves : (dev.lane 0).due = none ∧
    (((moving .runFull (.run 1)).lane 0).due = some (.run 1) ∧ (moving .runFull (.run 1)).moveBarred 0 false = false) ∧
    (((moving .hold .park).lane 0).due = some .park ∧ (moving .hold .park).moveBarred 0 false = false) ∧
    (((moving .park .pulse).lane 0).due = some .pulse ∧ (moving .park .pulse).moveBarred 0 false = false ∧
      (moving .park .pulse).flag F.LN_STATE_PRESTART 0 = false ∧ (moving .park .pulse).flag F.LN_STATE_TOKEN_WAIT 0 = false) := by
  decide +kernel

def lapsing (fallback : Nat) : State :=
  (up (st dev 0 .runFull) [(F.LN_CTL_FALLBACK, fallback, 0)]).onTenant 0 fun x => { x with hbStart := some 5 }

theorem test_heartbeats : (dev.tenant 0).hbStart = none ∧
    (∀ k < 3, ((lapsing k).tenant 0).hbStart ≠ none ∧ (List.range 48).filter (fun l => ((lapsing k).lane l).owner = some 0) = [0] ∧
      (lapsing k).rdBit F.SEC_TFLAGS_LAPSED 0 = false ∧ ((lapsing k).laneState 0).inService = true ∧ (lapsing k).rd F.LN_CTL_FALLBACK 0 = k) := by
  decide +kernel

/-! ### Warping, the Heddle, coefficients -/

def svp (p n : Nat) : SvPhase := ⟨p, 3, -4, 10000, 7, 3, 2, 100, 200, n, true⟩
def sv0 : Survey := ⟨0, .entry, 0, 4, 10000, [svp 0 0, svp 1 0], [], 0, 0, true, 0, 0, false, false, false, false, false, 0, 0, 0, none,
  none, none, none, none, none, none, false⟩
def surveying (x : LaneState) (v : Option Survey) (q : List SvReq) : State :=
  let s := up (st dev 0 x) [(F.LN_STATE_CONTRACT, 1, 0), (F.LN_IPH_IPH_MAX, 60000, 0), (F.LN_STATE_N, 2, 0), (F.LN_STATE_NFULL, 2, 0)]
  let s := s.onLane 0 fun x => { x with jml := held x.jml }
  { s with bays := s.bays.set! 0 { s.bay 0 with survey := v, warpQ := q } }
def svLoaded : Survey := { sv0 with kind := .loaded, step := 2 }
def svStep3 : Survey := { sv0 with step := 3, phases := [svp 0 2, svp 1 0] }

theorem test_surveysStep :
    (dev.bay 0).warpQ.find? (fun r => dev.mayStart r.lane) = none ∧
    (((surveying .warping none [⟨0, .entry⟩]).bay 0).survey = none ∧ ((surveying .warping none [⟨0, .entry⟩]).bay 0).warpQ.find?
      (fun r => (surveying .warping none [⟨0, .entry⟩]).mayStart r.lane) = some ⟨0, .entry⟩) ∧
    (((surveying .warping (some sv0) []).bay 0).survey = some sv0 ∧ sv0.ended = false ∧ sv0.ramp = false ∧ sv0.kind ≠ .loaded ∧ sv0.step = 0 ∧
      500 < (([-501] : List Int).getD 0 0).natAbs) ∧
    (sv0.kind = .entry ∧ sv0.phases ≠ [] ∧ (48000 : Int) * 65536 ≤ ((surveying .warping (some sv0) []).clamps 0).2 * 400000 ∧
      (surveying .warping (some sv0) []).vLo 0 = none ∧ (surveying .warping (some sv0) []).vHi 0 = none) ∧
    (1 ≤ svStep3.step ∧ svStep3.step < svStep3.pulses * svStep3.phases.length ∧
      svStep3.phases[(svStep3.step - 1) / svStep3.pulses]? = some (svp 0 2) ∧ (svp 0 2).pulses + 1 ≠ svStep3.pulses) ∧
    (svLoaded.kind = .loaded ∧ svLoaded.step ≠ 0) := by decide +kernel

def svDone : Survey :=
  ⟨0, .entry, 9, 4, 10000, [svp 0 4, svp 1 4], [], 48000, 400000, true, 1000, 0, false, false, true, false, false, 10000, 100, 50, some 100,
    none, some 20, some 50, none, none, none, false⟩
def svFail : Survey := { svDone with fails := [(1, 0)] }

theorem test_surveysEnd :
    (((surveying .warping (some svDone) []).bay 0).survey = some svDone ∧ svDone.ended = true ∧ svDone.kind = .entry ∧ bayOfLane svDone.lane = 0 ∧
      svDone.fails = [] ∧ svDone.lnom ≠ 0 ∧ svDone.lnom < 65536 ∧
      svDone.phaseFails ((surveying .warping (some svDone) []).lane 0).order svDone.lnom = [] ∧
      ((surveying .warping (some svDone) []).synthesise svDone svDone.lnom).isSome = true ∧ (svDone.phases.map (·.p)).Nodup) ∧
    (((surveying .warping (some svFail) []).bay 0).survey = some svFail ∧ svFail.ended = true ∧ svFail.fails = [(1, 0)] ∧
      (surveying .warping (some svFail) []).laneState 0 = .warping) := by decide +kernel

def readmit (o g : Int) : Survey := { svDone with kind := .readmit 0, phases := [{ svp 0 4 with ofs := o, gain := g }] }
def tracking (frozen lsurv : Nat) : State :=
  (up (run .runFull id) [(F.BAY_WARP_CFG_TRACK_EN, 1, 0), (F.PH_WARP_LTRACK, 10000, 0), (F.PH_WARP_LSURV, lsurv, 0),
    (F.LN_WARP_STAT_FROZEN, frozen, 0)]).onLane 0 fun x => { x with vBus := 400000, vLat := 48000 }

theorem test_checksAndAdaptation :
    ((surveying .ready (some (readmit 3 7)) []).readmitCode (readmit 3 7) = 0 ∨ (surveying .ready (some (readmit 0 0)) []).readmitCode (readmit 0 0) = 0) ∧
    (surveying .ready (some svFail) []).readmitCode { readmit 0 0 with fails := [(1, 0)] } ≠ 0 ∧
    dev.laneOf 191 = none ∧
    ((tracking 0 9000).laneOf 0 = some 0 ∧ (tracking 0 9000).flag F.BAY_WARP_CFG_TRACK_EN (bayOfLane 0) = true ∧
      (tracking 0 9000).driven 0 = true ∧ (tracking 0 9000).laneState 0 = .runFull ∧ (tracking 0 9000).held 0 = false ∧
      (tracking 0 9000).flag F.LN_WARP_STAT_SUSP 0 = false ∧ (tracking 0 9000).rdBit F.LN_WARP_STAT_FROZEN 0 0 = false) ∧
    (tracking 1 9000).rdBit F.LN_WARP_STAT_FROZEN 0 0 = true ∧
    (let lf := clampI (10000 + ((5 * 48000 * 800 / (2 * 9600) : Int) - 10000) / 16) 0 65535
     4 * ((lf - 9000).natAbs : Int) ≤ 9000 ∧ (5000 : Int) < 4 * ((lf - 5000).natAbs : Int)) := by decide +kernel

def committing (lo : Nat) : State :=
  let s := up dev [(F.BAY_HEDDLE_STAT_BUSY, 1, 0)]
  { s with bays := s.bays.set! 0 { s.bay 0 with snap := some ⟨lo, 0, 0, 0⟩ } }

theorem test_heddle :
    (dev.MayWrite ⟨0, 1⟩ ∧ (1#32).getLsbD 0 = true ∧ dev.flag F.BAY_HEDDLE_STAT_BUSY 0 = false) ∧
    ((committing 0).MayWrite ⟨0, 1⟩ ∧ (committing 0).flag F.BAY_HEDDLE_STAT_BUSY 0 = true) ∧
    (((committing 0xC0).bay 0).snap = some ⟨0xC0, 0, 0, 0⟩ ∧ mapEntry 0xC0 0 1 / 4 = 3 ∧ (committing 0xC0).commitCheck 0 ⟨0xC0, 0, 0, 0⟩ = some (1, 1, 0)) ∧
    ((committing 0x55944).commitCheck 0 ⟨0x55944, 0, 0, 0⟩ = none) := by
  refine ⟨mayw ?_, mayw ?_, ?_, ?_⟩ <;> decide +kernel

theorem test_coefficients :
    (dev.MayWrite ⟨0, 0xFF⟩ ∧ (0xFF#32).getLsbD 8 = false) ∧ (dev.MayWrite ⟨0, 0x100⟩ ∧ (0x100#32).getLsbD 8 = true ∧ dev.laneState 0 ≠ .warping) ∧
    ((st dev 0 .warping).MayWrite ⟨0, 0x100⟩ ∧ (st dev 0 .warping).laneState 0 = .warping) := by
  refine ⟨mayw ?_, mayw ?_, mayw ?_⟩ <;> decide +kernel

/-! ### Trips, pins, power, clocks -/

def ptrip (act : Nat) : State := up (run .runFull fun x => { x with on := true, acc := 5 }) [(F.LN_CTL_PTRIP_ACT, act, 0)]
def attributing (hits : List (Nat × Option Nat)) : State :=
  let s := (run .faulted id).onLane 0 fun x => { x with attrRun := some ⟨4999000, [⟨0, 5000, 5000, true⟩, ⟨1, -3, 7, false⟩]⟩ }
  { s with phases := s.phases.set! 0 { s.ph 0 with hits := hits } }

theorem test_trips :
    dev.laneOf 191 = none ∧
    (∀ k < 4, (ptrip k).laneOf 0 = some 0 ∧ (ptrip k).phLatch 0 = false ∧ ((ptrip k).laneState 0).inService = true ∧
      0 ∈ ((ptrip k).lane 0).order ∧ (ptrip k).rd F.LN_CTL_PTRIP_ACT 0 = k) ∧
    ((run .runFull id).configured 0 = true ∧ (run .runFull id).lnLatch 0 = false ∧ dev.configured 47 = false) ∧
    (dev.lane 0).attrRun = none ∧
    (∀ r, ((attributing [(4999000, some 4999010)]).lane 0).attrRun = some r → (attributeLane ((attributing []).rd F.GLB_ATTR_ATTR_THR)
      (r.phases.map fun a => (a, firstHit r.c0 ((attributing [(4999000, some 4999010)]).ph a.p).hits))).1 = some 0) ∧
    ((up (attributing []) [(F.GLB_ATTR_ATTR_THR, 65535, 0)]).lane 0).attrRun ≠ none := by
  refine ⟨by decide +kernel, by decide +kernel, by decide +kernel, by decide +kernel, fun r h => ?_, by decide +kernel⟩
  have : ((attributing [(4999000, some 4999010)]).lane 0).attrRun = some ⟨4999000, [⟨0, 5000, 5000, true⟩, ⟨1, -3, 7, false⟩]⟩ := by decide +kernel
  rw [this] at h
  cases h
  decide +kernel

/-- An attribution that finds nothing: no comparator hit, and both phases in step. -/
theorem test_attributeNone : (attributeLane 65535 [(⟨0, 5000, 5000, true⟩, none)]).1 = none := by decide +kernel

theorem test_pins : (dev.glbLatch = false ∧ (up dev [(F.GLB_TRIP_CFG_FIN_EN, 7, 0)]).rdBit F.GLB_TRIP_CFG_FIN_EN 3 = false) ∧
    ((up dev [(F.GLB_TRIP_CFG_FIN_EN, 8, 0)]).rdBit F.GLB_TRIP_CFG_FIN_EN 3 = true) := by decide +kernel

def latched (fs : List (Field × Nat × Nat)) : State := up (st dev 0 .faulted) fs

theorem test_latchesClear :
    ((latched [(F.BAY_PH_TRIP_TRIP, 0x8001, 0)]).MayWrite ⟨0, 0x8000⟩ ∧ (0x8000#32).toNat % 2 ^ 16 = 2 ^ 15 ∧
      (latched [(F.BAY_PH_TRIP_TRIP, 0x8001, 0)]).phLatch 15 = true ∧ (latched [(F.BAY_PH_TRIP_TRIP, 0x8001, 0)]).phaseRefusal 15 = none) ∧
    ((latched [(F.LN_TRIP_TRIP, 1, 0), (F.GLB_TRIP_TRIP, 1, 0)]).MayWrite ⟨0, 1⟩ ∧ (latched [(F.LN_TRIP_TRIP, 1, 0)]).lnLatch 0 = true ∧
      (latched [(F.LN_TRIP_TRIP, 1, 0), (F.GLB_TRIP_TRIP, 1, 0)]).laneRefusal 0 = some 2 ∧ (latched [(F.LN_TRIP_TRIP, 1, 0)]).laneRefusal 0 = none) ∧
    ((latched [(F.GLB_TRIP_TRIP, 1, 0)]).MayWrite ⟨0, 1⟩ ∧ (latched [(F.GLB_TRIP_TRIP, 1, 0)]).glbLatch = true ∧
      (latched [(F.GLB_TRIP_TRIP, 1, 0)]).safeLow = false ∧ (latched [(F.GLB_TRIP_TRIP, 1, 0)]).clockLost = false ∧
      (latched [(F.GLB_TRIP_TRIP, 1, 0)]).flag F.GLB_PF_PFI_LIVE = false ∧ (latched [(F.GLB_TRIP_TRIP, 1, 0)]).rd F.GLB_TRIP_FIN_LIVE = 0 ∧
      (latched [(F.GLB_TRIP_TRIP, 1, 0)]).routed 3 0 = false) ∧
    ((latched [(F.GLB_TRIP_TRIP, 1, 0), (F.GLB_TRIP_SAFE_LIVE, 1, 0)]).MayWrite ⟨0, 1⟩ ∧ (latched [(F.GLB_TRIP_SAFE_LIVE, 1, 0)]).safeLow = true) := by
  refine ⟨mayw ?_, mayw ?_, mayw ?_, mayw ?_⟩ <;> decide +kernel

def failed (fs : List (Field × Nat × Nat)) : State := up dev ([(F.GLB_PF_PF_STATE, 1, 0)] ++ fs)

theorem test_powerFails : (State.reset.coreRuns = false ∧ (failed []).flag F.GLB_PF_PF_STATE = true) ∧
    (dev.coreRuns = true ∧ dev.flag F.GLB_PF_PF_STATE = false ∧ dev.glbLatch = false) ∧ State.reset.flag F.NVM_STAT_RECOVERED = false ∧
    (failed [(F.GLB_PF_PF_RESTART, 0, 0)]).flag F.GLB_PF_PF_RESTART = false ∧
    ((failed [(F.GLB_PF_PF_RESTART, 1, 0), (F.NVM_STAT_FLUSHED, 1, 0)]).flag F.GLB_PF_PF_RESTART = true ∧
      (failed [(F.GLB_PF_PF_RESTART, 1, 0), (F.NVM_STAT_FLUSHED, 1, 0)]).flag F.NVM_STAT_FLUSHED = true) := by decide +kernel

theorem test_clocks : State.reset.coreRuns = false ∧ (dev.coreRuns = true ∧ dev.glbLatch = false ∧ dev.flag F.GLB_CLK_STAT_PLL_LOCK = true) ∧
    (let s := up dev [(F.GLB_CLK_STAT_PLL_LOCK, 0, 0), (F.GLB_CLK_CFG_PLL_RELOCK_AUTO, 1, 0)]
     s.coreRuns = true ∧ s.flag F.GLB_CLK_STAT_PLL_LOCK = false ∧ s.flag F.GLB_CLK_CFG_PLL_RELOCK_AUTO = true) ∧
    (let s := up dev [(F.GLB_CLK_CFG_SLOW_SRC, 0, 0), (F.GLB_CLK_STAT_SLOW_ON_XTAL, 1, 0)]
     s.rd F.GLB_CLK_CFG_SLOW_SRC = 0 ∧ s.flag F.GLB_CLK_STAT_SLOW_ON_XTAL = true) ∧
    (up dev [(F.GLB_CLK_CFG_SLOW_SRC, 1, 0)]).rd F.GLB_CLK_CFG_SLOW_SRC ≠ 0 := by decide +kernel

/-! ### Monitors, replicas, read-backs -/

def bayf (fs : List (Field × Nat × Nat)) (f : BaySt → BaySt) : State := let s := up dev fs; { s with bays := s.bays.set! 0 (f (s.bay 0)) }

theorem test_windows :
    (2799 < 2800 ∧ ((bayf [] fun x => { x with isOut := 3 }).bay 0).isOut = 3 ∧ dev.flag F.BAY_ISREF_STAT_ISREF_BAD 0 = false ∧
      dev.configured 0 = true ∧ dev.configured 47 = false) ∧
    ((dev.bay 11).isOut < 3 ∧ ((bayf [] fun x => { x with isIn := 3 }).bay 0).isIn = 3 ∧ (dev.bay 11).isIn < 3 ∧ ¬ (3200 < 3200)) ∧
    (supplyInside 0 776 = true ∧ supplyInside 0 775 = false ∧ supplyInside 3 (-5) = true ∧ supplyInside 3 (-6) = false ∧
      vget ((bayf [] fun x => { x with supOut := x.supOut.set! 3 3 }).bay 0).supOut 3 0 = 3 ∧ vget (dev.bay 0).supBad 3 false = false) := by
  decide +kernel

theorem test_temperatures :
    (((bayf [(F.GLB_TEMP_CFG_TWARN, 100, 0), (F.GLB_TEMP_CFG_TTRIP, 125, 0)] fun x => { x with warnHi := 3, tripHi := 3 }).bay 0).warnHi = 3 ∧
      dev.rdBit F.GLB_TEMP_STAT_WARN 0 = false ∧ dev.rdBit F.GLB_TEMP_STAT_TRIP 0 = false ∧ 4 * 125 ≤ (500#12).toInt ∧
      (379#12).toInt < 4 * 100 - 20) ∧
    ((dev.bay 0).warnHi < 3 ∧ (dev.bay 0).warnLo < 3) ∧
    (dev.thermHeld 0 = false ∧ (dev.onLane 0 fun x => { x with aux := .thermistor }).thermHeld 0 = true) ∧
    ((dev.lane 0).aux = .jml ∧ (up dev [(F.LN_JML_AUX_USE, 3, 0)]).rd F.LN_JML_AUX_USE 0 = 3 ∧
      ((dev.onLane 0 fun x => { x with ilkHi := 3, ilkLo := 3 }).lane 0).ilkHi = 3 ∧ (dev.lane 0).ilkOpen = false) := by decide +kernel

def refAt (sel settled : Nat) (r : Option Nat) (out : Nat) : State :=
  { up dev [(F.GLB_REF_REF_SEL, sel, 0), (F.GLB_REF_REF_SETTLED, settled, 0)] with refRun := r, refOut := out }

theorem test_reference : State.reset.refOn = false ∧
    ((refAt 0 0 (some 199) 0).refOn = true ∧ refInside 0 1225 = true ∧ refInside 0 1276 = false ∧ refInside 1 1300 = true ∧
      (refAt 0 0 (some 199) 0).flag F.GLB_REF_REF_SETTLED = false ∧ (refAt 0 0 (some 199) 0).refRun = some 199) ∧
    ((refAt 1 1 (some 200) 3).flag F.GLB_REF_REF_SETTLED = true ∧ 3 ≤ (refAt 1 1 (some 200) 3).refOut ∧ refInside 1 1301 = false) := by
  decide +kernel

theorem test_replicasAndReadbacks :
    (dev.flag F.GLB_BAY_STAT_AN_ON 11 = false ∧ dev.flag F.GLB_BAY_STAT_AN_ON 0 = true ∧ dev.flag F.BAY_DL_STAT_DL_LOCK 11 = false ∧
      dev.flag F.BAY_DL_STAT_DL_LOCK 0 = true ∧ ((bayf [] fun x => { x with dlBad := 7 }).bay 0).dlBad = 7) ∧
    ((up dev [(F.BAY_RB_CTL_AUTO, 0, 0)]).flag F.BAY_RB_CTL_AUTO 0 = false ∧ (up dev [(F.BAY_RB_CTL_AUTO, 1, 0)]).flag F.BAY_RB_CTL_AUTO 0 = true ∧
      dev.flag F.BAY_RB_STAT_PENDING 0 = false ∧ (up dev [(F.BAY_RB_STAT_PENDING, 1, 0)]).flag F.BAY_RB_STAT_PENDING 0 = true) ∧
    (((bayf [] fun x => { x with rbQ := [(41, true)] }).bay 0).rbQ.find? (fun e => rbConverter e.1 == rbConverter 41) = some (41, true) ∧
      (dev.bay 0).rbQ = []) := by decide +kernel

theorem test_mayWrite : dev.MayWrite ⟨0, 0x100⟩ ∧ (0x100#32).getLsbD 8 = true := by refine mayw ?_; decide +kernel

/-! ### Register writes -/

theorem test_bayControl :
    (dev.MayWrite ⟨0, 0⟩ ∧ dev.flag F.BAY_PWM_CTL_PWM_EN 0 = true ∧ (0#32).getLsbD 0 = false ∧ ((st dev 0 .warping).laneState 0 = .warping) ∧
      dev.waits = []) ∧
    (dev.MayWrite ⟨0, 0xA501⟩ ∧ (0xA501#32).getLsbD 0 = true) ∧
    (dev.MayWrite ⟨0, 2⟩ ∧ bitsN (2#32).toNat 0 2 = 2 ∧ bitsN (dev.rd F.BAY_SAFE_LEVELS 0) 0 2 ≠ 2 ∧
      dev.flag F.BAY_PWM_CTL_UNLOCKED 0 = false) ∧
    (dev.MayWrite ⟨0, 0xC0000000⟩ ∧ bitsN (0xC0000000#32).toNat 30 2 = 3) := by
  refine ⟨mayw ?_, mayw ?_, mayw ?_, mayw ?_⟩ <;> decide +kernel

theorem test_deviceWrites :
    (dev.MayWrite ⟨0, 399⟩ ∧ F.GLB_PWM_PER_PERIOD.of 399 < 400) ∧
    (dev.MayWrite ⟨0, 400⟩ ∧ F.GLB_PWM_PER_PERIOD.of 400 = 400 ∧ 400 ≠ dev.period ∧ ∀ l < 48, dev.laneState l = .off) ∧
    ((st dev 47 .ready).MayWrite ⟨0, 8000⟩ ∧ F.GLB_PWM_PER_PERIOD.of 8000 = 8000 ∧ (st dev 47 .ready).laneState 47 = .ready) ∧
    (dev.MayWrite ⟨0, 1⟩ ∧ F.GLB_REF_REF_SEL.of 1 ≠ dev.rd F.GLB_REF_REF_SEL ∧ F.GLB_REF_REF_SEL.of 1 ≠ 3 ∧
      dev.flag F.SEC_STAT_SEALED = false) ∧
    (dev.MayWrite ⟨0, 3⟩ ∧ F.GLB_REF_REF_SEL.of 3 = 3) ∧
    ((up dev [(F.GLB_PWM_SS_ACTIVE, 1, 0)]).MayWrite ⟨0, 0x01000000⟩ ∧ (up dev [(F.GLB_PWM_SS_ACTIVE, 1, 0)]).flag F.GLB_PWM_SS_ACTIVE = true) := by
  refine ⟨mayw ?_, mayw ?_, mayw ?_, mayw ?_, mayw ?_, mayw ?_⟩ <;> decide +kernel

theorem test_meterMode :
    (dev.MayWrite ⟨0, 1⟩ ∧ F.MTR_CFG_MODE.of 1 % 2 = 1) ∧
    ((st dev 0 .warping).MayWrite ⟨0, 2⟩ ∧ F.MTR_CFG_MODE.of 2 = 2 ∧ (st dev 0 .warping).rd F.MTR_CFG_MODE 0 ≠ 2 ∧
      (st dev 0 .warping).laneState 0 = .warping) ∧
    (dev.MayWrite ⟨0, 2⟩ ∧ dev.laneState 0 ≠ .warping ∧ (dev.laneState 0).inService = false) ∧
    ((up dev [(F.MTR_CFG_MODE, 2, 0)]).MayWrite ⟨0, 0x10⟩ ∧ (up dev [(F.MTR_CFG_MODE, 2, 0)]).rd F.MTR_CFG_MODE 0 = 2 ∧
      F.MTR_CFG_MODE.of 0x10 = 0) := by
  refine ⟨mayw ?_, mayw ?_, mayw ?_, mayw ?_⟩ <;> decide +kernel

theorem test_reedAndThermistor :
    ((reed none 0).MayWrite ⟨0, 0x11⟩ ∧ (0x11#32).getLsbD 0 = true ∧ (0x11#32).getLsbD 4 = true) ∧
    ((reed none 0).MayWrite ⟨0, 0⟩ ∧ (reed none 0).configured 0 = true ∧ (reed none 0).flag F.LN_REED_PIN_EN 0 = true ∧
      (reed none 0).rdBit F.REED_CFG_PLAN_EN ((reed none 0).segOf 0) = true ∧ (0#32).getLsbD ((reed none 0).segOf 0) = false) ∧
    ((up dev [(F.REED_CFG_PLAN_EN, 0, 0)]).MayWrite ⟨0, 0x13F⟩ ∧ (0x13F#32).getLsbD 8 = true ∧ dev.flag F.LN_REED_PIN_EN 0 = false ∧
      (up dev [(F.REED_CFG_PLAN_EN, 0, 0)]).rdBit F.REED_CFG_PLAN_EN (dev.segOf 0) = false ∧ dev.configured 0 = true) ∧
    (dev.MayWrite ⟨0, 1⟩ ∧ (1#32).getLsbD 0 = true ∧ (dev.lane 0).aux = .jml ∧ (1#32).getLsbD 1 = false) ∧
    ((dev.onLane 47 fun x => { x with aux := .none }).MayWrite ⟨0, 0x8000⟩ ∧ ((dev.onLane 47 fun x => { x with aux := .none }).lane 47).aux = .none) := by
  refine ⟨mayw ?_, mayw ?_, mayw ?_, mayw ?_, mayw ?_⟩ <;> decide +kernel

/-! ### Timers -/

/-- Timer 7 enabled, with channel 3 in a mode and action. -/
def timed (mode act flag q : Nat) : State :=
  let s := up dev [(F.TMR_CFG_EN, 1, 7), (F.TMR_CCFG_MODE0.up 24, mode, 7), (F.TMR_CCFG_ACT0.up 24, act, 7), (F.TMR_STEP_STEP, 100, 7),
    (F.TMR_CHF_FLAG.up 0, flag * 2 ^ 31, 0)]
  { s with timers := s.timers.map fun t => { t with armed := Vector.replicate 4 true, q := t.q.set! 3 (List.replicate q 9), val := Vector.replicate 4 50 } }

theorem test_timerWrites :
    (dev.MayWrite ⟨0, 0x30⟩ ∧ F.TMR_CFG_PSC.of 0x10 ≤ 16 ∧ 16 < F.TMR_CFG_PSC.of 0x11 ∧ dev.flag F.TMR_CFG_EN 7 = false ∧
      (timed 1 0 0 0).flag F.TMR_CFG_EN 7 = true) ∧
    ((up (timed 3 0 0 0) [(F.TMR_CFG_CSEL, 3, 7)]).MayWrite ⟨0, 5⟩ ∧ (timed 3 0 0 0).chMode 7 3 = 3 ∧ (timed 1 0 0 0).chMode 7 3 ≠ 3) ∧
    ((timed 2 0 0 0).MayWrite ⟨0, 0x10080⟩ ∧ (0x10080#32).getLsbD 7 = true ∧ (0x10080#32).getLsbD 16 = true ∧
      (List.range 4).filter (fun k => (timed 2 0 0 0).chMode 7 k == 2) = [3]) := by
  refine ⟨mayw ?_, mayw ?_, mayw ?_⟩ <;> decide +kernel

/-- Channel 3 of timer 7 asks for pin 7: free, and taken by the router. -/
theorem test_channelWrites :
    (dev.MayWrite ⟨0, 0x75000000⟩ ∧ (∀ d < 3, dev.chMode 7 d = 0 ∧ dev.chAct 7 d = 0 ∧ dev.chPin 7 d = 0) ∧ dev.chHolds 7 3 = false ∧
      dev.pinTaken 7 3 7 = false ∧ bitsN (bitsN (0x75000000#32).toNat 24 8) 0 2 = 1 ∧ bitsN (bitsN (0x75000000#32).toNat 24 8) 2 2 = 1) ∧
    ((up dev [(F.RTR_TIO_MODE, 0x4000, 0), (F.RTR_TIO_CLAIMED, 0x80, 0)]).MayWrite ⟨0, 0x75000000⟩ ∧
      (up dev [(F.RTR_TIO_MODE, 0x4000, 0), (F.RTR_TIO_CLAIMED, 0x80, 0)]).pinTaken 7 3 7 = true) := by
  refine ⟨mayw ?_, mayw ?_⟩ <;> decide +kernel

theorem test_timerEvents : (dev.flag F.TMR_CFG_EN 7 = false) ∧
    ((timed 2 3 1 0).flag F.TMR_CFG_EN 7 = true ∧ (timed 2 3 1 0).chWaits 7 3 = true ∧ (timed 2 3 1 0).rdBit F.TMR_CHF_FLAG 31 = true ∧
      (timed 2 3 0 0).rdBit F.TMR_CHF_FLAG 31 = false ∧ (timed 2 3 0 0).chAct 7 3 ≠ 0) ∧
    ((timed 1 0 0 0).chMode 7 3 = 1 ∧ (timed 1 0 0 0).chWaits 7 3 = true ∧ (timed 1 0 0 0).chAct 7 3 = 0) ∧
    ((timed 3 2 0 3).chMode 7 3 = 3 ∧ (timed 3 2 0 3).chAct 7 3 = 2 ∧ (vget ((timed 3 2 0 3).timer 7).q 3 []).length < 4 ∧
      4 ≤ (vget ((timed 3 2 0 4).timer 7).q 3 []).length) := by decide +kernel

/-! ### Other writes and reads -/

theorem test_controlWrites :
    (dev.MayWrite ⟨0, 0x80000000⟩ ∧ routeRefusal 0x80000000 = none) ∧
    (dev.MayWrite ⟨0, 0xFF⟩ ∧ (routeRefusal 0xFFFFFFFF).isSome = true) ∧
    (dev.timerHolds 0 = false ∧ (up dev [(F.TMR_CCFG_MODE0, 1, 0), (F.TMR_CCFG_ACT0, 1, 0)]).timerHolds 0 = true) ∧
    ((dev.ctr 288).stored < (dev.onCtr 288 fun c => { c with acc := 2 ^ 60 }).reading 288 ∧ (dev.onCtr 288 fun c => { c with acc := 2 ^ 60 }).nvm.closing = none ∧
      ((dev.onCtr 288 fun c => { c with acc := 2 ^ 60 }).ctr 288).canWrite = true ∧ (dev.ctr 288).st ≠ .void ∧ dev.nvm.save = none) ∧
    (({ dev with slv := { dev.slv with pend := [0] } } : State).slv.pend ≠ [] ∧ dev.slv.flush = none ∧
      ({ dev with slv := { dev.slv with flush := some .all } } : State).slv.flush.isSome = true) ∧
    ((trd 1 1 1).holder 0 = 1 ∧ (0x10#32).getLsbD 0 = false ∧ (trd 1 1 2).holder 0 ≠ 1) := by
  refine ⟨mayw ?_, mayw ?_, ?_, ?_, ?_, ?_⟩ <;> decide +kernel

theorem test_dormant :
    (dev.MayWrite ⟨0, 0x3D⟩ ∧ (0x3D#32).toNat % 256 ≠ 0x3C) ∧
    ((st dev 47 .ready).MayWrite ⟨0, 0x3C⟩ ∧ (0x3C#32).toNat % 256 = 0x3C ∧ ((st dev 47 .ready).opened 0).dormRefusal = some 1) := by
  refine ⟨mayw ?_, mayw ?_⟩ <;> decide +kernel

theorem test_latchingReads : ((dev.tenant 0).exists' = true ∧ 0 % 4 = 0) ∧ 1 % 4 ≠ 0 := by decide +kernel

theorem test_zeroStep : dev.MayWrite ⟨0, 0⟩ ∧ (dev.tenant 0).exists' = true ∧ 0 % 4 = 0 := by
  refine mayw ?_
  decide +kernel

/-! ### Rings, apertures, ports -/

def dormantDev : State := { dev with power := { dev.power with stage := .dormant } }
def ringAt (head tail : Nat) : State := up dev [(F.HST_SQ_STAT_HEAD, head, 0), (F.HST_SQ_STAT_TAIL, tail, 0)]

theorem test_tailDoorbells : dormantDev.power.stage = .dormant ∧
    (dev.power.stage ≠ .dormant ∧ (up dev [(F.HST_SQ_CFG_EN, 0, 0)]).flag F.HST_SQ_CFG_EN 0 = false ∧ dev.flag F.HST_SQ_CFG_EN 0 = true) ∧
    (2 ^ dev.rd F.HST_SQ_CFG_SIZE 0 = 64 ∧ F.HST_SQ_TAIL_DB_TAIL.of 64 = 64) ∧
    (64 - 1 < (1 + 64 - 63) % 64 + (0 + 64 - 1) % 64 ∧ (ringAt 63 1).rd F.HST_SQ_STAT_HEAD 0 = 63 ∧ (ringAt 63 1).rd F.HST_SQ_STAT_TAIL 0 = 1) ∧
    (((ringAt 63 63).tenant 0).fetching = none ∧ (ringAt 63 63).flag F.HST_SQ_STAT_STOPPED 0 = false ∧ (ringAt 63 63).quarT 0 = false ∧
      (ringAt 63 63).power.intakeOff = false ∧ (ringAt 63 63).ringsDead = false ∧ ((ringAt 63 63).tenant 0).exists' = true ∧
      ((ringAt 63 63).tenant 0).bme = true ∧ (ringAt 63 63).rd F.HST_T_ERR_OUTST 0 < 64 ∧
      (ringAt 63 63).rd F.HST_T_ERR_OUTST 0 + (ringAt 63 63).unreleased 0 + 1 < 2 ^ (ringAt 63 63).rd F.HST_CQ_CFG_SIZE 0) := by decide +kernel

def coal (mask : Bool) : State := (up dev [(F.HST_CQ_CFG_COAL_T, 5, 0), (F.HST_CQ_STAT_TAIL, 5, 0)]).onTenant 0 fun x =>
  { x with unsig := 2, cqHead := 3, msixMask := mask, msix := x.msix.map fun e => { e with masked := false } }

theorem test_headDoorbells :
    (64 ≤ F.HST_CQ_HEAD_DB_HEAD.of 64 ∧ (5 + 64 - 3) % 64 < (6 + 64 - 3) % 64 ∧ ¬ (5 + 64 - 3) % 64 < (5 + 64 - 3) % 64 ∧ ((coal false).tenant 0).cqHead = 3) ∧
    (dev.rd F.HST_CQ_CFG_COAL_T 0 = 0) ∧
    ((coal false).rd F.HST_CQ_CFG_COAL_T 0 ≠ 0 ∧ ((coal false).tenant 0).unsig ≠ 0 ∧ (coal false).ringsDead = false ∧ ((coal false).tenant 0).bme = true ∧
      (vget ((coal false).tenant 0).msix ((coal false).rd F.HST_CQ_CFG_VEC 0) ⟨0, 0, true⟩).masked = false) ∧
    ((coal true).tenant 0).msixMask = true := by decide +kernel

theorem test_ringEnables :
    ((0x100#32).getLsbD 8 = true ∧ (up dev [(F.HST_CQ_CFG_EN, 0, 0)]).flag F.HST_CQ_CFG_EN 0 = false) ∧
    ((up dev [(F.HST_SQ_CFG_EN, 0, 0)]).flag F.HST_SQ_CFG_EN 0 = false ∧ F.HST_SQ_CFG_SIZE.of 12 = 12 ∧ F.HST_CQ_CFG_SIZE.of 14 = 14) ∧
    (dev.flag F.HST_SQ_CFG_EN 0 = true ∧ (up dev [(F.HST_SQ_CFG_EN, 0, 0)]).rd F.HST_T_ERR_OUTST 0 = 0) := by decide +kernel

def fetching (bme : Bool) : State := dev.onTenant 0 fun x => { x with fetching := some 8, bme := bme }

theorem test_fetches : (dev.tenant 0).fetching = none ∧
    (((fetching true).tenant 0).fetching = some 8 ∧ (fetching true).ringsDead = false ∧ (fetching true).power.intakeOff = false ∧
      ((fetching true).tenant 0).bme = true ∧ (fetching true).rd F.HST_SQ_CFG_SIZE 0 ≤ 12 ∧ (fetching true).rd F.HST_T_ERR_OUTST 0 + 8 < 128) ∧
    ((fetching false).tenant 0).bme = false := by decide +kernel

theorem test_apertureWrites :
    ((dev.onTenant 1 fun x => { x with exists' := false }).tenant 1).exists' = false ∧
    ((dev.tenant 0).exists' = true ∧ ¬ ((0x2#32).toNat % 4 = 0) ∧ (0x4FFFC#32).toNat < 0x50000 ∧ dev.roleOf 0 = 3 ∧
      dev.flag F.NVM_STAT_PLOADED = true ∧ decodeAddr 0x4FFFC = none) ∧
    (up dev [(F.NVM_STAT_PLOADED, 0, 0)]).flag F.NVM_STAT_PLOADED = false ∧ (up dev [(F.SEC_ROLE_ROLE0, 1, 0)]).roleOf 0 ≠ 3 ∧
    ((meterDev.tenant 1).exists' = true ∧ 1 % 4 ≠ 0 ∧ 0x4000 ≤ (0x4000#32).toNat) := by decide +kernel

def trainingDev : State := let s := up dev [(F.HST_LINK_A_UP, 0, 0)]; { s with ports := s.ports.map fun p => { p with training := true } }

theorem test_ports : (∀ k < 4, dev.quarT (4 * 1 + k) = false) ∧ ((dev.onTenant 1 fun x => { x with exists' := false }).tenant 1).exists' = false ∧
    ((dev.tenant 0).exists' = true ∧ dev.quarT 0 = false ∧ dev.sec.promoDue = false) ∧
    ((trainingDev.port 0).training = true ∧ (dev.port 0).training = false ∧ (dev.port 0).started = true) ∧
    ((dev.linkOf 0).1 = true ∧ (dev.port 0).aspmEn = true ∧ dev.rd F.HST_LINK_A_PM = 0) ∧
    (let s := up dev [(F.HST_LINK_A_LTR_EN, 1, 0), (F.HST_SQ_CFG_EN, 0, 0)]
     s.flag F.HST_LINK_A_LTR_EN = true ∧ s.flag F.HST_LINK_A_LTR_IDLE = false ∧ s.portActive 0 = false) := by decide +kernel

/-! ### The event recorder and the flash -/

def record (q c rept : Nat) : Rec := ⟨q, c, 0xC0, 1, rept, 4999000, 4999000, 1, 5, 5, []⟩
def report (c : Nat) : Report := ⟨c, 0xC0, 1, 5000000, 77, 1, false, List.replicate 8 1⟩
def logging (c next : Nat) (f : Selvedge → Selvedge) : State :=
  let s := up dev [(F.SLV_NEXT_NEXT, next, 0), (F.SLV_CFG_COAL, 10, 0), (F.SLV_CFG_FLUSH_MASK, 1, 0)]
  { s with slv := f { s.slv with intake := [report c] } }
def open3 (x : Selvedge) : Selvedge := { x with pend := [3], ram := [(3, record 3 0x0102 0)], opened := [3] }

theorem test_reports : dev.slv.intake = [] ∧
    (∀ x, (logging 0x0102 4 open3).repeats (report 0x0102) = some x → x.rept + 1 < 0xFFFFFF) ∧
    ((logging 0x0102 4 open3).repeats (report 0x0102)).isSome = true ∧
    ((logging 0x0103 4 open3).repeats (report 0x0103) = none ∧ (logging 0x0103 4 open3).canOpen = true ∧ (logging 0x0103 4 open3).slv.lost = 0 ∧
      ownContent 0x0103 = false ∧ (logging 0x0103 4 open3).rd F.SLV_CFG_COAL ≠ 0 ∧ (logging 0x0103 4 open3).slv.opened.length < 64 ∧
      (logging 0x0103 4 open3).slv.pend.length < 383) ∧
    ((logging 0x0103 511 fun x => { x with pend := [0] }).repeats (report 0x0103) = none ∧ (logging 0x0103 511 fun x => { x with pend := [0] }).canOpen = false) ∧
    ((logging 0x0102 4 open3).slv.opened[0]? = some 3 ∧ (logging 0x0102 4 open3).ramRec 3 = some (record 3 0x0102 0) ∧
      (logging 0x0102 4 open3).rdBit F.SLV_CFG_FLUSH_MASK 0 = true ∧ 3 ∈ (logging 0x0102 4 open3).slv.pend ∧ (logging 0x0102 4 open3).slv.flush = none ∧
      dev.slv.opened[63]? = none) := by
  refine ⟨by decide +kernel, fun x h => ?_, by decide +kernel, by decide +kernel, by decide +kernel, by decide +kernel⟩
  have : (logging 0x0102 4 open3).repeats (report 0x0102) = some (record 3 0x0102 0) := by decide +kernel
  rw [this] at h
  cases h
  decide +kernel

def bankf (k : Nat) (f : Bank → Bank) (g : Nvm → Nvm) : State := { dev with nvm := g { dev.nvm with banks := vupd dev.nvm.banks k f } }
def marking : State :=
  let s := bankf 2 (fun b => { b with prog := some (.slv 3) }) id
  { s with slv := { s.slv with pend := [3], ram := [(3, record 3 0x0102 0)], flush := some (.marker 1), flushQ := [3], sealedOff := true } }

theorem test_flash :
    (State.reset.flag F.NVM_STAT_RECOVERED = false ∧ dev.nvm.closing = none) ∧
    ((bankf 0 id fun n => { n with save := some ⟨false, 5, false⟩ }).nvm.save.isSome = true) ∧
    ((dev.bank 0).prog = none ∧ (dev.bank 0).erase = none) ∧
    (((bankf 2 (fun b => { b with prog := some (.cell 303 0xFFFFFFFF false 0) }) id).bank 2).prog = some (.cell 303 0xFFFFFFFF false 0) ∧
      ctrBank 303 = 2 ∧ (dev.ctr 303).sector.used + 1 < slotsPerSector) ∧
    ((marking.bank 2).prog = some (.slv 3) ∧ marking.slv.sealedOff = true ∧ marking.waits = [] ∧ marking.slv.flush = some (.marker 1) ∧
      marking.slv.flushQ = [3] ∧ marking.ramRec 3 = some (record 3 0x0102 0)) ∧
    (((bankf 2 (fun b => { b with erase := some (.slv 255), tries := 2 }) id).bank 2).erase = some (.slv 255) ∧
      ((bankf 2 (fun b => { b with erase := some (.slv 255), tries := 3 }) id).bank 2).tries = 3) ∧
    (((bankf 0 (fun b => { b with erase := some (.tally 0 1 false) }) id).bank 0).erase = some (.tally 0 1 false) ∧ (dev.ctr 0).active < 2 ∧
      1 = 1 - (dev.ctr 0).active ∧ (dev.ctr 0).st = .normal ∧ (dev.ctr 0).full = false ∧ dev.nvm.resolve = none) ∧
    ((EraseOp.tally 0 1 false).isTally = true ∧ (EraseOp.slv 0).isTally = false ∧
      (bankf 0 id fun n => { n with closing := some .powerFail }).nvm.closing.isSome = true) := by decide +kernel

/-! ### Start-up, Dormant, register space -/

def pw (f : Power → Power) : State := { dev with power := f dev.power }
def closed (st : Stage) (c : Closing) (src : Nat) : State :=
  { dev with power := { dev.power with stage := st, wakeSrc := src }, nvm := { dev.nvm with closing := some c, closed := true, save := none } }

theorem test_resets : (dev.power.stage ≠ .softReset) ∧
    ((closed .softReset .softReset 0).power.stage = .softReset ∧ (closed .softReset .softReset 0).closingDone = true ∧
      (closed .softReset .softReset 0).nvm.closing = some .softReset) ∧ (∀ n < 4, (dev.bank n).prog = none) := by decide +kernel

theorem test_startUp :
    (State.reset.power.boot ≠ .pllEnabled ∧ (pw fun p => { p with boot := .pllEnabled, tries := 3 }).power.boot = .pllEnabled ∧
      (pw fun p => { p with boot := .pllEnabled, stage := .waking }).power.stage = .waking) ∧
    ((pw fun p => { p with boot := .bays 11 }).power.boot = .bays 11 ∧ (pw fun p => { p with boot := .pump }).power.boot = .pump) ∧
    (let s := up (pw fun p => { p with boot := .recovery }) [(F.NVM_STAT_RECOVERED, 0, 0), (F.NVM_STAT_PLOADED, 0, 0)]
     s.power.boot = .recovery ∧ s.flag F.NVM_STAT_RECOVERED = false ∧ s.flag F.NVM_STAT_PLOADED = false ∧ s.ringsDead = false ∧
      s.nvm.activeBank = none) ∧
    (let s := (List.range 12).foldl (fun s b => up s [(F.GLB_BAY_STAT_AN_ON, 1, b), (F.BAY_DL_STAT_DL_LOCK, 1, b)])
       (pw fun p => { p with boot := .recovery })
     s.power.boot = .recovery ∧ s.flag F.NVM_STAT_RECOVERED = true ∧ s.flag F.NVM_STAT_PLOADED = true ∧ s.flag F.GLB_REF_REF_SETTLED = true ∧
      s.power.pump = true ∧ ∀ b < 12, s.flag F.GLB_BAY_STAT_AN_ON b = true ∧ s.flag F.BAY_DL_STAT_DL_LOCK b = true) := by decide +kernel

theorem test_dormantAndWake : dev.power.stage = .run ∧
    ((closed .entering .dormant 0).power.stage = .entering ∧ (closed .entering .dormant 0).closingDone = true ∧
      (closed .entering .dormant 0).nvm.closing = some .dormant ∧ (closed .entering .dormant 4).power.wakeSrc ≠ 0) ∧
    (dormantDev.power.stage = .dormant ∧ (15#4).toNat &&& (up dormantDev [(F.GLB_WAKE_EN_SRC, 15, 0)]).rd F.GLB_WAKE_EN_SRC ≠ 0 ∧
      (0#4).toNat &&& dormantDev.rd F.GLB_WAKE_EN_SRC = 0) := by decide +kernel

theorem test_fieldAccess : Reg.LN_POLICY ∉ ownEffect ∧ Reg.LN_POLICY ∉ tenantRegs ∧ 47 < Reg.LN_POLICY.info.count ∧ (dev.tenant 0).exists' = true ∧
    dev.flag F.NVM_STAT_PLOADED = true ∧ dev.roleOf 0 = 3 := by decide +kernel

/-! ## The spec's worked examples: every expected value below is the spec's own -/

/-- The next state, where there is one. -/
def nxt : Host.Outcome State Fault Refusal → Option State
  | .next t => some t
  | _ => none

/-! ### Chapters 0 to 4 -/

/-- Example under R13. -/
theorem test_arithmetic : (-7 : Int) / 4 = -2 ∧ (-7 : Int) % 4 = 1 ∧ sat 40000 16 = 32767 ∧ wrap 40000 16 = -25536 := by decide +kernel

/-- Example of chapter 3: PH[137] reports code 403. -/
theorem test_phaseCurrent : (up State.reset [(F.BAY_ISN_SCALE_SCALE, 0x320000, 8), (F.BAY_ISN_OFS_OFS, 3, 8),
    (F.PH_ISNCAL_OFS, ofS (-1) F.PH_ISNCAL_OFS.width, 137), (F.PH_ISNCAL_GAIN, 655, 137)]).phaseCurrent 403 137 = 20250 := by decide +kernel

/-- Example of chapter 3: code 3,000 is 150,000 mV. -/
theorem test_busVolt : (nxt (execSegmentSarConversion 0 3000 (up State.reset [(F.BUS_VSCALE_SCALE, 0x320000, 0)]))).map
    (fun t => (t.seg 0).vBus) = some 150000 := by decide +kernel

/-- Example of chapter 3: OCH_THR = 887 expects 1,500 within 8, flags 0, source 0x0089. -/
theorem test_readback : (up State.reset [(F.PH_OCTHR_OCH_THR, 887, 137)]).rbExpect 8 18 = (1500, 8, 0, 0x89) := by decide +kernel

/-- Example of chapter 3: I_sum −49,900 mA against I_shunt −50,000 mA passes and XDIFF = 10; −33,100 mA is the first failing window. -/
def crossed (sum : Int) : State :=
  (st (up dev [(F.BAY_XCHK_EN, 1, 0)]) 0 .runFull).onLane 0 fun x => { x with xSum := 1024 * sum, xShunt := 1024 * (-50000), xN := 1024 }

theorem test_crossCheck :
    (nxt (execXchkWindow 0 (crossed (-49900)))).map (fun t => (t.rdS F.LN_SNS_STAT_XDIFF 0, (t.lane 0).xFail)) = some (10, 0) ∧
    (nxt (execXchkWindow 0 (crossed (-33100)))).map (fun t => (t.rdS F.LN_SNS_STAT_XDIFF 0, (t.lane 0).xFail)) = some (1690, 1) := by
  decide +kernel

/-- Examples of chapters 4 and 6: the clamps at T = 1,600, and at T = 1,568 under DEPTH 8. -/
theorem test_clamps : dev.clamps 0 = (328, 64225) ∧
    (up dev [(F.GLB_PWM_SS_DEPTH, 8, 0), (F.GLB_PWM_SS_FREQ, 5000, 0), (F.GLB_PWM_SS_ACTIVE, 1, 0)]).clamps 0 = (335, 64225) := by decide +kernel

/-- Tables 4-6 and 4-7. -/
theorem test_selector :
    let f := frameOf [⟨some 150000, some (-150000)⟩, ⟨some 150000, some (-150000)⟩, ⟨some 40000, some (-50000)⟩, ⟨some 31420, some (-96000)⟩,
      ⟨some 45000, some (-45000)⟩, ⟨some 54844, some (-54845)⟩, ⟨some 88000, some 35000⟩]
    f = ⟨31420, 31420, 4, 4, 7⟩ ∧ f.select 50000 = (31420, 4) := by decide +kernel

/-- Example of R86: 31,420 mA over three phases. -/
theorem test_split : splitRef 31420 [(48, 0), (49, 0), (50, 0)] = [(48, 10474), (49, 10473), (50, 10473)] := by decide +kernel

/-- Example of chapter 4: one update of PH[49]. -/
def looping : State :=
  (up dev [(F.PH_LOOP_LRATIO, 0x4148, 0)]).onLane 0 fun x => { x with vMod := 90000, coefW := (x.coefW.set 16 0xAFA0).set 17 0x1612 }

theorem test_phaseLoop :
    dev.feedforward 0 90000 150000 = 39321 ∧ ((looping.formGains 0).ph 0).kp = 45860 ∧ ((looping.formGains 0).ph 0).ki = 5763 ∧
    (let s := ((looping.formGains 0).onPh 0 fun x => { x with iref := 16666, acc := 45875200 }).onLane 0 fun x => { x with ff := 39321 }
     ((s.phaseLoop 0 0 16466).ph 0).acc = 47027800 ∧ ((s.phaseLoop 0 0 16466).ph 0).duty = 40178) := by decide +kernel

/-- Reference A and Reference B of chapter 2: the map and segments of a bay, once the commit is applied. -/
def heddled (b : Bay) (lo hi sg : Nat) : Option State :=
  nxt (execHeddleCommitDone b (State.reset.onBay b.val fun x => { x with snap := some ⟨lo, hi, sg, 0⟩ }))

theorem test_heddleA : (heddled 3 0x95558444 0xB777A666 0xE4).map (fun t =>
    (t.rd F.BAY_HEDDLE_STAT_SLOT_CFG 3, t.rd F.BAY_HEDDLE_STAT_ACT_SEG 3, t.rd F.BAY_PHASE_SVC_DRIVEN 3, t.rd F.BAY_PHASE_SVC_QUAR 3,
      t.rd F.LN_STATE_NFULL 12)) = some (0xF, 0xE4, 0x7777, 0, 3) := by decide +kernel

theorem test_heddleB : (heddled 0 0x55584444 0x0A666695 0).map (fun t =>
    (t.rd F.BAY_HEDDLE_STAT_SLOT_CFG 0, t.rd F.BAY_PHASE_SVC_DRIVEN 0)) = some (7, 0x3DEF) := by decide +kernel

/-! ### Chapters 5 to 7 -/

/-- Example of chapter 5: the plan of LN[12]. -/
def shuttle12 : ShRun :=
  let ph := fun (p c : Nat) (g : Int) => (⟨p, c, 966, g, 917504000, 0, 0⟩ : ShPhase)
  ⟨12, 10000, 40000, true, 1600, 1567, 9, 16, 0, 0, 0, none, 0, false, [ph 48 200 2457600, ph 49 1267 2409411, ph 50 733 2457600], none⟩

theorem test_shuttlePlan : shuttle12.plan 1966080000 32768 32769 0 0 shuttle12.start = some 898 ∧
    shuttle12.sumTo 233 0 0 shuttle12.start = 561392763 ∧ shuttle12.sumTo 300 0 0 shuttle12.start = 887482500 ∧
    shuttle12.sumTo 607 0 0 shuttle12.start = 1641965700 ∧ shuttle12.sumTo 766 0 0 shuttle12.start = 1641965700 ∧
    shuttle12.sumTo 898 0 0 shuttle12.start = 1966368900 := by decide +kernel

/-- Example of chapter 7: the plan of three lanes. -/
def reed3 : ReedRun := ⟨0, 8, 150000, [⟨0, 80000, 4, 80000⟩, ⟨1, -60000, 4, 60000⟩, ⟨2, 40000, 4, 100000⟩]⟩

theorem test_reedExample : State.reset.reedPlan reed3 = ([(0, 0), (1, 0), (2, 2)], 140800000000) ∧
    State.reset.reedPresent reed3 = 192000000000 ∧ isqrtNat 34375000 = 5863 ∧ isqrtNat 46875000 = 6846 := by decide +kernel

/-- Example of chapter 5: the preload and the bound of the step of LN[12]. -/
theorem test_preload : shPreload ⟨48, 0, 0, 0, 0, 7, 0⟩ 10000 4000 150000 = (7 + 1145324, false) ∧ shVl true 328 64225 150000 90000 = 56999 := by
  decide +kernel

/-! ### Chapters 8 and 9 -/

/-- Tables 8-5 and 8-6 and the gains of set 2 (example of chapter 8), and the nudge of PH[81]. -/
theorem test_surveyFigures : ratioOf 10150 10033 = 16575 ∧ ratioOf 9920 10033 = 16199 ∧ ratioOf 10030 10033 = 16379 ∧ ratioOf 9800 10033 = 16004 ∧
    capOf 482 22700 10000 = some 471 ∧ kpOf 1600 10033 150000 = some 45125 ∧ kiOf 45125 1 = 5671 ∧ ratioOf 10760 10033 = 0x44A3 := by
  decide +kernel

/-- A word lies within `e` of a decimal x / 10^k in Q4.20 shifted right by `h`. -/
def nearW (w x k h e : Int) : Bool := decide ((w * 2 ^ h.toNat * 10 ^ k.toNat - x * 2 ^ 20).natAbs ≤ (e * 2 ^ h.toNat * 10 ^ k.toNat).natAbs)

/-- Table 8-8: set 0 of LN[20]. -/
def design20 : SynthIn := ⟨3, 1600, 0, 10, 12, 48200, 471, 0, 72000, 150000⟩

theorem test_synthesis : ((synthLane 0 design20).map (fun d => (d.reduced, d.f.rnd 0))) = some (8, some 19265) ∧
    (((synthLane 0 design20).bind Design.words).map (fun w => nearW (w.getD 0 0) 119507 4 1 40 && nearW (w.getD 1 0) (-113569) 4 1 40 &&
      nearW (w.getD 2 0) (-119433) 4 1 40 && nearW (w.getD 3 0) 113642 4 1 40 && nearW (w.getD 4 0) 272856 5 0 10 &&
      nearW (w.getD 5 0) (-247554) 5 0 10 && nearW (w.getD 6 0) 746979 6 0 2 && w.getD 7 0 == 1)) = some true := by decide +kernel

/-- Table 9-4, and the losses at updates 9 and 10. -/
theorem test_losses : lossOf 4000 6000 1 40000 = 13600 ∧ lossOf 4000 6000 2 40000 = 12800 ∧ lossOf 4000 6000 3 40000 = 15200 ∧
    lossOf 4000 6000 1 30000 = 9400 ∧ lossOf 4000 6000 2 30000 = 10700 ∧ lossOf 4000 6000 3 30000 = 13800 ∧
    lossOf 4000 6000 1 2063 = 4025 ∧ lossOf 4000 6000 2 2063 = 8012 ∧ lossOf 4000 6000 3 2063 = 12008 ∧
    lossOf 4000 6000 2 34468 = 11564 ∧ lossOf 4000 6000 1 34468 = 11128 ∧ lossOf 4000 6000 2 33961 = 11460 ∧
    lossOf 4000 6000 1 33961 = 10920 := by decide +kernel

/-- Example of chapter 9: the candidates of LN[12], with three phases of lane 1 of `dev` in its place. -/
def policed (x : LaneState) : State :=
  st (up dev [(F.LN_POLICY_LAT, 20000, 1), (F.LN_LOSS_PSW, 400, 1), (F.LN_LOSS_RPH, 600, 1), (F.LN_LOSS_HYST, 5, 1),
    (F.LN_LOSS_PK_SAVE, 3, 1), (F.LN_IPH_IPH_MAX, 50000, 1), (F.BAY_PHASE_SVC_DRIVEN, 0x0C, 0), (F.LN_CTL_POLICY_EN, 1, 1)]) 1 x

theorem test_policy : dev.wakeLatency = (12, 10, 25, 11900) ∧ (policed .runFull).reg .LN_LOSS 1 = 0x0C596190#32 ∧
    (policed .runShed).candidate 1 40000 = (.run 2, 1) ∧ (policed .runShed).candidate 1 34468 = (.run 2, 1) ∧
    (policed .runShed).candidate 1 33961 = (.run 1, 1) ∧ (policed .runShed).candidate 1 2063 = (.pulse, 1) ∧
    (policed .runPulse).candidate 1 100 = (.hold, 1) := by decide +kernel

/-! ### Chapters 10 to 12 -/

/-- Example of chapter 4: the target of a lane in bus-form. -/
theorem test_segTarget : ((dev.onSeg 0 fun y => { y with iApp := 240000, vBus := 148600 }).onLane 0 fun x =>
    { x with w := 5461, vMod := 90000 }).segTarget 0 0 = -33020 := by decide +kernel

/-- Example of chapter 10: the weights of three lanes at two demands. -/
def three (r0 r1 r2 : Int) : List ShareLane := [⟨0, 32000, r0, 0, false⟩, ⟨1, 26666, r1, 0, false⟩, ⟨2, 32000, r2, 0, false⟩]
def weights (d : Int) (ls : List ShareLane) : List Int := (shareRest (sharePass d 49 d ls)).map (·.w)

theorem test_sharing : weights 60000 (three 44500 26666 19500) = [32167, 19274, 14095] ∧
    weights 60000 (three 32000 26666 32000) = [23132, 19274, 23130] ∧
    weights 85000 (three 44500 26666 19500) = [24674, 20559, 20303] := by decide +kernel

/-- Example of chapter 10: SET_SLEW 2 and SET_VBUS 31,200 for segment 0, as frames. -/
theorem test_treadleFrames : trdFrame 0 2 2 true = 0x04000005 ∧ trdFrame 0 1 31200 true = 0x0200F3C0 := by decide +kernel

/-- Example of chapter 11: CONTRACT_REQ of LN[12], second request since DETECT. -/
theorem test_contractRequest : (jmlBytes 3 1 false (Contract.bytes ⟨1, 7800, 11000, 5000, 5000, 1, 25⟩)).take 16 =
    [0xCB, 0x03, 0x01, 0x0C, 0x01, 0x00, 0x78, 0x1E, 0xF8, 0x2A, 0x88, 0x13, 0x88, 0x13, 0x01, 0x19] ∧ idClass 1000 = 4 ∧
    classCeiling 4 = 12000 := by decide +kernel

/-- Table 12-6. -/
def tableSample : State := dev.onMeter 0 fun m => { m with items := (m.items.set 0 200000#24).set 1 156250#24 }

theorem test_meterSample : tableSample.scale 0 1887437 (-1342177) = (23040002, -12799998, -294911979519996) ∧
    tableSample.osrN = 640 ∧
    (let t := tableSample.account 0 (-12799998) (-294911979519996) false 640
     (t.ctr 1).acc = 188743666892797440 ∧ (t.ctr 3).acc = 8191998720) := by decide +kernel

/-- Example of chapter 12: the gain calibration of the I channel. -/
theorem test_calibration : ((tableSample.onMeter 0 fun m => { m with items := m.items.set 4 35#24 }).calResult 0
    ⟨1, 1, false, 16384, 100000, 43850956800, 16384, 0⟩).1 = 3111 := by decide +kernel

/-! ### Chapters 13 to 22 -/

/-- Example of chapter 13: counter 73 after the interrupted save, and its flash offsets. -/
theorem test_recovery : (recoverCounter { Counter.made with s0 := .junk, s1 := .valid 1134 125750000 417 false false [.ok 3 true] }).ctr.stored =
      125750003 ∧
    (recoverCounter { Counter.made with s0 := .junk, s1 := .valid 1134 125750000 417 false false [.ok 3 true] }).erase = [(0, true)] ∧
    eraseOfs (.tally 73 0 true) = 0x49000 ∧ eraseOfs (.tally 73 1 true) = 0x49800 ∧ ctrBank 73 = 0 := by decide +kernel

/-- Example of chapter 14: the record of SEQ 0x0004_1C37. -/
def rec14 : Rec := ⟨0x41C37, 0x0208, 0xCC, 2, 2999, 12345678, 12345679, 1, 0, 0, List.replicate 8 0⟩

theorem test_record : rec14.word 2 = 0x000BB702#32 ∧ (rec14.word 15).toNat % 65536 = 0x1C37 ∧
    dev.progOfs (.slv 0x41C37) = 0x1A0DC0 ∧ slotBank (0x41C37 % 8192) = 3 := by decide +kernel

/-- Table 15-6: every entry is accepted. -/
theorem test_routes : [0x800384FF, 0x800283FF, 0x8003C5FF, 0x8002D800, 0x80039DFF, 0x80282003].map routeRefusal = List.replicate 6 none := by
  decide +kernel

/-- Example of chapter 16: the values ARM loads into timer 2. -/
def arming : State :=
  (up (dev.setReg .TMR_CCFG 2 0x5702022E) [(F.TMR_STEP_STEP, 25000, 2)]).onTimer 2 fun t => { t with count := 0x10000 }

theorem test_arm : ((List.range 3).map fun c => vget ((arming.writeTmrCtl 4).timer 2).val c 0) = [90536, 98869, 107202] := by decide +kernel

/-- Example of chapter 19: after tenant 3, tenant 5 is served before tenant 1. -/
theorem test_dispatchOrder : ((cmd (cmd { dev with served := 3 } 1 0x10) 5 0x10).nextServed = some 5) ∧
    ((cmd { dev with served := 5 } 1 0x10).nextServed = some 1) := by decide +kernel

/-- Example of chapter 20: bytes 0 to 15, 40 to 47 and 84 to 87 of a statement of LN[12] for tenant 6. -/
def stating : State :=
  let s := up dev [(F.MTR_STAT_UNMET, 1, 12), (F.SEC_STAT_SEALED, 1, 0), (F.SEC_STMT_STMT_NO, 57, 0), (F.BAY_HEDDLE_STAT_SLOT_CFG, 1, 3)]
  let s := (s.onCtr 289 fun k => { k with acc := 418 * ctrUnit 289 }).onCtr 298 fun k => { k with acc := 3 * ctrUnit 298 }
  s.onCtr 73 fun k => { k with acc := 125750003 * ctrUnit 73, active := 1, s1 := .valid 1134 125750000 417 false false [.ok 3 true] }

theorem test_statement : bytesAt (stating.statement 12 6 0).1 0 16 = [1, 6, 0x0C, 6, 0x39, 0, 0, 0, 0xA2, 1, 0, 0, 3, 0, 0, 0] ∧
    bytesAt (stating.statement 12 6 0).1 40 8 = [0xF3, 0xCA, 0x7E, 7, 0, 0, 0, 0] ∧
    bytesAt (stating.statement 12 6 0).1 84 4 = [0x6E, 4, 0, 0] := by decide +kernel

/-- Example of chapter 21: the words of five readings. -/
theorem test_pmbusWords : lin16 90000 = 0x5A00 ∧ lin11 (-50000) = 0xE4E0 ∧ lin11 (-4500000) = 0x1DCD ∧ lin11 150000 = 0xF258 ∧
    lin11 38000 = 0xE260 := by decide +kernel

/-- Table 22-8. -/
theorem test_addresses : decodeAddr 0x10C84 = some (.BAY_SHTL_CFG, 3) ∧ decodeAddr 0x20C44 = some (.LN_JML, 12) ∧
    decodeAddr 0x31124 = some (.PH_LOOP, 137) ∧ decodeAddr 0x4030C = some (.MTR_DATA, 12) ∧ decodeAddr 0x2150 = some (.TMR_CV, 2) ∧
    decodeAddr 0x5618 = some (.HST_SQ_TAIL_DB, 5) ∧ decodeAddr 0x22F4C = some (.LN_SNS_STAT, 47) ∧ decodeAddr 0x12BFC = none := by
  decide +kernel

/-- Example of chapter 18: three NOPs of tenant 1, the second QUIET; the ring's tail, PHASE and messages. -/
def ringed : State :=
  let s := (up dev [(F.HST_SQ_STAT_HEAD, 44, 1), (F.HST_SQ_STAT_TAIL, 44, 1), (F.HST_T_ERR_OUTST, 4, 1), (F.HST_CQ_STAT_TAIL, 14, 1), (F.HST_CQ_STAT_PHASE, 1, 1)])
  let s := ((s.setReg .HST_CQ_CFG 1 0x00031104).setReg .HST_SQ_CFG 1 0x106).setReg .HST_CQ_BASE_LO 1 0x80001000
  (s.setReg .HST_CQ_BASE_HI 1 4).onTenant 1 fun x => { x with bme := true, msixEn := true, cqHead := 14, fetched :=
    [⟨1, 0x101, false⟩, ⟨1, 0x102, false⟩, ⟨1, 0x103, false⟩, ⟨1, 0x104, false⟩] }
def nop1 (cid : Nat) (quiet : Bool) (s : State) : Option State := nxt (execNop { h0 0 1 with cid := BitVec.ofNat 16 cid, quiet := quiet } s)
def atTail (s : State) : Nat × Nat × Nat := (s.rd F.HST_CQ_STAT_TAIL 1, s.rd F.HST_CQ_STAT_PHASE 1, s.rd F.HST_T_ERR_OUTST 1)
/-- The tail, PHASE, OUTST, the address and last byte of the entry written, the message. -/
def seen (t : State) : (Nat × Nat × Nat) × List (Nat × Nat) :=
  (atTail t, t.outs.map fun o => match o with
    | .hostWrite _ a b => (a, (b.getD 31 0).toNat)
    | .msix _ v => (v, 0)
    | _ => (0, 0))

theorem test_ring : (nop1 0x101 false ringed).map seen = some ((15, 1, 3), [(0x4800011C0, 0x11)]) ∧
    ((nop1 0x101 false ringed).bind (nop1 0x102 true)).map seen = some ((15, 1, 2), []) := by decide +kernel

def ringed3 : State :=
  (up ringed [(F.HST_CQ_STAT_TAIL, 15, 1), (F.HST_T_ERR_OUTST, 2, 1)]).onTenant 1 fun x => { x with fetched := x.fetched.drop 2, unsig := 1, msix := x.msix.set 1 ⟨0, 0, false⟩ }

theorem test_ringWraps : (nop1 0x103 false ringed3).map seen = some ((0, 0, 1), [(0x4800011E0, 0x11)]) ∧
    ((nop1 0x103 false ringed3).bind (nop1 0x104 false)).map seen = some ((1, 0, 0), [(0x480001000, 0x10), (1, 0)]) := by decide +kernel
end Sys2Proof.Tests
end

/-!
PROOF. The timers (chapter 16): the reads a register request's way back to L0 leaves, the timers that a pass over several timers changes,
the staggered load of R385, and the write of 0 to STEP, which R12 ignores.
-/
namespace Sys2Proof.Machine

open Sys2Proof

/-! ### What frames leave of reads -/

/-- A field of a register the frame does not name reads as it did. -/
theorem Leaves.rd {rs : List Reg} {ps : List Part} {s u : State} (h : Leaves rs ps s u) {f : Field} {i : Nat}
    (hi : i < f.reg.info.count) (hf : f.reg ∉ rs) : u.rd f i = s.rd f i := by
  simp only [State.rd, h.regs f.reg i hi hf]

/-- R414: the way back to L0 changes only the PM field of a link, and a new command starts with nothing sent out. -/
theorem opened_leaves (s : State) (t : Nat) : Leaves [.HST_LINK_A, .HST_LINK_B] [.outs] s (s.opened t) := by
  have h : Keeps (begin_touch ||| toL0_touch) s (s.opened t) :=
    toL0_keeps (.of rfl) (begin_keeps (.of rfl) (.refl _ s)) t
  exact h.leaves (fun r hr => by cases r <;> simp at hr <;> rfl) (fun p hp => by cases p <;> simp at hp <;> rfl)

@[simp] theorem opened_timer (s : State) (t g : Nat) : (s.opened t).timer g = s.timer g :=
  congrArg (vget · g TimerSt.reset) ((opened_leaves s t).parts .timers (by decide))

/-! ### A pass over several timers -/

/-- A pass whose round at a timer changes no other timer, and does there what it would without the other rounds: a timer of the pass ends
as its own round leaves it, any other as it was. -/
theorem forEach_timer {f : State → Nat → State} {g : Nat} (hne : ∀ s a, a ≠ g → (f s a).timer g = s.timer g)
    (hcomm : ∀ s a, a ≠ g → (f (f s a) g).timer g = (f s g).timer g) {l : List Nat} (hl : l.Nodup) (s : State) :
    (s.forEach l f).timer g = if g ∈ l then (f s g).timer g else s.timer g := by
  induction l generalizing s with
  | nil => simp [State.forEach]
  | cons a t ih =>
    obtain ⟨hat, ht⟩ := List.nodup_cons.mp hl
    have hstep : (s.forEach (a :: t) f).timer g = ((f s a).forEach t f).timer g := rfl
    rw [hstep, ih ht]
    by_cases hag : a = g
    · subst hag; simp [hat]
    · simp [hne s a hag, hcomm s a hag, Ne.symm hag]

/-- Rounds that all change one timer change it as their composition does. -/
theorem forEach_onTimer_timer {g : Nat} (hg : g < 8) (f : Nat → TimerSt → TimerSt) (l : List Nat) (s : State) :
    (s.forEach l (fun s j => s.onTimer g (f j))).timer g = l.foldl (fun t j => f j t) (s.timer g) := by
  induction l generalizing s with
  | nil => rfl
  | cons a t ih => exact (ih _).trans (by rw [onTimer_timer _ _ _ hg]; rfl)

theorem forEach_onTimer_timer_ne {g k : Nat} (h : g ≠ k) (f : Nat → TimerSt → TimerSt) (l : List Nat) (s : State) :
    (s.forEach l (fun s j => s.onTimer g (f j))).timer k = s.timer k := by
  induction l generalizing s with
  | nil => rfl
  | cons a t ih => exact (ih _).trans (onTimer_timer_ne s g k (f a) h)

/-- Rounds on one timer leave every register. -/
theorem forEach_onTimer_regs (g : Nat) (f : Nat → TimerSt → TimerSt) (l : List Nat) (s : State) :
    (s.forEach l (fun s j => s.onTimer g (f j))).regs = s.regs := by
  induction l generalizing s with
  | nil => rfl
  | cons a t ih => exact ih _

/-! ### Channel tables loaded one entry at a time -/

/-- Entries `ix 0` to `ix (n - 1)` of a channel table, loaded in turn. -/
def loadChannels (v : Vector Nat 4) (ix x : Nat → Nat) (n : Nat) : Vector Nat 4 :=
  (List.range n).foldl (fun v j => putCh v (ix j) (x j)) v

theorem loadChannels_succ (v : Vector Nat 4) (ix x : Nat → Nat) (n : Nat) :
    loadChannels v ix x (n + 1) = putCh (loadChannels v ix x n) (ix n) (x n) := by
  simp [loadChannels, List.range_succ]

theorem vget_loadChannels_ne (v : Vector Nat 4) {ix : Nat → Nat} (x : Nat → Nat) {n k : Nat} (h : ∀ j < n, ix j ≠ k) :
    vget (loadChannels v ix x n) k 0 = vget v k 0 := by
  induction n with
  | zero => rfl
  | succ n ih =>
    rw [loadChannels_succ, putCh, vget_vupd_ne _ _ _ _ _ (h n n.lt_succ_self)]
    exact ih fun j hj => h j (by omega)

/-- Of distinct entries each holds what it was loaded with: no later load overwrites it. -/
theorem vget_loadChannels (v : Vector Nat 4) {ix : Nat → Nat} (x : Nat → Nat) {n j : Nat} (hj : j < n) (h4 : ix j < 4)
    (hinj : ∀ i < n, i ≠ j → ix i ≠ ix j) : vget (loadChannels v ix x n) (ix j) 0 = x j := by
  induction n with
  | zero => omega
  | succ n ih =>
    rw [loadChannels_succ, putCh]
    by_cases hn : n = j
    · subst hn; exact vget_vupd_same _ _ _ _ h4
    · rw [vget_vupd_ne _ _ _ _ _ (hinj n n.lt_succ_self hn)]
      exact ih (by omega) fun i hi => hinj i (by omega)

theorem foldl_putCh_val (ix x : Nat → Nat) (n : Nat) (t : TimerSt) :
    (List.range n).foldl (fun t j => { t with val := putCh t.val (ix j) (x j) }) t = { t with val := loadChannels t.val ix x n } := by
  induction n with
  | zero => rfl
  | succ n ih => rw [List.range_succ, List.foldl_append, ih, loadChannels_succ]; rfl

/-! ### ARM (R385) -/

/-- The periodic channels of a timer, in ascending order. -/
def State.periodic (s : State) (g : Nat) : List Nat := (List.range 4).filter (fun c => s.chMode g c == 2)

/-- The value R385 gives the periodic channel of rank `j`. -/
def State.staggerValue (s : State) (g j : Nat) : Nat :=
  ((s.timer g).count + s.rd F.TMR_STEP_STEP g + j * s.rd F.TMR_STEP_STEP g / (s.periodic g).length) % 2 ^ 32

/-- The channel values of a timer whose periodic channels R385 has loaded. -/
def State.staggered (s : State) (g : Nat) : Vector Nat 4 :=
  loadChannels (s.timer g).val ((s.periodic g).getD · 0) (s.staggerValue g) (s.periodic g).length

theorem mem_periodic {s : State} {g c : Nat} : c ∈ s.periodic g ↔ c < 4 ∧ s.chMode g c = 2 := by
  simp [State.periodic]

theorem periodic_getD {s : State} {g j : Nat} (hj : j < (s.periodic g).length) : (s.periodic g).getD j 0 = (s.periodic g)[j] := by
  rw [List.getD_eq_getElem?_getD, List.getElem?_eq_getElem hj, Option.getD_some]

theorem periodic_getD_mem {s : State} {g j : Nat} (hj : j < (s.periodic g).length) : (s.periodic g).getD j 0 ∈ s.periodic g := by
  rw [periodic_getD hj]; exact List.getElem_mem hj

theorem periodic_getD_ne {s : State} {g i j : Nat} (hi : i < (s.periodic g).length) (hj : j < (s.periodic g).length) (h : i ≠ j) :
    (s.periodic g).getD i 0 ≠ (s.periodic g).getD j 0 := by
  have hnodup : (s.periodic g).Nodup := List.nodup_range.filter _
  rw [periodic_getD hi, periodic_getD hj]
  have hlt := List.pairwise_iff_getElem.mp hnodup
  rcases Nat.lt_or_gt_of_ne h with hij | hji
  · exact hlt i j hi hj hij
  · exact (hlt j i hj hi hji).symm

theorem vget_staggered_periodic {s : State} {g j : Nat} (hj : j < (s.periodic g).length) :
    vget (s.staggered g) ((s.periodic g).getD j 0) 0 = s.staggerValue g j :=
  vget_loadChannels _ _ hj (mem_periodic.mp (periodic_getD_mem hj)).1 fun _ hi => periodic_getD_ne hi hj

/-- R385: one-shot and capture channels are unchanged. -/
theorem vget_staggered_other {s : State} {g k : Nat} (hk : s.chMode g k ≠ 2) :
    vget (s.staggered g) k 0 = vget (s.timer g).val k 0 :=
  vget_loadChannels_ne _ _ fun _ hj e => hk (mem_periodic.mp (e ▸ periodic_getD_mem hj)).2

theorem staggered_congr {s u : State} {g : Nat} (ht : u.timer g = s.timer g) (hm : ∀ c, u.chMode g c = s.chMode g c)
    (hs : u.rd F.TMR_STEP_STEP g = s.rd F.TMR_STEP_STEP g) : u.staggered g = s.staggered g := by
  have hp : u.periodic g = s.periodic g := by simp only [State.periodic, hm]
  have hv : u.staggerValue g = s.staggerValue g := by funext j; simp only [State.staggerValue, ht, hs, hp]
  simp only [State.staggered, ht, hp, hv]

@[simp] theorem opened_staggered (s : State) (t : Nat) {g : Nat} (hg : g < 8) : (s.opened t).staggered g = s.staggered g :=
  staggered_congr (opened_timer s t g) (fun _ => (opened_leaves s t).rd hg (by decide : Reg.TMR_CCFG ∉ _))
    ((opened_leaves s t).rd hg (by decide))

theorem armTimer_regs (s : State) (g : Nat) : (s.armTimer g).regs = s.regs := forEach_onTimer_regs ..

theorem armTimer_timer (s : State) {g : Nat} (hg : g < 8) : (s.armTimer g).timer g = { s.timer g with val := s.staggered g } :=
  (forEach_onTimer_timer hg _ _ s).trans (foldl_putCh_val ..)

theorem armTimer_timer_ne (s : State) {a g : Nat} (h : a ≠ g) : (s.armTimer a).timer g = s.timer g :=
  forEach_onTimer_timer_ne h _ _ s

/-- The load of one timer does not depend on whether another was loaded first. -/
theorem armTimer_staggered (s : State) {a g : Nat} (h : a ≠ g) : (s.armTimer a).staggered g = s.staggered g := by
  have hrd : ∀ f i, (s.armTimer a).rd f i = s.rd f i := fun f i => by simp only [State.rd, State.reg, armTimer_regs]
  exact staggered_congr (armTimer_timer_ne s h) (fun _ => hrd _ _) (hrd _ _)

theorem armTimers_timer (s : State) (w : Nat) {g : Nat} (hg : g < 8) :
    (s.forEach ((List.range 8).filter (fun g => bitN w g)) State.armTimer).timer g =
      { s.timer g with val := if bitN w g then s.staggered g else (s.timer g).val } := by
  have hcomm : ∀ (s : State) (a : Nat), a ≠ g → ((s.armTimer a).armTimer g).timer g = (s.armTimer g).timer g := fun s a h => by
    simp only [armTimer_timer _ hg, armTimer_timer_ne s h, armTimer_staggered s h]
  rw [forEach_timer (fun s _ => armTimer_timer_ne s) hcomm (List.nodup_range.filter _), armTimer_timer s hg]
  by_cases hb : bitN w g <;> simp [hb, hg]

/-! ### DROP_CLR (R394) -/

theorem vget_replicate {α : Type} (n k : Nat) (d : α) : vget (Vector.replicate n d) k d = d := by
  simp [vget, List.getD, List.getElem?_replicate]; split <;> rfl

theorem clearDrops_timer (s : State) {g : Nat} (hg : g < 8) :
    (s.forEach (List.range 8) (fun s g => s.onTimer g (fun t => { t with drops := Vector.replicate 4 0 }))).timer g =
      { s.timer g with drops := Vector.replicate 4 0 } := by
  have hne : ∀ (s : State) (a : Nat), a ≠ g →
      (s.onTimer a (fun t => { t with drops := Vector.replicate 4 0 })).timer g = s.timer g := fun s a => onTimer_timer_ne s a g _
  rw [forEach_timer hne (fun s a h => by rw [onTimer_timer _ _ _ hg, onTimer_timer _ _ _ hg, hne s a h]) List.nodup_range]
  simp [hg, onTimer_timer]

/-- What a write of TMR_CTL makes of a timer: values by ARM, DROPS by DROP_CLR, nothing else. -/
theorem writeTmrCtl_timer (s : State) (w : Nat) {g : Nat} (hg : g < 8) : (s.writeTmrCtl w).timer g =
    { s.timer g with
      val := if bitN w g then s.staggered g else (s.timer g).val
      drops := if bitN w 16 then Vector.replicate 4 0 else (s.timer g).drops } := by
  unfold State.writeTmrCtl
  by_cases h16 : bitN w 16
  · simp only [if_pos h16, clearDrops_timer _ hg, armTimers_timer s w hg]
  · simp only [if_neg h16, armTimers_timer s w hg]

theorem writeTmrCtl_leaves (s : State) (w : Nat) : Leaves [] [.timers] s (s.writeTmrCtl w) :=
  (writeTmrCtl_keeps (tm := writeTmrCtl_touch) (fun _ h => h) (.refl _ s) w).leaves
    (fun r _ => by cases r <;> rfl) (fun p hp => by cases p <;> simp at hp <;> rfl)

/-- ARM and DROP_CLR are the two commands of a write of TMR_CTL. -/
theorem exec_tmrCtl {s : State} {w : BusWrite} {c : Instr} (h : s.MayWrite w) (hc : c = .arm w ∨ c = .dropClr w) :
    exec c s = .next ((s.opened w.tenant.val).writeTmrCtl w.value.toNat) := by
  have hexec : exec c s = .next (s.gate w State.writeTmrCtl) := by rcases hc with rfl | rfl <;> rfl
  rw [hexec, gate_run h]

theorem timerControl_holds : timerControl := by
  intro s w hw c hc
  refine ⟨_, exec_tmrCtl hw hc, fun g hg => ?_, writeTmrCtl_leaves _ _⟩
  have hbit : ∀ k, w.value.getLsbD k = bitN w.value.toNat k := fun _ => rfl
  simp only [writeTmrCtl_timer _ _ hg, opened_timer, opened_staggered s _ hg, hbit]
  refine ⟨fun harm j hj => ?_, fun k _ hk => ?_, fun h16 k hk => ?_, fun h16 => ?_, trivial, trivial, trivial, trivial⟩
  · rw [if_pos harm]; exact vget_staggered_periodic hj
  · rcases hk with hoff | hmode
    · simp [hoff]
    · split
      · exact vget_staggered_other hmode
      · rfl
  · rw [if_pos h16]; exact vget_replicate ..
  · simp [h16]

/-! ### STEP (R385, R12) -/

/-- A merge of no bits stores the word that stands there. -/
theorem merge_none_reg (s : State) (r : Reg) (i w : Nat) {r' : Reg} {i' : Nat} (h' : i' < r'.info.count) :
    (s.merge r i w 0).reg r' i' = s.reg r' i' := by
  have hold : BitVec.ofNat 32 (((s.reg r i).toNat &&& (0xFFFFFFFF ^^^ 0)) ||| (w &&& 0)) = s.reg r i := by
    have hmask : (s.reg r i).toNat &&& (2 ^ 32 - 1) = (s.reg r i).toNat := by
      rw [Nat.and_two_pow_sub_one_eq_mod, Nat.mod_eq_of_lt (s.reg r i).isLt]
    simpa using congrArg (BitVec.ofNat 32) hmask
  simp only [State.merge, hold]
  by_cases e : r = r' ∧ i = i'
  · obtain ⟨rfl, rfl⟩ := e; exact reg_setReg_same s r i _ h'
  · exact reg_setReg_ne s _ h' (Decidable.not_and_iff_not_or_not.mp e)

/-- R12: 0 is out of range for STEP, the whole of its register. -/
theorem outOf_step_zero (s : State) (g : Nat) : s.outOf .TMR_STEP g 0 = 0xFFFFFFFF := rfl

theorem plainWrite_step_zero_reg (s : State) (g : Nat) {r : Reg} {i : Nat} (hi : i < r.info.count) :
    (s.plainWrite .TMR_STEP g 0).reg r i = s.reg r i := by
  have hstore : s.storeBut .TMR_STEP g 0 0 = s.merge .TMR_STEP g 0 0 := by simp [State.storeBut, outOf_step_zero]
  have hw1c : ∀ u : State, u.w1cBut .TMR_STEP g 0 0 = u.merge .TMR_STEP g 0 0 := fun u => by simp [State.w1cBut]
  rw [State.plainWrite, hstore, hw1c, merge_none_reg _ _ _ _ hi, merge_none_reg _ _ _ _ hi]

theorem plainWrite_step_leaves (s : State) (g w : Nat) : Leaves [.TMR_STEP] [] s (s.plainWrite .TMR_STEP g w) := by
  have h : Keeps (2 ^ Reg.TMR_STEP.ctorIdx) s (s.plainWrite .TMR_STEP g w) :=
    plainWrite_keeps (.of rfl) (.refl _ s) _ _ _ rfl
  exact h.leaves (fun r hr => by cases r <;> simp at hr <;> rfl) (fun p _ => by cases p <;> rfl)

/-- R420: a request of one aligned DW is carried out. -/
theorem exec_registerWrite_one {s : State} {t : HostT} {off : BitVec 32} (d : WriteDw) (he : (s.tenant t.val).exists' = true)
    (h4 : off.toNat % 4 = 0) :
    exec (.registerWrite t off 4 [d]) s = .next ((s.opened t.val).writeDws t.val off.toNat [d]).settle := by
  have hexec : exec (.registerWrite t off 4 [d]) s = execRegisterWrite t off 4 [d] s := rfl
  have he' : (s.begin.tenant t.val).exists' = true := he
  simp [hexec, execRegisterWrite, he', h4, State.opened]

/-- R418, R419: a DW of a Manager with a register aperture writes the register at its address. -/
theorem writeDws_register {s : State} {t o w i : Nat} {d : WriteDw} {r : Reg} (hl : s.flag F.NVM_STAT_PLOADED = true)
    (hm : s.roleOf t = 3) (ht : t % 4 = 0) (ho : o < 0x50000) (hr : decodeAddr o = some (r, i)) (hd : d.be = 0xF#4)
    (hw : d.value.toNat = w) : s.writeDws t o [d] = s.writeReg r i w := by
  simp [State.writeDws, State.writeDw, State.writeAddr, hd, hl, hm, ht, ho, hr, hw]

/-- The addresses of TMR_STEP lie in the register aperture, on whole words. -/
theorem stepAddr_toNat (g : TimerIx) : (BitVec.ofNat 32 (Reg.TMR_STEP.addrOf g.val)).toNat = Reg.TMR_STEP.addrOf g.val ∧
    Reg.TMR_STEP.addrOf g.val < 0x50000 ∧ Reg.TMR_STEP.addrOf g.val % 4 = 0 := by
  revert g; decide

theorem exec_stepWrite {s : State} {w : BusWrite} (g : TimerIx) (hw : s.MayWrite w) (he : (s.tenant w.tenant.val).exists' = true)
    (ht : w.tenant.val % 4 = 0) :
    exec (.registerWrite w.tenant (BitVec.ofNat 32 (Reg.TMR_STEP.addrOf g.val)) 4 [⟨0xF, w.value⟩]) s =
      .next ((s.opened w.tenant.val).plainWrite .TMR_STEP g.val w.value.toNat).settle := by
  obtain ⟨hoff, hlt, h4⟩ := stepAddr_toNat g
  rw [exec_registerWrite_one _ he (by rw [hoff]; exact h4), hoff,
    writeDws_register hw.loaded hw.manager ht hlt (decodeAddr_addrOf .TMR_STEP g.val g.isLt) rfl rfl]
  rfl

theorem zeroStepIsIgnored_holds : zeroStepIsIgnored := by
  intro s w g hw he ht h0
  refine ⟨_, exec_stepWrite g hw he ht, ?_, plainWrite_step_leaves ..⟩
  have hkept : ((s.opened w.tenant.val).plainWrite .TMR_STEP g.val w.value.toNat).reg .TMR_STEP g.val =
      (s.opened w.tenant.val).reg .TMR_STEP g.val := by
    rw [h0]; exact plainWrite_step_zero_reg _ _ g.isLt
  calc _ = (s.opened w.tenant.val).rd F.TMR_STEP_STEP g.val := by simp only [State.rd, hkept]
    _ = s.rd F.TMR_STEP_STEP g.val := (opened_leaves s _).rd g.isLt (by decide)

end Sys2Proof.Machine

/-- Settles O55: TMR_CTL writes each timer by the equation of `writeTmrCtl_timer`, and no bit of a 0 written to STEP is stored. -/
theorem armStaggersTimers : Obligations.ArmStaggersTimers :=
  ⟨Sys2Proof.Machine.timerControl_holds, Sys2Proof.Machine.zeroStepIsIgnored_holds⟩

/-!
PROOF. The Manager's LANE_RELEASE (R447): what the checks of R442 answer to a command for a lane once its fields and its role pass, and
the ownership check of a Manager that names another tenant's lane.
-/
namespace Sys2Proof.Machine

open Sys2Proof

/-! ### The ownership check (R442 step 4) -/

/-- A command for a lane whose fields and role pass is decided by the ownership check alone. -/
theorem check_lane {s : State} {r : OpRow} {h : CmdHdr} (hrsvd : h.rsvd = false) (hcid : h.cid ≠ 0xFFFF#16)
    (hdptr : h.dptr.toNat % 8 = 0) (hbuf : r.needBuf = false) (htgt : r.tgt = .lane) (hl : h.tgt.toNat < 48)
    (hrole : s.permits r.issuers h.tenant.val = true) :
    s.check r h = if s.ownsOk r.issuers h.tenant.val h.tgt.toNat then none else some (stNotOwner, s.ownerByte h.tgt.toNat) := by
  have hin : Tgt.lane.inRange h.tgt.toNat = true := decide_eq_true hl
  cases hown : s.ownsOk r.issuers h.tenant.val h.tgt.toNat <;>
    simp [State.check, hrsvd, hcid, hdptr, htgt, hin, hbuf, hrole, hown]

/-- R447: a Manager passes for another tenant's lane exactly while that owner's heartbeat has lapsed. -/
theorem ownsOk_manager {s : State} {t l o : Nat} (hm : s.roleOf t = 3) (hown : (s.lane l).owner = some o) (hne : o ≠ t) :
    s.ownsOk .ownerM t l = s.rdBit F.SEC_TFLAGS_LAPSED o := by
  simp [State.ownsOk, hm, hown, hne]

theorem ownerByte_of_owner {s : State} {l o : Nat} (hown : (s.lane l).owner = some o) : s.ownerByte l = leBytes 1 o := by
  simp [State.ownerByte, hown]

/-! ### LANE_RELEASE -/

/-- The row of LANE_RELEASE in Table 19-1. -/
def laneReleaseRow : OpRow := { opcode := 0x11, issuers := .ownerM, tgt := .lane }

/-- The checks of a Manager's LANE_RELEASE for another tenant's lane, in order otherwise. -/
theorem check_managersRelease {s : State} {h : CmdHdr} {o : Nat} (hrsvd : h.rsvd = false) (hcid : h.cid ≠ 0xFFFF#16)
    (hdptr : h.dptr.toNat % 8 = 0) (hl : h.tgt.toNat < 48) (ht : h.tenant.val < 8) (hm : s.roleOf h.tenant.val = 3)
    (hown : (s.lane h.tgt.toNat).owner = some o) (hne : o ≠ h.tenant.val) :
    s.check laneReleaseRow h = if s.rdBit F.SEC_TFLAGS_LAPSED o then none else some (stNotOwner, leBytes 1 o) := by
  have hrole : s.permits laneReleaseRow.issuers h.tenant.val = true := decide_eq_true ht
  rw [check_lane hrsvd hcid hdptr rfl rfl hl hrole, ownerByte_of_owner hown]
  exact congrArg (fun b : Bool => if b then none else _) (ownsOk_manager hm hown hne)

theorem laneRelease_admits {s : State} {h : CmdHdr} (hd : s.begin.dispatches h 0x11 = true)
    (hc : (s.taken h).check laneReleaseRow h = none) : s.Admits (.laneRelease h) :=
  ⟨h, laneReleaseRow, rfl, rfl, hd, hc⟩

theorem exec_laneRelease_refused {s : State} {h : CmdHdr} {st : Nat} {res : List Byte} (hd : s.begin.dispatches h 0x11 = true)
    (hc : (s.taken h).check laneReleaseRow h = some (st, res)) :
    exec (.laneRelease h) s = .next ((s.taken h).complete (cmdRef h 0x11) st res) :=
  congrArg Host.Outcome.next (dispatch_refused (r := laneReleaseRow) _ hd hc)

end Sys2Proof.Machine

section
open Sys2Proof.Machine

/-- Settles O8: by `check_managersRelease` the LAPSED bit of the owner alone decides the checks. Taking a command
leaves roles, owners and that bit as they were, so the hypotheses about `s` are, by `rfl`, hypotheses about `s.taken h`. -/
theorem managerReleasesOnLapse : Obligations.ManagerReleasesOnLapse := by
  intro s h o l t hd hrsvd hcid hdptr hl ht hm hown hne
  have hcheck : (s.taken h).check laneReleaseRow h = if s.rdBit F.SEC_TFLAGS_LAPSED o then none else some (stNotOwner, leBytes 1 o) :=
    check_managersRelease hrsvd hcid hdptr hl ht hm hown hne
  refine ⟨fun hlapsed => ?_, fun hlive => ?_⟩
  · exact laneRelease_admits hd (by simp [hcheck, hlapsed])
  · exact exec_laneRelease_refused hd (by simp [hcheck, hlive])

end

/-!
PROOF. The address map (R518), read backwards: what `decodeAddr` answers stands at the address asked for. The other direction is
`decodeAddr_addrOf`.
-/
namespace Sys2Proof.Machine

/-- What the search of a list answers is an instance that the map has, and it stands at the address. -/
theorem addrOf_of_findReg {a i : Nat} {r : Reg} {rs : List Reg} (h : findReg a rs = some (r, i)) :
    i < r.info.count ∧ r.addrOf i = a := by
  induction rs with
  | nil => simp [findReg] at h
  | cons q qs ih =>
    simp only [findReg] at h
    split at h
    case isTrue hq =>
      obtain ⟨hlow, hword, hcount⟩ := hq
      obtain ⟨rfl, rfl⟩ : q = r ∧ (a - q.info.addr) / q.info.stride = i := by simpa using h
      have hoff : q.info.stride * ((a - q.info.addr) / q.info.stride) = a - q.info.addr :=
        Nat.mul_div_cancel' (Nat.dvd_of_mod_eq_zero hword)
      exact ⟨hcount, by rw [Reg.addrOf, hoff, Nat.add_sub_cancel' hlow]⟩
    case isFalse => exact ih h

/-- R518: every block answers from a list of registers. -/
theorem findReg_of_decodeAddr {a : Nat} {x : Reg × Nat} (h : decodeAddr a = some x) : ∃ rs, findReg a rs = some x := by
  unfold decodeAddr at h
  split at h
  case h_6 => cases h
  all_goals exact ⟨_, h⟩

/-- R509, R518: an address decodes to an instance exactly when the instance is in the map and stands at that address. -/
theorem decodeAddr_eq_some_iff {a i : Nat} {r : Reg} : decodeAddr a = some (r, i) ↔ i < r.info.count ∧ r.addrOf i = a := by
  refine ⟨fun h => ?_, fun ⟨hi, ha⟩ => ha ▸ decodeAddr_addrOf r i hi⟩
  obtain ⟨rs, hrs⟩ := findReg_of_decodeAddr h
  exact addrOf_of_findReg hrs

end Sys2Proof.Machine

/-- Settles O3: what the search finds stands at the address (`addrOf_of_findReg`), and every instance's address decodes to it
(`decodeAddr_addrOf`). -/
theorem addressMap : Obligations.AddressMap := fun _ _ _ => Sys2Proof.Machine.decodeAddr_eq_some_iff
